-- ==== Sys2Proof/Word.lean ====
section
/-! DEFINITION. The word types of the FV9 (R1, R13, R14 of 00_scope and 01_machine). -/

namespace Sys2Proof

/-- A byte of memory (R1). -/
abbrev Byte := BitVec 8

/-- A register word: registers are 32 bits wide (R13). -/
abbrev Word := BitVec 32

/-- A 64-bit value: an even-odd register pair or a device virtual address (R36, R220). -/
abbrev DWord := BitVec 64

/-- One bit for each of the 96 lanes of a clutch (R14). -/
abbrev Mask := BitVec 96

/-- The number of lanes of a clutch (R14). -/
abbrev laneCount : Nat := 96

end Sys2Proof
end

