-- ==== Sys2Proof/Machine/Numbers.lean ====
section
/-! DEFINITION. Number formats, exact arithmetic and rounding (02_number_formats): R31 to R57. Every value
is computed exactly in integers and rounded once. -/

namespace Sys2Proof.Machine

/-- A rounding mode (R43). -/
inductive RM where
  | rne | rtz | rup | rdn
deriving DecidableEq, Repr

/-- The rounding mode of a code (R43). -/
def RM.ofCode (c : Nat) : RM :=
  match c % 4 with
  | 0 => .rne
  | 1 => .rtz
  | 2 => .rup
  | _ => .rdn

/-- The modes in effect for an instruction (R43, R155): rounding, flush inputs, flush outputs. -/
structure Modes where
  rm : RM := .rne
  fi : Bool := false
  fo : Bool := false
deriving DecidableEq, Repr

/-- A binary floating format (R33). -/
structure Fmt where
  width : Nat
  fb : Nat
  bias : Nat
  /-- E4M3 has no infinity and one NaN magnitude -/
  one7F : Bool := false
deriving DecidableEq, Repr

/-- FP64 (R33). -/
def fp64 : Fmt := { width := 64, fb := 52, bias := 1023 }
/-- FP32 (R33). -/
def fp32 : Fmt := { width := 32, fb := 23, bias := 127 }
/-- FP16 (R33). -/
def fp16 : Fmt := { width := 16, fb := 10, bias := 15 }
/-- BF16 (R33). -/
def bf16 : Fmt := { width := 16, fb := 7, bias := 127 }
/-- E4M3 (R33). -/
def e4m3 : Fmt := { width := 8, fb := 3, bias := 7, one7F := true }
/-- E5M2 (R33). -/
def e5m2 : Fmt := { width := 8, fb := 2, bias := 15 }

/-- The binary floating format of a tag 1 to 6 (R31); other tags give FP32. -/
def Fmt.ofTag (t : Nat) : Fmt :=
  match t with
  | 1 => fp64
  | 3 => fp16
  | 4 => bf16
  | 5 => e4m3
  | 6 => e5m2
  | _ => fp32

/-- Width of the exponent field. -/
def Fmt.eb (f : Fmt) : Nat := f.width - 1 - f.fb

/-- The weight exponent of the least significant bit of a subnormal. -/
def Fmt.emin (f : Fmt) : Int := 1 - (f.bias : Int) - (f.fb : Int)

/-- The encoding of the largest finite value, without sign (R33). -/
def Fmt.maxBits (f : Fmt) : Nat :=
  if f.one7F then 0x7E else (2 ^ f.eb - 1) * 2 ^ f.fb - 1

/-- The encoding of infinity, without sign; E4M3 has none (R33). -/
def Fmt.infBits (f : Fmt) : Nat := (2 ^ f.eb - 1) * 2 ^ f.fb

/-- The canonical NaN (R33). -/
def Fmt.nan (f : Fmt) : Nat :=
  if f.one7F then 0x7F else (2 ^ f.eb - 1) * 2 ^ f.fb + 2 ^ (f.fb - 1)

/-- A sign bit in place. -/
def Fmt.signBit (f : Fmt) (neg : Bool) : Nat := if neg then 2 ^ (f.width - 1) else 0

/-- A value of a floating format: a NaN, an infinity, or (-1)^neg x m x 2^e. -/
inductive FVal where
  | nan
  | inf (neg : Bool)
  | fin (neg : Bool) (m : Nat) (e : Int)
deriving DecidableEq, Repr

/-- The value an encoding holds (R33). -/
def Fmt.decode (f : Fmt) (bits : Nat) : FVal :=
  let neg := bits.testBit (f.width - 1)
  let ex := bits / 2 ^ f.fb % 2 ^ f.eb
  let fr := bits % 2 ^ f.fb
  if f.one7F && bits % 128 = 127 then .nan
  else if !f.one7F && ex = 2 ^ f.eb - 1 then (if fr = 0 then .inf neg else .nan)
  else if ex = 0 then .fin neg fr f.emin
  else .fin neg (2 ^ f.fb + fr) (f.emin + ((ex : Int) - 1))

/-- Whether an encoding is subnormal (R45). -/
def Fmt.isSubnormal (f : Fmt) (bits : Nat) : Bool :=
  bits / 2 ^ f.fb % 2 ^ f.eb = 0 && bits % 2 ^ f.fb ≠ 0

/-- Flush inputs: a subnormal source reads as zero of its sign (R45). -/
def Fmt.flush (f : Fmt) (on : Bool) (bits : Nat) : Nat :=
  if on && f.isSubnormal bits then bits / 2 ^ (f.width - 1) % 2 * 2 ^ (f.width - 1) else bits

/-- Read a source under a mode (R45). -/
def Fmt.read (f : Fmt) (md : Modes) (bits : Nat) : FVal := f.decode (f.flush md.fi (bits % 2 ^ f.width))

/-- The sticky flags OVF, DZ, INV and the others as bits of the register (R100). -/
abbrev Flags := Word
def flagOvf : Flags := 1
def flagDz : Flags := 2
def flagInv : Flags := 4
def flagNegv : Flags := 8
def flagFmt : Flags := 16

/-- A result word and the flags it sets. -/
structure FRes where
  bits : Nat
  flags : Flags := 0
deriving DecidableEq, Repr

/-- The number of bits of a natural number. -/
def bitLen (m : Nat) : Nat := if m = 0 then 0 else Nat.log2 m + 1

/-- Round m / 2^sh to an integer by a mode, given the sign and whether a remainder lies below (R44). -/
def roundShift (rm : RM) (neg : Bool) (m sh : Nat) (sticky : Bool) : Nat :=
  let q := m / 2 ^ sh
  let r := m % 2 ^ sh
  let inexact := r ≠ 0 || sticky
  match rm with
  | .rtz => q
  | .rup => if inexact && !neg then q + 1 else q
  | .rdn => if inexact && neg then q + 1 else q
  | .rne =>
    let h := 2 ^ sh
    if 2 * r > h || (2 * r = h && sticky && sh > 0) then q + 1
    else if 2 * r = h && sh > 0 then (if q % 2 = 1 then q + 1 else q)
    else q

/-- RoundTo(fmt, mode) of the non-zero exact value (-1)^neg x m x 2^e, plus a positive amount below its
last bit when `sticky` (then m has more bits than the format keeps). Saturates by R46. -/
def Fmt.round (f : Fmt) (rm : RM) (neg : Bool) (m : Nat) (e : Int) (sticky : Bool := false) : FRes :=
  let q := max f.emin (e + (bitLen m : Int) - (f.fb + 1 : Int))
  let mant :=
    if q ≤ e then m * 2 ^ (e - q).toNat
    else roundShift rm neg m (q - e).toNat sticky
  let bits := (q - f.emin).toNat * 2 ^ f.fb + mant
  if bits > f.maxBits then { bits := f.signBit neg + f.maxBits, flags := flagOvf }
  else { bits := f.signBit neg + bits }

/-- Flush outputs (R45). -/
def Fmt.flushOut (f : Fmt) (md : Modes) (r : FRes) : FRes := { r with bits := f.flush md.fo r.bits }

/-- The canonical NaN with INV (R47). -/
def Fmt.invalid (f : Fmt) : FRes := { bits := f.nan, flags := flagInv }

/-- An infinity as a result; E4M3 takes its largest finite value with OVF (R47). -/
def Fmt.infinity (f : Fmt) (neg : Bool) : FRes :=
  if f.one7F then { bits := f.signBit neg + f.maxBits, flags := flagOvf }
  else { bits := f.signBit neg + f.infBits }

/-- A zero of a sign. -/
def Fmt.zero (f : Fmt) (neg : Bool) : FRes := { bits := f.signBit neg }

/-- The product of factors: its value, and whether it is an invalid zero times infinity (R47). -/
def mulVals : List FVal → FVal × Bool
  | [] => (.fin false 1 0, false)
  | x :: rest =>
    let (y, bad) := mulVals rest
    match x, y with
    | .nan, _ => (.nan, bad)
    | _, .nan => (.nan, bad)
    | .inf s, .inf t => (.inf (s != t), bad)
    | .inf s, .fin t m _ => if m = 0 then (.nan, true) else (.inf (s != t), bad)
    | .fin s m _, .inf t => if m = 0 then (.nan, true) else (.inf (s != t), bad)
    | .fin s m e, .fin t n g => (.fin (s != t) (m * n) (e + g), bad)

/-- Negate a value. -/
def FVal.neg : FVal → FVal
  | .nan => .nan
  | .inf s => .inf (!s)
  | .fin s m e => .fin (!s) m e

def FVal.isNan : FVal → Bool
  | .nan => true
  | _ => false

def FVal.isInf : FVal → Bool
  | .inf _ => true
  | _ => false

def FVal.isZero : FVal → Bool
  | .fin _ 0 _ => true
  | _ => false

def FVal.sign : FVal → Bool
  | .nan => false
  | .inf s => s
  | .fin s _ _ => s

/-- The least exponent of finite values. -/
def minExp : List FVal → Int
  | [] => 0
  | [.fin _ _ e] => e
  | .fin _ _ e :: rest => min e (minExp rest)
  | _ :: rest => minExp rest

/-- The exact sum of finite values, in units of 2^e. -/
def sumAt (e : Int) : List FVal → Int
  | [] => 0
  | .fin s m g :: rest =>
    let x : Int := (m * 2 ^ (g - e).toNat : Nat)
    (if s then -x else x) + sumAt e rest
  | _ :: rest => sumAt e rest

/-- The sign of an exact zero sum of these terms (step 4 of R44). -/
def zeroSign (rm : RM) (terms : List FVal) : Bool :=
  if terms.all (fun t => t.isZero && t.sign) && !terms.isEmpty then true
  else if terms.all (fun t => t.isZero && !t.sign) then false
  else rm = .rdn

/-- One sum of products, exact and rounded once (R44, R47, R54, R55). Under `perTerm` a NaN source does
not hide an invalid combination among the other terms (R55); otherwise any NaN source sets no flag (R47). -/
def Fmt.sumProducts (f : Fmt) (rm : RM) (perTerm : Bool) (terms : List (List FVal)) : FRes :=
  let anyNan := terms.any (fun t => t.any FVal.isNan)
  let prods := terms.map mulVals
  let bad := prods.any Prod.snd
  let vals := prods.map Prod.fst
  let infs := vals.filter FVal.isInf
  let clash := infs.any FVal.sign && infs.any (fun v => !v.sign)
  if anyNan then { bits := f.nan, flags := if perTerm && (bad || clash) then flagInv else 0 }
  else if bad || clash then f.invalid
  else match infs with
    | v :: _ => f.infinity v.sign
    | [] =>
      let e := minExp vals
      let s := sumAt e vals
      if s = 0 then f.zero (zeroSign rm vals) else f.round rm (s < 0) s.natAbs e

/-- The integer square root: the bits of the root found from the top down. -/
def isqrtAux (m : Nat) : Nat → Nat → Nat
  | 0, r => r
  | k + 1, r =>
    let t := r + 2 ^ k
    isqrtAux m k (if t * t ≤ m then t else r)

/-- The integer square root. -/
def isqrt (m : Nat) : Nat := isqrtAux m (bitLen m / 2 + 1) 0

/-- RoundTo of the quotient of two non-zero magnitudes m/n x 2^e (R140). -/
def Fmt.roundQuot (f : Fmt) (rm : RM) (neg : Bool) (m n : Nat) (e : Int) : FRes :=
  let k := f.fb + 4 + bitLen n
  let q := m * 2 ^ k / n
  f.round rm neg q (e - k) (m * 2 ^ k % n ≠ 0)

/-- RoundTo of the square root of a non-zero magnitude m x 2^e (R140). -/
def Fmt.roundSqrt (f : Fmt) (rm : RM) (m : Nat) (e : Int) : FRes :=
  let (m, e) := if e % 2 = 0 then (m, e) else (2 * m, e - 1)
  let k := f.fb + 4
  let m' := m * 2 ^ (2 * k)
  let r := isqrt m'
  f.round rm false r (e / 2 - k) (r * r ≠ m')

/-- Division with its special cases (R140, R47). -/
def Fmt.div (f : Fmt) (rm : RM) (a b : FVal) : FRes :=
  match a, b with
  | .nan, _ => { bits := f.nan }
  | _, .nan => { bits := f.nan }
  | .inf _, .inf _ => f.invalid
  | .inf s, .fin t _ _ => f.infinity (s != t)
  | .fin s _ _, .inf t => f.zero (s != t)
  | .fin s m e, .fin t n g =>
    if n = 0 then
      if m = 0 then f.invalid
      else { bits := f.signBit (s != t) + f.maxBits, flags := flagDz }
    else if m = 0 then f.zero (s != t)
    else f.roundQuot rm (s != t) m n (e - g)

/-- Square root with its special cases (R140, R47). -/
def Fmt.sqrt (f : Fmt) (rm : RM) (a : FVal) : FRes :=
  match a with
  | .nan => { bits := f.nan }
  | .inf true => f.invalid
  | .inf false => f.infinity false
  | .fin s m e =>
    if m = 0 then f.zero s
    else if s then f.invalid
    else f.roundSqrt rm m e

/-- RoundTo(integer, mode) of (-1)^neg x m x 2^e. -/
def roundToInt (rm : RM) (neg : Bool) (m : Nat) (e : Int) : Int :=
  let q : Nat := if 0 ≤ e then m * 2 ^ e.toNat else roundShift rm neg m (-e).toNat false
  if neg then -(q : Int) else q

/-- A binary floating value rounded into a format (R49): one RoundTo, NaN and infinity by R47. -/
def Fmt.convert (f : Fmt) (rm : RM) (v : FVal) : FRes :=
  match v with
  | .nan => { bits := f.nan }
  | .inf s => f.infinity s
  | .fin s m e => if m = 0 then f.zero s else f.round rm s m e

/-- An integer rounded into a format (R49). -/
def Fmt.ofInt (f : Fmt) (rm : RM) (i : Int) : FRes :=
  if i = 0 then f.zero false else f.round rm (i < 0) i.natAbs 0

/-- An integer type: its width and signedness (R35, R65, R145). -/
structure IntTy where
  width : Nat
  signed : Bool
deriving DecidableEq, Repr

/-- Least value of an integer type. -/
def IntTy.lo (t : IntTy) : Int := if t.signed then -(2 ^ (t.width - 1) : Nat) else 0

/-- Greatest value of an integer type. -/
def IntTy.hi (t : IntTy) : Int := if t.signed then (2 ^ (t.width - 1) : Nat) - 1 else (2 ^ t.width : Nat) - 1

/-- The value of the low bits of a word in an integer type: Ext of R114. -/
def IntTy.ext (t : IntTy) (bits : Nat) : Int :=
  let b := bits % 2 ^ t.width
  if t.signed && b.testBit (t.width - 1) then (b : Int) - (2 ^ t.width : Nat) else b

/-- The two's complement encoding of an integer in a number of bits. -/
def intBits (w : Nat) (i : Int) : Nat := (i % (2 ^ w : Nat)).toNat

/-- Saturate an exact integer into a type, with OVF when it does (R46). -/
def IntTy.saturate (t : IntTy) (i : Int) : FRes :=
  if i < t.lo then { bits := intBits t.width t.lo, flags := flagOvf }
  else if i > t.hi then { bits := intBits t.width t.hi, flags := flagOvf }
  else { bits := intBits t.width i }

/-- A floating value into an integer type (R49, R46, R47). -/
def IntTy.ofFloat (t : IntTy) (rm : RM) (v : FVal) : FRes :=
  match v with
  | .nan => { bits := 0, flags := flagInv }
  | .inf s => { bits := intBits t.width (if s then t.lo else t.hi), flags := flagOvf }
  | .fin s m e => t.saturate (roundToInt rm s m e)

/-- Compare two values that are not NaN: the sign of a - b. -/
def FVal.cmp (a b : FVal) : Ordering :=
  match a, b with
  | .inf s, .inf t => if s = t then .eq else if s then .lt else .gt
  | .inf s, _ => if s then .lt else .gt
  | _, .inf t => if t then .gt else .lt
  | .fin _ _ _, .fin _ _ _ =>
    let e := minExp [a, b]
    compare (sumAt e [a]) (sumAt e [b])
  | _, _ => .eq

/-- The exact comparison with -0 below +0, for minimum and maximum (R136). -/
def FVal.lt0 (a b : FVal) : Bool :=
  match FVal.cmp a b with
  | .lt => true
  | .gt => false
  | .eq => a.sign && !b.sign

/-- Minimum or maximum of two encodings, as sources flushed on input and output (R136). -/
def Fmt.minMax (f : Fmt) (md : Modes) (isMax : Bool) (a b : Nat) : FRes :=
  let x := f.flush md.fi (a % 2 ^ f.width)
  let y := f.flush md.fi (b % 2 ^ f.width)
  let vx := f.decode x
  let vy := f.decode y
  if vx.isNan || vy.isNan then { bits := f.nan }
  else f.flushOut md { bits := if FVal.lt0 vx vy != isMax then x else y }

/-- ToWide: the 320-bit addend of a finite value at a lowest weight, and OVF when it saturates (R52). -/
def toWide (v : FVal) (lw : Int) : FRes :=
  match v with
  | .fin s m e =>
    let n : Nat :=
      if lw ≤ e then m * 2 ^ (e - lw).toNat else roundShift .rne s m (lw - e).toNat false
    let limit := 2 ^ 319 - 1
    if n > limit then { bits := intBits 320 (if s then -(limit : Int) else limit), flags := flagOvf }
    else { bits := intBits 320 (if s then -(n : Int) else n) }
  | _ => { bits := 0 }

/-- FromWide: a 320-bit accumulator rounded into a format (R53). -/
def Fmt.fromWide (f : Fmt) (rm : RM) (acc : Nat) (lw : Int) : FRes :=
  let s := (IntTy.mk 320 true).ext acc
  if s = 0 then f.zero false else f.round rm (s < 0) s.natAbs lw

/-- The bits of a tag's element (R31). -/
def tagWidth (t : Nat) : Nat :=
  match t with
  | 1 => 64
  | 3 | 4 | 7 => 16
  | 5 | 6 | 8 | 9 | 12 => 8
  | 10 | 11 | 14 => 4
  | 13 => 6
  | 15 => 64
  | _ => 32

/-- The mantissa width k of a TX format (R37). -/
def txK (t : Nat) : Nat := match t with | 12 => 6 | 13 => 4 | _ => 2

/-- The bytes of a TX block in memory (R38). -/
def txBlockBytes (t : Nat) : Nat := 2 + 4 * (txK t + 2)

/-- The value of a TX element under an exponent pair (R37). -/
def txDecode (t : Nat) (pair elem : Nat) : FVal :=
  let k := txK t
  let ex := if elem.testBit (k + 1) then pair / 256 % 256 else pair % 256
  if ex = 255 then .nan
  else .fin (elem.testBit k) (elem % 2 ^ k) ((ex : Int) - 127 - ((k : Int) - 1))

/-- The FP32 value as an exact pair: magnitude in units of 2^-149. -/
def fp32Units (bits : Nat) : Nat :=
  match fp32.decode bits with
  | .fin _ m e => m * 2 ^ (e + 149).toNat
  | _ => 0

/-- Step(e) of R40 in units of 2^-200. -/
def txStep (k ex : Nat) : Nat := 2 ^ (ex + 200 - 127 + 1 - k)

/-- Own(a) of R40, for a magnitude in units of 2^-200: the smallest exponent found from 0 up. -/
def txOwn (k a : Nat) : Nat :=
  ((List.range 255).find? (fun ex => 2 * a < (2 ^ (k + 1) - 1) * txStep k ex)).getD 254

/-- |Q(x, e)| / Step(e) of R40: RNE, limited to 2^k - 1. -/
def txQuant (k a ex : Nat) : Nat :=
  let s := txStep k ex
  let q := a / s
  let r := a % s
  let n := if 2 * r > s then q + 1 else if 2 * r = s then (if q % 2 = 1 then q + 1 else q) else q
  min n (2 ^ k - 1)

/-- A quantised block (R40): the exponent pair, the 32 elements, and the flags OVF and INV. -/
structure TxBlock where
  pair : Nat
  elems : List Nat
  flags : Flags
deriving DecidableEq, Repr

/-- BLKQ's choice of exponents and elements for a block of FP32 words (R40). A NaN element has sign 0 (R34); its mantissa,
which no rule gives, is `free` of its number (log 65). -/
def txQuantise (t : Nat) (free : Nat → Nat) (xs : List Nat) : TxBlock :=
  let k := txK t
  let special (x : Nat) : Bool := match fp32.decode x with | .fin _ _ _ => false | _ => true
  let mag (x : Nat) : Nat := fp32Units x * 2 ^ 51
  let mags := (xs.filter (fun x => !special x)).map mag
  let big := mags.foldl max 0
  let e1 := txOwn k big
  let absDiff (a b : Nat) : Nat := if a ≥ b then a - b else b - a
  let held (a : Nat) : Bool :=
    2 * absDiff a (txQuant k a e1 * txStep k e1) ≤ txStep k (txOwn k a)
  let anySpecial := xs.any special
  let loose := mags.filter (fun a => !held a)
  let e0 := if anySpecial then 255 else if loose.isEmpty then e1 else txOwn k (loose.foldl max 0)
  let elem (i x : Nat) : Nat :=
    if special x then free i % 2 ^ k
    else
      let a := mag x
      let sel := anySpecial || held a
      let ex := if sel then e1 else e0
      (if sel then 2 ^ (k + 1) else 0) + (if x.testBit 31 then 2 ^ k else 0) + txQuant k a ex
  let ovf := 2 * big ≥ (2 ^ (k + 1) - 1) * txStep k 254
  let inv := xs.any (fun x => (fp32.decode x).isInf)
  { pair := e0 + 256 * e1, elems := xs.zipIdx.map (fun (x, i) => elem i x),
    flags := (if ovf then flagOvf else 0) ||| (if inv then flagInv else 0) }

/-- Expansion of a TX element into a binary format (R41): one rounding, canonical NaN, then flush outputs. -/
def txExpand (f : Fmt) (md : Modes) (t pair elem : Nat) : FRes :=
  f.flushOut md (f.convert md.rm (txDecode t pair elem))

end Sys2Proof.Machine
end

