-- ==== Sys2Proof/Syntax.lean ====
section
/-! DEFINITION. The operations and events of the FV9: one constructor of `Instr` for each row of
spec/opcode_table.json. Instruction rows carry the fields of the decoded word (R60, R66, R67); event rows
carry what the event names. -/

namespace Sys2Proof

/-- The length of a word that holds one operation (R58). -/
inductive Len where
  /-- a 64-bit word, L = 0b00 -/
  | w64
  /-- a 96-bit word with an immediate, L = 0b01 -/
  | w96
  /-- a 128-bit single instruction, L = 0b10 -/
  | w128
deriving DecidableEq, Repr

/-- The fields of a single word (R60), with the immediate of a 96-bit word (R66) or the displacement and
upper fields of a 128-bit single word (R67). Fields a word does not have are zero. -/
structure Fields where
  len : Len := .w64
  /-- bits [63:60] -/
  top : BitVec 4 := 0
  /-- bits [59:55] -/
  tg : BitVec 5 := 0
  nb : BitVec 2 := 0
  na : BitVec 2 := 0
  /-- bit 0 for A, 1 for B, 2 for C -/
  fe : BitVec 3 := 0
  c : BitVec 8 := 0
  b : BitVec 8 := 0
  a : BitVec 8 := 0
  d : BitVec 8 := 0
  mod : BitVec 6 := 0
  /-- IMM of a 96-bit word, DISP of a 128-bit word: word bits [95:64] -/
  imm : BitVec 32 := 0
  e : BitVec 8 := 0
  f : BitVec 8 := 0
  sp : BitVec 4 := 0
  hn : BitVec 4 := 0
  /-- bit 0 for E, bit 1 for F -/
  fx : BitVec 2 := 0
  /-- bits [127:122] -/
  top2 : BitVec 6 := 0
deriving DecidableEq, Repr

/-- One operation of a pair word (R68): its opcode and the fields of its 64-bit layout. -/
structure PairOp where
  op : BitVec 8
  f : Fields
deriving DecidableEq, Repr

/-- A core of the device: anvil die and core number 4 x CLUSTER + CORE within it (R19). -/
structure CoreId where
  die : Nat
  core : Nat
deriving DecidableEq, Repr

/-- A clutch: the model's number of its chorus, and its clutchid. -/
structure ClutchId where
  chorus : Nat
  clutch : Nat
deriving DecidableEq, Repr

/-- Where an uncorrectable error falls (R94, R219). -/
inductive ErrorSite where
  /-- a word of an ordinary register -/
  | register (who : ClutchId) (reg lane : Nat)
  /-- a word of a moment register: half 0 or 1 of its 64 bits -/
  | moment (who : ClutchId) (reg lane half : Nat)
  /-- a 64-byte sector of physical memory, in DRAM or in the die cache, by number -/
  | sector (n : Nat)
  /-- a 64-byte sector of a chorus's scratchpad allocation: chorus, core position, offset / 64 -/
  | scratchpad (chorus pos n : Nat)
  /-- a 64-byte sector of a chorus's accumulator rows: chorus, core position, sub-core, chorus row, column / 16 -/
  | accumulator (chorus pos sub row n : Nat)
  /-- a 64-byte sector that a core's L1 holds, by its number in physical memory -/
  | l1 (core : CoreId) (n : Nat)
deriving DecidableEq, Repr

/-- The effect an element has at its home (R298, R300, R316). -/
inductive HomeOp where
  /-- integer addition on 4 or 8 bytes -/
  | add (bytes : Nat)
  | min (bytes : Nat) (signed : Bool)
  | max (bytes : Nat) (signed : Bool)
  | or (bytes : Nat)
  /-- write-once put of 1 to 16 bytes -/
  | put1 (bytes : Nat)
  /-- addition to an 8-byte arrival word -/
  | arr
  /-- addition to a wide accumulator, with the addend's format tag and lowest weight -/
  | fx (fmt : Nat) (lw : Int)
deriving DecidableEq, Repr

/-- The section a window element names (R312, R316). -/
structure WinTarget where
  lid : Nat
  index : Nat
  epoch : Nat
  section_ : Nat
deriving DecidableEq, Repr

/-- A remote element (R290 to R301), or the write-once reply of an RGET (R301). -/
structure Element where
  srcDev : Nat
  srcDie : Nat
  dstDev : Nat
  keyidx : Nat
  key : DWord
  tag : DWord
  lane : Nat
  op : HomeOp
  /-- the data, a little-endian number; for `fx` the 320-bit addend -/
  data : Nat
  /-- the device virtual address, or the window address -/
  addr : DWord
  /-- the physical address, when the source translated it (SELF = 1, R290) -/
  pa : Option Nat
  /-- the page kind that the translation gave -/
  kind : Nat := 0
  /-- the context that translated it -/
  ctx : Nat
  arr : Option DWord
  win : Option WinTarget
  /-- this element belongs to this multicast future of the source (R303) -/
  mcast : Option Nat
deriving DecidableEq, Repr

/-- A refusal reason (R305). -/
inductive Reason where
  | kind | miss | header | arrival | unreach
deriving DecidableEq, Repr

/-- The answer of a home to an element (R297, R312). -/
inductive AckResult where
  | applied | duplicate | busy | stale
  | refused (r : Reason)
  /-- the target sector is poisoned (R305) -/
  | poisoned
  /-- the receiving port dropped the packet for its key (R309) or its credits (R310) -/
  | keyViolation
  | shareViolation
deriving DecidableEq, Repr

/-- An acknowledgement (R436). -/
structure Ack where
  /-- the device that answers -/
  fromDev : Nat
  /-- the device that sent the element -/
  toDev : Nat
  keyidx : Nat
  tag : DWord
  lane : Nat
  /-- the epoch of a window element (R312) -/
  epoch : Option Nat := none
  /-- the key of the packet that it answers (R309) -/
  key : DWord
  result : AckResult
deriving DecidableEq, Repr

/-- What a remote read asks for (R301, R302, R315). -/
inductive ReadKind where
  /-- RGET of a number of bytes, with its landing address and arrival word on the requesting device -/
  | get (bytes : Nat) (landing : DWord) (arr : Option DWord)
  /-- RACC.CVT, with the TG format -/
  | acc (fmt : Nat)
  /-- CWLD of a number of bytes from another section -/
  | window (bytes : Nat) (target : WinTarget)
deriving DecidableEq, Repr

/-- A remote read request (R436). -/
structure ReadReq where
  /-- the requesting device's own number of the request -/
  id : Nat
  srcDev : Nat
  srcDie : Nat
  dstDev : Nat
  /-- the issuing context, which only the issuing device interprets -/
  ctx : Nat
  keyidx : Nat
  key : DWord
  tag : DWord
  lane : Nat
  kind : ReadKind
  addr : DWord
  pa : Option Nat
  /-- the page kind that the source's translation gave -/
  page : Nat := 0
deriving DecidableEq, Repr

/-- What a reply carries. -/
inductive ReplyBody where
  /-- the bytes read, as a little-endian number -/
  | bytes (value : Nat)
  /-- the accumulator and its header's lowest weight (R302) -/
  | accum (value : Nat) (lw : Int)
  | refused (r : Reason)
  | poisoned
  | keyViolation
  | shareViolation
deriving DecidableEq, Repr

/-- A reply to a remote read (R301). -/
structure ReadReply where
  req : ReadReq
  fromDev : Nat
  body : ReplyBody
deriving DecidableEq, Repr

/-- A pacing message (R310): the tenant's key index and a number of 256-byte units. -/
structure Pace where
  srcDev : Nat
  dstDev : Nat
  keyidx : Nat
  key : DWord
  units : Nat
deriving DecidableEq, Repr

/-- A placement message of a linked chorus (R311 to R321): launch identifier, chorus index, epoch. -/
structure Place where
  srcDev : Nat
  dstDev : Nat
  lid : Nat
  index : Nat
  epoch : Nat
  section_ : Nat
  /-- the launch's key index and the key (R309) -/
  keyidx : Nat := 0
  key : DWord := 0
  /-- which of the coordinator's attempts a reserve, its answer, a commit or an abort belongs to -/
  attempt : Nat := 0
  /-- the header and MEMBERS of the launch, which a reserve compares (R362) -/
  hdr : List Nat := []
  members : List Nat := []
  /-- they differ on some member (R362) -/
  bad : Bool := false
deriving DecidableEq, Repr

/-- The entry of a membership set (R406). -/
structure Group where
  valid : Bool := false
  ctx : Nat := 0
  keyidx : Nat := 0
  owner : Nat := 0
  gen : Nat := 0
  /-- member devices in ascending number -/
  members : List Nat := []
deriving DecidableEq, Repr

/-- What a GROUP message says (R408). -/
inductive GroupBody where
  /-- a member installs this entry -/
  | install (entry : Group)
  /-- the owner's answer to a request of this device -/
  | answer (status : Nat)
  /-- a member has installed the entry, or has no free entry for it -/
  | installed (full : Bool)
deriving DecidableEq, Repr

/-- A join or leave request of R408. -/
structure GroupReq where
  fromDev : Nat
  owner : Nat
  set : Nat
  keyidx : Nat
  key : DWord
  leave : Bool
  /-- the requesting device's context -/
  ctx : Nat
  /-- which request of that device it is, so that its answer finds it (the model's own) -/
  ask : Nat := 0
deriving DecidableEq, Repr

/-- An install or answer of R408. -/
structure GroupMsg where
  fromDev : Nat
  toDev : Nat
  set : Nat
  keyidx : Nat
  key : DWord
  body : GroupBody
  /-- the request that an answer answers -/
  ask : Nat := 0
deriving DecidableEq, Repr

/-- The parameters of a collective that must agree on every member (R386, R388). -/
structure CollParams where
  op : Nat
  rop : Nat
  dtype : Nat
  count : Nat
  root : Nat
  lw : Int
deriving DecidableEq, Repr

/-- What a collective step carries (R389). -/
inductive CollBody where
  /-- this device's own sequencer reads its source buffer -/
  | begin_
  /-- one member's contribution: 320-bit or 64-bit integers, or the elements' own bits -/
  | contribution (gen : Nat) (params : CollParams) (elems : List Nat)
  /-- the member's sequencer has halted, or its launch has ended, with a REASON of R391 -/
  | halted (reason : Nat)
deriving DecidableEq, Repr

/-- A COLLSTEP message (R436). -/
structure CollStep where
  fromDev : Nat
  toDev : Nat
  keyidx : Nat
  key : DWord
  set : Nat
  seq : Nat
  body : CollBody
deriving DecidableEq, Repr

/-- A held delta of a combining lease (R307): the target's physical address, operation and merged value. -/
structure Delta where
  pa : Nat
  op : HomeOp
  value : Nat
deriving DecidableEq, Repr

/-- An entry of a duplicate filter (R411). -/
structure FilterEntry where
  tag : DWord
  keyidx : Nat
  win : Bool
  lanes : Mask
deriving DecidableEq, Repr

/-- A combining lease (R307, R308): the home device and die, the 64 KiB region number, the kind of its pages, and the key
index, its key and the virtual 64 KiB region under which the lessee's elements name it. -/
structure Lease where
  homeDev : Nat
  homeDie : Nat
  lessee : Nat
  region : Nat
  kind : Nat := 0
  keyidx : Nat := 0
  key : DWord := 0
  view : Nat := 0
  /-- the home's filter when it granted the lease, which the lessee's begins with -/
  held : List FilterEntry := []
deriving DecidableEq, Repr

/-- A message that this device has put on the fabric (R436). -/
inductive Msg where
  | elem (e : Element)
  | ack (a : Ack)
  | rreq (r : ReadReq)
  | rreply (r : ReadReply)
  | demand (p : Pace)
  | grant (p : Pace)
  | reserve (p : Place)
  | reserved (p : Place)
  | noroom (p : Place)
  | commit (p : Place)
  | abort (p : Place)
  | abandon (p : Place)
  | retired (p : Place)
  | attached (p : Place)
  | detached (p : Place)
  | depart (p : Place)
  /-- the acknowledgement of a commit, an abort or a notice (R311, R318) -/
  | acked (m : Msg)
  | groupReq (g : GroupReq)
  | group (g : GroupMsg)
  | coll (c : CollStep)
  | leaseGrant (l : Lease)
  | leaseForward (l : Lease) (e : Element)
  | leaseRecall (l : Lease)
  | leaseReturn (l : Lease) (deltas : List Delta) (entries : List FilterEntry)
  /-- release of a chorus's identities: KEYIDX, tag bits [63:25], window identities only (R306, R317), and the key -/
  | release (toDev toDie keyidx pre : Nat) (key : DWord)
deriving DecidableEq, Repr

/-- The register blocks a host or the core control processor writes (R203, R432). -/
inductive Block where
  /-- BAR0, which holds the control blocks (R432) -/
  | bar0
  | crucible
  | die (d : Nat)
  /-- the debug window of a core, written by its control processor -/
  | debug (c : CoreId)
deriving DecidableEq, Repr

/-- The operations and events of the opcode table. -/
inductive Instr where
  -- 0x00-0x2D: integer, address, logic, lane exchange (05)
  | nop (f : Fields) | mov (f : Fields) | sel (f : Fields) | iadd (f : Fields) | isub (f : Fields)
  | imul (f : Fields) | imulh (f : Fields) | imad (f : Fields) | imadw (f : Fields) | idiv (f : Fields)
  | irem (f : Fields) | iabs (f : Fields) | imin (f : Fields) | imax (f : Fields) | iaddc (f : Fields)
  | iadds (f : Fields) | icmp (f : Fields) | and (f : Fields) | or (f : Fields) | xor (f : Fields)
  | andn (f : Fields) | shl (f : Fields) | shr (f : Fields) | sar (f : Fields) | rot (f : Fields)
  | bfe (f : Fields) | bfi (f : Fields) | popc (f : Fields) | clz (f : Fields) | brev (f : Fields)
  | ffs (f : Fields) | lea (f : Fields) | add64 (f : Fields) | cmp64 (f : Fields) | cvti (f : Fields)
  | bymix (f : Fields) | vote (f : Fields) | ballot (f : Fields) | match_ (f : Fields) | redi (f : Fields)
  | scani (f : Fields) | shfl (f : Fields) | bcast (f : Fields) | isect (f : Fields) | rdcr (f : Fields)
  | wrcr (f : Fields)
  -- 0x30-0x56: floating point (06)
  | fadd (f : Fields) | fsub (f : Fields) | fmul (f : Fields) | ffma (f : Fields) | fmin (f : Fields)
  | fmax (f : Fields) | fcmp (f : Fields) | fclass (f : Fields) | pkadd (f : Fields) | pkmul (f : Fields)
  | pkfma (f : Fields) | pkmin (f : Fields) | pkmax (f : Fields) | pkcmp (f : Fields) | fdiv (f : Fields)
  | fsqrt (f : Fields) | cvtf (f : Fields) | cvtfi (f : Fields) | cvtif (f : Fields) | fpack (f : Fields)
  | funpack (f : Fields) | blkq (f : Fields) | blkdq (f : Fields) | blkex (f : Fields) | frcp (f : Fields)
  | frsq (f : Fields) | fexp2 (f : Fields) | flog2 (f : Fields) | fsin (f : Fields) | fcos (f : Fields)
  | ftanh (f : Fields) | fsigm (f : Fields) | ferf (f : Fields) | freda (f : Fields) | fredm (f : Fields)
  | fscan (f : Fields) | frnd (f : Fields) | fscl (f : Fields) | fdot4 (f : Fields)
  -- 0x60-0x6D: moments (07)
  | madd (f : Fields) | msub (f : Fields) | mscl (f : Fields) | mmul (f : Fields) | mfma (f : Fields)
  | mrelu (f : Fields) | msigm (f : Fields) | mexp (f : Fields) | mset (f : Fields) | mcoll (f : Fields)
  | mld (f : Fields) | mst (f : Fields) | mmov (f : Fields) | mcvt (f : Fields)
  -- 0x70-0x7D, 0x83: control (08)
  | bra (f : Fields) | brc (f : Fields) | brcLoop (f : Fields) | join (f : Fields) | brk (f : Fields)
  | cont (f : Fields) | call (f : Fields) | ret (f : Fields) | exit (f : Fields) | kill (f : Fields)
  | yield (f : Fields) | trap (f : Fields) | emret (f : Fields) | bkpt (f : Fields) | brx (f : Fields)
  | rdclk (f : Fields)
  -- 0x80-0x82: barriers, fences (19, 10)
  | barArrive (f : Fields) | barWait (f : Fields) | barSync (f : Fields) | fence (f : Fields)
  | fenceOpr (f : Fields) | fenceQ (f : Fields) | promote (f : Fields)
  -- 0x88-0x9B: memory (10)
  | ld (f : Fields) | st (f : Fields) | lds (f : Fields) | sts (f : Fields) | ldc (f : Fields)
  | stc (f : Fields) | gath (f : Fields) | scat (f : Fields) | gaths (f : Fields) | scats (f : Fields)
  | ldacc (f : Fields) | stacc (f : Fields) | atom (f : Fields) | atoms (f : Fields) | atomc (f : Fields)
  | cas (f : Fields) | cass (f : Fields) | casc (f : Fields) | pref (f : Fields) | lineop (f : Fields)
  -- 0xA8-0xAF: matrix stream (11)
  | mma (f : Fields) | mmaBc (f : Fields) | mmaS (f : Fields) | mmaM (f : Fields) | mwait (f : Fields)
  | marrive (f : Fields) | mzero (f : Fields) | qmov (f : Fields) | qadd (f : Fields) | qbra (f : Fields)
  | mend (f : Fields)
  -- 0xB8-0xBC: tensor copy and tiles (12, 18)
  | tcpKick (f : Fields) | tcpCancel (f : Fields) | tiledef (f : Fields) | tilerel (f : Fields)
  | tilest (f : Fields) | tiledrn (f : Fields)
  -- 0xC0-0xCB: remote and arrival (13, 19)
  | radd (f : Fields) | raddFx (f : Fields) | rmin (f : Fields) | rmax (f : Fields) | ror (f : Fields)
  | rput1 (f : Fields) | rarr (f : Fields) | rget (f : Fields) | mcast1 (f : Fields) | raccCvt (f : Fields)
  | arrwait (f : Fields) | arrset (f : Fields) | arrtest (f : Fields)
  -- 0xD8-0xDB: window and step replay cache (14)
  | cwinAttach (f : Fields) | cwinDetach (f : Fields) | cwinAdd (f : Fields) | cwinMin (f : Fields)
  | cwinMax (f : Fields) | cwinOr (f : Fields) | cwinPut1 (f : Fields) | cwinArr (f : Fields)
  | cwld (f : Fields) | cwst (f : Fields) | stepCfg (f : Fields) | stepProbe (f : Fields)
  | stepStore (f : Fields)
  -- 0xE0-0xE7: records, collectives, futures, groups, blocks (17, 18, 04)
  | nrec (f : Fields) | coll (f : Fields) | ftest (f : Fields) | fcancel (f : Fields) | fread (f : Fields)
  | grpJoin (f : Fields) | grpLeave (f : Fields) | regclaim (f : Fields) | regsurr (f : Fields)
  -- words that are no single instruction (03)
  /-- a pair word that meets R69 -/
  | pairWord (first second : PairOp)
  /-- a reserved encoding, with its cause code (R74), the word's length in bytes, its opcode and fields as
  presented (R76), and whether it is a pair word and its second operation -/
  | reservedEncoding (cause : Nat) (bytes : Nat) (op : BitVec 8) (f : Fields) (pair second : Bool)
  -- events of clutches and cores (04, 08, 10)
  | longLatencyLanding (id : Nat)
  | fenceComplete (who : ClutchId)
  | regclaimGrant (chorus pos : Nat)
  | regclaimDeadlock (chorus pos : Nat)
  | resume (core : CoreId) | escalate (core : CoreId) | halt (core : CoreId) | stoptime (core : CoreId)
  | launchFatalEnd (launch : Nat)
  | uncorrectableError (site : ErrorSite)
  -- dispatchers (01)
  | chorusIndexGrant (launch die n : Nat)
  | heartbeat
  | dieLost (die : Nat)
  -- translation (09)
  | pageWalkComplete (die ctx page : Nat)
  | missrecRead (die : Nat)
  | tlbinvAll (die : Nat) | tlbinvContext (die ctx : Nat) | tlbinvPage (die ctx page : Nat)
  | tlbinvComplete (die : Nat)
  -- engines (15, 11, 12)
  /-- with the gathered writes, by position, that only reach a later window (R338) -/
  | arbitrationWindowClose (die slice : Nat) (late : List Nat)
  | mmaComplete (chorus pos job : Nat)
  | copyComplete (id : Nat)
  | copyFail (id : Nat)
  | copyAdmit (id : Nat)
  -- remote (13)
  | remoteSend (core : CoreId)
  | retransmit (keyidx : Nat) (tag : DWord) (lane dstDev : Nat)
  | unreachDeadline (keyidx : Nat) (tag : DWord) (lane dstDev : Nat)
  | elem (e : Element)
  | ack (a : Ack)
  | rreq (r : ReadReq)
  | rreply (r : ReadReply)
  | demand (p : Pace)
  | grant (p : Pace)
  -- linked placement (14)
  | placeReserve (p : Place) | placeReserved (p : Place) | placeNoroom (p : Place)
  | placeCommit (p : Place) | placeAbort (p : Place) | placeAbandon (p : Place)
  | placeRetired (p : Place) | placeAttached (p : Place) | placeDetached (p : Place)
  | placeDepart (p : Place)
  | reserveTimeout (launch index : Nat)
  | placeRetry (launch index : Nat)
  -- groups and collectives (18, 17)
  | groupRequest (g : GroupReq)
  | groupInstall (g : GroupMsg)
  | groupTimeout (set : Nat)
  | collstep (c : CollStep)
  | collMemberLost (set seq dev : Nat) (withdrew : Bool)
  -- leases (13, 18)
  | leaseGrant (l : Lease)
  | leaseForward (l : Lease) (e : Element)
  | leaseRecall (l : Lease)
  | leaseReturn (l : Lease) (deltas : List Delta) (entries : List FilterEntry)
  | leaseExpiry (l : Lease)
  | contentionWindow (die : Nat)
  | release (die keyidx pre : Nat) (win : Bool)
  -- fabric (20)
  | unknownMessage (code : Nat)
  | linkDown (port : Nat)
  | peerLost (dev : Nat)
  | keyPrevExpiry (index : Nat)
  -- queues, placement, completion (16, 17)
  | qdoor (q value : Nat)
  | launchTake (q : Nat)
  | dispatcherPlacement (die at_ : Nat)
  | candidateStarved (die : Nat)
  | chorusRetire (chorus : Nat)
  | binTimer (ctx node die : Nat)
  | quantumExpiry (die cluster : Nat)
  | drainExpiry (ctx : Nat)
  | activate (ctx : Nat) | polite (ctx : Nat) | forced (ctx : Nat) | deactivate (ctx : Nat)
  | ctxResume (ctx : Nat)
  | launchComplete (launch : Nat)
  -- readiness (16, 20)
  | enterL1 (core : CoreId)
  | enterL2
  | enterL3
  | wake
  | lattolWrite (value : BitVec 32)
  -- host and management (20, 19)
  | hostWrite (pa port : Nat) (data : List Byte)
  | hostRead (pa n port : Nat)
  | eventCounterRead (die ctx which : Nat)
  | keysrc | keyrcv | budget | unfreeze | sensors | logread | update | attest
  | reset
  | registerWrite (block : Block) (offset width value port : Nat)
  | energyClassAging (die : Nat)
  | wakeComplete
deriving DecidableEq, Repr

/-- One turn of the machine: which agent acts next (log 1). -/
inductive Turn where
  /-- a clutch issues its next word -/
  | clutch (who : ClutchId)
  /-- the matrix sequencer of a chorus's core position issues its next word -/
  | sequencer (chorus pos : Nat)
  /-- an event of an engine, a dispatcher, the host or the fabric -/
  | event (i : Instr)
  /-- the host or a core's control processor reads registers of a block: offset and bytes (R2, R432) -/
  | read (block : Block) (offset width : Nat)
  /-- an error that is corrected where it is found, and logged: die, context, coreid and what the log says (R94, R219) -/
  | corrected (die ctx coreid detail : Nat)
  /-- a placement message that has not been acknowledged is sent again (R311, R318) -/
  | resend (m : Msg)
  /-- the request of a GRP that has not been answered is sent again: by its landing (R408) -/
  | askAgain (landing : Nat)
  /-- an arrival of a clutch that waits for the clutch's earlier accesses is performed (R426) -/
  | arrives (who : ClutchId)
  /-- a collective result whose writes are performed completes its futures (R338, R388) -/
  | performed (job : Nat)
  /-- the acknowledgement of a placement message arrives -/
  | placeAcked (m : Msg)
  /-- a switch plane shows that another device's port has lost its link: device and port (R436) -/
  | peerPortDown (dev port : Nat)
  /-- system software changes an entry of the route table: device, route, index (R437) -/
  | route (dev to_ index : Nat)
  /-- system software changes the table of remote IPv6 addresses (R437) -/
  | remoteAddress (index : Nat) (addr : BitVec 128)
  /-- time passes with no activity -/
  | elapse (cycles : Nat)
deriving DecidableEq, Repr, Inhabited

end Sys2Proof
end

