-- ==== Sys2Proof/Machine/FieldRules.lean ====
section
/-! DEFINITION. The field rules of every opcode: which class each field holds, which lengths, tags and MOD
values it accepts, and which cause a reserved encoding reports (R58 to R74, and the encoding table of each
chapter). -/

namespace Sys2Proof

/-- SPACE of R230. -/
def Fields.space (f : Fields) : Nat := f.sp.toNat / 4
/-- ORD of R230. -/
def Fields.ord (f : Fields) : Nat := f.sp.toNat % 4
/-- SCOPE of R230. -/
def Fields.scope (f : Fields) : Nat := f.hn.toNat / 4
/-- CH of R230. -/
def Fields.ch (f : Fields) : Nat := f.hn.toNat % 4
/-- SZ of R231. -/
def Fields.sz (f : Fields) : Nat := f.mod.toNat / 8

/-- The FE and FX bits in the order of `Shape.classes`; D has none. -/
def Fields.fes (f : Fields) : List Bool :=
  [false, f.fe.getLsbD 0, f.fe.getLsbD 1, f.fe.getLsbD 2, f.fx.getLsbD 0, f.fx.getLsbD 1]

/-- The neighbour selects in the same order. -/
def Fields.neighbours (f : Fields) : List Nat := [0, f.na.toNat, f.nb.toNat, 0, 0, 0]

end Sys2Proof

namespace Sys2Proof.Machine

/-- The class of a register field (R63). -/
inductive Cls where
  /-- the instruction does not use the field -/
  | unused
  /-- `n` ordinary registers from a multiple of `n` -/
  | ord (n : Nat)
  /-- `n` ordinary registers from any register (R378) -/
  | run (n : Nat)
  /-- one register of the uniform window (R180) -/
  | uni
  /-- the first of three uniform registers, at most 253 (R126, R180) -/
  | triple
  | mom
  | bar
  /-- a sequencer scalar -/
  | q
  /-- the first of a pair of sequencer scalars -/
  | qpair
  /-- a constant, and whether its value is accepted (R133) -/
  | code (ok : Bool)
  /-- a register that the stream checks at run time (R268) -/
  | late
deriving DecidableEq, Repr

/-- What an opcode accepts, for one word's own modifiers. -/
structure Shape where
  d : Cls := .unused
  a : Cls := .unused
  b : Cls := .unused
  c : Cls := .unused
  e : Cls := .unused
  f : Cls := .unused
  /-- lengths accepted (R72) -/
  w64 : Bool := true
  w96 : Bool := false
  w128 : Bool := false
  /-- the source an immediate replaces: 1 A, 2 B, 3 C, 0 none -/
  imm : Nat := 0
  tagOk : Bool
  modOk : Bool
  /-- A and B take neighbour selects (R111) -/
  neigh : Bool := false
  /-- a neighbour select is a reserved value whatever its source, not a must-be-zero bit (R111, R156) -/
  neighValue : Bool := false
  /-- further must-be-zero bits are zero -/
  zeroOk : Bool := true
  /-- further reserved values are absent -/
  valueOk : Bool := true
  /-- the destination may not lie in the mask triple (R90, R180, R378) -/
  noTriple : Bool := false
deriving DecidableEq, Repr

/-- The floating MOD layout F of R65. -/
def modF (m : Nat) : Bool := (m.testBit 5 || m / 8 % 4 = 0) && (m.testBit 2 || m % 4 = 0)

/-- A shape with no fields, TG 0 and MOD 0. -/
def Shape.base (f : Fields) : Shape := { tagOk := f.tg = 0, modOk := f.mod = 0 }

/-- TY is in a list and XM in a list (R65, R112). -/
def tyXm (f : Fields) (ty xm : List Nat) : Bool :=
  ty.contains (f.mod.toNat % 8) && xm.contains (f.mod.toNat / 8)

/-- Whether an integer type code is 64 bits wide (R65). -/
def wideTy (t : Nat) : Bool := t = 2 || t = 3

/-- One register or an even pair. -/
def wide (w : Bool) : Cls := .ord (if w then 2 else 1)

/-- The registers that a size code moves (R231). -/
def sizeCls (sz : Nat) : Cls := .ord (if sz = 5 then 2 else if sz = 6 then 4 else 1)

/-- An integer instruction (R112): TY and XM lists, and the classes of its fields. -/
def intShape (f : Fields) (ty xm : List Nat) (d a b c : Cls) (imm : Nat) : Shape :=
  { Shape.base f with
    d, a, b, c, imm, w96 := imm ≠ 0, modOk := tyXm f ty xm, neigh := true }

/-- The shapes of opcodes 0x00 to 0x2D (R112). -/
def intShapes (op : Nat) (f : Fields) : Option Shape :=
  let r := Cls.ord 1
  let p := Cls.ord 2
  let u := Cls.unused
  let ty := f.mod.toNat % 8
  let xm := f.mod.toNat / 8
  let cr : Bool := f.mod.toNat ≤ 10 || (16 ≤ f.mod.toNat && f.mod.toNat ≤ 23)
  match op with
  | 0x00 => some { intShape f [0] [0] u u u u 0 with w96 := true }
  | 0x01 => some (intShape f [0, 2] [0] (wide (wideTy ty)) (wide (wideTy ty)) u u 1)
  | 0x02 => some (intShape f [0, 2] [0] (wide (wideTy ty)) (wide (wideTy ty)) (wide (wideTy ty)) r 2)
  | 0x03 | 0x04 | 0x0C | 0x0D => some (intShape f [0, 1, 4, 5, 6, 7] [0] r r r u 2)
  | 0x05 | 0x06 | 0x09 | 0x0A =>
    some { intShape f [0, 1] [0] r r r u 2 with noTriple := op = 0x09 || op = 0x0A }
  | 0x07 => some (intShape f [0, 1] [0] r r r r 2)
  | 0x08 => some (intShape f [2, 3] [0] p r r p 2)
  | 0x0B => some (intShape f [0, 4, 6] [0] r r u u 0)
  | 0x0E => some (intShape f [1] [0, 1] r r r r 2)
  | 0x0F => some (intShape f [0, 1, 4, 5, 6, 7] [0, 1] r r r u 2)
  | 0x10 => some (intShape f [0, 1] [0, 1, 2, 3, 4, 5] r r r u 2)
  | 0x11 | 0x12 | 0x13 | 0x14 => some (intShape f [0] [0] r r r u 2)
  | 0x15 | 0x16 | 0x17 => some (intShape f [0, 1, 2, 3] [0] (wide (wideTy ty)) (wide (wideTy ty)) r u 2)
  | 0x18 => some (intShape f [0] [0, 1] r r r u 2)
  | 0x19 => some (intShape f [0, 1] [0] r r r u 2)
  | 0x1A => some (intShape f [0] [0] r r r r 2)
  | 0x1B | 0x1C | 0x1D | 0x1E => some (intShape f [0] [0] r r u u 0)
  | 0x1F => some (intShape f [2, 3] [0, 1, 2, 3, 4, 5, 6, 7] p p r u 2)
  | 0x20 => some (intShape f [2, 3] [0] p p p u 2)
  | 0x21 => some (intShape f [2, 3] [0, 1, 2, 3, 4, 5] r p p u 2)
  | 0x22 => some { intShape f [0] [0] (wide (wideTy ty)) (wide (wideTy xm)) u u 0 with modOk := true }
  | 0x23 => some (intShape f [0] [0] r r r r 3)
  | 0x24 => some (intShape f [0] [0, 1, 2] r r u u 0)
  | 0x25 | 0x26 => some (intShape f [0] [0, 1, 2, 3] r r u u 0)
  | 0x27 => some (intShape f [0, 1] [0, 1, 2, 3, 4, 5, 6] r r u u 0)
  | 0x28 => some (intShape f [0, 1] [0, 1, 2, 3, 4, 5, 6, 7] r r u u 0)
  | 0x29 => some { intShape f [0] [0, 1, 2, 3] r r r .triple 2 with neigh := false, neighValue := true }
  | 0x2A => some { intShape f [0] [0] r r r u 2 with
      neigh := false, neighValue := true, valueOk := f.len ≠ .w96 || f.imm.toNat < 128 }
  | 0x2B => some { intShape f [0] [0] r r r r 0 with neigh := false, neighValue := true }
  | 0x2C => some { intShape f [0] [0] r u u u 0 with modOk := cr }
  | 0x2D => some { intShape f [0] [0] u r u u 1 with modOk := cr }
  | _ => none

/-- A floating instruction (R133): TG range with its default, MOD test and classes. -/
def floatShape (f : Fields) (lo hi : Nat) (modOk : Bool) (d a b c : Cls) (imm : Nat) : Shape :=
  { Shape.base f with
    d, a, b, c, imm, w96 := imm ≠ 0, modOk, neigh := true
    tagOk := f.tg = 0 || (lo ≤ f.tg.toNat && f.tg.toNat ≤ hi) }

/-- The shapes of opcodes 0x30 to 0x56 (R133). -/
def floatShapes (op : Nat) (f : Fields) : Option Shape :=
  let m := f.mod.toNat
  let r := Cls.ord 1
  let w := wide (f.tg = 1)
  let u := Cls.unused
  let s : Bool := m < 8 && modF m
  let k := modF (m % 8)
  let c := f.c.toNat
  match op with
  | 0x30 | 0x31 | 0x32 => some (floatShape f 1 6 (modF m) w w w u 2)
  | 0x33 => some (floatShape f 1 6 (modF m) w w w w 2)
  | 0x34 | 0x35 => some (floatShape f 1 6 s w w w u 2)
  | 0x36 => some (floatShape f 1 6 k r w w u 2)
  | 0x37 => some (floatShape f 1 6 (m = 0) r w u u 0)
  | 0x38 | 0x39 => some (floatShape f 3 4 (modF m) r r r u 2)
  | 0x3A => some (floatShape f 3 4 (modF m) r r r r 2)
  | 0x3B | 0x3C => some (floatShape f 3 4 s r r r u 2)
  | 0x3D => some (floatShape f 3 4 k r r r u 2)
  | 0x3E => some { floatShape f 1 4 (modF m) w w w u 2 with noTriple := true }
  | 0x3F => some { floatShape f 1 4 (modF m) w w u u 0 with noTriple := true }
  | 0x40 => some (floatShape f 1 6 (modF m) w (wide (c = 1)) u (.code (1 ≤ c && c ≤ 6)) 0)
  | 0x41 => some (floatShape f 1 6 (modF m) (wide (wideTy c)) w u (.code (c ≤ 9)) 0)
  | 0x42 => some (floatShape f 1 6 (modF m) w (wide (wideTy c)) u (.code (c ≤ 9)) 0)
  | 0x43 => some (floatShape f 3 6 (modF m) r r r (if f.tg.toNat ≤ 4 then u else r) 0)
  | 0x44 => some (floatShape f 3 6 s r r r u 2)
  | 0x45 => some (floatShape f 12 14 (m = 0) (.ord 2) r u u 0)
  | 0x46 => some (floatShape f 12 14 (modF m) r r r (.code (c = 0 || (2 ≤ c && c ≤ 4))) 0)
  | 0x47 => some (floatShape f 12 14 (m = 0) r r u u 0)
  | 0x48 | 0x49 | 0x4A | 0x4B | 0x4C | 0x4D | 0x4E | 0x4F | 0x50 =>
    some { floatShape f 2 2 s r r u u 0 with noTriple := true }
  | 0x51 => some (floatShape f 1 2 (modF m) w w u u 0)
  | 0x52 => some (floatShape f 1 6 (m < 2) w w u u 0)
  | 0x53 => some (floatShape f 2 2 (m % 4 = 0 && modF (m / 8 * 8)) r r u u 0)
  | 0x54 => some (floatShape f 1 4 (modF m) w w u u 0)
  | 0x55 => some (floatShape f 1 4 (modF m) w w r u 2)
  | 0x56 => some (floatShape f 5 6 (modF m) r r r r 0)
  | _ => none

/-- The SP and HN rules of R230 and R233: the spaces and orderings accepted, and whether a scope needs an
ordering. -/
def accessOk (f : Fields) (spaces ords : List Nat) (atomic : Bool) : Bool :=
  spaces.contains f.space && ords.contains f.ord && (atomic || f.ord ≠ 0 || f.scope = 0)
    && (f.space = 0 || f.ch = 0)

/-- The TG rule of loads and stores (R237). -/
def moveTag (f : Fields) : Bool :=
  f.tg.toNat ≤ 14 && (f.tg ≠ 1 || f.sz = 5) && (f.tg.toNat < 2 || f.sz ≤ 4)

/-- A 128-bit single word. -/
def Shape.long (f : Fields) : Shape := { Shape.base f with w64 := false, w128 := true }

/-- The shapes of opcodes 0x60 to 0x6D (R159). -/
def momentShapes (op : Nat) (f : Fields) : Option Shape :=
  let m := f.mod.toNat
  let u := Cls.unused
  let tagOk : Bool := f.tg = 0 || f.tg = 15 || f.tg = 16
  let sh (modOk : Bool) (d a b c : Cls) (imm : Nat) : Shape :=
    { Shape.base f with d, a, b, c, imm, w96 := imm ≠ 0, modOk, tagOk, neighValue := true }
  let addr := wide (f.space = 0)
  match op with
  | 0x60 | 0x61 | 0x63 => some (sh (modF m) .mom .mom .mom u 0)
  | 0x62 => some (sh (modF m) .mom .mom (.ord 1) u 2)
  | 0x64 => some (sh (modF m) .mom .mom .mom .mom 0)
  | 0x65 | 0x66 | 0x67 => some (sh (m = 0) .mom .mom u u 0)
  | 0x68 => some (sh (modF m) .mom (.ord 1) (.ord 1) u 2)
  | 0x69 =>
    let mode := m / 8
    some { sh (mode ≤ 4 && modF (m % 8)) (.ord 1) .mom (if mode = 3 || mode = 4 then .ord 1 else u) u
        (if mode = 3 then 2 else 0) with
      w96 := mode = 3 }
  | 0x6A => some { Shape.long f with
      d := .mom, a := addr, tagOk, neighValue := true, valueOk := accessOk f [0, 1, 2] [0, 1] false }
  | 0x6B => some { Shape.long f with
      a := addr, b := .mom, tagOk, neighValue := true, valueOk := accessOk f [0, 1, 2] [0, 2] false }
  | 0x6C => some { sh (m = 0) .mom .mom u u 0 with tagOk := f.tg = 0 }
  | 0x6D => some (sh (modF m) .mom .mom u u 0)
  | _ => none

/-- The shapes of opcodes 0x70 to 0x83 (R180, R425, R249, R252). -/
def controlShapes (op : Nat) (f : Fields) : Option Shape :=
  let m := f.mod.toNat
  let z := Shape.base f
  let imm := { z with w64 := false, w96 := true }
  match op with
  | 0x70 => some { imm with a := if m % 2 = 1 then .uni else .unused, modOk := m = 0 || m = 1 || m = 3 }
  | 0x71 => some { imm with
      d := .uni, a := if m % 2 = 0 then .ord 1 else .unused, modOk := m < 2, noTriple := true }
  | 0x72 => some { z with a := .uni }
  | 0x73 | 0x74 => some { z with a := .uni, b := if m % 2 = 0 then .ord 1 else .unused, modOk := m < 2 }
  | 0x75 => some imm
  | 0x76 => some z
  | 0x77 => some { z with a := if m % 2 = 1 then .ord 1 else .unused, modOk := m < 2 }
  | 0x78 => some { z with a := .triple }
  | 0x79 => some z
  | 0x7A => some imm
  | 0x7B => some { z with modOk := m < 2 }
  | 0x7C => some z
  | 0x7D => some { z with a := .uni }
  | 0x80 => some { z with
      a := .bar, b := if m % 2 = 1 then .ord 1 else .unused, imm := 2, w96 := m % 2 = 1
      modOk := m / 16 < 3 && m / 2 % 8 = 0, valueOk := f.len ≠ .w96 || f.imm.toNat < 128 }
  | 0x81 => some { z with modOk := m < 4 || m = 16 || m = 32 }
  | 0x82 => some { z with d := .ord 1, a := .ord 2, noTriple := true }
  | 0x83 => some { z with d := .ord 2 }
  | _ => none

/-- The shapes of opcodes 0x88 to 0x9B (R233). -/
def memoryShapes (op : Nat) (f : Fields) : Option Shape :=
  let m := f.mod.toNat
  let z := Shape.long f
  let data := sizeCls f.sz
  let plain : Bool := m % 8 = 0 && f.sz < 7
  let gath : Bool := f.sz < 7
  let r := Cls.ord 1
  let addr := wide (f.space = 0)
  let ld (spaces : List Nat) (modOk : Bool) (b : Cls) : Shape :=
    { z with d := data, a := addr, b, modOk, tagOk := moveTag f,
             valueOk := accessOk f spaces [0, 1] false, noTriple := true }
  let st (spaces : List Nat) (modOk : Bool) (b c : Cls) : Shape :=
    { z with a := addr, b, c, modOk, tagOk := moveTag f, valueOk := accessOk f spaces [0, 2] false }
  let kind := m / 16
  let kindCls : Cls := if kind = 1 then .mom else if kind = 2 then .ord 2 else r
  let kindTag : Bool := f.tg = 0 || f.tg.toNat = (if kind = 0 then 2 else if kind = 1 then 15 else 1)
  let dsp := f.imm.toNat
  let accOk : Bool :=
    dsp / 2 ^ 24 = 0 && dsp / 2 ^ 10 % 64 = 0
      && (if kind = 2 then dsp / 2 ^ 16 % 256 = 0 else dsp / 2 ^ 16 % 256 ≤ 32)
      && f.sp = 0 && f.hn = 0
  let acc := { z with modOk := kind < 3 && m % 16 = 0, tagOk := kindTag, valueOk := accOk }
  let at_ (space : Nat) : Shape :=
    let w := wide (wideTy (m % 8))
    { z with d := w, a := addr, b := w, noTriple := true
             valueOk := accessOk f [space] [0, 1, 2, 3] true
             modOk := m % 8 < 4 && (m / 8 ≠ 7 || m % 8 = 0)
             tagOk := if m / 8 = 7 then f.tg = 2 else f.tg = 0 }
  let cas (space : Nat) : Shape :=
    let w := wide (wideTy (m % 8))
    { z with d := w, a := addr, b := w, c := w, noTriple := true, modOk := m < 4
             valueOk := accessOk f [space] [0, 1, 2, 3] true }
  match op with
  | 0x88 => some (ld [0] plain .unused)
  | 0x89 => some (st [0] plain data .unused)
  | 0x8A => some (ld [1] plain .unused)
  | 0x8B => some (st [1] plain data .unused)
  | 0x8C => some (ld [2] plain .unused)
  | 0x8D => some (st [2] plain data .unused)
  | 0x8E => some (ld [0] gath r)
  | 0x8F => some (st [0] gath r data)
  | 0x90 => some (ld [1, 2] gath r)
  | 0x91 => some (st [1, 2] gath r data)
  | 0x92 => some { acc with d := kindCls, a := r, noTriple := kind ≠ 1 }
  | 0x93 => some { acc with a := r, b := kindCls }
  | 0x94 => some (at_ 0)
  | 0x95 => some (at_ 1)
  | 0x96 => some (at_ 2)
  | 0x97 => some (cas 0)
  | 0x98 => some (cas 1)
  | 0x99 => some (cas 2)
  | 0x9A => some { z with a := .ord 2, modOk := m < 2, valueOk := f.sp = 0 && f.hn = 0 }
  | 0x9B => some { z with
      a := if m = 1 then .unused else .ord 2, modOk := m < 4, valueOk := f.sp = 0 && f.hn = 0
      zeroOk := m ≠ 1 || f.imm = 0 }
  | _ => none

/-- The shapes of the matrix stream, 0xA8 to 0xAF (R258, R264); an FP64 operand names the even register of a pair (R63). -/
def streamShapes (op : Nat) (f : Fields) : Option Shape :=
  let m := f.mod.toNat
  let z := Shape.base f
  let dsp := f.imm.toNat
  let asrc := f.sp.toNat % 2 = 1
  let bsrc := f.sp.toNat / 2 % 2 = 1
  let form := m / 16
  let ns := dsp / 2 ^ 20 % 4
  match op with
  | 0xA8 => some { Shape.long f with
      d := .q, a := if asrc then .qpair else .late, b := if bsrc then .qpair else .late
      c := if form = 2 then .qpair else .unused
      e := .code true, f := .code true
      tagOk := 1 ≤ f.tg.toNat && f.tg.toNat ≤ 16, modOk := m % 16 ≠ 0
      zeroOk := f.sp.toNat < 4 && dsp / 2 ^ 22 = 0 && dsp / 2 ^ 19 % 2 = 0
      valueOk := 1 ≤ f.hn.toNat && f.hn.toNat ≤ 14 && (ns ≠ 0) = (form = 2)
        && (!(asrc && bsrc) || dsp / 2 ^ 16 % 8 = 0)
        && (f.tg ≠ 1 || ((asrc || f.a.toNat % 2 = 0) && (bsrc || f.b.toNat % 2 = 0))) }
  | 0xA9 | 0xAA => some { z with a := .bar }
  | 0xAB => some { z with
      d := .q, w64 := false, w96 := true, modOk := 1 ≤ m && m < 16
      zeroOk := dsp / 2 ^ 26 = 0, valueOk := dsp / 2 ^ 16 % 1024 ≠ 0 }
  | 0xAC => some { z with
      d := .q, modOk := m < 3, w64 := m ≠ 1, w96 := m = 1
      a := if m = 0 then .q else if m = 2 then .code (f.a.toNat < 4) else .unused }
  | 0xAD => some { z with d := .q, a := .q, b := .q, w96 := true, imm := 2 }
  | 0xAE => some { z with
      w64 := false, w96 := true, modOk := m < 3, a := if m = 0 then .unused else .q }
  | 0xAF => some z
  | _ => none

/-- The shapes of opcodes 0xB8 to 0xDB (R275, R402, R294, R417, R322, R327). -/
def engineShapes (op : Nat) (f : Fields) : Option Shape :=
  let m := f.mod.toNat
  let z := Shape.long f
  let r := Cls.ord 1
  let p := Cls.ord 2
  let u := Cls.unused
  let self : Bool := f.sp.toNat % 2 = 1
  let arr : Bool := f.hn.toNat % 2 = 1
  let ty := m % 8
  let xm := m / 8
  let dev := if self then u else r
  let arrival := if arr then p else u
  let remote : Bool := f.sp.toNat < 2 && f.hn.toNat < 2
  let putSz : Bool := m % 8 = 0 && [0, 2, 4, 5, 6].contains f.sz
  let tile := { z with d := r, modOk := true, zeroOk := f.sp = 0 && f.hn = 0, noTriple := true }
  match op with
  | 0xB8 => some { z with
      d := r, a := r, modOk := m < 2
      zeroOk := f.hn = 0 && (m ≠ 1 || f.imm = 0)
      valueOk := if m = 1 then f.sp = 0 else f.sp.toNat = 1 || f.sp.toNat = 2
      noTriple := m = 1 }
  | 0xB9 => some { tile with a := r }
  | 0xBA | 0xBB => some { tile with zeroOk := f.sp = 0 && f.hn = 0 && f.imm = 0 }
  | 0xBC => some tile
  | 0xC0 =>
    let fx := xm = 1
    let f64 : Bool := fx && f.tg = 1
    some { z with
      a := p, b := wide (if fx then f.tg = 1 else wideTy ty), c := arrival, e := dev, f := if f64 then r else u
      modOk := (xm = 0 && ty < 4) || (xm = 1 && ty = 0)
      tagOk := if fx then f.tg.toNat ≤ 4 else f.tg = 0, zeroOk := remote }
  | 0xC1 | 0xC2 => some { z with
      a := p, b := wide (wideTy ty), c := arrival, e := dev, modOk := m < 4, zeroOk := remote }
  | 0xC3 => some { z with
      a := p, b := wide (wideTy ty), c := arrival, e := dev, modOk := m = 1 || m = 3, zeroOk := remote }
  | 0xC4 => some { z with
      a := p, b := sizeCls f.sz, c := arrival, e := dev, modOk := putSz, tagOk := f.tg.toNat ≤ 14
      zeroOk := remote }
  | 0xC5 => some { z with a := p, b := r, e := dev, zeroOk := remote && !arr }
  | 0xC6 => some { z with a := p, c := arrival, e := dev, f := p, modOk := putSz, zeroOk := remote }
  | 0xC7 => some { z with
      d := r, a := p, b := sizeCls f.sz, c := arrival, e := r, f := r, modOk := putSz
      tagOk := f.tg.toNat ≤ 14, zeroOk := remote, valueOk := !self }
  | 0xC8 => some { z with
      d := wide (f.tg = 1), a := p, e := dev, tagOk := 1 ≤ f.tg.toNat && f.tg.toNat ≤ 4
      zeroOk := remote && !arr, noTriple := true }
  | 0xC9 | 0xCA => some { z with
      d := p, a := wide (!self), b := p, zeroOk := f.sp.toNat < 2 && f.hn = 0, noTriple := true }
  | 0xCB => some { z with
      d := r, a := wide (!self), b := p, zeroOk := f.sp.toNat < 2 && f.hn = 0, noTriple := true }
  | 0xD8 =>
    let sub := xm
    let modOk : Bool := match sub with
      | 0 | 1 | 7 => ty = 0
      | 5 => ty = 1 || ty = 3
      | 6 => [0, 2, 4, 5, 6].contains ty
      | _ => ty < 4
    let data : Cls := if sub = 6 then sizeCls ty else if sub = 7 then r else wide (wideTy ty)
    let base := { z with
      modOk, tagOk := if sub = 6 then f.tg.toNat ≤ 14 else f.tg = 0
      zeroOk := f.sp = 0 && f.hn.toNat < 2 && (2 ≤ sub || (f.imm = 0 && !arr)) && (sub ≠ 7 || !arr) }
    some (if sub = 0 then { base with d := r }
      else if sub = 1 then base
      else { base with a := r, b := data, c := if arr then r else u })
  | 0xD9 => some { z with
      d := sizeCls f.sz, a := r, modOk := m % 8 = 0 && f.sz < 7, tagOk := moveTag f
      valueOk := accessOk f [0] [0, 1] false && f.ch = 0, noTriple := true }
  | 0xDA => some { z with
      a := r, b := sizeCls f.sz, modOk := m % 8 = 0 && f.sz < 7, tagOk := moveTag f
      valueOk := accessOk f [0] [0, 2] false && f.ch = 0 }
  | 0xDB =>
    let sub := m / 16
    let base := { z with
      d := r, modOk := sub < 3 && m % 8 = 0 && (sub = 1 || m / 8 % 2 = 0)
      zeroOk := f.imm = 0 && f.sp = 0 && f.hn = 0, noTriple := true }
    some (match sub with
      | 0 => { base with a := p, b := r }
      | 1 => { base with a := r, b := r, c := r, e := r, f := r }
      | _ => { base with a := r, b := r, c := r, e := r })
  | _ => none

/-- The shapes of opcodes 0xE0 to 0xE7 (R378, R385, R397, R407, R104). -/
def queueShapes (op : Nat) (f : Fields) : Option Shape :=
  let m := f.mod.toNat
  let z := Shape.base f
  let r := Cls.ord 1
  match op with
  | 0xE0 => some { z with
      d := r, a := r, b := .run (m % 8 + 1), imm := 1, w96 := true, modOk := m < 8, noTriple := true }
  | 0xE1 => some { z with d := r, a := r }
  | 0xE2 => some { z with d := r, a := r }
  | 0xE3 => some { z with d := r, a := r, noTriple := true }
  | 0xE4 => some { z with d := .ord 2, a := r, modOk := m < 2, noTriple := true }
  | 0xE5 => some { z with d := r, a := r, modOk := m < 2, noTriple := true }
  | 0xE6 | 0xE7 => some { z with d := r, b := r, imm := 2, w96 := true }
  | _ => none

/-- The shape of an opcode, none where R71 assigns none. -/
def shape (op : Nat) (f : Fields) : Option Shape :=
  if op < 0x30 then intShapes op f
  else if op < 0x60 then floatShapes op f
  else if op < 0x70 then momentShapes op f
  else if op < 0x88 then controlShapes op f
  else if op < 0xA8 then memoryShapes op f
  else if op < 0xB8 then streamShapes op f
  else if op < 0xE0 then engineShapes op f
  else queueShapes op f

/-- The register ranges a word is checked against (R63): held private count, uniform window, moment
count, barrier count. -/
structure Ranges where
  h : Nat
  n : Nat
  moments : Nat
  barriers : Nat
deriving DecidableEq, Repr

/-- The widest ranges a kernel header allows (R82, R87). -/
def Ranges.widest : Ranges := { h := 192, n := 64, moments := 64, barriers := 96 }

/-- An ordinary register in the private range or the uniform window (R63). -/
def Ranges.ordinary (r : Ranges) (x : Nat) : Bool := x < r.h || (256 - r.n ≤ x && x < 256)

/-- A register field's value is reserved: an odd pair, a register outside the uniform window (R74, cause 2). -/
def Cls.valueBad (cls : Cls) (r : Ranges) (x : Nat) : Bool :=
  match cls with
  | .ord n => x % n ≠ 0
  | .uni => x < 256 - r.n
  | .triple => x < 256 - r.n || 253 < x
  | .q => 31 < x
  | .qpair => 30 < x
  | .code ok => !ok
  | _ => false

/-- The number of ordinary registers a field names. -/
def Cls.count (cls : Cls) : Nat :=
  match cls with
  | .ord n => n
  | .run n => n
  | .uni => 1
  | .triple => 3
  | _ => 0

/-- A register field lies outside the header's ranges (R74, cause 6). -/
def Cls.rangeBad (cls : Cls) (r : Ranges) (x : Nat) : Bool :=
  match cls with
  | .mom => r.moments ≤ x
  | .bar => r.barriers ≤ x
  | _ => (List.range cls.count).any (fun i => !r.ordinary (x + i))

/-- The classes of the fields D, A, B, C, E, F of one word, with the source an immediate replaces unused. -/
def Shape.classes (s : Shape) (f : Fields) : List (Cls × Nat) :=
  let gone (i : Nat) (c : Cls) : Cls := if f.len = .w96 && s.imm = i then .unused else c
  [(s.d, f.d.toNat), (gone 1 s.a, f.a.toNat), (gone 2 s.b, f.b.toNat), (gone 3 s.c, f.c.toNat),
    (s.e, f.e.toNat), (s.f, f.f.toNat)]

/-- Whether a field is a register that can be empty, and so has an empty action. -/
def Cls.hasFe (cls : Cls) : Bool :=
  match cls with
  | .ord _ | .run _ | .uni | .triple | .mom => true
  | _ => false

/-- Whether the length of the word is accepted (R72). -/
def Shape.lengthOk (s : Shape) (f : Fields) : Bool :=
  match f.len with
  | .w64 => s.w64
  | .w96 => s.w96
  | .w128 => s.w128

/-- Must-be-zero bits and unused fields (cause 1 of R74). -/
def Shape.zeroBad (s : Shape) (f : Fields) : Bool :=
  f.top ≠ 0 || f.top2 ≠ 0 || (s.lengthOk f && !s.zeroOk)
    || ((s.classes f).zip (f.fes.zip f.neighbours)).any (fun ((cls, x), fe, nb) =>
      (cls = .unused && x ≠ 0) || (!cls.hasFe && fe)
        || (nb ≠ 0 && !s.neighValue && (!cls.hasFe || !s.neigh)))

/-- Reserved field values (cause 2 of R74). -/
def Shape.valuesBad (s : Shape) (r : Ranges) (f : Fields) : Bool :=
  !s.tagOk || !s.modOk || (s.lengthOk f && !s.valueOk)
    || f.na = 3 || f.nb = 3 || (s.neighValue && (f.na ≠ 0 || f.nb ≠ 0))
    || (s.classes f).any (fun (cls, x) => cls.valueBad r x)
    || (s.noTriple && 253 ≤ f.d.toNat + s.d.count - 1 && s.d ≠ .mom)

/-- The cause of a reserved single operation, the lowest that holds, or none (R74). `stream` reads the word
for a sequencer, where the stream opcodes are valid. -/
def causeOf (r : Ranges) (stream : Bool) (op : Nat) (f : Fields) : Option Nat :=
  match shape op f with
  | none => some 0
  | some s =>
    if s.zeroBad f then some 1
    else if s.valuesBad r f then some 2
    else if !s.lengthOk f then some 3
    else if !stream && 0xA8 ≤ op && op < 0xB8 then some 5
    else if (s.classes f).any (fun (cls, x) => cls.rangeBad r x) then some 6
    else none

/-- The registers of one operation: reads with their empty actions, and writes. `moment` marks moment
registers. -/
structure Named where
  moment : Bool
  reg : Nat
  fe : Bool
deriving DecidableEq, Repr

/-- The registers a field names. -/
def namedBy (cls : Cls) (x : Nat) (fe : Bool) : List Named :=
  match cls with
  | .mom => [{ moment := true, reg := x, fe }]
  | _ => (List.range cls.count).map (fun i => { moment := false, reg := x + i, fe })

/-- The registers an operation reads (R61). -/
def readsOf (op : Nat) (f : Fields) : List Named :=
  match shape op f with
  | none => []
  | some s => (((s.classes f).zip f.fes).drop 1).flatMap (fun ((cls, x), fe) => namedBy cls x fe)

/-- The registers an operation writes (R92). -/
def writesOf (op : Nat) (f : Fields) : List Named :=
  match shape op f with
  | none => []
  | some s => namedBy s.d f.d.toNat false

/-- The opcodes that a pair word may hold (R69). -/
def pairable (op : Nat) : Bool :=
  op < 0x60 && !([0x24, 0x25, 0x26, 0x27, 0x28, 0x29, 0x2A, 0x2B, 0x2C, 0x2D, 0x51, 0x52, 0x53].contains op)

/-- The opcodes that use a special-function unit (R69). -/
def isSfu (op : Nat) : Bool :=
  op = 0x09 || op = 0x0A || op = 0x3E || op = 0x3F || (0x48 ≤ op && op ≤ 0x50)

/-- Conditions 1 to 4 of R69 for two operations that are valid on their own. A register that an operation names in two source
fields counts once for each field (DEDUCED, log 18). -/
def pairOk (x y : PairOp) : Bool :=
  let dx := (writesOf x.op.toNat x.f).map (·.reg)
  let dy := (writesOf y.op.toNat y.f).map (·.reg)
  let sx := (readsOf x.op.toNat x.f).map (·.reg)
  let sy := (readsOf y.op.toNat y.f).map (·.reg)
  let reads := sx ++ sy
  pairable x.op.toNat && pairable y.op.toNat && !(isSfu x.op.toNat && isSfu y.op.toNat)
    && dx.all (fun i => dy.all (fun j => i % 4 ≠ j % 4))
    && reads.length ≤ 4 && [0, 1, 2, 3].all (fun k => (reads.filter (fun i => i % 4 = k)).length ≤ 2)
    && sy.all (fun i => !dx.contains i)

end Sys2Proof.Machine
end

