-- ==== Sys2Proof/Machine/OpTable.lean ====
section
/-! DEFINITION. The opcode map (R71): the instruction of an opcode and its fields, and back. -/

namespace Sys2Proof.Machine

/-- The instruction of an opcode and its fields; forms of one opcode are told apart by MOD (R71). -/
def instrOf (op : Nat) (f : Fields) : Option Instr :=
  match op with
  | 0x00 => some (.nop f)
  | 0x01 => some (.mov f)
  | 0x02 => some (.sel f)
  | 0x03 => some (.iadd f)
  | 0x04 => some (.isub f)
  | 0x05 => some (.imul f)
  | 0x06 => some (.imulh f)
  | 0x07 => some (.imad f)
  | 0x08 => some (.imadw f)
  | 0x09 => some (.idiv f)
  | 0x0A => some (.irem f)
  | 0x0B => some (.iabs f)
  | 0x0C => some (.imin f)
  | 0x0D => some (.imax f)
  | 0x0E => some (.iaddc f)
  | 0x0F => some (.iadds f)
  | 0x10 => some (.icmp f)
  | 0x11 => some (.and f)
  | 0x12 => some (.or f)
  | 0x13 => some (.xor f)
  | 0x14 => some (.andn f)
  | 0x15 => some (.shl f)
  | 0x16 => some (.shr f)
  | 0x17 => some (.sar f)
  | 0x18 => some (.rot f)
  | 0x19 => some (.bfe f)
  | 0x1A => some (.bfi f)
  | 0x1B => some (.popc f)
  | 0x1C => some (.clz f)
  | 0x1D => some (.brev f)
  | 0x1E => some (.ffs f)
  | 0x1F => some (.lea f)
  | 0x20 => some (.add64 f)
  | 0x21 => some (.cmp64 f)
  | 0x22 => some (.cvti f)
  | 0x23 => some (.bymix f)
  | 0x24 => some (.vote f)
  | 0x25 => some (.ballot f)
  | 0x26 => some (.match_ f)
  | 0x27 => some (.redi f)
  | 0x28 => some (.scani f)
  | 0x29 => some (.shfl f)
  | 0x2A => some (.bcast f)
  | 0x2B => some (.isect f)
  | 0x2C => some (.rdcr f)
  | 0x2D => some (.wrcr f)
  | 0x30 => some (.fadd f)
  | 0x31 => some (.fsub f)
  | 0x32 => some (.fmul f)
  | 0x33 => some (.ffma f)
  | 0x34 => some (.fmin f)
  | 0x35 => some (.fmax f)
  | 0x36 => some (.fcmp f)
  | 0x37 => some (.fclass f)
  | 0x38 => some (.pkadd f)
  | 0x39 => some (.pkmul f)
  | 0x3A => some (.pkfma f)
  | 0x3B => some (.pkmin f)
  | 0x3C => some (.pkmax f)
  | 0x3D => some (.pkcmp f)
  | 0x3E => some (.fdiv f)
  | 0x3F => some (.fsqrt f)
  | 0x40 => some (.cvtf f)
  | 0x41 => some (.cvtfi f)
  | 0x42 => some (.cvtif f)
  | 0x43 => some (.fpack f)
  | 0x44 => some (.funpack f)
  | 0x45 => some (.blkq f)
  | 0x46 => some (.blkdq f)
  | 0x47 => some (.blkex f)
  | 0x48 => some (.frcp f)
  | 0x49 => some (.frsq f)
  | 0x4A => some (.fexp2 f)
  | 0x4B => some (.flog2 f)
  | 0x4C => some (.fsin f)
  | 0x4D => some (.fcos f)
  | 0x4E => some (.ftanh f)
  | 0x4F => some (.fsigm f)
  | 0x50 => some (.ferf f)
  | 0x51 => some (.freda f)
  | 0x52 => some (.fredm f)
  | 0x53 => some (.fscan f)
  | 0x54 => some (.frnd f)
  | 0x55 => some (.fscl f)
  | 0x56 => some (.fdot4 f)
  | 0x60 => some (.madd f)
  | 0x61 => some (.msub f)
  | 0x62 => some (.mscl f)
  | 0x63 => some (.mmul f)
  | 0x64 => some (.mfma f)
  | 0x65 => some (.mrelu f)
  | 0x66 => some (.msigm f)
  | 0x67 => some (.mexp f)
  | 0x68 => some (.mset f)
  | 0x69 => some (.mcoll f)
  | 0x6A => some (.mld f)
  | 0x6B => some (.mst f)
  | 0x6C => some (.mmov f)
  | 0x6D => some (.mcvt f)
  | 0x70 => some (.bra f)
  | 0x71 => match f.mod.toNat % 2 with
    | 0 => some (.brc f)
    | _ => some (.brcLoop f)
  | 0x72 => some (.join f)
  | 0x73 => some (.brk f)
  | 0x74 => some (.cont f)
  | 0x75 => some (.call f)
  | 0x76 => some (.ret f)
  | 0x77 => some (.exit f)
  | 0x78 => some (.kill f)
  | 0x79 => some (.yield f)
  | 0x7A => some (.trap f)
  | 0x7B => some (.emret f)
  | 0x7C => some (.bkpt f)
  | 0x7D => some (.brx f)
  | 0x80 => match f.mod.toNat / 16 with
    | 0 => some (.barArrive f)
    | 1 => some (.barWait f)
    | _ => some (.barSync f)
  | 0x81 => match f.mod.toNat / 16 with
    | 0 => some (.fence f)
    | 1 => some (.fenceOpr f)
    | _ => some (.fenceQ f)
  | 0x82 => some (.promote f)
  | 0x83 => some (.rdclk f)
  | 0x88 => some (.ld f)
  | 0x89 => some (.st f)
  | 0x8A => some (.lds f)
  | 0x8B => some (.sts f)
  | 0x8C => some (.ldc f)
  | 0x8D => some (.stc f)
  | 0x8E => some (.gath f)
  | 0x8F => some (.scat f)
  | 0x90 => some (.gaths f)
  | 0x91 => some (.scats f)
  | 0x92 => some (.ldacc f)
  | 0x93 => some (.stacc f)
  | 0x94 => some (.atom f)
  | 0x95 => some (.atoms f)
  | 0x96 => some (.atomc f)
  | 0x97 => some (.cas f)
  | 0x98 => some (.cass f)
  | 0x99 => some (.casc f)
  | 0x9A => some (.pref f)
  | 0x9B => some (.lineop f)
  | 0xA8 => match f.mod.toNat / 16 with
    | 0 => some (.mma f)
    | 1 => some (.mmaBc f)
    | 2 => some (.mmaS f)
    | _ => some (.mmaM f)
  | 0xA9 => some (.mwait f)
  | 0xAA => some (.marrive f)
  | 0xAB => some (.mzero f)
  | 0xAC => some (.qmov f)
  | 0xAD => some (.qadd f)
  | 0xAE => some (.qbra f)
  | 0xAF => some (.mend f)
  | 0xB8 => match f.mod.toNat % 2 with
    | 0 => some (.tcpKick f)
    | _ => some (.tcpCancel f)
  | 0xB9 => some (.tiledef f)
  | 0xBA => some (.tilerel f)
  | 0xBB => some (.tilest f)
  | 0xBC => some (.tiledrn f)
  | 0xC0 => match f.mod.toNat / 8 with
    | 0 => some (.radd f)
    | _ => some (.raddFx f)
  | 0xC1 => some (.rmin f)
  | 0xC2 => some (.rmax f)
  | 0xC3 => some (.ror f)
  | 0xC4 => some (.rput1 f)
  | 0xC5 => some (.rarr f)
  | 0xC6 => some (.rget f)
  | 0xC7 => some (.mcast1 f)
  | 0xC8 => some (.raccCvt f)
  | 0xC9 => some (.arrwait f)
  | 0xCA => some (.arrset f)
  | 0xCB => some (.arrtest f)
  | 0xD8 => match f.mod.toNat / 8 with
    | 0 => some (.cwinAttach f)
    | 1 => some (.cwinDetach f)
    | 2 => some (.cwinAdd f)
    | 3 => some (.cwinMin f)
    | 4 => some (.cwinMax f)
    | 5 => some (.cwinOr f)
    | 6 => some (.cwinPut1 f)
    | _ => some (.cwinArr f)
  | 0xD9 => some (.cwld f)
  | 0xDA => some (.cwst f)
  | 0xDB => match f.mod.toNat / 16 with
    | 0 => some (.stepCfg f)
    | 1 => some (.stepProbe f)
    | _ => some (.stepStore f)
  | 0xE0 => some (.nrec f)
  | 0xE1 => some (.coll f)
  | 0xE2 => some (.ftest f)
  | 0xE3 => some (.fcancel f)
  | 0xE4 => some (.fread f)
  | 0xE5 => match f.mod.toNat % 2 with
    | 0 => some (.grpJoin f)
    | _ => some (.grpLeave f)
  | 0xE6 => some (.regclaim f)
  | 0xE7 => some (.regsurr f)
  | _ => none

/-- The opcode and fields of a single-word instruction; none for other rows. -/
def opOf : Instr → Option (Nat × Fields)
  | .nop f => some (0x00, f)
  | .mov f => some (0x01, f)
  | .sel f => some (0x02, f)
  | .iadd f => some (0x03, f)
  | .isub f => some (0x04, f)
  | .imul f => some (0x05, f)
  | .imulh f => some (0x06, f)
  | .imad f => some (0x07, f)
  | .imadw f => some (0x08, f)
  | .idiv f => some (0x09, f)
  | .irem f => some (0x0A, f)
  | .iabs f => some (0x0B, f)
  | .imin f => some (0x0C, f)
  | .imax f => some (0x0D, f)
  | .iaddc f => some (0x0E, f)
  | .iadds f => some (0x0F, f)
  | .icmp f => some (0x10, f)
  | .and f => some (0x11, f)
  | .or f => some (0x12, f)
  | .xor f => some (0x13, f)
  | .andn f => some (0x14, f)
  | .shl f => some (0x15, f)
  | .shr f => some (0x16, f)
  | .sar f => some (0x17, f)
  | .rot f => some (0x18, f)
  | .bfe f => some (0x19, f)
  | .bfi f => some (0x1A, f)
  | .popc f => some (0x1B, f)
  | .clz f => some (0x1C, f)
  | .brev f => some (0x1D, f)
  | .ffs f => some (0x1E, f)
  | .lea f => some (0x1F, f)
  | .add64 f => some (0x20, f)
  | .cmp64 f => some (0x21, f)
  | .cvti f => some (0x22, f)
  | .bymix f => some (0x23, f)
  | .vote f => some (0x24, f)
  | .ballot f => some (0x25, f)
  | .match_ f => some (0x26, f)
  | .redi f => some (0x27, f)
  | .scani f => some (0x28, f)
  | .shfl f => some (0x29, f)
  | .bcast f => some (0x2A, f)
  | .isect f => some (0x2B, f)
  | .rdcr f => some (0x2C, f)
  | .wrcr f => some (0x2D, f)
  | .fadd f => some (0x30, f)
  | .fsub f => some (0x31, f)
  | .fmul f => some (0x32, f)
  | .ffma f => some (0x33, f)
  | .fmin f => some (0x34, f)
  | .fmax f => some (0x35, f)
  | .fcmp f => some (0x36, f)
  | .fclass f => some (0x37, f)
  | .pkadd f => some (0x38, f)
  | .pkmul f => some (0x39, f)
  | .pkfma f => some (0x3A, f)
  | .pkmin f => some (0x3B, f)
  | .pkmax f => some (0x3C, f)
  | .pkcmp f => some (0x3D, f)
  | .fdiv f => some (0x3E, f)
  | .fsqrt f => some (0x3F, f)
  | .cvtf f => some (0x40, f)
  | .cvtfi f => some (0x41, f)
  | .cvtif f => some (0x42, f)
  | .fpack f => some (0x43, f)
  | .funpack f => some (0x44, f)
  | .blkq f => some (0x45, f)
  | .blkdq f => some (0x46, f)
  | .blkex f => some (0x47, f)
  | .frcp f => some (0x48, f)
  | .frsq f => some (0x49, f)
  | .fexp2 f => some (0x4A, f)
  | .flog2 f => some (0x4B, f)
  | .fsin f => some (0x4C, f)
  | .fcos f => some (0x4D, f)
  | .ftanh f => some (0x4E, f)
  | .fsigm f => some (0x4F, f)
  | .ferf f => some (0x50, f)
  | .freda f => some (0x51, f)
  | .fredm f => some (0x52, f)
  | .fscan f => some (0x53, f)
  | .frnd f => some (0x54, f)
  | .fscl f => some (0x55, f)
  | .fdot4 f => some (0x56, f)
  | .madd f => some (0x60, f)
  | .msub f => some (0x61, f)
  | .mscl f => some (0x62, f)
  | .mmul f => some (0x63, f)
  | .mfma f => some (0x64, f)
  | .mrelu f => some (0x65, f)
  | .msigm f => some (0x66, f)
  | .mexp f => some (0x67, f)
  | .mset f => some (0x68, f)
  | .mcoll f => some (0x69, f)
  | .mld f => some (0x6A, f)
  | .mst f => some (0x6B, f)
  | .mmov f => some (0x6C, f)
  | .mcvt f => some (0x6D, f)
  | .bra f => some (0x70, f)
  | .brc f => some (0x71, f)
  | .brcLoop f => some (0x71, f)
  | .join f => some (0x72, f)
  | .brk f => some (0x73, f)
  | .cont f => some (0x74, f)
  | .call f => some (0x75, f)
  | .ret f => some (0x76, f)
  | .exit f => some (0x77, f)
  | .kill f => some (0x78, f)
  | .yield f => some (0x79, f)
  | .trap f => some (0x7A, f)
  | .emret f => some (0x7B, f)
  | .bkpt f => some (0x7C, f)
  | .brx f => some (0x7D, f)
  | .barArrive f => some (0x80, f)
  | .barWait f => some (0x80, f)
  | .barSync f => some (0x80, f)
  | .fence f => some (0x81, f)
  | .fenceOpr f => some (0x81, f)
  | .fenceQ f => some (0x81, f)
  | .promote f => some (0x82, f)
  | .rdclk f => some (0x83, f)
  | .ld f => some (0x88, f)
  | .st f => some (0x89, f)
  | .lds f => some (0x8A, f)
  | .sts f => some (0x8B, f)
  | .ldc f => some (0x8C, f)
  | .stc f => some (0x8D, f)
  | .gath f => some (0x8E, f)
  | .scat f => some (0x8F, f)
  | .gaths f => some (0x90, f)
  | .scats f => some (0x91, f)
  | .ldacc f => some (0x92, f)
  | .stacc f => some (0x93, f)
  | .atom f => some (0x94, f)
  | .atoms f => some (0x95, f)
  | .atomc f => some (0x96, f)
  | .cas f => some (0x97, f)
  | .cass f => some (0x98, f)
  | .casc f => some (0x99, f)
  | .pref f => some (0x9A, f)
  | .lineop f => some (0x9B, f)
  | .mma f => some (0xA8, f)
  | .mmaBc f => some (0xA8, f)
  | .mmaS f => some (0xA8, f)
  | .mmaM f => some (0xA8, f)
  | .mwait f => some (0xA9, f)
  | .marrive f => some (0xAA, f)
  | .mzero f => some (0xAB, f)
  | .qmov f => some (0xAC, f)
  | .qadd f => some (0xAD, f)
  | .qbra f => some (0xAE, f)
  | .mend f => some (0xAF, f)
  | .tcpKick f => some (0xB8, f)
  | .tcpCancel f => some (0xB8, f)
  | .tiledef f => some (0xB9, f)
  | .tilerel f => some (0xBA, f)
  | .tilest f => some (0xBB, f)
  | .tiledrn f => some (0xBC, f)
  | .radd f => some (0xC0, f)
  | .raddFx f => some (0xC0, f)
  | .rmin f => some (0xC1, f)
  | .rmax f => some (0xC2, f)
  | .ror f => some (0xC3, f)
  | .rput1 f => some (0xC4, f)
  | .rarr f => some (0xC5, f)
  | .rget f => some (0xC6, f)
  | .mcast1 f => some (0xC7, f)
  | .raccCvt f => some (0xC8, f)
  | .arrwait f => some (0xC9, f)
  | .arrset f => some (0xCA, f)
  | .arrtest f => some (0xCB, f)
  | .cwinAttach f => some (0xD8, f)
  | .cwinDetach f => some (0xD8, f)
  | .cwinAdd f => some (0xD8, f)
  | .cwinMin f => some (0xD8, f)
  | .cwinMax f => some (0xD8, f)
  | .cwinOr f => some (0xD8, f)
  | .cwinPut1 f => some (0xD8, f)
  | .cwinArr f => some (0xD8, f)
  | .cwld f => some (0xD9, f)
  | .cwst f => some (0xDA, f)
  | .stepCfg f => some (0xDB, f)
  | .stepProbe f => some (0xDB, f)
  | .stepStore f => some (0xDB, f)
  | .nrec f => some (0xE0, f)
  | .coll f => some (0xE1, f)
  | .ftest f => some (0xE2, f)
  | .fcancel f => some (0xE3, f)
  | .fread f => some (0xE4, f)
  | .grpJoin f => some (0xE5, f)
  | .grpLeave f => some (0xE5, f)
  | .regclaim f => some (0xE6, f)
  | .regsurr f => some (0xE7, f)
  | _ => none

/-- The opcode and fields of a word whose constructor is known, for its shared checks. -/
def opcodeOf (i : Instr) : Nat := ((opOf i).map Prod.fst).getD 0

end Sys2Proof.Machine
end

