-- ==== Sys2Proof/WellFormed.lean ====
section
/-! DEFINITION. Well-formed instructions: those an encoding exists for, under given register ranges; and
events that name parts the device has. -/

namespace Sys2Proof

open Machine

/-- Fields that the word's length does not hold are zero (R60, R66, R67). -/
def Fields.canonical (f : Fields) : Bool :=
  match f.len with
  | .w64 => f.imm = 0 && f.e = 0 && f.f = 0 && f.sp = 0 && f.hn = 0 && f.fx = 0 && f.top2 = 0
  | .w96 => f.e = 0 && f.f = 0 && f.sp = 0 && f.hn = 0 && f.fx = 0 && f.top2 = 0
  | .w128 => true

/-- An operation that is no reserved encoding (R74). -/
def validOp (r : Ranges) (op : Nat) (f : Fields) : Bool :=
  f.canonical && (causeOf r (0xA8 ≤ op && op < 0xB0) op f).isNone

/-- One operation of a pair word is a valid 64-bit encoding (R69, 5). -/
def validPairOp (r : Ranges) (x : PairOp) : Bool :=
  x.f.len = .w64 && validOp r x.op.toNat x.f

/-- Parts of the device (R5, R7). -/
def CoreId.valid (c : CoreId) : Bool := c.die < 4 && c.core < 48

/-- A well-formed instruction or event. -/
def WellFormed (r : Ranges) (i : Instr) : Bool :=
  match opOf i with
  | some (op, f) => validOp r op f && instrOf op f = some i
  | none =>
    match i with
    | .pairWord x y => validPairOp r x && validPairOp r y && pairOk x y
    | .reservedEncoding .. => false
    | .resume c | .escalate c | .halt c | .stoptime c | .remoteSend c | .enterL1 c => c.valid
    | .chorusIndexGrant _ die n => die < 4 && 1 ≤ n && n ≤ 32
    | .dieLost die | .missrecRead die | .tlbinvAll die | .tlbinvComplete die | .dispatcherPlacement die _
    | .candidateStarved die | .contentionWindow die | .energyClassAging die => die < 4
    | .pageWalkComplete die ctx _ | .tlbinvContext die ctx | .tlbinvPage die ctx _
    | .eventCounterRead die ctx _ => die < 4 && ctx < 16
    | .arbitrationWindowClose die slice _ => die < 4 && slice < 64
    | .quantumExpiry die cluster => die < 4 && cluster < 12
    | .retransmit _ _ lane _ | .unreachDeadline _ _ lane _ => lane < 96
    | .linkDown port => port < 32
    | .peerLost dev => dev < 512
    | .activate ctx | .polite ctx | .forced ctx | .deactivate ctx | .ctxResume ctx | .drainExpiry ctx => ctx < 16
    | .qdoor q _ | .launchTake q => q < 64
    | _ => true

end Sys2Proof
end

