-- ==== Sys2Proof/Decode.lean ====
section
/-! DEFINITION. Instruction words (R58 to R70): from bits to instructions, and back. -/

namespace Sys2Proof

open Machine

/-- The bits [k + n - 1 : k] of a word. -/
def bitsAt (n k w : Nat) : BitVec n := BitVec.ofNat n (w / 2 ^ k)

/-- The fields of the 64-bit layout (R60). -/
def layout64 (w : Nat) : Fields :=
  { top := bitsAt 4 60 w, tg := bitsAt 5 55 w, nb := bitsAt 2 53 w, na := bitsAt 2 51 w
    fe := bitsAt 3 48 w, c := bitsAt 8 40 w, b := bitsAt 8 32 w, a := bitsAt 8 24 w
    d := bitsAt 8 16 w, mod := bitsAt 6 10 w }

/-- The fields of a word with an immediate (R66). -/
def layout96 (w : Nat) : Fields := { layout64 w with len := .w96, imm := bitsAt 32 64 w }

/-- The fields of a 128-bit single word (R67). -/
def layout128 (w : Nat) : Fields :=
  { layout64 w with
    len := .w128, imm := bitsAt 32 64 w, e := bitsAt 8 96 w, f := bitsAt 8 104 w
    sp := bitsAt 4 112 w, hn := bitsAt 4 116 w, fx := bitsAt 2 120 w, top2 := bitsAt 6 122 w }

/-- OP (R60). -/
def opAt (w : Nat) : Nat := w / 4 % 256

/-- The length in bytes that a word's length code gives (R58). -/
def lengthOf (w : Nat) : Nat :=
  match w % 4 with
  | 0 => 8
  | 1 => 12
  | _ => 16

/-- The length in bytes of a single word. -/
def Len.bytes (l : Len) : Nat :=
  match l with
  | .w64 => 8
  | .w96 => 12
  | .w128 => 16

/-- A single operation, or the reserved encoding it is (R74, R76). -/
def decodeSingle (r : Ranges) (op : Nat) (f : Fields) : Instr :=
  let reserved (cause : Nat) : Instr := .reservedEncoding cause f.len.bytes (BitVec.ofNat 8 op) f false false
  match causeOf r false op f with
  | some cause => reserved cause
  | none => (instrOf op f).getD (reserved 0)

/-- The cause that one operation of a pair word has by itself: an opcode that is not pairable does not accept the length
code 0b11 (R72, cause 3 of R74). -/
def pairCause (r : Ranges) (x : PairOp) : Option Nat :=
  match causeOf r false x.op.toNat x.f with
  | some c => some (if pairable x.op.toNat then c else min c 3)
  | none => if pairable x.op.toNat then none else some 3

/-- A pair word (R68, R69). The lowest cause that holds is reported, and the operation that fails its own
check is presented, else the first; IMM holds word bits [95:64], which emimm receives (R76). DEDUCED (log 18): an
operation fails its own check when it has a cause by itself, an opcode that is not pairable included; when both fail,
the first is presented. Of the operation that is presented emmod receives the fields of its own 64-bit layout, whose bits
[63:60] are word bits [127:124] in the second operation. -/
def decodePair (r : Ranges) (w : Nat) : Instr :=
  let x : PairOp := { op := BitVec.ofNat 8 (opAt w), f := layout64 w }
  let y : PairOp := { op := BitVec.ofNat 8 (opAt (w / 2 ^ 64)), f := layout64 (w / 2 ^ 64) }
  let cx := pairCause r x
  let cy := pairCause r y
  let bits : Option Nat := if w / 2 ^ 64 % 4 = 0 then none else some 1
  let ok : Option Nat := if cx.isNone && cy.isNone && pairOk x y then none else some 4
  match [cx, cy, bits, ok].filterMap id with
  | [] => .pairWord x y
  | c :: cs =>
    let z := if cx.isNone && cy.isSome then y else x
    .reservedEncoding (cs.foldl min c) 16 z.op { z.f with imm := bitsAt 32 64 w } true (cx.isNone && cy.isSome)

/-- The instruction of a word that a clutch meets, its bits above its length ignored (R58). -/
def decodeWord (r : Ranges) (w : Nat) : Instr :=
  match w % 4 with
  | 0 => decodeSingle r (opAt w) (layout64 w)
  | 1 => decodeSingle r (opAt w) (layout96 w)
  | 2 => decodeSingle r (opAt w) (layout128 w)
  | _ => decodePair r w

/-- The instruction of a word that a matrix sequencer meets; none ends the launch with STREAMOP (R73, R256). -/
def decodeStream (r : Ranges) (w : Nat) : Option Instr :=
  let one (f : Fields) : Option Instr :=
    let op := opAt w
    if 0xA8 ≤ op ∧ op < 0xB0 then
      match causeOf r true op f with
      | some _ => none
      | none => instrOf op f
    else none
  match w % 4 with
  | 0 => one (layout64 w)
  | 1 => one (layout96 w)
  | 2 => one (layout128 w)
  | _ => none

/-- The little-endian number of some bytes (R1). -/
def natOf : List Byte → Nat
  | [] => 0
  | b :: rest => b.toNat + 256 * natOf rest

/-- The `n` bytes of a number, the least significant first (R1). -/
def bytesOf : Nat → Nat → List Byte
  | 0, _ => []
  | n + 1, w => BitVec.ofNat 8 w :: bytesOf n (w / 256)

/-- Why a run of bytes holds no word. -/
inductive DecodeError where
  /-- fewer bytes than the length code asks for -/
  | truncated
  /-- no word of a matrix stream (R73) -/
  | streamOp
deriving DecidableEq, Repr

/-- The instruction at the head of some bytes, and the bytes after it: total, and a reserved encoding is
returned with its cause. -/
def decodeBytes (r : Ranges) (bs : List Byte) : Except DecodeError (Instr × List Byte) :=
  let n := lengthOf (natOf (bs.take 1))
  if bs.length < n ∨ bs.isEmpty then .error .truncated
  else .ok (decodeWord r (natOf (bs.take n)), bs.drop n)

/-- The same for a matrix sequencer. -/
def decodeStreamBytes (r : Ranges) (bs : List Byte) : Except DecodeError (Instr × List Byte) :=
  let n := lengthOf (natOf (bs.take 1))
  if bs.length < n ∨ bs.isEmpty then .error .truncated
  else match decodeStream r (natOf (bs.take n)) with
    | some i => .ok (i, bs.drop n)
    | none => .error .streamOp

/-- The 62 bits of an operation above the length code (R60, R68). -/
def encode64 (op : Nat) (f : Fields) : Nat :=
  4 * op + 2 ^ 10 * f.mod.toNat + 2 ^ 16 * f.d.toNat + 2 ^ 24 * f.a.toNat + 2 ^ 32 * f.b.toNat
    + 2 ^ 40 * f.c.toNat + 2 ^ 48 * f.fe.toNat + 2 ^ 51 * f.na.toNat + 2 ^ 53 * f.nb.toNat
    + 2 ^ 55 * f.tg.toNat + 2 ^ 60 * f.top.toNat

/-- The word of a single operation (R60, R66, R67). -/
def encodeSingle (op : Nat) (f : Fields) : Nat :=
  match f.len with
  | .w64 => encode64 op f
  | .w96 => 1 + encode64 op f + 2 ^ 64 * f.imm.toNat
  | .w128 => 2 + encode64 op f + 2 ^ 64 * f.imm.toNat + 2 ^ 96 * f.e.toNat + 2 ^ 104 * f.f.toNat
      + 2 ^ 112 * f.sp.toNat + 2 ^ 116 * f.hn.toNat + 2 ^ 120 * f.fx.toNat + 2 ^ 122 * f.top2.toNat

/-- The word of a well-formed instruction; rows that are no words have none. -/
def encodeWord (i : Instr) : Option Nat :=
  match opOf i with
  | some (op, f) => some (encodeSingle op f)
  | none =>
    match i with
    | .pairWord x y => some (3 + encode64 x.op.toNat x.f + 2 ^ 64 * encode64 y.op.toNat y.f)
    | _ => none

/-- The bytes of a well-formed instruction, from the lowest address (R58). -/
def encode (i : Instr) : List Byte :=
  match encodeWord i with
  | some w => bytesOf (lengthOf w) w
  | none => []

/-- The instruction the decoder reads from a word of spec/opcode_table.json: a stream opcode as a
sequencer reads it, any other as a clutch does, under the widest register ranges. -/
def decodeTableWord (nbits w : Nat) : Option Instr :=
  let w := w % 2 ^ nbits
  if 0xA8 ≤ opAt w ∧ opAt w < 0xB0 then decodeStream .widest w else some (decodeWord .widest w)

end Sys2Proof
end

