-- ==== Sys2Proof/Config.lean ====
section
/-! DEFINITION. What an implementation fixes, and the free values: constants without a body, of which
nothing can be proved (R4; log 4). -/

namespace Sys2Proof.Config

/-- The word an undefined register word holds, one for each use (R4): applied to the state's tick, the
register and the lane. -/
opaque freeWord : Nat → Nat → Nat → Word

/-- An undefined byte (R4, R300, R390): applied to the tick and the byte's place. -/
opaque freeByte : Nat → Nat → Byte

/-- A choice that the manual leaves to the implementation, taken at a tick. -/
opaque freeBool : Nat → Bool

/-- A number that the manual leaves to the implementation, taken at a tick. -/
opaque freeNat : Nat → Nat

/-- Which parts of a stopped transfer have been performed (R286, R287): tick and part. -/
opaque freePick : Nat → Nat → Bool

/-- The share weight of a tenant key index in the pacing configuration, at a tick (R310: system software sets it, at any time;
the manual places it in no register). -/
opaque pacingShare : Nat → Nat → Nat

/-- The rate that a device's home memory absorbs, in units of 256 bytes for each microsecond (R310). -/
opaque absorbRate : Nat

/-- The bytes of the save area that a saved chorus takes (R369: the manual gives the save area no layout), by its shape:
clutches, registers, moment registers, accumulator rows, scratchpad bytes, volatile registers. -/
opaque saveBytes : List Nat → Nat

/-- A sensor reading of the module (R438): reading number and tick. -/
opaque sensor : Nat → Nat → Word

/-- A byte of the signature that ATTEST returns over 128 bytes, with the device identity key (R441): tick and byte number. -/
opaque signature : List Byte → Nat → Nat → Byte

/-- The SHA3-256 digest of some bytes (R441: the manual names the function and gives no definition of it). -/
opaque digest : List Byte → BitVec 256

/-- The image of firmware that a slot holds before any UPDATE (R441). -/
opaque firmware : Nat → List Byte

/-- The cycle count that a die has reached when boot is complete: each leaves reset at its own time (R194). -/
opaque bootCycles : Nat → Nat → DWord

/-- Whether the bytes of a signed image verify under the fused key (R441). -/
opaque imageVerifies : List Byte → Bool

/-- The version that an image of firmware carries (R441). -/
opaque imageVersion : List Byte → Nat

/-- The fused test data of a die: usable cores and slices (R414). -/
opaque fusedCores : Nat → BitVec 48
opaque fusedSlices : Nat → BitVec 64

/-- Which usable slice serves the lines of an unusable one, by die and slice, counted among the usable ones (R414). -/
opaque spareSlice : Nat → Nat → Nat

/-- The device's number in its pod (R442). -/
opaque deviceNumber : Nat

/-- Whether the pod has a device of some number besides this one (R361, check 3: the manual gives no register for it). -/
opaque podHas : Nat → Bool

/-- One less than the entries of a clutch's memory queue (R253: the manual gives no size). -/
opaque memoryQueue : Nat

/-- The schedule of a machine whose agenda holds no turn: any turn whatever, at each tick (log 1). -/
opaque nextTurn : Nat → Turn

/-- The 16-bit code of a kind of logged event (R440: the manual numbers none). -/
opaque eventCode : Nat → Nat

end Sys2Proof.Config
end

