-- ==== Sys2Proof/Machine/Store.lean ====
section
/-! DEFINITION. Sparse stores in one canonical form: a list of key and value pairs with strictly rising
keys and no entry equal to the default an unlisted key reads as. Lane vectors. -/

namespace Sys2Proof.Machine

/-- A sparse store of values under number keys. -/
abbrev Store (α : Type) := List (Nat × α)

/-- The value under a key; an unlisted key reads as `d`. -/
def Store.get {α : Type} (d : α) : Store α → Nat → α
  | [], _ => d
  | (k, v) :: rest, i => if k = i then v else Store.get d rest i

/-- Remove a key. -/
def Store.erase {α : Type} : Store α → Nat → Store α
  | [], _ => []
  | (k, v) :: rest, i => if k = i then Store.erase rest i else (k, v) :: Store.erase rest i

/-- Insert a key in rising order, replacing its value. -/
def Store.insert {α : Type} : Store α → Nat → α → Store α
  | [], i, x => [(i, x)]
  | (k, v) :: rest, i, x =>
    if i < k then (i, x) :: (k, v) :: rest
    else if k = i then (i, x) :: rest
    else (k, v) :: Store.insert rest i x

/-- Set the value under a key; setting the default removes the entry. -/
def Store.set {α : Type} [DecidableEq α] (d : α) (m : Store α) (i : Nat) (x : α) : Store α :=
  if x = d then Store.erase m i else Store.insert m i x

/-- Change the value under a key. -/
def Store.modify {α : Type} [DecidableEq α] (d : α) (m : Store α) (i : Nat) (f : α → α) : Store α :=
  Store.set d m i (f (Store.get d m i))

/-- The canonical form: strictly rising keys above a bound and no default entry. -/
def Store.wfAbove {α : Type} [DecidableEq α] (d : α) : Nat → Store α → Bool
  | _, [] => true
  | lo, (k, v) :: rest => decide (lo ≤ k) && decide (v ≠ d) && Store.wfAbove d (k + 1) rest

/-- The canonical form of a store. -/
def Store.wf {α : Type} [DecidableEq α] (d : α) (m : Store α) : Bool := Store.wfAbove d 0 m

/-- A register's 96 lane words, lane 0 first. -/
abbrev Lanes := List Word

/-- The lane vector whose lane `l` holds `f l`. -/
def lanesOf {α : Type} (f : Nat → α) : List α := (List.range laneCount).map f

/-- Lane `l` of a lane vector; a vector with no such lane reads zero there. -/
def lane (v : Lanes) (l : Nat) : Word := v.getD l 0

/-- Lane `l` of a moment register's vector: mean and variance halves as one 64-bit value. -/
def laneM (v : List DWord) (l : Nat) : DWord := v.getD l 0

/-- Whether lane `l` is in a mask (R14). -/
def inMask (m : Mask) (l : Nat) : Bool := m.getLsbD l

/-- The lanes of a mask in ascending order. -/
def lanesIn (m : Mask) : List Nat := (List.range laneCount).filter (inMask m)

/-- The lowest-numbered lane of a mask. -/
def lowest (m : Mask) : Nat := ((lanesIn m).head?).getD 0

/-- The mask of the lanes that satisfy a test. -/
def maskOf (p : Nat → Bool) : Mask :=
  BitVec.ofNat 96 ((List.range laneCount).foldl (fun acc l => if p l then acc + 2 ^ l else acc) 0)

/-- Insert a number into a rising list without repeats. -/
def setInsert : List Nat → Nat → List Nat
  | [], i => [i]
  | k :: rest, i => if i < k then i :: k :: rest else if i = k then k :: rest else k :: setInsert rest i

/-- Remove a number from a list. -/
def setErase (xs : List Nat) (i : Nat) : List Nat := xs.filter (· ≠ i)

/-- Replace the first element that meets a test. -/
def updateFirst {α : Type} (p : α → Bool) (f : α → α) : List α → List α
  | [] => []
  | x :: rest => if p x then f x :: rest else x :: updateFirst p f rest

end Sys2Proof.Machine
end

