-- ==== Sys2Proof/Machine/State.lean ====
section
/-! DEFINITION. The state of one FV9 device, as plain data, and the state right after reset. Each field's
docstring names the rule of spec/ that gives it. Fields marked "model" are the model's own. -/

namespace Sys2Proof.Machine

/-- Why a step stops with a fault. Every fault of the manual is a next state of the machine (R199 to R208);
these name only a use of `exec` that no step makes. -/
inductive Fault where
  /-- raised by every clutch instruction when the state names no resident clutch to run it; safe: the
  machine has no such step -/
  | noClutch
  /-- raised by every stream word when the state names no running sequencer; safe: the machine has no
  such step -/
  | noSequencer
deriving DecidableEq, Repr

/-- Why a step refuses. -/
inductive Refusal where
  /-- an instruction without a meaning, by mnemonic; raised by the dispatch arms alone; safe -/
  | notModelled (mnemonic : String)
deriving DecidableEq, Repr

/-- The agent whose word is being executed (model, log 1). -/
inductive Agent where
  | none
  | clutch (who : ClutchId)
  | sequencer (chorus pos : Nat)
deriving DecidableEq, Repr

/-- The kind of a rejoin-stack entry (R175). -/
inductive EntryKind where
  | branch | loop | call | handler
deriving DecidableEq, Repr

/-- A rejoin-stack entry (R175). -/
structure Entry where
  kind : EntryKind
  /-- awaited -/
  aw : Mask
  /-- arrived -/
  ar : Mask := 0
  /-- rejoin PC, absent while invalid -/
  rpc : Option Word := none
  /-- what the RPC field holds while it is not valid (R203) -/
  rpcBits : Word := 0
  /-- pending PC -/
  ppc : Word := 0
  /-- pending mask -/
  pm : Mask := 0
  /-- lanes waiting at CONT -/
  ct : Mask := 0
  seq : BitVec 20
deriving DecidableEq, Repr

/-- The eight emulation registers (R76). -/
structure EmRegs where
  empc : Word := 0
  emop : Word := 0
  emmod : Word := 0
  emd : Word := 0
  ema : Word := 0
  emb : Word := 0
  emc : Word := 0
  emimm : Word := 0
deriving DecidableEq, Repr

/-- A pending fence of a clutch (R249). -/
inductive FenceKind where
  /-- with its scope code -/
  | memory (scope : Nat)
  | opr
  | q
deriving DecidableEq, Repr

/-- What a clutch that stays at its word has already done there (model). -/
inductive Progress where
  | none
  /-- a BAR has been counted and waits for its phase (R427) -/
  | arrived
  /-- the claim stands in the queue (R106) -/
  | claiming
  /-- the ARRWAIT holds a watch (R419) -/
  | watching
  /-- the section is ATTACHED and waits for its peers (R318) -/
  | attaching
deriving DecidableEq, Repr

/-- What ties a clutch's registers to the matrix operations that read them (R250, R263). Ordinary registers stand under their
numbers, moment registers under 256 and more. -/
structure Loans where
  /-- by operation in progress, registers that it reads and that have not been written since it issued -/
  lent : List (Nat × List Nat) := []
  /-- registers written since the last FENCE.OPR -/
  unfenced : List Nat := []
  /-- those of them that an arrival has followed -/
  exposed : List Nat := []
  /-- registers whose producer was in flight at an arrival, with no FENCE.OPR between -/
  soon : List Nat := []
deriving DecidableEq, Repr

/-- A clutch (R14, R86). -/
structure Clutch where
  /-- clutchid -/
  id : Nat
  /-- core position within the chorus (R18) -/
  pos : Nat
  /-- sub-core (R18) -/
  sub : Nat
  /-- chorus slot (R18) -/
  slot : Nat
  /-- residency position (R18) -/
  resPos : Nat
  /-- every lane has exited (R190) -/
  ended : Bool := false
  pc : Word
  /-- the path mask P (R174) -/
  path : Mask := BitVec.allOnes 96
  /-- the exited mask X (R174) -/
  exited : Mask := 0
  /-- the mask triple xm0 to xm2 (R14, R90) -/
  mask : Mask := BitVec.allOnes 96
  /-- the rejoin stack, entry 0 first (R175) -/
  stack : List Entry := []
  /-- what the debug window has written into entries at or above the depth (R203) -/
  above : Store Entry := []
  /-- the sequence counter (R177) -/
  seq : BitVec 20 := 0
  /-- the remote operation count (R292) -/
  opc : BitVec 18 := 0
  /-- the held private count h (R87) -/
  held : Nat
  /-- private registers (R87) -/
  regs : Store Lanes := []
  /-- the uniform window except the mask triple (R87) -/
  uni : Store Word := []
  /-- format tags of ordinary registers (R93) -/
  tags : Store (BitVec 5) := []
  /-- ordinary registers that are empty (R91) -/
  empty : List Nat := []
  /-- poisoned words of ordinary registers, 96 x register + lane (R94) -/
  poison : List Nat := []
  /-- moment registers: mean in [31:0] and variance in [63:32] (MP32), or the MB16 word in [31:0] (R42) -/
  mregs : Store (List DWord) := []
  /-- format tags of moment registers, 15 by default (R93) -/
  mtags : Store (BitVec 5) := []
  /-- moment registers that are empty (R157) -/
  mempty : List Nat := []
  /-- poisoned words of moment registers, 2 x (96 x register + lane) + half (R86, R94) -/
  mpoison : List Nat := []
  fmode : Word := 0
  mcr : Word := 0
  accbase : Word := 0
  acclim : Word := 0
  ehbase : Word := 0
  em : EmRegs := {}
  /-- barrier wait counts Wc (R424) -/
  barWaits : Store (BitVec 16) := []
  /-- the pending fence (R249) -/
  fence : Option FenceKind := none
  /-- the next free number when it issued: what has a lower one came before it -/
  fenceAt : Nat := 0
  progress : Progress := .none
  /-- the ready stamp (R27) -/
  stamp : Nat := 0
  /-- ready when last examined, and the earliest cycle of the next ready stamp (R27, R191) -/
  wasReady : Bool := false
  notBefore : Nat := 0
  /-- it has raised a launch-fatal fault and issues nothing more (R204) -/
  faulted : Bool := false
  /-- the detached mark (R319) -/
  detached : Bool := false
  loans : Loans := {}
  /-- the BAR at which a STICKY stop was taken issues once without the check (R428) -/
  barUnchecked : Bool := false
deriving DecidableEq, Repr

/-- A named barrier (R424). -/
structure Barrier where
  /-- completed phases C -/
  phases : BitVec 16 := 0
  /-- arrivals A -/
  arrivals : Nat := 0
  /-- EXPECT -/
  expect : Nat := 0
  /-- arrivals held because A would rise above 127 (R426) -/
  held : Nat := 0
  /-- one more than the cycle in which a phase last completed: arrivals of that cycle were counted before (R426) -/
  doneAt : Nat := 0
deriving DecidableEq, Repr

/-- A BAR.ARRIVE that has issued and waits until the earlier accesses of its clutch are performed or returned (R332, R426). -/
structure Arriving where
  clutch : Nat
  barrier : Nat
  /-- the count it carries, 0 for none -/
  count : Nat
  /-- it follows what was issued before this number -/
  before : Nat
  /-- scratchpad bytes that its clutch's atomics were still to write when it issued (R250) -/
  places : List Nat := []
deriving DecidableEq, Repr

/-- The state of a tile (R401). -/
inductive TileState where
  | empty | filling | ready | draining
deriving DecidableEq, Repr

/-- What has happened to a tile in its latest cycles (R404): each number is 1 + a cycle. -/
structure TileStamps where
  /-- the latest event, and its place in the order of the cycle's events -/
  at_ : Nat × Nat := (0, 0)
  /-- it has entered EMPTY -/
  emptied : Nat := 0
  /-- it has become READY, and has left READY -/
  readied : Nat := 0
  unready : Nat := 0
deriving DecidableEq, Repr

/-- A tile entry (R401); SIZE 0 is undefined. -/
structure Tile where
  state : TileState := .empty
  dcount : Nat := 0
  base : Nat := 0
  size : Nat := 0
  remain : Nat := 0
  open_ : Nat := 0
  stamps : TileStamps := {}
deriving DecidableEq, Repr

/-- An MMA or MZERO that a sequencer has issued and its engines have not completed (R262, R269). -/
structure Job where
  id : Nat
  /-- the stream word -/
  fields : Fields
  /-- 0xA8 MMA (the form in its fields), 0xAB MZERO -/
  op : Nat
  /-- the first chorus row -/
  row : Nat
  /-- the q pairs of A, B and metadata at issue -/
  qa : Word × Word := (0, 0)
  qb : Word × Word := (0, 0)
  qm : Word × Word := (0, 0)
  /-- the core position whose operand B is read (MMA.BC: position 0, R270) -/
  bpos : Nat := 0
  /-- by engine, the scratchpad bytes that it reads -/
  keys : List (Nat × List Nat) := []
  /-- the tiles that it names (R274) -/
  tiles : List Nat := []
  /-- engines on which a copy or an operand write overlapped an MMA, so their tile becomes undefined (R245, R263) -/
  touched : List Nat := []
  /-- cells that a STACC has written while an MZERO covered them, and that become undefined (R245) -/
  spoiled : List Nat := []
  /-- where the word stands, for a report -/
  pc : Word := 0
deriving DecidableEq, Repr

/-- A matrix sequencer (R255). -/
structure Sequencer where
  pos : Nat
  pc : Word
  q : Store Word := []
  /-- wait counts W (R261) -/
  waits : Store (BitVec 16) := []
  ended : Bool := false
  /-- MMA.BC words issued (R270) -/
  lockstep : Nat := 0
  /-- the fields of the MMA.BC word this sequencer waits at (R270) -/
  waiting : Option Fields := none
  jobs : List Job := []
deriving DecidableEq, Repr

/-- Where a chorus stands. -/
inductive Residency where
  /-- resources reserved for a linked section (R311) -/
  | reserved
  | resident
  /-- the last clutch has ended and the exit is held (R320) -/
  | exitHeld
  /-- saved by a context switch (R369) -/
  | saved
  /-- abandoned by forced pre-emption, waiting to be placed afresh (R368) -/
  | abandoned
  /-- released by a node bin and not yet placed (R381) -/
  | released
deriving DecidableEq, Repr

/-- What a section knows of a peer section (R318, R319). -/
structure Peer where
  attached : Bool := false
  detached : Bool := false
deriving DecidableEq, Repr

/-- A pending register-block claim (R106, R405). -/
structure Claim where
  pos : Nat
  clutch : Nat
  k : Nat
  /-- the status register, and the bytes of the word -/
  dst : Nat
  bytes : Nat
deriving DecidableEq, Repr

/-- What has happened to the sticky register in one cycle (R100, R130). -/
structure StickyCycle where
  /-- 1 + the cycle -/
  cycle : Nat := 0
  /-- flags set in it -/
  set : Word := 0
  /-- 1 + the highest clutchid whose WRCR has written the arm bits in it -/
  armer : Nat := 0
deriving DecidableEq, Repr

/-- A copy that has stopped: the flags that its future's completion enters in sticky, and the bytes it landed (R278, R288). -/
structure CopyNote where
  flags : Word := 0
  landed : Nat := 0
deriving DecidableEq, Repr

/-- A chorus (R16), in the model's numbering. -/
structure Chorus where
  uid : Nat
  launch : Nat
  /-- chorusid (R21, R382) -/
  index : Nat
  /-- sectionid (R20) -/
  section_ : Nat := 0
  die : Nat
  /-- its cores' numbers on the die, by core position -/
  cores : List Nat := []
  status : Residency := .resident
  clutches : List Clutch := []
  /-- the sticky register (R100) -/
  sticky : Word := 0
  /-- the latest cycle in which sticky has changed (R130) -/
  stickyNow : StickyCycle := {}
  /-- surrendered blocks by core position (R105) -/
  pools : Store Nat := []
  /-- pending claims in issue order (R106) -/
  claims : List Claim := []
  /-- core positions whose deadlock completion is pending (R107) -/
  deadlocked : List Nat := []
  barriers : Store Barrier := []
  /-- arrivals that wait for the earlier accesses of their clutches, oldest first (R426) -/
  arriving : List Arriving := []
  /-- scratchpad bytes, 2^19 x core position + offset (R212) -/
  scratch : Store Byte := []
  /-- written scratchpad bytes, in the same numbering (R316) -/
  scratchWritten : List Nat := []
  /-- scratchpad bytes that a clutch has written since its last FENCE.OPR, with the clutch (R250) -/
  unfenced : List (Nat × Nat) := []
  /-- what copies that have stopped moving bytes have flagged and landed, by copy (R278, R288) -/
  copyNotes : Store CopyNote := []
  /-- those of them that an arrival of the clutch has followed (R250) -/
  exposed : List Nat := []
  /-- poisoned 64-byte sectors of scratchpad, by key / 64 (R219) -/
  scratchPoison : List Nat := []
  /-- the allocation's base in the core's scratchpad (R212) -/
  scratchBase : Nat := 0
  /-- accumulator cells, ((4 x position + sub) x 512 + chorus row) x 128 + column (R254) -/
  acc : Store Word := []
  /-- poisoned 64-byte sectors of accumulator rows, by cell key / 16 (R219) -/
  accPoison : List Nat := []
  /-- first physical accumulator row of the allocation, by core position (R213) -/
  accStarts : List Nat := []
  tiles : Store Tile := []
  seqs : List Sequencer := []
  /-- ATTACHED and DETACHED of the own section (R318, R319) -/
  attached : Bool := false
  /-- what the first CWIN.ATTACH of the section returns, once that is settled (R318) -/
  attachResult : Option Word := none
  detached : Bool := false
  peers : Store Peer := []
  /-- a section has departed (R321) -/
  departed : Bool := false
  /-- the epoch of a linked placement (R312) -/
  epoch : Nat := 0
  /-- homes elements were sent to: 256 x device + key index (R306) -/
  homes : List Nat := []
  /-- when its waiting time began (R363) -/
  since : Nat := 0
  /-- multiples of 2 ms its waiting time has passed (R363) -/
  aged : Nat := 0
  /-- its waiting time has reached 6 ms (R365) -/
  starved : Bool := false
  /-- forced pre-emption is why it starts again, and no loss of its die since (R95, R366) -/
  forced : Bool := false
  /-- the coordinator's attempt that a reservation belongs to (R311) -/
  attempt : Nat := 0
  /-- placement stamp, the larger the later (R371) -/
  placed : Nat := 0
  /-- the charge that its placement added to the resident charges of its die (R364) -/
  charge : Nat := 0
  /-- its cores have stopped issuing for a context switch (R369) -/
  stopping : Bool := false
  /-- bytes of the save area it holds while saved (R354, R369) -/
  saveBytes : Nat := 0
  /-- where they begin in the context's save area (R369) -/
  saveAt : Nat := 0
  /-- the node bin's records (R382) -/
  records : List (List Word) := []
  /-- until its placement, the slots that those records lie in: die, slot and physical places (R376) -/
  slots : List (Nat × Nat × List (Option Nat)) := []
deriving DecidableEq, Repr

/-- Where a long-latency producer lands (R91). -/
inductive LandDst where
  /-- ordinary registers `first` to `first + n - 1` -/
  | ordinary (first n : Nat)
  | moment (reg : Nat)
deriving DecidableEq, Repr

/-- What an access that is still to be performed does at its places (R236, R242 to R245). -/
inductive AccessOp where
  /-- a load of the size code of R231 -/
  | load (sz : Nat)
  /-- a moment load under a tag (R171) -/
  | moment (tag : Nat)
  /-- an atomic: operation, type and operands by lane -/
  | rmw (aop ty : Nat) (operands : List Nat)
  /-- a compare and swap: bytes, and new and compared values by lane -/
  | cas (bytes : Nat) (new cmp : List Nat)
  /-- a copy of accumulator cells under a KIND; the cells an overlapping operation reaches (R245) -/
  | acc (kind : Nat) (hazard : List Nat)
  /-- a store into the step replay cache of a context: slot, key, step, and the scratchpad keys of the tiles (R326) -/
  | stepStore (ctx slot : Nat) (key step : Word) (input output tb base : Nat) (pages : List (Nat × Nat))
deriving DecidableEq, Repr

/-- Memories that an access reaches. -/
inductive Space where
  /-- physical addresses -/
  | global
  /-- scratchpad keys of the chorus -/
  | scratch
  /-- accumulator cells of the chorus -/
  | cells
deriving DecidableEq, Repr

/-- An access that a long-latency producer performs when it lands (R236, R247). -/
structure Access where
  op : AccessOp
  space : Space
  /-- the places of each active lane's datum, lowest byte first -/
  places : List (Nat × List Nat)
  /-- a load may leave its sectors in L1 (R218) -/
  alloc : Bool := false
  /-- sectors of pages whose CACHE keeps them from L1, and from the die cache too (R221) -/
  notL1 : List Nat := []
  notDie : List Nat := []
  /-- the scope of an acquire (R248) -/
  acquire : Option Nat := none
  /-- where the instruction stands, for its report -/
  pc : Word := 0
deriving DecidableEq, Repr

/-- A long-latency producer that has issued and not landed (R91). -/
structure Landing where
  id : Nat
  who : ClutchId
  dst : LandDst
  /-- lanes that receive a word -/
  mask : Mask
  /-- words for each register of an ordinary destination -/
  words : List Lanes := []
  /-- pairs for a moment destination -/
  pairs : List DWord := []
  tag : BitVec 5 := 0
  /-- sticky flags that enter with it (R132) -/
  flags : Word := 0
  /-- its instruction can set sticky flags, so RDCR of sticky and barrier waits wait for it (R129, R428) -/
  canFlag : Bool := false
  /-- lanes whose remote reply is still outstanding (R315) -/
  awaited : Mask := 0
  /-- an acquire: the clutch's later accesses wait for it (R248, R332) -/
  holds : Bool := false
  /-- where the instruction stands: a withdrawn FREAD issues again there (R92) -/
  pc : Word := 0
  /-- the context of a STEP instruction, which completes when it lands (R324) -/
  step : Option Nat := none
  /-- the copy that it waits for (R288) -/
  copy : Option Nat := none
  /-- the access it performs, for the instructions that read memory -/
  access : Option Access := none
deriving DecidableEq, Repr

/-- A variant of a kernel (R83). -/
structure Variant where
  entry : Nat := 0
  stream : Nat := 0
  cores : Nat := 0
deriving DecidableEq, Repr

/-- The kernel header (R82, R83). -/
structure Header where
  cluster : Bool := false
  clutches : Nat := 1
  regs : Nat := 8
  uniform : Nat := 3
  volFirst : Nat := 0
  volCount : Nat := 0
  moments : Nat := 0
  barriers : Nat := 0
  accRows : Nat := 0
  scratch : Nat := 0
  restartable : Bool := false
  energy : Nat := 0
  sections : Nat := 0
  nvar : Nat := 1
  dataOff : Nat := 0
  dataLen : Nat := 0
  /-- the variant entries, 32 bytes each as a little-endian number -/
  vars : List Nat := []
deriving DecidableEq, Repr

/-- The bytes of the image (R83). -/
def Header.extent (h : Header) : Nat := h.dataOff + h.dataLen

/-- A fault report (R205), less its count. -/
structure Report where
  code : Nat
  inner : Nat := 0
  coreid : Nat := 0
  pc : Word := 0
  clutch : Nat := 0xFF
  section_ : Nat := 0
  slot : Nat := 31
  chorus : Nat := 0
  mask : Mask := 0
deriving DecidableEq, Repr

/-- The first refusal of a launch (R305, R373). -/
structure RefusalRec where
  reason : Reason
  lane : Nat
  dev : Nat
  tag : DWord
  addr : DWord
deriving DecidableEq, Repr

/-- How a launch ends (R373, R374). -/
inductive LaunchEnd where
  | done | badHeader | noVariant | faulted | aborted | badImage
deriving DecidableEq, Repr

/-- A granted chorus index that is not yet placed (R22). -/
structure GrantRec where
  die : Nat
  index : Nat
  /-- when it was granted -/
  since : Nat
  aged : Nat := 0
  starved : Bool := false
  /-- the chorus that a lost die has held under this index, which starts afresh (R24) -/
  uid : Option Nat := none
deriving DecidableEq, Repr

/-- The coordinator's placement of one index of a linked launch (R311, R312). -/
structure LinkRec where
  index : Nat
  /-- the epoch of its next commit -/
  epoch : Nat := 0
  /-- the number of the latest attempt -/
  attempt : Nat := 0
  /-- sections that have answered RESERVED to the reserves outstanding -/
  answered : List Nat := []
  /-- reserves are outstanding -/
  asking : Bool := false
  /-- a placement of the index stands committed -/
  committed : Bool := false
  /-- when the reserves were sent, or the abort made -/
  since : Nat := 0
  /-- the device that refused last, whose next retirement makes the coordinator try again -/
  refuser : Option Nat := none
deriving DecidableEq, Repr

/-- A launch (R21, R360), or an open node's stream of choruses (R376). -/
structure Launch where
  uid : Nat
  ctx : Nat
  queue : Option Nat := none
  node : Option Nat := none
  prio : Nat := 0
  image : Nat := 0
  args : DWord := 0
  statusVa : Nat := 0
  doneVa : Nat := 0
  /-- number of choruses in the range (R21) -/
  total : Nat := 0
  lid : Nat := 0
  linked : Bool := false
  section_ : Nat := 0
  keyidx : Nat := 0
  members : List Nat := []
  hdr : Header := {}
  /-- where the image lay when the launch was accepted, in runs of VA, bytes and PA, and how much of `imagePast` came before:
  what a fetch may find of a word changed since (R173) -/
  code : List (Nat × Nat × Nat) := []
  codeMark : Nat := 0
  /-- the chosen variant of each participating die (R85) -/
  variants : Store Variant := []
  /-- participating dies (R22) -/
  dies : List Nat := []
  leader : Nat := 0
  /-- the chorus index counter (R22) -/
  next : Nat := 0
  grants : List GrantRec := []
  /-- indices of a lost die that are to be granted again, rising, with the chorus that has run under each (R24) -/
  again : List (Nat × Option Nat) := []
  /-- indices retired (R22) -/
  retired : Nat := 0
  /-- indices granted to each die and not retired, index and die (R24) -/
  live : List (Nat × Nat) := []
  links : List LinkRec := []
  /-- by index of a linked launch, 1 + the epoch of the last committed placement here; 0 before the first (R312) -/
  epochs : Store Nat := []
  /-- by index of a linked launch, 1 + when its wait for a place here began (R363) -/
  waits : Store Nat := []
  /-- a peer section has departed, of a chorus of this index (R321) -/
  departed : Option Nat := none
  report : Option Report := none
  /-- the die that raised the report, and 1 + the cycle in which it did (R206) -/
  reportAt : Nat × Nat := (0, 0)
  /-- further reports (R205) -/
  more : Nat := 0
  refusals : Nat := 0
  first : Option RefusalRec := none
  ending : Option LaunchEnd := none
  /-- the dispatchers have stopped the launch's choruses (R204) -/
  stopped : Bool := false
  /-- leader die's cycle count at the first placement (R373) -/
  start : Nat := 0
  placedAny : Bool := false
deriving DecidableEq, Repr

/-- A record in a node bin: its words and when it entered (R379, R381); its slot of the ring and the physical places of the
slot's bytes (R376). -/
structure BinRec where
  words : List Word
  entered : Nat
  slot : Nat := 0
  places : List (Option Nat) := []
deriving DecidableEq, Repr

/-- The bin of a node on a die (R376). -/
structure Bin where
  /-- ring slot after the one taken last -/
  head : Nat := 0
  recs : List BinRec := []
  /-- choruses released on this die (R382) -/
  released : Nat := 0
  /-- held tags (R379) -/
  held : List DWord := []
deriving DecidableEq, Repr

/-- A node (R376, R377). -/
structure Node where
  num : Nat
  /-- the launch that stands for it -/
  launch : Nat := 0
  open_ : Bool := false
  /-- it was open and has been closed (R384) -/
  closed : Bool := false
  binBase : Nat := 0
  count : Nat := 1
  timer : Nat := 0
  logcap : Nat := 6
  words : Nat := 1
  recoff : Nat := 0
  bins : Store Bin := []
deriving DecidableEq, Repr

/-- A context's hold or freeze (R355, R207). -/
structure Context where
  active : Bool := false
  held : Bool := false
  /-- the violation code of a freeze -/
  frozen : Option Nat := none
  ptroot : Nat := 0
  clusters : Nat := 0
  quantum : Nat := 0
  drain : Nat := 0
  saveBase : Nat := 0
  saveSize : Nat := 0
  saveUsed : Nat := 0
  nnodes : Nat := 0
  nodes : List Node := []
  /-- polite pre-emptions in progress: since when, and on all clusters or on the one of this number,
  12 x die + cluster (R367, R356) -/
  drains : List (Nat × Option Nat) := []
  deactivating : Bool := false
deriving DecidableEq, Repr

/-- A leaf translation held in a TLB (R224). -/
structure TlbEntry where
  ctx : Nat
  /-- VA of the page -/
  va : Nat
  size : Nat
  /-- the page table entry -/
  pte : DWord
deriving DecidableEq, Repr

/-- A miss in the walk tracker (R225). -/
structure Walk where
  ctx : Nat
  /-- VA[56:16] -/
  page : Nat
  /-- the clutches that wait, with their access kind and VA -/
  waiters : List (ClutchId × Nat × Nat)
deriving DecidableEq, Repr

/-- A miss record (R227). -/
structure MissRec where
  ctx : Nat
  access : Nat
  slot : Nat
  coreid : Nat
  va : Nat
deriving DecidableEq, Repr

/-- A pending invalidation (R228): SCOPE, context and VA[56:16]. -/
structure TlbInv where
  scope : Nat
  ctx : Nat
  page : Nat
  /-- the walks in flight when it was written, which have not finished: context and VA[56:16] -/
  walks : List (Nat × Nat) := []
deriving DecidableEq, Repr

/-- A plain write of bytes of one 64-byte sector, gathered in an open arbitration window (R338). -/
structure PlainWrite where
  /-- 0 clutch, 1 copy engine, 2 collective sequencer, 3 host -/
  rank : Nat
  /-- coreid, or the host port -/
  order : Nat
  /-- the clutch, for R247 -/
  who : Option ClutchId
  /-- its launch, which does not complete before it (R348) -/
  launch : Option Nat := none
  /-- the copy or the collective result that it belongs to -/
  job : Option Nat := none
  /-- when it was gathered: a number in the order of events, and the window of its home die -/
  seq : Nat := 0
  window : Nat := 0
  bytes : Store Byte := []
deriving DecidableEq, Repr

/-- A collective result whose writes are gathered: its futures complete when they have been performed (R338, R388). -/
structure OwedResult where
  /-- the number of its writes -/
  job : Nat
  launch : Nat
  chorus : Nat
  flags : Word
  /-- die and entry of each -/
  futures : List (Nat × Nat)
  value : DWord
  /-- the context and the set of the collective that has run, for the next one of the set (R388) -/
  set : Option (Nat × Nat) := none
deriving DecidableEq, Repr

/-- The kind of a future's producer (R395). -/
inductive FutureKind where
  | copy | multicast | collective
deriving DecidableEq, Repr

/-- The state of a future (R395). -/
inductive FutureState where
  | free | pending | done | cancelled | failed
deriving DecidableEq, Repr

/-- A future entry (R395). -/
structure Future where
  value : DWord := 0
  gen : BitVec 16 := 0
  ctx : Nat := 0
  kind : FutureKind := .copy
  /-- the allocating chorus -/
  owner : Nat := 0
  state : FutureState := .free
  /-- the allocating chorus has gone: free at completion (R396) -/
  orphan : Bool := false
  /-- that chorus was abandoned, or its launch has ended: the completion is dropped (R396) -/
  dropped : Bool := false
  /-- waiting FREADs by landing number, with REL (R398) -/
  waiters : List (Nat × Bool) := []
deriving DecidableEq, Repr

/-- A contention entry (R413). -/
structure Contention where
  region : Nat
  source : Nat
  count : Nat
  /-- the kind of the region's pages, and the key index and virtual region of the elements, as last seen -/
  kind : Nat
  keyidx : Nat := 0
  view : Nat := 0
  /-- a lease that is granted, to its lessee -/
  lease : Option Lease := none
  /-- when it was last counted -/
  last : Nat
  /-- a recall of the lease has been sent (R308) -/
  recalled : Bool := false
deriving DecidableEq, Repr

/-- An arrival watch (R420). -/
structure Watch where
  who : ClutchId
  /-- a physical address, or a scratchpad key of the chorus -/
  pa : Nat
  win : Bool
  target : DWord
  /-- the destination pair -/
  dst : Nat
deriving DecidableEq, Repr

/-- A tag entry of the step replay cache (R323). -/
structure StepTag where
  valid : Bool := false
  busy : Bool := false
  key : Word := 0
  step : Word := 0
deriving DecidableEq, Repr

/-- A context's region of the step replay cache (R323, R324). -/
structure StepRegion where
  n : Nat
  base : Nat
  tb : Nat
  tags : Store StepTag
deriving DecidableEq, Repr

/-- A sector of a cache line that a core's L1 holds: its bytes, and whether an error has poisoned it (R218, R219, R331). -/
structure L1Sector where
  data : List Byte
  poisoned : Bool := false
deriving DecidableEq, Repr

/-- A 128-byte line of a core's L1 data cache: the physical line number and its two sectors (R218). -/
structure L1Line where
  line : Nat
  low : Option L1Sector := none
  high : Option L1Sector := none
deriving DecidableEq, Repr

/-- A 256-byte line of a die cache: the physical line number, the sectors it holds and the sectors whose bytes DRAM does not
yet hold, each of 0 to 3 (R218, R246). Its bytes are those of the memory of State, which is what every reader sees. -/
structure CacheLine where
  line : Nat
  sectors : List Nat := []
  dirty : List Nat := []
deriving DecidableEq, Repr

/-- A read request sent and not answered. -/
structure Asked where
  req : ReadReq
  chorus : Nat
  launch : Nat
  deadline : Nat
  /-- the landing that waits for it, for RACC.CVT and CWLD -/
  landing : Option Nat
  /-- lanes of D the answer writes -/
  mask : Mask
  /-- fmode.RM and fmode.SUB at issue, for RACC.CVT (R302); the size code, for CWLD -/
  mode : Nat := 0
  /-- the clutch, and where its instruction stands, for a report -/
  clutch : Nat := 0
  pc : Word := 0
  /-- it has been sent at least once -/
  sent : Bool := true
  /-- the back-off of the last BUSY that its reply met, and not before this time (R297) -/
  backoff : Nat := 0
  notBefore : Nat := 0
deriving DecidableEq, Repr

/-- An instruction in a core's remote queue (R295): the elements and requests it sends. A multicast's elements
name no device yet. -/
structure Queued where
  who : ClutchId
  launch : Nat
  elems : List Element
  reqs : List Asked
  pc : Word := 0
  /-- a number in the order of events -/
  seq : Nat := 0
deriving DecidableEq, Repr

/-- A tensor copy's descriptor (R277). -/
structure Desc where
  tile : Nat
  ssp : Nat
  dsp : Nat
  pad : Nat
  esz : Nat
  sfmt : Nat
  dfmt : Nat
  reserved : Bool
  dpitch : Nat
  src : Nat
  dst : Nat
  cnt : List Nat
  sstr : List Int
  lo0 : Int
  ext0 : Nat
  lo1 : Int
  ext1 : Nat
deriving DecidableEq, Repr

/-- A copy held or running in an engine (R282, R285). -/
structure CopyJob where
  id : Nat
  who : ClutchId
  die : Nat
  desc : Desc
  /-- the future's index -/
  future : Nat
  admitted : Bool
  /-- destination bytes -/
  bytes : Nat
  /-- where its TCP.KICK stands and the lanes active there, for a report -/
  pc : Word := 0
  lanes : Mask := 0
  /-- it moves no more bytes: what its future will hold once its gathered writes are performed (R283, R287, R288, R338) -/
  result : Option (FutureState × DWord) := none
deriving DecidableEq, Repr

/-- The control registers of a core's debug window, its stop and its other state (R203, R211). -/
structure Core where
  stopped : Bool := false
  slot : Nat := 31
  code : Nat := 0
  step : Bool := false
  dlstop : Bool := false
  bken : Bool := true
  sel : Nat := 0
  /-- the clutch that the stop belongs to -/
  stopper : Option ClutchId := none
  /-- its launch, and its report when the stop began (R202) -/
  stopInfo : Option (Nat × Report) := none
  /-- when the stop began (R202) -/
  stopAt : Nat := 0
  /-- the PC of the stopping clutch has been written since the stop (R193) -/
  pcWritten : Bool := false
  /-- after RESUME, the clutch that issues one instruction and stops (R203) -/
  stepping : Option ClutchId := none
  /-- scratchpad partition in bytes (R211) -/
  partition : Nat := 131072
  l1 : List L1Line := []
  tlb : List TlbEntry := []
  queue : List Queued := []
  /-- at readiness level L1 (R372) -/
  resting : Bool := false
  /-- since when it has been idle -/
  idleSince : Nat := 0
  /-- the rotating pointer of each sub-core (R27) -/
  pointers : Store Nat := []
  /-- the cycle from which a unit is free: issue stages 0 to 3 (R26), special-function units 4 and 5 (R134),
  the crossbar 6 (R113) -/
  units : Store Nat := []
  pmsel : Store Word := []
  pmcnt : Store DWord := []
  /-- by counter, 1 + the cycle in which its COUNT was last written (R431) -/
  pmWritten : Store Nat := []
  /-- by counter, one more than a cycle in which it has counted, and what it held before (R431) -/
  pmBefore : Store (Nat × DWord) := []
deriving DecidableEq, Repr

/-- The holder of a cluster and when its quantum began (R356, R370). -/
structure Holder where
  ctx : Option Nat := none
  /-- none until its first chorus is loaded (R370) -/
  since : Option Nat := none
deriving DecidableEq, Repr

/-- An anvil die. -/
structure Die where
  /-- the die serves (R434) -/
  serving : Bool := false
  lost : Bool := false
  /-- one more than the cycle of its last placement (R430) -/
  placedAt : Nat := 0
  /-- consecutive heartbeats missed (R23) -/
  missed : Nat := 0
  /-- the cycle count (R194) -/
  cycle : DWord := 0
  cores : Store Core := []
  holders : Store Holder := []
  tlb : List TlbEntry := []
  walks : List Walk := []
  missRecs : List MissRec := []
  tlbPend : List TlbInv := []
  /-- the die cache: lines of the die's own memory, newest first (R217, R218) -/
  cache : List CacheLine := []
  /-- gathered writes, by number and sector, to pages that admit no allocation (R221) -/
  uncached : List (Nat × Nat) := []
  tlbDrop : Bool := false
  windows : List PlainWrite := []
  /-- by slice, 1 + the last window that has closed (R338) -/
  closed : Store Nat := []
  futures : Store Future := []
  filter : List FilterEntry := []
  contention : List Contention := []
  /-- when the window of the contention counts began (R413) -/
  contendAt : Nat := 0
  watches : List Watch := []
  /-- step replay cache regions by context -/
  steps : List (Nat × StepRegion) := []
  stepHit : Store Word := []
  stepMiss : Store Word := []
  conflict : Store Word := []
  /-- by event counter, 16 x which + context: 1 + the cycle of its latest increments, its value before them, and their
  number (R429) -/
  counted : Store (Nat × Nat × Nat) := []
  enth : Store Word := []
  enchg : Store Word := []
  pwrbud : Word := 0
  /-- DEFMAP (R414) -/
  defSlices : BitVec 64 := BitVec.allOnes 64
  defCores : BitVec 48 := BitVec.allOnes 48
deriving DecidableEq, Repr

/-- A source key entry (R410). -/
structure SourceKey where
  valid : Bool := false
  key : DWord := 0
deriving DecidableEq, Repr

/-- A receive key entry (R410). -/
structure ReceiveKey where
  valid : Bool := false
  ctx : Nat := 0
  key : DWord := 0
  prev : Option DWord := none
  /-- when the key last changed -/
  changed : Nat := 0
  /-- in units of 512 entries -/
  quota : Nat := 0
deriving DecidableEq, Repr

/-- An element that has left its core's queue and is not settled (R296, R297). -/
structure Unsettled where
  elem : Element
  chorus : Nat
  launch : Nat
  deadline : Nat
  /-- it has been sent at least once; until then it waits for credits (R310) -/
  sent : Bool := true
  /-- back-off of the last BUSY, in cycles -/
  backoff : Nat := 0
  /-- not before this time -/
  notBefore : Nat := 0
  /-- where its instruction stands, for a report -/
  pc : Word := 0
deriving DecidableEq, Repr

/-- A multicast in progress (R304). -/
structure Mcast where
  id : Nat
  die : Nat
  future : Nat
  who : ClutchId
  set : Nat
  /-- the scratchpad key of the report block -/
  report : Nat
  /-- members in set order -/
  members : List Nat
  /-- elements still to settle -/
  left : Nat
  neg : List Nat := []
  reasons : Nat := 0
deriving DecidableEq, Repr

/-- A collective that this device has entered in its queue (R387, R388). -/
structure Collective where
  die : Nat
  future : Nat
  /-- futures of duplicates, which wait on the same outcome: die and entry (R388) -/
  others : List (Nat × Nat) := []
  who : ClutchId
  launch : Nat
  ctx : Nat
  set : Nat
  gen : Nat
  keyidx : Nat
  seq : Nat
  tag : DWord
  members : List Nat
  rank : Nat
  params : CollParams
  src : Nat
  dst : Nat
  /-- the scratchpad key of the report block -/
  report : Nat
  pc : Word
  lanes : Mask
  /-- it was entered inside the emulation handler (R198) -/
  inHandler : Bool := false
  /-- when its sequencer sent this member's own step (R392) -/
  begun : Option Nat := none
  /-- contributions: rank and elements -/
  got : List (Nat × List Nat) := []
  /-- what the other members' contributions say that the collective is: rank, generation and parameters (R388) -/
  said : List (Nat × Nat × CollParams) := []
  /-- lost ranks, and which of them withdrew (R392) -/
  lost : List (Nat × Bool) := []
  /-- its outcome once it has completed, kept until its tag is released (R388) -/
  outcome : Option (FutureState × DWord) := none
  /-- the elements of this member's result -/
  result : List Nat := []
  /-- the sticky flags that its saturations set (R389) -/
  flags : Word := 0
deriving DecidableEq, Repr

/-- A change of a set that an owner is making (R408): the new entry waits for acknowledgements. A change without a
request removes a lost member. -/
structure GroupWork where
  set : Nat
  req : Option GroupReq
  entry : Group
  /-- the entry before the change -/
  old : Group
  waiting : List Nat
  /-- a member had no free entry -/
  full : Bool := false
  since : Nat
deriving DecidableEq, Repr

/-- A GRP of this device that awaits its answer (R408). -/
structure GroupAsk where
  req : GroupReq
  landing : Nat
  since : Nat
deriving DecidableEq, Repr

/-- A combining lease this crucible holds (R307). -/
structure HeldLease where
  lease : Lease
  /-- the copy of the home's filter that came with the grant -/
  held : List FilterEntry := []
  deltas : List Delta := []
  /-- its entries in the crucible's lease filter (R412) -/
  entries : List FilterEntry := []
  granted : Nat
  lastMerge : Nat
deriving DecidableEq, Repr

/-- An event log entry (R440). -/
structure LogEntry where
  cycle : Nat
  code : Nat
  die : Nat
  ctx : Nat
  coreid : Nat
  detail : Nat
deriving DecidableEq, Repr

/-- A queue descriptor as the device holds it (R357). -/
structure Queue where
  ring : Nat := 0
  logsize : Nat := 4
  ctx : Nat := 0
  prio : Nat := 0
  enabled : Bool := false
  head : Nat := 0
  tail : Nat := 0
  /-- the launch taken last and not complete -/
  running : Option Nat := none
deriving DecidableEq, Repr

/-- The release of a chorus's identities that waits until its elements are acknowledged (R306). -/
structure PendingRelease where
  chorus : Nat
  ctx : Nat
  /-- tag bits [63:25] -/
  pre : Nat
  homes : List Nat
deriving DecidableEq, Repr

/-- The crucible die. -/
structure Crucible where
  ready : Bool := false
  bootErr : Nat := 0
  devnum : Nat := 0
  /-- readiness level in force (R372) -/
  level : Nat := 0
  /-- a wake is in progress and completes at this time (R372) -/
  wakeAt : Option Nat := none
  /-- since when the device has been idle -/
  idleSince : Nat := 0
  lattol : Word := 0
  intcause : Word := 0
  qtbase : DWord := 0
  ctxbase : DWord := 0
  rfcmd : Word := 0
  /-- the command that runs, by its OP (R438) -/
  rfRun : Option Nat := none
  rfarg : DWord := 0
  qerr : BitVec 64 := 0
  ntbase : Store DWord := []
  /-- the last CTXCMD has not completed: its OP and context -/
  ctxBusy : Option (Nat × Nat) := none
  ctxResult : Nat := 0
  queues : Store Queue := []
  srcKeys : Store SourceKey := []
  rcvKeys : Store ReceiveKey := []
  /-- key table generation count (R438) -/
  keyGen : Nat := 0
  /-- generation counts by table: the source tables of contexts 0 to 15, and the receive table as number 16 (R438) -/
  keyGens : Store Nat := []
  groups : Store Group := []
  groupWork : List GroupWork := []
  groupAsks : List GroupAsk := []
  /-- route: 0 fabric, 1 Ethernet, 2 none (R437) -/
  routes : Store Nat := []
  /-- the index of a route of Ethernet into the table of remote IPv6 addresses (R437) -/
  routeIndex : Store (BitVec 16) := []
  /-- the table of remote IPv6 addresses (R437) -/
  remoteAddrs : Store (BitVec 128) := []
  colls : List Collective := []
  /-- COLLs counted per context and set: 4096 x context + set (R388) -/
  collSeq : Store Nat := []
  mcasts : List Mcast := []
  unsettled : List Unsettled := []
  asked : List Asked := []
  releases : List PendingRelease := []
  /-- credits held towards a destination: 256 x device + key index, in 64-byte flits (R310, log 12) -/
  credits : Store Nat := []
  /-- credits granted to a source device, in the same numbering (R310) -/
  granted : Store Nat := []
  /-- the demand that source devices have announced, in the same numbering, in units of 256 bytes -/
  demands : Store Nat := []
  /-- by key index: a microsecond and the units granted in it (R310) -/
  paced : Store (Nat × Nat) := []
  leases : List HeldLease := []
  /-- fabric ports that are down (R436) -/
  portsDown : List Nat := []
  /-- one more than the time at which a fabric port went down (R436) -/
  portDownAt : Store Nat := []
  /-- the same for port p of another device, as its switch plane shows it: 32 x device + p (R436) -/
  peerDownAt : Store Nat := []
  /-- devices reported lost (R436) -/
  lostPeers : List Nat := []
  log : List LogEntry := []
  overwritten : Nat := 0
  /-- when the last heartbeat was exchanged (R23) -/
  beatAt : Nat := 0
  /-- the slot that runs, and the version it holds (R441) -/
  fwSlot : Nat := 0
  fwVersions : Store Nat := []
  /-- the images that UPDATE has written to the slots (R441) -/
  fwImages : Store (List Byte) := []
  rollback : Nat := 0
  /-- the inactive slot holds an image that takes effect at the next reset -/
  fwPending : Bool := false
  /-- firmware slots hold no valid image (model input of R442, log 9) -/
  fwInvalid : Bool := false
  /-- coordinators that NOROOM was answered to, each owed a RETIRED notice (R311) -/
  owedNotices : List Place := []
  /-- commits, aborts and notices that have not been acknowledged (R311, R318) -/
  placeOwed : List Msg := []
  /-- host events that wait for a wake (R372) -/
  heldEvents : List Instr := []
  /-- a tolerance that applies when the wake it started completes (R435) -/
  heldLattol : Option Word := none
  /-- 1 + the cycle in which port 1 last wrote registers, and the registers (R433) -/
  portOne : Nat × List (Block × Nat) := (0, [])
deriving DecidableEq, Repr

/-- Physical memory: bytes under their addresses, in canonical form; an unlisted byte reads 0 (log 2). -/
abbrev Memory := List Host.Cell

/-- The state of the device. -/
structure State where
  mem : Memory := []
  /-- physical addresses of written bytes of write-once and landing pages (R300) -/
  written : List Nat := []
  /-- poisoned 64-byte sectors (R219) -/
  poisoned : List Nat := []
  /-- by physical address, bytes of ring slots that hold records: 1, or 2 once something else has written them (R376) -/
  ring : Store Nat := []
  /-- bytes that writes have replaced in the images of running launches, oldest first (R173) -/
  imagePast : List (Store Byte) := []
  dies : Store Die := []
  crucible : Crucible := {}
  contexts : Store Context := []
  launches : List Launch := []
  choruses : List Chorus := []
  landings : List Landing := []
  copies : List CopyJob := []
  owed : List OwedResult := []
  /-- messages this device has put on the fabric and that have not been received (R436) -/
  outbox : List Msg := []
  /-- elements of a newer epoch or of a section not yet placed, held by the crucible (R312) -/
  windowHeld : List Element := []
  /-- next number for choruses, launches, landings, copies, requests, placements (model) -/
  fresh : Nat := 1
  /-- arithmetic cycles since reset (model, log 5) -/
  now : Nat := 0
  /-- counter of free values (model, log 4) -/
  tick : Nat := 0
  /-- turns to come, soonest first (model, log 1) -/
  agenda : List Turn := []
  /-- the agent whose word executes (model, log 1) -/
  cur : Agent := .none
  /-- what host and control-processor reads have returned, newest first (model, log 6) -/
  hostOut : List Nat := []
deriving DecidableEq, Repr

/-- The state right after reset: every field at its reset value, memory with nothing listed, no chorus
resident and boot not yet done (R442). -/
def State.reset : State := {}

end Sys2Proof.Machine
end

