-- ==== Sys2Proof/Machine/Ops.lean ====
section
/-! DEFINITION. The shared operations over the parts of State: finding and updating clutches, choruses,
launches, cores; registers, masks and tags; faults and reports; core stops; the rejoin stack; taking the
emulation trap and returning from it. -/

namespace Sys2Proof.Machine

/-- The outcome of an instruction. -/
abbrev Out := Host.Outcome State Fault Refusal

/-! ### Parts of the state -/

def State.chorus? (s : State) (uid : Nat) : Option Chorus := s.choruses.find? (·.uid = uid)
def State.launch? (s : State) (uid : Nat) : Option Launch := s.launches.find? (·.uid = uid)
def Chorus.clutch? (c : Chorus) (id : Nat) : Option Clutch := c.clutches.find? (·.id = id)

/-- A clutch, resident or not. -/
def State.at? (s : State) (who : ClutchId) : Option Clutch := (s.chorus? who.chorus).bind (·.clutch? who.clutch)

def State.modChorus (s : State) (uid : Nat) (g : Chorus → Chorus) : State :=
  { s with choruses := updateFirst (·.uid = uid) g s.choruses }
def State.modLaunch (s : State) (uid : Nat) (g : Launch → Launch) : State :=
  { s with launches := updateFirst (·.uid = uid) g s.launches }
def Chorus.modClutch (c : Chorus) (id : Nat) (g : Clutch → Clutch) : Chorus :=
  { c with clutches := updateFirst (·.id = id) g c.clutches }
def State.modClutch (s : State) (who : ClutchId) (g : Clutch → Clutch) : State :=
  s.modChorus who.chorus (fun c => c.modClutch who.clutch g)

def State.die (s : State) (d : Nat) : Die := s.dies.get {} d
def State.modDie (s : State) (d : Nat) (g : Die → Die) : State :=
  { s with dies := s.dies.modify {} d g }
def Die.core (d : Die) (n : Nat) : Core := d.cores.get {} n
def State.core (s : State) (c : CoreId) : Core := (s.die c.die).core c.core
def State.modCore (s : State) (c : CoreId) (g : Core → Core) : State :=
  s.modDie c.die (fun d => { d with cores := d.cores.modify {} c.core g })

/-- The value of an event counter before a cycle's increments, and their number (R429). -/
def Die.counterBefore (d : Die) (now key : Nat) (w : Word) : Nat × Nat :=
  match d.counted.get (0, 0, 0) key with
  | (at_, before, n) => if at_ = now + 1 then (before, n) else (w.toNat, 0)

/-- An increment of an event counter that held `w` (R429). -/
def Die.noteCount (d : Die) (now key : Nat) (w : Word) : Die :=
  let (before, n) := d.counterBefore now key w
  { d with counted := d.counted.set (0, 0, 0) key (now + 1, before, n + 1) }

/-- One more in a saturating event counter (R429). -/
def upOne (w : Word) : Word := if w = BitVec.allOnes 32 then w else w + 1

def State.context (s : State) (n : Nat) : Context := s.contexts.get {} n
def State.modContext (s : State) (n : Nat) (g : Context → Context) : State :=
  { s with contexts := s.contexts.modify {} n g }

def State.modCrucible (s : State) (g : Crucible → Crucible) : State := { s with crucible := g s.crucible }

/-- The device to which a message goes. -/
def destOf (m : Msg) : Nat :=
  match m with
  | .elem e => e.dstDev
  | .ack a => a.toDev
  | .rreq r => r.dstDev
  | .rreply r => r.req.srcDev
  | .demand p | .grant p => p.dstDev
  | .reserve p | .reserved p | .noroom p | .commit p | .abort p | .abandon p | .retired p | .attached p | .detached p
  | .depart p => p.dstDev
  | .acked (.commit p) | .acked (.abort p) | .acked (.attached p) | .acked (.detached p) => p.srcDev
  | .acked _ => 512
  | .groupReq g => g.owner
  | .group g => g.toDev
  | .coll c => c.toDev
  | .leaseGrant l | .leaseForward l _ | .leaseRecall l => l.lessee
  | .leaseReturn l _ _ => l.homeDev
  | .release toDev _ _ _ _ => toDev

/-- Whether a device has a route: no entry of the route table that says none. What a device sends to itself takes no port
(R437, log 74). -/
def State.routed (s : State) (dev : Nat) : Bool := dev = s.crucible.devnum || s.crucible.routes.get 0 dev ≠ 2

/-- A port on a plane carries messages to and from a device: neither this device nor that one has lost its link there (R436). -/
def State.portUp (s : State) (dev port : Nat) : Bool :=
  !s.crucible.portsDown.contains port && s.crucible.peerDownAt.get 0 (32 * dev + port) = 0

/-- Messages pass between this device and another: over Ethernet, or over some port of the fabric that is in use (R436, R437). -/
def State.hasPath (s : State) (dev : Nat) : Bool :=
  dev = s.crucible.devnum || s.crucible.routes.get 0 dev ≠ 0 || (List.range 32).any (s.portUp dev)

/-- What lies on the fabric once some messages are sent: one for a device whose route is none, or to which no port is in use, is
not sent (R436, R437). -/
def State.sent (s : State) (ms : List Msg) : List Msg :=
  s.outbox ++ ms.filter (fun m => s.routed (destOf m) && s.hasPath (destOf m))

/-- Put a message on the fabric (R436, R437). -/
def State.send (s : State) (m : Msg) : State := { s with outbox := s.sent [m] }

/-- Count one use of free values (log 4). -/
def State.bump (s : State) : State := { s with tick := s.tick + 1 }

/-- What a clutch instruction sees: its launch, chorus and clutch. -/
structure Env where
  who : ClutchId
  l : Launch
  ch : Chorus
  cl : Clutch
deriving DecidableEq, Repr

def Env.hdr (e : Env) : Header := e.l.hdr
def Env.mask (e : Env) : Mask := e.cl.mask
/-- The lowest-numbered active lane. -/
def Env.low (e : Env) : Nat := lowest e.cl.mask
/-- The register ranges of the clutch (R63, R87). -/
def Env.ranges (e : Env) : Ranges :=
  { h := e.cl.held, n := e.hdr.uniform, moments := e.hdr.moments, barriers := e.hdr.barriers }

/-- The core of a chorus's core position. -/
def Chorus.coreAt (c : Chorus) (pos : Nat) : CoreId := { die := c.die, core := c.cores.getD pos 0 }
def Env.core (e : Env) : CoreId := e.ch.coreAt e.cl.pos
/-- The first physical accumulator row of the chorus on the clutch's core (R213). -/
def Env.accStart (e : Env) : Nat := e.ch.accStarts.getD e.cl.pos 0
/-- coreid (R19): die in [7:6], cluster and core within it in [5:0]. -/
def coreWord (c : CoreId) : Nat := 64 * c.die + c.core

/-- A resident clutch that has not ended. -/
def State.env? (s : State) (who : ClutchId) : Option Env :=
  match s.chorus? who.chorus with
  | none => none
  | some ch =>
    match s.launch? ch.launch, ch.clutch? who.clutch with
    | some l, some cl => if ch.status = .resident ∧ !cl.ended then some { who, l, ch, cl } else none
    | _, _ => none

/-- Run a clutch instruction in the clutch whose word executes. -/
def withClutch (s : State) (k : Env → Out) : Out :=
  match s.cur with
  | .clutch who =>
    match s.env? who with
    | some e => k e
    | none => .fault .noClutch
  | _ => .fault .noClutch

/-! ### Registers -/

/-- A register of the uniform window of `n` (R87). -/
def isUniform (n reg : Nat) : Bool := 256 - n ≤ reg

/-- Word `j` of a 96-bit mask (R14). -/
def maskWord (m : Mask) (j : Nat) : Word := (m.toNat / 2 ^ (32 * j)) |> BitVec.ofNat 32

/-- A mask with word `j` replaced. -/
def setMaskWord (m : Mask) (j : Nat) (w : Word) : Mask :=
  BitVec.ofNat 96 (m.toNat - (maskWord m j).toNat * 2 ^ (32 * j) + w.toNat * 2 ^ (32 * j))

/-- The word a register holds in a lane (R87, R90). -/
def Clutch.word (c : Clutch) (n reg l : Nat) : Word :=
  if 253 ≤ reg then maskWord c.mask (reg - 253)
  else if isUniform n reg then c.uni.get 0 reg
  else lane (c.regs.get [] reg) l

/-- The poison key of a register word: uniform registers have one word. -/
def poisonKey (n reg l : Nat) : Nat := if isUniform n reg then 96 * reg else 96 * reg + l

/-- What a lane reads: a poisoned word, which only an inactive lane's read survives, is undefined (R94). -/
def Env.read (e : Env) (s : State) (reg l : Nat) : Word :=
  if e.cl.poison.contains (poisonKey e.hdr.uniform reg l) then Config.freeWord s.tick reg l
  else e.cl.word e.hdr.uniform reg l

/-- A 64-bit value from an even-odd pair (R36). -/
def Env.read64 (e : Env) (s : State) (reg l : Nat) : Nat :=
  (e.read s reg l).toNat + 2 ^ 32 * (e.read s (reg + 1) l).toNat

/-- A register's lanes as data: the all-zero vector is stored as no vector. -/
def packLanes (v : Lanes) : Lanes := if v.all (· = 0) then [] else v

/-- A register is written: no operation in progress reads it as it was, and no FENCE.OPR has followed (R250, R263). A producer
that was in flight at an arrival lands after it, and what it writes stays unpublished. -/
def Loans.write (x : Loans) (reg : Nat) : Loans :=
  { lent := x.lent.filter (fun y => !y.2.contains reg)
    unfenced := setInsert x.unfenced reg
    exposed := if x.soon.contains reg then setInsert x.exposed reg else setErase x.exposed reg
    soon := setErase x.soon reg }

/-- Registers regain their contents without their producer, which comes no more. -/
def Loans.withdraw (x : Loans) (gone : Nat → Bool) : Loans := { x with soon := x.soon.filter (fun r => !gone r) }

/-- A FENCE.OPR covers the writes of some registers. -/
def Loans.fence (x : Loans) (covered : Nat → Bool) : Loans :=
  { x with unfenced := x.unfenced.filter (fun r => !covered r), exposed := x.exposed.filter (fun r => !covered r) }

/-- An arrival follows what has been written without a FENCE.OPR, and what is in flight. -/
def Loans.expose (x : Loans) (inFlight : List Nat) : Loans := { x with exposed := x.unfenced, soon := inFlight }

/-- Write a register under a mask (R89, R90, R94). -/
def Clutch.write (c : Clutch) (n : Nat) (mask : Mask) (reg : Nat) (v : Nat → Word) : Clutch :=
  if mask = 0 then c
  else if 253 ≤ reg then
    { c with
      mask := setMaskWord c.mask (reg - 253) (v (lowest mask)) &&& c.path &&& ~~~c.exited
      poison := setErase c.poison (96 * reg) }
  else if isUniform n reg then
    { c with uni := c.uni.set 0 reg (v (lowest mask)), poison := setErase c.poison (96 * reg) }
  else
    let old := c.regs.get [] reg
    { c with
      regs := c.regs.set [] reg (packLanes (lanesOf fun l => if inMask mask l then v l else lane old l))
      poison := c.poison.filter (fun k => !(k / 96 = reg && inMask mask (k % 96)))
      loans := c.loans.write reg }

/-- The tag of a register; the mask triple is always RAW (R90, R93). -/
def Clutch.tag (c : Clutch) (reg : Nat) : Nat := if 253 ≤ reg then 0 else (c.tags.get 0 reg).toNat

/-- Set a register's tag (R93). -/
def Clutch.setTag (c : Clutch) (reg tag : Nat) : Clutch :=
  if 253 ≤ reg then c else { c with tags := c.tags.set 0 reg (BitVec.ofNat 5 tag) }

/-- Write a register and its tag; with no active lane the write does not occur (R15). -/
def Clutch.put (c : Clutch) (n : Nat) (mask : Mask) (reg tag : Nat) (v : Nat → Word) : Clutch :=
  if mask = 0 then c else (c.write n mask reg v).setTag reg tag

/-- The pair a moment register holds in a lane: mean in [31:0], variance in [63:32] (R42). -/
def Clutch.moment (c : Clutch) (reg l : Nat) : DWord := laneM (c.mregs.get [] reg) l

def Clutch.momentTag (c : Clutch) (reg : Nat) : Nat := (c.mtags.get 15 reg).toNat

/-- The word of a moment register that holds a half of a lane's pair has a poison mark of its own (R86, R94). -/
def momentKey (reg l half : Nat) : Nat := 2 * (96 * reg + l) + half

/-- A lane's pair has a poisoned word: both words of an MP32 pair, the first of an MB16 word (R42, R94). -/
def Clutch.momentBad (c : Clutch) (reg l : Nat) : Bool :=
  c.mpoison.contains (momentKey reg l 0) || (c.momentTag reg = 15 && c.mpoison.contains (momentKey reg l 1))

/-- Write a moment register and its tag under a mask (R156). -/
def Clutch.putMoment (c : Clutch) (mask : Mask) (reg tag : Nat) (v : Nat → DWord) : Clutch :=
  if mask = 0 then c else
  let old := c.mregs.get [] reg
  let new := lanesOf fun l => if inMask mask l then v l else laneM old l
  { c with
    mregs := c.mregs.set [] reg (if new.all (· = 0) then [] else new)
    mtags := c.mtags.set 15 reg (BitVec.ofNat 5 tag)
    mpoison := c.mpoison.filter (fun k => !(k / 192 = reg && inMask mask (k / 2 % 96)))
    loans := c.loans.write (256 + reg) }

/-- The program counter moves past a word. -/
def Clutch.advance (c : Clutch) (n : Nat) : Clutch := { c with pc := c.pc + BitVec.ofNat 32 n }

/-- The clutch goes on at the next word and nothing else changes. -/
def passOver (s : State) (e : Env) (n : Nat) : Out := .next (s.modClutch e.who (·.advance n))

/-! ### Launch-fatal faults, machine errors and core stops -/

/-- Fault codes (R199). -/
inductive Code where
  | miss | break_ | empty | sticky | deadlock | request | step
  | align | illegal | double | format | token | rstack | negvar | streamop | bounds | remote | departed
  | sparsemeta | nonfinite | accrow | escalated | stoptime
  | key | share | poison | dieLost
deriving DecidableEq, Repr

/-- The 8-bit code of a fault (R199). -/
def Code.num : Code → Nat
  | .miss => 0x01 | .break_ => 0x02 | .empty => 0x03 | .sticky => 0x04 | .deadlock => 0x05
  | .request => 0x06 | .step => 0x07
  | .align => 0x20 | .illegal => 0x21 | .double => 0x22 | .format => 0x23 | .token => 0x24
  | .rstack => 0x25 | .negvar => 0x26 | .streamop => 0x27 | .bounds => 0x28 | .remote => 0x29
  | .departed => 0x2A | .sparsemeta => 0x2B | .nonfinite => 0x2C | .accrow => 0x2D
  | .escalated => 0x2E | .stoptime => 0x2F
  | .poison => 0x30 | .dieLost => 0x31 | .key => 0x40 | .share => 0x41

/-- SLOT of a clutch: 6 x sub-core + residency position (R203). -/
def Clutch.slotNum (c : Clutch) : Nat := 6 * c.sub + c.resPos

/-- Set bits of INTCAUSE (R434). -/
def State.interrupt (s : State) (bits : Word) : State :=
  s.modCrucible (fun c => { c with intcause := c.intcause ||| bits })

/-- A report goes forward before another of the same die and cycle: the smaller coreid, then the smaller SLOT (R206). -/
def Report.before (r q : Report) : Bool := r.coreid < q.coreid || (r.coreid = q.coreid && r.slot < q.slot)

/-- A launch receives a report in a cycle: the first stays and the others are counted; of one die's reports of one cycle the
first in their order stays (R204 to R206). -/
def Launch.receive (l : Launch) (now : Nat) (r : Report) : Launch :=
  let at_ := (r.coreid / 64, now + 1)
  match l.report, l.ending with
  | none, none => { l with report := some r, reportAt := at_, ending := some .faulted }
  | some q, _ =>
    { l with report := some (if l.reportAt = at_ ∧ r.before q then r else q), more := min (l.more + 1) 0xFFFFFFFF }
  | none, some _ => { l with more := min (l.more + 1) 0xFFFFFFFF }

/-- A launch ends by a fault (R204 to R206). A machine error sets its interrupt cause. -/
def State.launchFault (s : State) (launch : Nat) (r : Report) : State :=
  (if r.code = 0x30 ∨ r.code = 0x31 then s.interrupt 4 else s).modLaunch launch (·.receive s.now r)

/-- Whether a clutch is inside the emulation handler (R196). -/
def Clutch.inHandler (c : Clutch) : Bool := c.stack.any (fun x => x.kind = .handler)

/-- The report of a clutch (R205). -/
def Env.report (e : Env) (code inner : Nat) (mask : Mask) : Report :=
  { code, inner, coreid := coreWord e.core, pc := e.cl.pc, clutch := e.cl.id, section_ := e.ch.section_,
    slot := e.cl.slotNum, chorus := e.ch.index, mask }

/-- The clutch stops for good and its launch ends with a report. -/
def State.endWith (s : State) (e : Env) (r : Report) : State :=
  (s.modClutch e.who (fun c => { c with faulted := true })).launchFault e.l.uid r

/-- A launch-fatal fault of a clutch: inside the handler it is DOUBLE (R198). -/
def fatal (s : State) (e : Env) (code : Code) (mask : Mask) : Out :=
  .next (s.endWith e (if e.cl.inHandler then e.report Code.double.num code.num mask
    else e.report code.num 0 mask))

/-- A machine error of a clutch ends its launch with POISON, in the handler or out of it (R94, R208). -/
def poisonEnd (s : State) (e : Env) (mask : Mask) : Out := .next (s.endWith e (e.report Code.poison.num 0 mask))

/-- Stop a core (R201): one stop at a time. `info` is the launch of the stopping clutch and its report. -/
def State.stopWith (s : State) (c : CoreId) (who : Option ClutchId) (info : Option (Nat × Report)) (slot : Nat)
    (code : Code) : State :=
  s.modCore c (fun k =>
    if k.stopped then k
    else { k with stopped := true, slot, code := code.num, stopper := who, stopInfo := info, stopAt := s.now,
                  pcWritten := false, stepping := none })

/-- A core stop without a stopping clutch. -/
def State.stopCore (s : State) (c : CoreId) (who : Option ClutchId) (slot : Nat) (code : Code) : State :=
  s.stopWith c who none slot code

/-- A core stop taken by a clutch, which stays at its instruction (R201). -/
def State.clutchStop (s : State) (e : Env) (code : Code) : State :=
  s.stopWith e.core (some e.who) (some (e.l.uid, e.report code.num 0 e.mask)) e.cl.slotNum code

/-! ### The rejoin stack -/

/-- The KIND of a token or of a stack entry as the debug window codes it (R176, R203). -/
def EntryKind.code : EntryKind → Nat
  | .branch => 0
  | .loop => 1
  | .call => 2
  | .handler => 3

/-- The token of an entry (R176). -/
def token (kind : EntryKind) (index : Nat) (seq : BitVec 20) : Word :=
  BitVec.ofNat 32 (0xA0000000 + 2 ^ 26 * kind.code + 2 ^ 20 * index + seq.toNat)

/-- The index of the entry that a token names, when the token is valid for a kind (R177). -/
def Clutch.tokenIndex (c : Clutch) (t : Word) (kind : EntryKind) : Option Nat :=
  let i := t.toNat / 2 ^ 20 % 16
  match c.stack[i]? with
  | none => none
  | some x =>
    if t.toNat / 2 ^ 28 = 0xA ∧ t.toNat / 2 ^ 24 % 4 = 0 ∧ t.toNat / 2 ^ 26 % 4 = kind.code ∧ x.kind = kind
        ∧ x.seq.toNat = t.toNat % 2 ^ 20 ∧ (c.stack.drop (i + 1)).all (fun y => y.kind ≠ .handler)
    then some i else none

/-- Push an entry with the sequence counter's value (R177). -/
def Clutch.push (c : Clutch) (x : BitVec 20 → Entry) : Clutch :=
  { c with stack := c.stack ++ [x c.seq], seq := c.seq + 1 }

/-- Resolve's outcome. -/
inductive Resolved where
  | running (c : Clutch)
  /-- every lane has exited -/
  | ended (c : Clutch)
  /-- no lane can complete the top entry -/
  | stuck (c : Clutch)

/-- Resolve (R179): choose the next path of a clutch whose path mask may be empty. Each turn of its loop pops
an entry or ends, so one more turn than the stack's depth suffices. -/
def resolveLoop : Nat → Clutch → Resolved
  | 0, c => .stuck c
  | fuel + 1, c =>
    if c.path ≠ 0 then .running c
    else match c.stack.getLast? with
      | none => .ended c
      | some x =>
        let rest := c.stack.dropLast
        let start (c : Clutch) : Clutch := { c with mask := c.path }
        if x.kind = .handler then
          resolveLoop fuel { c with stack := rest, path := x.pm, pc := x.rpc.getD c.pc, mask := x.ar }
        else if x.kind = .branch ∧ x.pm ≠ 0 then
          .running (start { c with stack := rest ++ [{ x with pm := 0 }], path := x.pm, pc := x.ppc })
        else if x.aw &&& ~~~x.ar = 0 then
          resolveLoop fuel (start { c with stack := rest, path := x.ar, pc := x.rpc.getD c.pc })
        else if x.kind = .loop ∧ x.ct ≠ 0 then
          .running (start { c with stack := rest ++ [{ x with ct := 0 }], path := x.ct, pc := x.ppc })
        else .stuck c

def resolve (c : Clutch) : Resolved := resolveLoop (c.stack.length + 2) c

/-- Delete(S) (R179). -/
def Clutch.delete (c : Clutch) (m : Mask) : Clutch :=
  let off (x : Mask) : Mask := x &&& ~~~m
  { c with
    path := off c.path, mask := off c.mask, exited := c.exited ||| m
    stack := c.stack.map (fun x => { x with aw := off x.aw, ar := off x.ar, pm := off x.pm, ct := off x.ct }) }

/-! ### The end of a clutch -/

/-- Whether a clutch has a producer that has not landed (R91). -/
def State.hasLanding (s : State) (who : ClutchId) : Bool := s.landings.any (·.who = who)

/-- The blocks a clutch holds, private and moment (R88, R106). -/
def Clutch.blocks (c : Clutch) (hdr : Header) : Nat := c.held / 8 + (hdr.moments + 3) / 4

/-- The register blocks of an ended clutch return to the pool of its chorus on its core (R106, R190). The pool has changed,
so a deadlock that waits for the end of a stop is looked for afresh (R107). -/
def State.returnBlocks (s : State) (e : Env) : State :=
  s.modChorus e.who.chorus (fun c => { c with
    pools := c.pools.modify 0 e.cl.pos (· + e.cl.blocks e.hdr), deadlocked := setErase c.deadlocked e.cl.pos })

/-- The source key entry of a context and index (R410). -/
def State.srcKey (s : State) (ctx keyidx : Nat) : SourceKey := s.crucible.srcKeys.get {} (256 * ctx + keyidx)
/-- The receive key entry of an index (R410). -/
def State.rcvKey (s : State) (keyidx : Nat) : ReceiveKey := s.crucible.rcvKeys.get {} keyidx

/-- A placement message about an index of a linked launch, under the launch's key (R309, R311). -/
def State.placeTo (s : State) (l : Launch) (dst index : Nat) : Place :=
  { srcDev := s.crucible.devnum, dstDev := dst, lid := l.lid, index, epoch := 0, section_ := l.section_
    keyidx := l.keyidx, key := (s.srcKey l.ctx l.keyidx).key }

/-- The notices a section sends to every other member (R318, R436). -/
def State.notices (s : State) (c : Chorus) (l : Launch) : List Place :=
  (l.members.filter (· ≠ s.crucible.devnum)).map (fun m => { s.placeTo l m c.index with epoch := c.epoch, section_ := c.section_ })

/-- Send a placement message that is sent again until it is acknowledged (R311, R318). -/
def State.sendOwed (s : State) (m : Msg) : State :=
  (s.modCrucible (fun c => { c with placeOwed := if c.placeOwed.contains m then c.placeOwed else c.placeOwed ++ [m] })).send m

/-- What the first CWIN.ATTACH of a section returns is settled when every section is ATTACHED, as far as this member knows, or
when the chorus departs, whichever comes first (R318, R321). -/
def Chorus.settleAttach (c : Chorus) (sections : Nat) : Chorus :=
  if c.attachResult.isSome then c
  else if c.departed then { c with attachResult := some 1 }
  else if c.attached && (List.range sections).all (fun i => i = c.section_ || (c.peers.get {} i).attached) then
    { c with attachResult := some 0 }
  else c

/-- A section all of whose clutches are detached or ended becomes DETACHED and says so (R318, R319). -/
def State.noteDetached (s : State) (uid : Nat) : State :=
  match s.chorus? uid with
  | none => s
  | some c =>
    match s.launch? c.launch with
    | none => s
    | some l =>
      if l.linked ∧ !c.detached ∧ c.clutches.all (fun x => x.detached || x.ended) then
        let s := s.modChorus uid (fun c => { c with detached := true })
        (s.notices c l).foldl (fun s p => s.sendOwed (.detached p)) s
      else s

/-- ClutchEnd (R190): its blocks return now, or when its last producer lands. The program counter stays at the instruction
that ended the clutch (R448), unless Resolve has popped an entry and taken its return address (R179). -/
def State.endClutch (s : State) (e : Env) (c : Clutch) : State :=
  let s := s.modClutch e.who (fun _ => { c with ended := true, detached := true, pc := if e.cl.stack = [] then e.cl.pc else c.pc })
  let s := if s.hasLanding e.who then s else s.returnBlocks { e with cl := c }
  s.noteDetached e.who.chorus

/-- Store a clutch whose path may have become empty, running Resolve (R179). A stack that no lane can
complete raises TOKEN, and the instruction's own effect stands. -/
def settleClutch (s : State) (e : Env) (c : Clutch) : Out :=
  match resolve c with
  | .running c => .next (s.modClutch e.who (fun _ => c))
  | .ended c => .next (s.endClutch e c)
  | .stuck c =>
    fatal (s.modClutch e.who (fun _ => c)) e .token e.cl.mask

/-! ### Taking the emulation trap, and returning from it -/

/-- The emulation registers at entry (R76). -/
def emulationRegs (pc : Word) (cause : Nat) (code : Nat) (op : Nat) (f : Fields) (pair second : Bool)
    (emimm : Word) : EmRegs :=
  { empc := pc
    emop := BitVec.ofNat 32 (2 ^ 24 * f.f.toNat + 2 ^ 16 * f.e.toNat + 2 ^ 12 * cause
      + (if second then 2 ^ 11 else 0) + (if pair then 2 ^ 10 else 0) + 2 ^ 8 * code + op)
    emmod := BitVec.ofNat 32 (2 ^ 28 * f.hn.toNat + 2 ^ 24 * f.sp.toNat + 2 ^ 22 * f.fx.toNat
      + 2 ^ 18 * f.top.toNat + 2 ^ 13 * f.tg.toNat + 2 ^ 11 * f.nb.toNat + 2 ^ 9 * f.na.toNat
      + 2 ^ 6 * f.fe.toNat + f.mod.toNat)
    emd := BitVec.ofNat 32 f.d.toNat, ema := BitVec.ofNat 32 f.a.toNat, emb := BitVec.ofNat 32 f.b.toNat
    emc := BitVec.ofNat 32 f.c.toNat, emimm }

/-- The length code L of a word (R58). -/
def lenCode (l : Len) (pair : Bool) : Nat :=
  if pair then 3 else match l with
    | .w64 => 0
    | .w96 => 1
    | .w128 => 2

/-- A clutch takes the emulation trap (R75, R192, R195, R198): the emulation registers receive the word, a
HANDLER entry saves the masks and the two return PCs, and the clutch continues at ehbase with the lanes that
are active. With no handler the launch ends with ILLEGAL, with no room in the stack with RSTACK, and inside
the handler with DOUBLE. -/
def emulationTrap (s : State) (e : Env) (cause bytes op : Nat) (f : Fields) (pair second : Bool) : Out :=
  let c := e.cl
  if c.mask = 0 then passOver s e bytes
  else if c.inHandler then .next (s.endWith e (e.report Code.double.num 0 c.mask))
  else if c.ehbase = 0 then fatal s e .illegal c.mask
  else if 16 ≤ c.stack.length then fatal s e .rstack c.mask
  else
    let em := emulationRegs c.pc cause (lenCode f.len pair) op f pair second f.imm
    let c' := c.push (fun seq =>
      { kind := .handler, aw := c.mask, ar := c.mask, rpc := some (c.pc + BitVec.ofNat 32 bytes),
        ppc := c.pc, pm := c.path, seq })
    .next (s.modClutch e.who (fun _ => { c' with em, path := c.mask, mask := c.mask, pc := c.ehbase }))

/-- A TOKEN that EMRET raises ends the launch with DOUBLE, in the handler or out of it (R198). -/
def emretToken (s : State) (e : Env) : Out := .next (s.endWith e (e.report Code.double.num Code.token.num e.cl.mask))

/-- The return from the handler (R197, R198): the top entry must be the HANDLER entry and the path must be
its awaited lanes; otherwise EMRET raises TOKEN. -/
def emulationReturn (s : State) (e : Env) (retry : Bool) : Out :=
  let c := e.cl
  match c.stack.getLast? with
  | none => emretToken s e
  | some x =>
    if x.kind = .handler ∧ c.path = x.aw then
      let pc := if retry then x.ppc else x.rpc.getD c.pc
      let c' := { c with
        stack := c.stack.dropLast, path := x.pm &&& ~~~c.exited, mask := x.ar &&& ~~~c.exited, pc }
      settleClutch s e c'
    else emretToken s e

end Sys2Proof.Machine
end

