-- ==== Sys2Proof/Machine/Flags.lean ====
section
/-! DEFINITION. The sticky register of a chorus (R100, R130, R132, R428): entering flags, writing it, the flags
that are armed, and the flags that are still to come. The flag a single operation raises is computed beside
the operation, in Numbers and in the families. -/

namespace Sys2Proof.Machine

/-- What has happened to sticky in a cycle so far. -/
def StickyCycle.at_ (t : StickyCycle) (now : Nat) : StickyCycle := if t.cycle = now + 1 then t else { cycle := now + 1 }

/-- Flags enter a chorus's sticky register in a cycle (R100). -/
def Chorus.raise (c : Chorus) (now : Nat) (flags : Word) : Chorus :=
  let t := c.stickyNow.at_ now
  { c with sticky := c.sticky ||| flags, stickyNow := { t with set := t.set ||| flags } }

/-- Set sticky flags of a chorus (R100). -/
def State.flag (s : State) (uid : Nat) (flags : Word) : State :=
  if flags = 0 then s else s.modChorus uid (·.raise s.now flags)

/-- A write of sticky: flags clear where a 1 is written, arm bits are set (R100, R130). -/
def stickyWrite (old new : Word) : Word := (old &&& ~~~new &&& 0x1F) ||| (new &&& 0x1F0000)

/-- A clutch's WRCR of sticky in a cycle: a flag set in the same cycle stays set, and the arm bits that a higher clutchid
has written in the same cycle remain (R100, R130). -/
def Chorus.writeSticky (c : Chorus) (now clutch : Nat) (w : Word) : Chorus :=
  let t := c.stickyNow.at_ now
  let arms := if clutch + 1 < t.armer then c.sticky else w
  { c with
    sticky := (stickyWrite c.sticky w &&& 0x1F) ||| t.set ||| (arms &&& 0x1F0000)
    stickyNow := { t with armer := max t.armer (clutch + 1) } }

/-- Whether a flag is set whose arm bit is set (R428). -/
def stickyArmed (sticky : Word) : Bool := sticky &&& (sticky >>> 16) &&& 0x1F ≠ 0

/-- Whether an earlier flag-setting producer of the clutch has not landed (R129, R428). -/
def State.flagsPending (s : State) (who : ClutchId) : Bool :=
  s.landings.any (fun p => p.who = who && p.canFlag)

/-- FMT, when a register source passed its tag check only because it is RAW (R131). -/
def fmtFlag (raw : Bool) : Word := if raw then flagFmt else 0

end Sys2Proof.Machine
end

