-- ==== Sys2Proof/Machine/Operands.lean ====
section
/-! DEFINITION. Operand checks (steps 3 and 4 of R200), neighbour reads (R111), tag checks (R32), poison (R94)
and the shared run of an instruction that only changes registers. -/

namespace Sys2Proof.Machine

/-- The lane a neighbour select reads; none is the zero of an edge (R62, R111). -/
def neighbourLane (edge sel l : Nat) : Option Nat :=
  match sel with
  | 1 =>
    if l = 0 ∧ edge = 0 then none
    else if l = 0 ∧ edge = 1 then some 95
    else if l = 0 ∧ edge = 2 then some 0
    else if l % 32 = 0 ∧ edge = 3 then some (l + 31)
    else some (l - 1)
  | 2 =>
    if l = 95 ∧ edge = 0 then none
    else if l = 95 ∧ edge = 1 then some 0
    else if l = 95 ∧ edge = 2 then some 95
    else if l % 32 = 31 ∧ edge = 3 then some (l - 31)
    else some (l + 1)
  | _ => some l

/-- fmode.EDGE (R98). -/
def Clutch.edge (c : Clutch) : Nat := c.fmode.toNat / 2 ^ 6 % 4

/-- A source of a register instruction. -/
structure Src where
  reg : Nat
  /-- words read: 1, or 2 for an even-odd pair -/
  width : Nat := 1
  sel : Nat := 0
  /-- the value of an immediate that takes its place (R66) -/
  imm : Option Nat := none
  /-- the tag it is checked against (R32) -/
  tag : Option Nat := none
  /-- read in the lowest active lane only -/
  low : Bool := false
  /-- read in the active lanes below this one -/
  upTo : Nat := 96

/-- The lane a source is read in; a uniform register reads the same in every lane (R62). -/
def Env.selected (e : Env) (x : Src) (l : Nat) : Option Nat :=
  if isUniform e.hdr.uniform x.reg then some l else neighbourLane e.cl.edge x.sel l

/-- The value of a source in a lane. -/
def Env.source (e : Env) (s : State) (x : Src) (l : Nat) : Nat :=
  match x.imm with
  | some v => v
  | none =>
    match e.selected x l with
    | none => 0
    | some k => if x.width = 2 then e.read64 s x.reg k else (e.read s x.reg k).toNat

/-- Whether the word of register `reg` in lane `l` is poisoned and its lane active (R94). -/
def Env.poisonAt (e : Env) (reg l : Nat) : Bool :=
  if isUniform e.hdr.uniform reg then e.cl.poison.contains (96 * reg)
  else inMask e.mask l && e.cl.poison.contains (96 * reg + l)

/-- The active lanes that read a source: all of them, but for one that the instruction reads in the lowest alone or only
below a lane. -/
def Env.readers (e : Env) (x : Src) : List Nat :=
  (lanesIn e.mask).filter (fun l => (!x.low || l = e.low) && l < x.upTo)

/-- The lanes in which a source is read: its own or its neighbours', of every active lane that reads it. -/
def Env.readLanes (e : Env) (x : Src) : List Nat :=
  (e.readers x).filterMap (e.selected x)

/-- Whether reading a source in some lanes meets poison (R94). -/
def Env.poisonIn (e : Env) (x : Src) (lanes : List Nat) : Bool :=
  x.imm.isNone && !e.cl.poison.isEmpty
    && lanes.any (fun l => (List.range x.width).any (fun i => e.poisonAt (x.reg + i) l))

/-- The lanes that meet the poison of a source, `from_ l` being the lanes that lane `l` reads (R205): all that read it for
a uniform register. -/
def Env.poisonMask (e : Env) (x : Src) (from_ : Nat → List Nat) : Mask :=
  if (List.range x.width).any (fun i => isUniform e.hdr.uniform (x.reg + i) && e.poisonIn { x with width := 1, reg := x.reg + i } [0])
  then maskOf (fun l => (e.readers x).contains l)
  else maskOf (fun l => e.poisonIn x (from_ l))

/-- The same for a source read in its own or neighbouring lanes. -/
def Env.poisonMet (e : Env) (x : Src) : Mask :=
  e.poisonMask x (fun l => if (e.readers x).contains l then (e.selected x l).toList else [])

/-- The same for a source read once in each of some lanes. -/
def Env.poisonAmong (e : Env) (x : Src) (lanes : List Nat) : Mask :=
  e.poisonMask x (fun l => if lanes.contains l then [l] else [])

/-- The lanes that meet poison in any of some sources. -/
def Env.poisonAll (e : Env) (srcs : List Src) : Mask := srcs.foldl (fun m x => m ||| e.poisonMet x) 0

/-- The outcome of a tag check of one register: failed, or passed through RAW (R32). -/
def Env.tagFails (e : Env) (reg tag : Nat) : Bool := e.cl.tag reg ≠ 0 && e.cl.tag reg ≠ tag
def Env.tagRaw (e : Env) (reg tag : Nat) : Bool := e.cl.tag reg = 0 && tag ≠ 0

/-- Whether a source fails its tag check; an immediate passes (R131). -/
def Env.srcFails (e : Env) (x : Src) : Bool :=
  match x.imm, x.tag with
  | none, some t => (List.range x.width).any (fun i => e.tagFails (x.reg + i) t)
  | _, _ => false

/-- FMT, when a checked source passes only because it is RAW (R131). -/
def Env.srcFmt (e : Env) (x : Src) : Bool :=
  match x.imm, x.tag with
  | none, some t => (List.range x.width).any (fun i => e.tagRaw (x.reg + i) t)
  | _, _ => false

/-- What step 3 of R200 finds. -/
inductive Ready where
  | go
  /-- a source or the destination is empty, and the clutch waits (R61, R92) -/
  | wait
  /-- an empty source whose FE bit is set (R61) -/
  | trap
deriving DecidableEq, Repr

/-- Whether a register is empty. -/
def Clutch.isEmpty (c : Clutch) (x : Named) : Bool :=
  if x.moment then c.mempty.contains x.reg else c.empty.contains x.reg

/-- Step 3 of R200 for some reads and writes. -/
def Clutch.ready (c : Clutch) (reads writes : List Named) : Ready :=
  if reads.any (fun x => c.isEmpty x && x.fe) then .trap
  else if (reads ++ writes).any c.isEmpty then .wait
  else .go

/-- The opcodes that a pending FENCE holds (R249). -/
def fenceHolds (op : Nat) : Bool :=
  op = 0x6A || op = 0x6B || (0x80 ≤ op && op ≤ 0x82) || (0x88 ≤ op && op ≤ 0x9B) || op = 0xB8
    || (0xC0 ≤ op && op ≤ 0xCB) || (0xD8 ≤ op && op ≤ 0xDB) || op = 0xE0 || op = 0xE1

/-- An acquire of the clutch that has not returned (R248). -/
def State.acquiring (s : State) (who : ClutchId) : Bool :=
  s.landings.any (fun p => p.who = who && p.holds)

/-- A pending fence holds the word, or an acquire on its way holds the accesses after it (R248, R249). -/
def State.heldBack (s : State) (e : Env) (op : Nat) : Bool :=
  fenceHolds op && (e.cl.fence.isSome || (op ≠ 0x80 && op ≠ 0x81 && s.acquiring e.who))

/-- Steps 2 and 3 of R200 that every clutch word makes after decoding: an all-zero mask passes it over (R15),
a pending fence, an acquire on its way and an empty register hold it, an EMPTY trap stops the core. `more` names further reads. -/
def issueWith (op : Nat) (f : Fields) (more : Env → List Named) (s : State) (k : Env → Out) : Out :=
  withClutch s fun e =>
    if e.mask = 0 then passOver s e f.len.bytes
    else if s.heldBack e op then .next s
    else match e.cl.ready (readsOf op f ++ more e) (writesOf op f) with
      | .trap => .next (s.clutchStop e .empty)
      | .wait => .next s
      | .go => k e

def issue (op : Nat) (f : Fields) (s : State) (k : Env → Out) : Out := issueWith op f (fun _ => []) s k

/-- An instruction that only changes registers and sticky flags. -/
structure Alu where
  srcs : List Src
  dst : Nat
  /-- registers written -/
  n : Nat := 1
  /-- tags of the registers written -/
  tags : List Nat := [0]
  /-- a long-latency producer (R91) -/
  long : Bool := false
  /-- the lanes in which source `i` is read, where that is not each active lane's own or neighbour -/
  lanes : Option (Nat → List Nat) := none
  /-- results, register by register, and flags, from the sources' values by number and lane -/
  run : (Nat → Nat → Nat) → List Lanes × Word

/-- Results computed lane by lane. -/
def perLane (mask : Mask) (n : Nat) (g : Nat → List Nat × Word) : List Lanes × Word :=
  let rs := lanesOf (fun l => if inMask mask l then g l else ([], 0))
  ((List.range n).map (fun i => rs.map (fun r => BitVec.ofNat 32 (r.1.getD i 0))),
    rs.foldl (fun a r => a ||| r.2) 0)

/-- The same 32-bit result in every lane. -/
def sameLanes (w : Nat) : List Lanes × Word := ([lanesOf fun _ => BitVec.ofNat 32 w], 0)

/-- A 64-bit result as its two words. -/
def twoWords (w : Nat) : List Nat := [w % 2 ^ 32, w / 2 ^ 32 % 2 ^ 32]

/-- Whether an instruction fails a tag check (FORMAT, step 4 of R200). -/
def Alu.fails (a : Alu) (e : Env) : Bool := a.srcs.any e.srcFails

/-- Whether an instruction reads a poisoned word in an active lane. -/
def Alu.poisoned (a : Alu) (e : Env) : Bool :=
  a.srcs.zipIdx.any (fun (x, i) => e.poisonIn x (match a.lanes with | some g => g i | none => e.readLanes x))

/-- The lanes in which an instruction meets poison (R205). -/
def Alu.poisonMask (a : Alu) (e : Env) : Mask :=
  a.srcs.zipIdx.foldl (fun m (x, i) => m ||| (match a.lanes with | some g => e.poisonAmong x (g i) | none => e.poisonMet x)) 0

/-- The results and flags of an instruction. FMT belongs to the tag check and is set for the instructions of R136, R137,
R141 and R148 too, whose entries say that they set no flag (R131; DEDUCED, log 64). -/
def Alu.result (a : Alu) (s : State) (e : Env) : List Lanes × Word :=
  let (ws, flags) := a.run (fun i l => match a.srcs[i]? with | some x => e.source s x l | none => 0)
  (ws, if a.srcs.any e.srcFmt then flags ||| flagFmt else flags)

/-- Add a landing for a clutch and mark its destination empty (R91). -/
def State.produce (s : State) (p : Landing) : State :=
  let s := s.modClutch p.who (fun c =>
    match p.dst with
    | .ordinary first n => { c with empty := (List.range n).foldl (fun es i => setInsert es (first + i)) c.empty }
    | .moment reg => { c with mempty := setInsert c.mempty reg })
  { s with landings := s.landings ++ [{ p with id := s.fresh }], fresh := s.fresh + 1 }

/-- Write the destination registers of a clutch under a mask. -/
def Clutch.putAll (c : Clutch) (n : Nat) (mask : Mask) (dst : Nat) (tags : List Nat) (ws : List Lanes) : Clutch :=
  ws.zipIdx.foldl (fun c (w, i) => c.put n mask (dst + i) (tags.getD i 0) (lane w)) c

/-- The effect of an instruction that only changes registers. -/
def Alu.effect (a : Alu) (s : State) (e : Env) (r : List Lanes × Word) : State :=
  if a.long then
    s.produce { id := 0, who := e.who, dst := .ordinary a.dst a.n, mask := e.mask, words := r.1,
                tag := BitVec.ofNat 5 (a.tags.getD 0 0), flags := r.2, canFlag := true }
  else
    (s.modClutch e.who (fun c => c.putAll e.hdr.uniform e.mask a.dst a.tags r.1)).flag e.who.chorus r.2

/-- Run an instruction that only changes registers: R200's steps, then its effect, then the next word. -/
def runAlu (op : Nat) (f : Fields) (mk : State → Env → Alu) (s : State) : Out :=
  issue op f s fun e =>
    let a := mk s e
    if a.fails e then fatal s e .format e.mask
    else if a.poisoned e then poisonEnd s e (a.poisonMask e)
    else .next ((a.effect s e (a.result s e)).bump.modClutch e.who (·.advance f.len.bytes))

/-- Run the two operations of a pair word: both make their checks before either has any effect, both under
one mask (R70). -/
def runPair (x y : PairOp) (mkx mky : State → Env → Alu) (s : State) : Out :=
  withClutch s fun e =>
    if e.mask = 0 then passOver s e 16
    else
      let reads := readsOf x.op.toNat x.f ++ readsOf y.op.toNat y.f
      let writes := writesOf x.op.toNat x.f ++ writesOf y.op.toNat y.f
      match e.cl.ready reads writes with
      | .trap => .next (s.clutchStop e .empty)
      | .wait => .next s
      | .go =>
        let a := mkx s e
        let b := mky s e
        if a.fails e || b.fails e then fatal s e .format e.mask
        else if a.poisoned e || b.poisoned e then poisonEnd s e (a.poisonMask e ||| b.poisonMask e)
        else
          let s' := b.effect (a.effect s e (a.result s e)) e (b.result s e)
          .next (s'.bump.modClutch e.who (·.advance 16))

/-- The modes in effect for a floating instruction (R43, R65, R155). -/
def Env.modes (e : Env) (mod : Nat) : Modes :=
  let fm := e.cl.fmode.toNat
  let rm := if mod.testBit 5 then mod / 8 % 4 else fm % 4
  let sub := if mod.testBit 2 then mod % 4 else fm / 4 % 4
  { rm := RM.ofCode rm, fi := sub.testBit 0, fo := sub.testBit 1 }

/-- The tag TG selects, with the opcode's default for 0 (R64). -/
def tagOr (f : Fields) (default : Nat) : Nat := if f.tg = 0 then default else f.tg.toNat

end Sys2Proof.Machine
end

