-- ==== Sys2Proof/Machine/Memory.lean ====
section
/-! DEFINITION. Memories: physical bytes, page tables and translation (R217 to R228), local addresses (R214,
R215), L1 (R218, R331), plain writes and arbitration windows (R338), and the performing of accesses (R236 to
R247). -/

namespace Sys2Proof.Machine

/-! ### Physical memory -/

/-- The canonical form of memory: rising addresses, no entry that equals what an unlisted byte reads as. -/
def Memory.wf (m : Memory) : Bool := Store.wf 0 m

/-- The byte at a physical address; an unlisted byte reads 0 (log 2). -/
def Memory.read (m : Memory) (pa : Nat) : Byte := Store.get 0 m pa

/-- Memory with one byte written. -/
def Memory.write (m : Memory) (pa : Nat) (b : Byte) : Memory := Store.set 0 m pa b

/-- Memory with bytes written. -/
def Memory.writeAll (m : Memory) (bytes : Store Byte) : Memory :=
  bytes.foldl (fun m x => Memory.write m x.1 x.2) m

/-- A little-endian number from its bytes (R1). -/
def numberOf (bytes : List Byte) : Nat := bytes.foldr (fun b acc => b.toNat + 256 * acc) 0

/-- The bytes of a number, lowest first (R1). -/
def bytesOfNat (n value : Nat) : List Byte :=
  (List.range n).map (fun i => BitVec.ofNat 8 (value / 2 ^ (8 * i)))

/-- `n` bytes of physical memory as a number. -/
def State.number (s : State) (pa n : Nat) : Nat :=
  numberOf ((List.range n).map (fun i => Memory.read s.mem (pa + i)))

/-- A range of physical addresses lies in one mapped range of a die (R217). -/
def mapped (pa n : Nat) : Bool :=
  let o := pa % 2 ^ 39
  pa < 2 ^ 41 && (o + n ≤ 2 ^ 36 || (2 ^ 38 ≤ o && o + n ≤ 2 ^ 39))

/-- The home die of a physical address (R217). -/
def homeOf (pa : Nat) : Nat := pa / 2 ^ 39 % 4

/-- The home slice of a physical address (R217). -/
def sliceOf (pa : Nat) : Nat := (pa / 2 ^ 8 % 64) ^^^ (pa / 2 ^ 14 % 64) ^^^ (pa / 2 ^ 20 % 64)

/-- A sector of 64 bytes is poisoned (R219). -/
def State.poisonedAt (s : State) (pa : Nat) : Bool := s.poisoned.contains (pa / 64)

/-! ### The die caches (R217, R218, R246) -/

/-- Lines that a slice of a die cache holds: 2 MiB (R210). -/
def sliceLines : Nat := 8192

/-- The slice that serves a line: its home slice, or another usable one where that slice is not usable (R217, R414). -/
def Die.slice (d : Die) (die sec : Nat) : Nat :=
  let n := sliceOf (64 * sec)
  let usable := (List.range 64).filter (fun i => d.defSlices.getLsbD i)
  if d.defSlices.getLsbD n then n else usable.getD (Config.spareSlice die n % usable.length) n

/-- A sector of 64 bytes comes into the cache of its home die; a full slice drops its oldest line (log 24). -/
def Die.takeSector (d : Die) (die sec : Nat) : Die :=
  let n := sec / 4
  if d.cache.any (fun x => x.line = n) then
    { d with cache := updateFirst (fun x => x.line = n) (fun x => { x with sectors := setInsert x.sectors (sec % 4) }) d.cache }
  else
    let slice (line : Nat) : Nat := d.slice die (4 * line)
    let mine := d.cache.filter (fun x => slice x.line = slice n)
    let keep := if mine.length < sliceLines then d.cache
      else d.cache.filter (fun x => some x.line ≠ mine.getLast?.map (·.line))
    { d with cache := { line := n, sectors := [sec % 4] } :: keep }

/-- The die cache holds a sector. -/
def Die.holdsSector (d : Die) (sec : Nat) : Bool := d.cache.any (fun x => x.line = sec / 4 && x.sectors.contains (sec % 4))

/-- Sectors come into the caches of their home dies. -/
def State.fillCache (s : State) (sectors : List Nat) : State :=
  sectors.foldl (fun s sec => s.modDie (homeOf (64 * sec)) (fun d => d.takeSector (homeOf (64 * sec)) sec)) s

/-- Reads of physical places go through the die caches of their homes (R210). -/
def State.readsAt (s : State) (pas : List Nat) : State := s.fillCache ((pas.map (· / 64)).foldl setInsert [])

/-- A write to a sector brings it into the die cache; DRAM does not hold it yet. -/
def Die.dirtySector (d : Die) (die sec : Nat) : Die :=
  let here (x : CacheLine) : Bool := x.line = sec / 4 && x.sectors.contains (sec % 4)
  let d := d.takeSector die sec
  { d with cache := updateFirst here (fun x => { x with dirty := setInsert x.dirty (sec % 4) }) d.cache }

/-- Sectors of pages that admit no allocation, which the die caches did not hold before an access, leave them (R221). -/
def State.uncache (s before : State) (sectors : List Nat) : State :=
  sectors.foldl (fun s sec =>
    if (before.die (homeOf (64 * sec))).holdsSector sec then s
    else s.modDie (homeOf (64 * sec)) (fun d => { d with
      cache := (d.cache.map (fun x => if x.line = sec / 4 then
          { x with sectors := x.sectors.filter (· ≠ sec % 4), dirty := x.dirty.filter (· ≠ sec % 4) } else x)).filter
        (fun x => !x.sectors.isEmpty) })) s

/-- CLEAN and EVICT write a line's data to DRAM; EVICT drops the line (R246). -/
def Die.cleanLine (d : Die) (evict : Bool) (n : Nat) : Die :=
  if evict then { d with cache := d.cache.filter (fun x => x.line ≠ n) }
  else { d with cache := updateFirst (fun x => x.line = n) (fun x => { x with dirty := [] }) d.cache }

/-! ### Writes -/

/-- A physical address lies in the image of a launch, where it lay when the launch was accepted. -/
def Launch.codeAt (l : Launch) (pa : Nat) : Bool := l.code.any (fun x => x.2.2 ≤ pa && pa < x.2.2 + x.2.1)

/-- Bytes of one sector in memory: written-state goes (R222, R300), a full write of the sector clears its
poison (R219), records in ring slots are noted as written over (R376), and what stood in an image is remembered (R173). -/
def State.putSector (s : State) (bytes : Store Byte) : State :=
  match bytes with
  | [] => s
  | (pa, _) :: _ =>
    { s with
      dies := s.dies.modify {} (homeOf pa) (fun d => d.dirtySector (homeOf pa) (pa / 64))
      mem := Memory.writeAll s.mem bytes
      written := if s.written.isEmpty then [] else s.written.filter (fun a => !bytes.any (fun x => x.1 = a))
      poisoned := if bytes.length = 64 then setErase s.poisoned (pa / 64) else s.poisoned
      ring := s.ring.map (fun x => if bytes.any (fun b => b.1 = x.1) then (x.1, 2) else x)
      imagePast := if s.launches.any (·.codeAt pa) then s.imagePast ++ [bytes.map (fun x => (x.1, Memory.read s.mem x.1))]
        else s.imagePast }

/-- Bytes in rising order of address, divided by sector. -/
def bySector : Store Byte → List (Store Byte)
  | [] => []
  | x :: rest =>
    match bySector rest with
    | [] => [[x]]
    | g :: gs =>
      match g with
      | y :: _ => if x.1 / 64 = y.1 / 64 then (x :: g) :: gs else [x] :: g :: gs
      | [] => [x] :: gs

/-- `n` bytes from an address, as a store. -/
def bytesAt (pa n value : Nat) : Store Byte :=
  (List.range n).map (fun i => (pa + i, BitVec.ofNat 8 (value / 2 ^ (8 * i))))

/-! ### Page tables (R220, R221) -/

/-- A field of a page table entry. -/
def pteField (w lo n : Nat) : Nat := w / 2 ^ lo % 2 ^ n

def pteKey (w : Nat) : Nat := pteField w 56 8
def pteCache (w : Nat) : Nat := pteField w 54 2
def pteHome (w : Nat) : Nat := pteField w 52 2
def pteKind (w : Nat) : Nat := pteField w 50 2
/-- PA of the next table or of the page. -/
def pteAddr (w : Nat) : Nat := 2 ^ 8 * pteField w 8 33
def pteX (w : Nat) : Bool := w.testBit 4
def pteW (w : Nat) : Bool := w.testBit 3
def pteLeaf (w : Nat) : Bool := w.testBit 2
def pteV (w : Nat) : Bool := w.testBit 0

/-- The lowest VA bit and the number of VA bits that a level indexes (R220). -/
def levelBits (level : Nat) : Nat × Nat :=
  match level with
  | 0 => (48, 9)
  | 1 => (39, 9)
  | 2 => (30, 9)
  | 3 => (21, 9)
  | _ => (16, 5)

/-- The validity of an entry at a level (R221). -/
def pteValid (level w : Nat) : Bool :=
  let size := 2 ^ (levelBits level).1
  let next := if level = 3 then 2 ^ 8 else 2 ^ 12
  pteV w && pteField w 41 9 = 0 && pteField w 5 3 = 0 && !w.testBit 1
    && (if pteLeaf w then
          2 ≤ level && pteAddr w % size = 0 && pteCache w ≠ 3 && mapped (pteAddr w) size
            && pteHome w = homeOf (pteAddr w)
        else
          level < 4 && pteField w 50 14 = 0 && !pteX w && !pteW w && pteAddr w % next = 0)

/-- What a walk finds. -/
inductive Walked where
  | page (va size : Nat) (pte : Nat)
  | none
  /-- a poisoned sector (R219) -/
  | poison
deriving DecidableEq, Repr

/-- A walk through the levels that remain (R220, R226). -/
def walkFrom (s : State) (va : Nat) : List Nat → Nat → Walked
  | [], _ => .none
  | level :: rest, table =>
    let (lo, n) := levelBits level
    let at_ := table + 8 * (va / 2 ^ lo % 2 ^ n)
    if !mapped at_ 8 then .none
    else if s.poisonedAt at_ then .poison
    else
      let w := s.number at_ 8
      if !pteValid level w then .none
      else if pteLeaf w then .page (va / 2 ^ lo * 2 ^ lo) (2 ^ lo) w
      else walkFrom s va rest (pteAddr w)

/-- A walk of a context's page table. -/
def State.walk (s : State) (ctx va : Nat) : Walked :=
  if 2 ^ 57 ≤ va then .none else walkFrom s va [0, 1, 2, 3, 4] (s.context ctx).ptroot

/-- The sectors of tables that a walk reads, through the die caches of their homes (R224). -/
def tableReads (s : State) (va : Nat) : List Nat → Nat → List Nat
  | [], _ => []
  | level :: rest, table =>
    let (lo, n) := levelBits level
    let at_ := table + 8 * (va / 2 ^ lo % 2 ^ n)
    if !mapped at_ 8 then []
    else
      let w := s.number at_ 8
      at_ / 64 :: (if s.poisonedAt at_ || !pteValid level w || pteLeaf w then [] else tableReads s va rest (pteAddr w))

/-- What a walk of a context's page table leaves in the die caches. -/
def State.walked (s : State) (ctx va : Nat) : State :=
  s.fillCache (tableReads s va [0, 1, 2, 3, 4] (s.context ctx).ptroot)

/-! ### Translation lookaside buffers (R224, R225) -/

def TlbEntry.covers (e : TlbEntry) (ctx va : Nat) : Bool := e.ctx = ctx && e.va ≤ va && va < e.va + e.size

/-- The physical address of a byte in a page. -/
def TlbEntry.pa (e : TlbEntry) (va : Nat) : Nat := pteAddr e.pte.toNat + (va - e.va)

/-- Take in an entry, dropping the oldest beyond the capacity. -/
def tlbAdd (cap : Nat) (e : TlbEntry) (tlb : List TlbEntry) : List TlbEntry :=
  if tlb.contains e then tlb else (e :: tlb).take cap

/-- The translation that a core or its die holds for an address. -/
def State.lookup (s : State) (c : CoreId) (ctx va : Nat) : Option TlbEntry :=
  match (s.core c).tlb.find? (·.covers ctx va) with
  | some e => some e
  | none => (s.die c.die).tlb.find? (·.covers ctx va)

/-- Fill both levels. -/
def State.fillTlb (s : State) (c : CoreId) (e : TlbEntry) : State :=
  (s.modDie c.die (fun d => { d with tlb := tlbAdd 32768 e d.tlb })).modCore c
    (fun k => { k with tlb := tlbAdd 256 e k.tlb })

/-- The port of an access that belongs to no core of a die: it has no first-level TLB. -/
def dieSide (die : Nat) : CoreId := { die, core := 48 }

/-- The translation of an engine's access: what the TLBs hold, else what a walk finds (R224). -/
def State.translate (s : State) (c : CoreId) (ctx va : Nat) : Walked :=
  match s.lookup c ctx va with
  | some e => .page e.va e.size e.pte.toNat
  | none => s.walk ctx va

/-- Whether an invalidation covers a page of a context (R227). -/
def TlbInv.covers (i : TlbInv) (ctx va size : Nat) : Bool :=
  i.scope = 0 || (i.ctx = ctx && (i.scope = 1 || (va ≤ i.page * 2 ^ 16 && i.page * 2 ^ 16 < va + size)))

/-- Walks of the tracker finish: they leave it, and no pending invalidation waits for them any more (R228). -/
def Die.finishWalks (d : Die) (ctx : Nat) (p : Nat → Bool) : Die :=
  { d with
    walks := d.walks.filter (fun x => !(x.ctx = ctx && p x.page))
    tlbPend := d.tlbPend.map (fun i => { i with walks := i.walks.filter (fun x => !(x.1 = ctx && p x.2)) }) }

/-- A walk that finds a page finishes: it satisfies every held miss whose address lies in the page, and the page enters the
TLBs of the die and of the cores that wait (R225), unless a pending invalidation that was written while the walk was in
flight matches it (R228). -/
def State.walkFound (s : State) (die ctx page va size pte : Nat) : State :=
  let d := s.die die
  let inPage (p : Nat) : Bool := va ≤ p * 2 ^ 16 && p * 2 ^ 16 < va + size
  let entry : TlbEntry := { ctx, va, size, pte := BitVec.ofNat 64 pte }
  let held := d.walks.filter (fun x => x.ctx = ctx && inPage x.page)
  let t := s.modDie die (fun d => d.finishWalks ctx inPage)
  if d.tlbPend.any (fun i => i.covers ctx va size && i.walks.contains (ctx, page)) then t
  else
    let t := t.modDie die (fun d => { d with tlb := tlbAdd 32768 entry d.tlb })
    (held.flatMap (·.waiters)).foldl (fun s x =>
      match s.chorus? x.1.chorus with
      | some ch =>
        match ch.clutch? x.1.clutch with
        | some cl => s.fillTlb (ch.coreAt cl.pos) entry
        | none => s
      | none => s) t

/-- The walk of a held miss, or of one that would join the tracker now, runs: 64 walks run at once, the oldest misses first
(R225, log 28). -/
def Die.walkRuns (d : Die) (ctx page : Nat) : Bool :=
  (d.walks.take 64).any (fun w => w.ctx = ctx && w.page = page)
    || (d.walks.length < 64 && !d.walks.any (fun w => w.ctx = ctx && w.page = page))

/-- The translations that an engine, a home or a matrix sequencer needs: an address that no TLB holds takes a walk, which
joins the tracker and completes within the step; the access waits while its walk cannot run (R224, R225). -/
def State.bring (s : State) (c : CoreId) (ctx : Nat) : List Nat → Option State
  | [] => some s
  | va :: rest =>
    if 2 ^ 57 ≤ va ∨ (s.lookup c ctx va).isSome then State.bring s c ctx rest
    else if !(s.die c.die).walkRuns ctx (va / 2 ^ 16) then none
    else match s.walk ctx va with
      | .page va0 size pte =>
        let s := (s.walked ctx va).walkFound c.die ctx (va / 2 ^ 16) va0 size pte
        let s := if c.core < 48 then s.fillTlb c { ctx, va := va0, size, pte := BitVec.ofNat 64 pte } else s
        State.bring s c ctx rest
      | _ => State.bring s c ctx rest

/-- One address of each page of some addresses. -/
def onePerPage (vas : List Nat) : List Nat :=
  vas.foldl (fun acc va => if acc.any (fun x => x / 2 ^ 16 = va / 2 ^ 16) then acc else acc ++ [va]) []

/-- The physical address that a page found by a walk gives a virtual address. -/
def pageAddr (va0 pte va : Nat) : Nat := pteAddr pte + (va - va0)

/-! ### Local addresses (R214, R215) -/

/-- Bytes of scratchpad address space of one core position. -/
def scratchSpan : Nat := 2 ^ 19

/-- The scratchpad key of an access of `n` bytes at an address of SPACE 1 or 2, when it passes R215. -/
def Env.localKey (e : Env) (space addr n : Nat) : Option Nat :=
  if space = 1 then
    if addr + n ≤ e.hdr.scratch then some (scratchSpan * e.cl.pos + addr) else none
  else
    let pos := addr / scratchSpan % 4
    let off := addr % scratchSpan
    if addr < 2 ^ 21 ∧ (e.hdr.cluster ∨ pos = (e.core.core % 4)) ∧ off + n ≤ e.hdr.scratch then
      some (scratchSpan * (if e.hdr.cluster then pos else e.cl.pos) + off)
    else none

/-- `n` scratchpad bytes of a chorus as a number. -/
def Chorus.number (c : Chorus) (key n : Nat) : Nat :=
  numberOf ((List.range n).map (fun i => c.scratch.get 0 (key + i)))

/-- Some keys of scratchpad meet a poisoned sector (R219). -/
def Chorus.scratchBad (c : Chorus) (keys : List Nat) : Bool :=
  !c.scratchPoison.isEmpty && keys.any (fun k => c.scratchPoison.contains (k / 64))

/-- Some accumulator cells meet a poisoned sector (R219). -/
def Chorus.accBad (c : Chorus) (cells : List Nat) : Bool :=
  !c.accPoison.isEmpty && cells.any (fun k => c.accPoison.contains (k / 16))

/-- The poison that a write leaves: it clears that of the sectors of `n` places that it writes whole (R219). -/
def clearedBy (n : Nat) (poison keys : List Nat) : List Nat :=
  poison.filter (fun sec => !(List.range n).all (fun i => keys.contains (n * sec + i)))

/-- The engines of an operation that read one of some scratchpad bytes read undefined values (R263). -/
def Job.overwrite (j : Job) (keys : List Nat) : Job :=
  { j with touched := (j.keys.filter (fun x => keys.any x.2.contains)).foldl (fun t x => setInsert t x.1) j.touched }

/-- The operations in progress of a chorus, changed. -/
def Chorus.mapJobs (c : Chorus) (g : Job → Job) : Chorus :=
  if c.seqs.all (·.jobs.isEmpty) then c else { c with seqs := c.seqs.map (fun q => { q with jobs := q.jobs.map g }) }

/-- Scratchpad bytes written, with the marks of the write-once state as they are (R316). -/
def Chorus.setScratch (c : Chorus) (bytes : Store Byte) : Chorus :=
  let keys := bytes.map (·.1)
  { c.mapJobs (·.overwrite keys) with
    scratch := bytes.foldl (fun m x => Store.set 0 m x.1 x.2) c.scratch
    unfenced := c.unfenced.filter (fun x => !keys.contains x.1), exposed := c.exposed.filter (fun k => !keys.contains k)
    scratchPoison := clearedBy 64 c.scratchPoison keys }

/-- A clutch has written scratchpad bytes; a chorus without a matrix sequencer keeps no account of it (R250). -/
def State.noteScratch (s : State) (who : ClutchId) (keys : List Nat) : State :=
  s.modChorus who.chorus (fun c =>
    if c.seqs.isEmpty then c else { c with unfenced := keys.map (·, who.clutch) ++ c.unfenced })

/-- What a FENCE.OPR of a clutch covers of its scratchpad writes (R250). -/
def Chorus.fence (c : Chorus) (clutch : Nat) (covered : Nat → Bool) : Chorus :=
  let mine (k : Nat) : Bool := covered k && c.unfenced.contains (k, clutch)
  if c.unfenced.isEmpty then c
  else { c with
    exposed := c.exposed.filter (fun k => !mine k), unfenced := c.unfenced.filter (fun x => !(x.2 = clutch && covered x.1)) }

/-- Scratchpad bytes written plainly, by an atomic or by a copy: they become unwritten (R316). -/
def Chorus.writeScratch (c : Chorus) (bytes : Store Byte) : Chorus :=
  { c.setScratch bytes with
    scratchWritten :=
      if c.scratchWritten.isEmpty then [] else c.scratchWritten.filter (fun k => !bytes.any (fun x => x.1 = k)) }

/-! ### Accumulator cells (R254) -/

/-- The key of an accumulator cell of a chorus: core position, sub-core, chorus row, column. -/
def cellKey (pos sub row col : Nat) : Nat := ((4 * pos + sub) * 512 + row) * 128 + col

/-! ### The first-level cache (R218, R331) -/

/-- A sector of a line, by physical sector number. -/
def L1Line.sector? (x : L1Line) (sec : Nat) : Option L1Sector :=
  if x.line ≠ sec / 2 then none else if sec % 2 = 0 then x.low else x.high

/-- The sector that an L1 holds. -/
def Core.l1Sector? (k : Core) (sec : Nat) : Option L1Sector := k.l1.findSome? (·.sector? sec)

/-- A line with each sector changed or dropped. -/
def L1Line.map (x : L1Line) (g : Nat → L1Sector → Option L1Sector) : L1Line :=
  { x with low := x.low.bind (g (2 * x.line)), high := x.high.bind (g (2 * x.line + 1)) }

/-- Change or drop the sectors of an L1; a line without sectors leaves it. -/
def State.mapL1 (s : State) (c : CoreId) (g : Nat → L1Sector → Option L1Sector) : State :=
  if (s.core c).l1.isEmpty then s
  else s.modCore c (fun k => { k with l1 := (k.l1.map (·.map g)).filter (fun x => x.low.isSome || x.high.isSome) })

/-- Drop the sectors of an L1 that meet a test. -/
def State.dropL1 (s : State) (c : CoreId) (p : Nat → Bool) : State :=
  s.mapL1 c (fun sec x => if p sec then none else some x)

/-- Invalidate a core's whole L1. -/
def State.invalidateL1 (s : State) (c : CoreId) : State := s.dropL1 c (fun _ => true)

/-- The bytes of a physical sector. -/
def State.sectorBytes (s : State) (sector : Nat) : List Byte :=
  (List.range 64).map (fun i => Memory.read s.mem (64 * sector + i))

/-- Lines that an L1 beside a partition holds (R211, R218). -/
def l1Capacity (k : Core) : Nat := (655360 - k.partition) / 128

/-- A sector enters an L1; a full one loses its oldest line. -/
def Core.putL1 (k : Core) (sec : Nat) (x : L1Sector) : Core :=
  let put (y : L1Line) : L1Line := if sec % 2 = 0 then { y with low := some x } else { y with high := some x }
  if k.l1.any (fun y => y.line = sec / 2) then { k with l1 := updateFirst (fun y => y.line = sec / 2) put k.l1 }
  else { k with l1 := (put { line := sec / 2 } :: k.l1).take (l1Capacity k) }

/-- A load of some sectors by a core: a sector that L1 holds is served from it unless it has just been
replaced, which is free (R331); any other comes from its home, poison with it (R219), and enters the die cache and L1 where the
page's CACHE admits it (R221). -/
def State.fillL1 (s : State) (c : CoreId) (alloc die : Nat → Bool) : List Nat → State
  | [] => s
  | sector :: rest =>
    let keep := ((s.core c).l1Sector? sector).isSome && Config.freeBool s.tick
    let s := if keep then s else
      let s := (s.dropL1 c (· = sector)).fillCache (if die sector then [sector] else [])
      if alloc sector then
        s.modCore c (·.putL1 sector { data := s.sectorBytes sector, poisoned := s.poisoned.contains sector })
      else s
    State.fillL1 s.bump c alloc die rest

/-- The byte a load of a core reads after its sectors have been looked up. -/
def State.loadByte (s : State) (c : CoreId) (pa : Nat) : Byte :=
  match (s.core c).l1Sector? (pa / 64) with
  | some x => x.data.getD (pa % 64) 0
  | none => Memory.read s.mem pa

/-- A performed write of a core updates the copy in its own L1 (R331); a write of the whole sector clears its poison
(R219). -/
def State.updateL1 (s : State) (c : CoreId) (bytes : Store Byte) : State :=
  s.mapL1 c (fun sec x => some {
    data := x.data.zipIdx.map (fun (b, i) => (bytes.find? (fun y => y.1 = 64 * sec + i)).elim b (·.2))
    poisoned := x.poisoned && !(List.range 64).all (fun i => bytes.any (fun y => y.1 = 64 * sec + i)) })

/-! ### Arrival watches (R419, R420) -/

/-- The word a watch names: physical, or of a chorus's scratchpad. -/
def State.watchValue (s : State) (w : Watch) : Nat :=
  if w.win then
    match s.chorus? w.who.chorus with
    | some c => c.number w.pa 8
    | none => 0
  else s.number w.pa 8

/-- An ARRWAIT has issued and holds its clutch: its destination pair is empty until the watch fires (R91, R419). -/
def Clutch.watchFor (c : Clutch) (d : Nat) : Clutch :=
  { c with progress := .watching, empty := setInsert (setInsert c.empty d) (d + 1) }

/-- An ARRWAIT is withdrawn: its destination pair is full with what it held (R92, R423). -/
def Clutch.unwatch (c : Clutch) (d : Nat) : Clutch :=
  { c with progress := .none, empty := setErase (setErase c.empty d) (d + 1) }

/-- A watch fires: D receives the value and is full, the clutch goes on, and its core's L1 is invalidated. -/
def State.fireWatch (s : State) (die : Nat) (w : Watch) (v : Nat) : State :=
  let s := s.modDie die (fun d => { d with watches := d.watches.filter (· ≠ w) })
  match s.env? w.who with
  | none => s
  | some e =>
    if e.cl.progress ≠ .watching then s else
    let n := e.hdr.uniform
    let put (c : Clutch) : Clutch :=
      ((c.put n c.mask w.dst 0 (fun _ => BitVec.ofNat 32 v)).put n c.mask (w.dst + 1) 0
        (fun _ => BitVec.ofNat 32 (v / 2 ^ 32)))
    (s.modClutch w.who (fun c => ((put c).unwatch w.dst).advance 16)).invalidateL1 e.core

/-- Re-examine some watches of a die after a write (R420). -/
def State.examine (s : State) (die : Nat) (p : Watch → Bool) : State :=
  ((s.die die).watches.filter p).foldl (fun s w =>
    let v := s.watchValue w
    if w.target.toNat ≤ v then s.fireWatch die w v else s) s

/-- Bytes of one sector written to physical memory, and the watches on them. -/
def State.writeSector (s : State) (bytes : Store Byte) : State :=
  match bytes with
  | [] => s
  | (pa, _) :: _ =>
    (s.putSector bytes).examine (homeOf pa) (fun w => !w.win && bytes.any (fun x => w.pa ≤ x.1 && x.1 < w.pa + 8))

/-- Bytes written to physical memory at once, sector by sector. -/
def State.writeBytes (s : State) (bytes : Store Byte) : State :=
  (bySector bytes).foldl State.writeSector s

/-- Bytes written to a chorus's scratchpads, and the watches on them. -/
def State.writeLocal (s : State) (uid : Nat) (bytes : Store Byte) : State :=
  match s.chorus? uid with
  | none => s
  | some c =>
    (s.modChorus uid (·.writeScratch bytes)).examine c.die
      (fun w => w.win && w.who.chorus = uid && bytes.any (fun x => w.pa ≤ x.1 && x.1 < w.pa + 8))

/-- Bytes that a remote effect writes to a chorus's scratchpads: they stay written or unwritten (R316). -/
def State.applyLocal (s : State) (uid : Nat) (bytes : Store Byte) : State :=
  match s.chorus? uid with
  | none => s
  | some c => (s.writeLocal uid bytes).modChorus uid (fun d => { d with scratchWritten := c.scratchWritten })

/-! ### Combining leases and plain accesses (R308) -/

/-- A region of 64 KiB with an active lease. -/
def State.leasedAt (s : State) (pa : Nat) : Option Lease :=
  ((s.die (homeOf pa)).contention.find? (fun x => x.region = pa / 65536 && x.lease.isSome)).bind (·.lease)

/-- Recall the leases that cover some places; none when no place is leased. -/
def State.recall (s : State) (pas : List Nat) : Option State :=
  if (List.range 4).all (fun d => (s.die d).contention.isEmpty) then none
  else if pas.all (fun pa => (s.leasedAt pa).isNone) then none
  else some (pas.foldl (fun s pa =>
    match s.leasedAt pa with
    | some l =>
      if (s.die (homeOf pa)).contention.any (fun y => y.lease = some l && y.recalled) then s
      else (s.modDie (homeOf pa) (fun d => { d with
        contention := updateFirst (fun (y : Contention) => y.lease = some l) (fun y => { y with recalled := true }) d.contention })).send
          (.leaseRecall l)
    | none => s) s)

/-! ### Plain writes (R338) -/

/-- The window of a die that is open: window w covers its cycles 16w to 16w + 15. -/
def Die.window (d : Die) : Nat := d.cycle.toNat / 16

/-- Gather the plain writes of one instruction or engine in the windows of their homes; `w` says whose they are. -/
def State.gather (s : State) (w : PlainWrite) (bytes : Store Byte) : State :=
  let t := (bySector bytes).foldl (fun (s : State) g =>
    match g with
    | [] => s
    | (pa, _) :: _ => s.modDie (homeOf pa) (fun d => { d with
        windows := d.windows ++ [{ w with seq := s.fresh, window := d.window, bytes := g }] })) s
  { t with fresh := t.fresh + 1 }

/-- Writes that are gathered next go to pages that admit no allocation in the die cache, at some sectors (R221). -/
def State.gatherUncached (s : State) (sectors : List Nat) : State :=
  sectors.foldl (fun s sec => s.modDie (homeOf (64 * sec)) (fun d => { d with uncached := (s.fresh, sec) :: d.uncached })) s

/-- A gathered write of a copy or of a collective result still lies in an open window. -/
def State.jobOpen (s : State) (job : Nat) : Bool :=
  (List.range 4).any (fun d => (s.die d).windows.any (fun w => w.job = some job))

/-- The slice of a gathered write. -/
def PlainWrite.slice (w : PlainWrite) : Nat :=
  match w.bytes with
  | [] => 0
  | (pa, _) :: _ => sliceOf pa

/-- A clutch's write that still lies in an open window. -/
def State.hasWrite (s : State) (who : ClutchId) : Bool :=
  (List.range 4).any (fun d => (s.die d).windows.any (fun w => w.who = some who))

/-- A clutch's write to one of some bytes still lies in an open window (R247). -/
def State.writePending (s : State) (who : ClutchId) (pas : List Nat) : Bool :=
  (List.range 4).any (fun d => (s.die d).windows.any (fun w =>
    w.who = some who && pas.any (fun pa => w.bytes.any (fun x => x.1 = pa))))

/-! ### The order of one clutch's accesses (R247, R248) -/

/-- Physical places of `n` bytes at an address of a region, whose pages of 64 KiB lie where a list says. -/
def stepPlaces (pages : List (Nat × Nat)) (va n : Nat) : List Nat :=
  (List.range n).map (fun i =>
    ((pages.find? (fun x => x.1 = (va + i) / 65536)).map (·.2)).getD 0 + (va + i) % 65536)

/-- The physical places that a landing's access reaches. -/
def Access.globalPlaces (a : Access) : List Nat :=
  match a.op with
  | .stepStore _ _ _ _ _ _ tb base pages => stepPlaces pages base (2 * tb)
  | _ => if a.space = .global then a.places.flatMap (·.2) else []

/-- An access of the clutch to one of some places of a space has not been performed. -/
def State.accessPending (s : State) (who : ClutchId) (space : Space) (places : List Nat) : Bool :=
  s.landings.any (fun p => p.who = who && match p.access with
    | some a => (a.space = space && a.places.any (fun x => x.2.any (fun k => places.contains k)))
        || (space = .global && a.globalPlaces.any (fun k => places.contains k))
    | none => false)

/-- An instruction of the clutch still lies in its core's remote queue. -/
def State.inQueue (s : State) (e : Env) : Bool := (s.core e.core).queue.any (fun q => q.who = e.who)

/-- An access that has been performed or has returned: an acquire, such as an FREAD, returns when it lands (R332, R345). -/
def Landing.returned (p : Landing) : Bool := p.access.isNone && p.awaited = 0 && !p.holds

/-- Every earlier access of the clutch is performed or returned, as a release waits for (R248). A remote
instruction is performed when it leaves the core's remote queue (R328). -/
def State.drained (s : State) (e : Env) : Bool :=
  !s.hasWrite e.who && !s.inQueue e && s.landings.all (fun p => p.who ≠ e.who || p.returned)

/-- Every access that the clutch issued before a number is performed or returned. -/
def State.drainedBefore (s : State) (core : CoreId) (who : ClutchId) (n : Nat) : Bool :=
  (List.range 4).all (fun d => (s.die d).windows.all (fun w => w.who ≠ some who || n ≤ w.seq))
    && (s.core core).queue.all (fun q => q.who ≠ who || n ≤ q.seq)
    && s.landings.all (fun p => p.who ≠ who || n ≤ p.id || p.returned)

/-- A write of the clutch to its scratchpad has not been performed (R325). -/
def State.scratchPending (s : State) (who : ClutchId) : Bool :=
  s.landings.any (fun p => p.who = who && p.access.any (fun a => a.space = .scratch && match a.op with
    | .rmw .. => true
    | .cas .. => true
    | _ => false))

/-! ### Checks of global accesses (R235) -/

/-- An element: its lane, its address and its bytes. -/
structure Elem where
  lane : Nat
  addr : Nat
  bytes : Nat
deriving DecidableEq, Repr

/-- The addresses that an element translates, one or one in each of two pages (R239). -/
def Elem.pages (x : Elem) : List Nat :=
  let last := (x.addr + x.bytes - 1) % 2 ^ 64
  if x.addr / 2 ^ 16 = last / 2 ^ 16 then [x.addr] else [x.addr, last / 2 ^ 16 * 2 ^ 16]

/-- The virtual addresses of an element's bytes. -/
def Elem.vas (x : Elem) : List Nat := (List.range x.bytes).map (fun i => (x.addr + i) % 2 ^ 64)

/-- What translating the elements of an instruction finds. -/
inductive Xlated where
  | ok
  /-- no TLB holds this address: the walk tracker takes the miss -/
  | walk (va : Nat)
  /-- no valid entry or no permission: MISS -/
  | bad (va : Nat)
deriving DecidableEq, Repr

/-- Translate addresses in order (R224 to R226). -/
def State.xlate (s : State) (c : CoreId) (ctx : Nat) (write : Bool) : List Nat → Xlated
  | [] => .ok
  | va :: rest =>
    if 2 ^ 57 ≤ va then .bad va
    else match s.lookup c ctx va with
      | none => .walk va
      | some e => if write && !pteW e.pte.toNat then .bad va else State.xlate s c ctx write rest

/-- The miss of a clutch joins the walk tracker (R225); a full tracker leaves it waiting. -/
def State.miss (s : State) (e : Env) (access va : Nat) : State :=
  s.modDie e.ch.die (fun d =>
    let page := va / 2 ^ 16
    let me := (e.who, access, va)
    if d.walks.any (fun w => w.ctx = e.l.ctx && w.page = page) then
      let join (w : Walk) : Walk := if w.waiters.contains me then w else { w with waiters := w.waiters ++ [me] }
      { d with walks := updateFirst (fun w => w.ctx = e.l.ctx && w.page = page) join d.walks }
    else if 1024 ≤ d.walks.length then d
    else { d with walks := d.walks ++ [{ ctx := e.l.ctx, page, waiters := [me] }] })

/-- The stop MISS with its record; a full record queue leaves the clutch waiting (R226, R227). -/
def State.missStop (s : State) (e : Env) (access va : Nat) : State :=
  if 64 ≤ (s.die e.ch.die).missRecs.length ∨ (s.core e.core).stopped then s
  else
    (s.clutchStop e .miss).modDie e.ch.die (fun d => { d with
      missRecs := d.missRecs ++ [{ ctx := e.l.ctx, access, slot := e.cl.slotNum, coreid := coreWord e.core,
                                   va := va % 2 ^ 57 }] })

/-- The place of a byte that has been translated. -/
def State.paOf (s : State) (c : CoreId) (ctx va : Nat) : Nat :=
  match s.lookup c ctx va with
  | some e => e.pa va
  | none => 0

/-- The leaf of an address that has been translated. -/
def State.leafOf (s : State) (c : CoreId) (ctx va : Nat) : Nat :=
  match s.lookup c ctx va with
  | some e => e.pte.toNat
  | none => 0

/-- Fill the core's TLB from the die's for some addresses. -/
def State.touchTlb (s : State) (c : CoreId) (ctx : Nat) (vas : List Nat) : State :=
  vas.foldl (fun s va =>
    match (s.core c).tlb.find? (·.covers ctx va), (s.die c.die).tlb.find? (·.covers ctx va) with
    | none, some e => s.modCore c (fun k => { k with tlb := tlbAdd 256 e k.tlb })
    | _, _ => s) s

/-- Steps 3 and 4 of R235 for a clutch's global elements: the continuation gets the places of each lane's
bytes. -/
def withGlobal (s : State) (e : Env) (write : Bool) (elems : List Elem) (k : State → List (Nat × List Nat) → Out) : Out :=
  let ctx := e.l.ctx
  match s.xlate e.core ctx write (elems.flatMap Elem.pages) with
  | .walk va => .next (s.miss e (if write then 1 else 0) va)
  | .bad va => .next (s.missStop e (if write then 1 else 0) va)
  | .ok =>
    let places := elems.map (fun x => (x.lane, x.vas.map (s.paOf e.core ctx)))
    let remote := maskOf (fun l => places.any (fun x => x.1 = l && x.2.any (fun pa => homeOf pa ≠ e.ch.die)))
    if remote ≠ 0 then fatal s e .remote remote
    else k (s.touchTlb e.core ctx (elems.flatMap Elem.pages)) places

/-- Step 2 of R235 for a clutch's scratchpad or cluster scratchpad elements. -/
def withLocal (s : State) (e : Env) (space : Nat) (elems : List Elem) (k : State → List (Nat × List Nat) → Out) : Out :=
  let bad := maskOf (fun l => elems.any (fun x => x.lane = l && (e.localKey space x.addr x.bytes).isNone))
  if bad ≠ 0 then fatal s e .bounds bad
  else k s (elems.map (fun x =>
    let key := (e.localKey space x.addr x.bytes).getD 0
    (x.lane, (List.range x.bytes).map (key + ·))))

/-- The checks of R235 after alignment, in the space of the word. -/
def withPlaces (s : State) (e : Env) (space : Nat) (write : Bool) (elems : List Elem)
    (k : State → Space → List (Nat × List Nat) → Out) : Out :=
  if space = 0 then withGlobal s e write elems (fun s => k s .global)
  else withLocal s e space elems (fun s => k s .scratch)

/-! ### Performing accesses -/

/-- What a performed access yields. -/
structure Performed where
  s : State
  words : List Lanes := []
  pairs : List DWord := []
  flags : Word := 0
  /-- lanes that read a poisoned sector (R219) -/
  poison : Mask := 0

/-- The value at a lane's places. -/
def State.valueAt (s : State) (who : ClutchId) (c : CoreId) (space : Space) (cached : Bool) (places : List Nat) : Nat :=
  match space with
  | .global => numberOf (places.map (fun pa => if cached then s.loadByte c pa else Memory.read s.mem pa))
  | .scratch =>
    match s.chorus? who.chorus with
    | some ch => numberOf (places.map (fun k => ch.scratch.get 0 k))
    | none => 0
  | .cells => 0

/-- Write a value at a lane's places at once, as an atomic does. -/
def State.storeAt (s : State) (who : ClutchId) (space : Space) (places : List Nat) (value : Nat) : State :=
  let bytes := places.zipIdx.map (fun (k, i) => (k, BitVec.ofNat 8 (value / 2 ^ (8 * i))))
  match space with
  | .global => s.writeBytes bytes
  | .scratch => (s.writeLocal who.chorus bytes).noteScratch who places
  | .cells => s

/-- The words that a loaded value makes of a size code (R231). -/
def loadWords (sz v : Nat) : List Nat :=
  match sz with
  | 1 => [if v < 128 then v else v + 2 ^ 32 - 256]
  | 3 => [if v < 2 ^ 15 then v else v + 2 ^ 32 - 2 ^ 16]
  | 5 => twoWords v
  | 6 => (List.range 4).map (fun i => v / 2 ^ (32 * i) % 2 ^ 32)
  | _ => [v]

/-- The bytes and registers of a size code (R231). -/
def szBytes (sz : Nat) : Nat := [1, 1, 2, 2, 4, 8, 16].getD sz 0
def szRegs (sz : Nat) : Nat := if sz = 5 then 2 else if sz = 6 then 4 else 1

/-- A signed reading of `n` bits. -/
def signedOf (n v : Nat) : Int := if v < 2 ^ (n - 1) then v else (v : Int) - 2 ^ n

/-- The new value and the flags of an atomic operation (R242). -/
def atomicOp (aop ty old b : Nat) : Nat × Word :=
  let w := if ty < 2 then 32 else 64
  let less (x y : Nat) : Bool := if ty % 2 = 0 then signedOf w x < signedOf w y else x < y
  match aop with
  | 0 => ((old + b) % 2 ^ w, 0)
  | 1 => (if less b old then b else old, 0)
  | 2 => (if less old b then b else old, 0)
  | 3 => (old &&& b, 0)
  | 4 => (old ||| b, 0)
  | 5 => (old ^^^ b, 0)
  | 6 => (b, 0)
  | _ =>
    let r := fp32.sumProducts .rne false [[fp32.decode old], [fp32.decode b]]
    (r.bits, r.flags)

/-- Perform an atomic or CAS lane by lane in ascending order; lanes that name one address follow one another
(R242, R243). -/
def atomicLanes (who : ClutchId) (c : CoreId) (a : Access) (f : Nat → Nat → Option Nat × Word) :
    List (Nat × List Nat) → State → List (Nat × Nat) → Word → State × List (Nat × Nat) × Word
  | [], s, olds, flags => (s, olds, flags)
  | (l, places) :: rest, s, olds, flags =>
    let old := s.valueAt who c a.space false places
    let (new, fl) := f l old
    let s := match new with
      | some v => s.storeAt who a.space places v
      | none => s
    atomicLanes who c a f rest s (olds ++ [(l, old)]) (flags ||| fl)

/-! ### The step replay cache (R323, R326) -/

def Die.stepRegion (d : Die) (ctx : Nat) : Option StepRegion := (d.steps.find? (fun x => x.1 = ctx)).map (·.2)

/-- Change a tag entry of a context's region. -/
def Die.modTag (d : Die) (ctx slot : Nat) (g : StepTag → StepTag) : Die :=
  { d with steps := d.steps.map (fun x =>
      if x.1 = ctx then (x.1, { x.2 with tags := x.2.tags.modify {} slot g }) else x) }

/-- Both tiles are written, and then KEY, STEP and VALID in one step, clearing BUSY (R326). -/
def State.stepWrite (s : State) (uid die ctx slot : Nat) (key step : Word) (input output tb base : Nat)
    (pages : List (Nat × Nat)) : State :=
  match s.chorus? uid with
  | some c =>
    let copy (s : State) (from_ va : Nat) : State :=
      s.writeBytes (((stepPlaces pages va tb).zip ((List.range tb).map (fun i => c.scratch.get 0 (from_ + i)))).foldl
        (fun m x => Store.insert m x.1 x.2) [])
    (copy (copy s input base) output (base + tb)).modDie die
      (fun d => d.modTag ctx slot (fun _ => { valid := true, busy := false, key, step }))
  | none => s

/-- Lane values as register words. -/
def wordsOf (n : Nat) (vals : List (Nat × Nat)) (g : Nat → List Nat) : List Lanes :=
  (List.range n).map (fun i => lanesOf fun l =>
    match vals.find? (fun x => x.1 = l) with
    | some x => BitVec.ofNat 32 ((g x.2).getD i 0)
    | none => 0)

/-- A byte that a load reads lies in a poisoned sector: of L1 where it holds the sector, else of memory (R219). -/
def State.loadBad (s : State) (c : CoreId) (pa : Nat) : Bool :=
  match (s.core c).l1Sector? (pa / 64) with
  | some x => x.poisoned
  | none => s.poisonedAt pa

/-- Whether the places of a lane meet a poisoned sector of their memory (R219). -/
def State.placesBad (s : State) (p : Landing) (c : CoreId) (a : Access) (places : List Nat) : Bool :=
  match a.space with
  | .global =>
    match a.op with
    | .load _ | .moment _ => places.any (s.loadBad c)
    | _ => places.any s.poisonedAt
  | .scratch => (s.chorus? p.who.chorus).any (·.scratchBad places)
  | .cells => (s.chorus? p.who.chorus).any (·.accBad places)

/-- Perform the access of a landing (R236, R242 to R245). -/
def State.perform (s : State) (p : Landing) (c : CoreId) (a : Access) : Performed :=
  let lookUp (s : State) : State :=
    if a.space = .global then
      let sectors := (a.places.flatMap (fun x => x.2.map (· / 64))).foldl setInsert []
      s.fillL1 c (fun n => a.alloc && !a.notL1.contains n) (fun n => !a.notDie.contains n) sectors
    else s
  let looked : State :=
    match a.op with
    | .load _ | .moment _ => lookUp s
    | _ => s
  let poison : Mask := maskOf (fun l => a.places.any (fun x => x.1 = l && looked.placesBad p c a x.2))
  if poison ≠ 0 then { s := looked, poison } else
  let read (s : State) : List (Nat × Nat) :=
    a.places.map (fun x => (x.1, s.valueAt p.who c a.space true x.2))
  let drop (s : State) : State :=
    if a.space = .global then s.dropL1 c (fun sec => a.places.any (fun x => x.2.any (fun pa => pa / 128 = sec / 2))) else s
  let out (t : State) : State := if a.notDie.isEmpty then t else t.uncache s a.notDie
  let covered (s : State) : State :=
    let early : Bool := ((s.at? p.who).map (fun c => c.fence = some .opr && p.id < c.fenceAt)).getD false
    if a.space = .scratch && early then
      s.modChorus p.who.chorus (fun c => c.fence p.who.clutch (fun k => a.places.any (fun x => x.2.contains k)))
    else s
  let acquire (s : State) : State :=
    match a.acquire with
    | some scope => if 2 ≤ scope then s.invalidateL1 c else s
    | none => s
  match a.op with
  | .load sz =>
    let s := looked
    { s := acquire s, words := wordsOf (szRegs sz) (read s) (loadWords sz) }
  | .moment _ =>
    let s := looked
    let vals := read s
    { s := acquire s
      pairs := lanesOf fun l => BitVec.ofNat 64 ((vals.find? (fun x => x.1 = l)).elim 0 (·.2)) }
  | .rmw aop ty operands =>
    let (s, olds, flags) := atomicLanes p.who c a
      (fun l old => let r := atomicOp aop ty old (operands.getD l 0); (some r.1, r.2)) a.places s [] 0
    { s := acquire (drop (covered (out s))), words := wordsOf (if ty < 2 then 1 else 2) olds twoWords, flags }
  | .cas n new cmp =>
    let (s, olds, _) := atomicLanes p.who c a
      (fun l old => (if old = cmp.getD l 0 then some (new.getD l 0) else none, 0)) a.places s [] 0
    { s := acquire (drop (covered (out s))), words := wordsOf (n / 4) olds twoWords }
  | .stepStore ctx slot key step input output tb base pages =>
    { s := s.stepWrite p.who.chorus c.die ctx slot key step input output tb base pages, words := p.words }
  | .acc kind hazard =>
    let cell (k i : Nat) : Nat :=
      if hazard.contains k then (Config.freeWord s.tick k i).toNat
      else match s.chorus? p.who.chorus with
        | some ch => (ch.acc.get 0 k).toNat
        | none => 0
    let vals := a.places.map (fun x => (x.1, cell (x.2.headD 0) 0 + 2 ^ 32 * (if 1 < x.2.length then cell (x.2.getD 1 0) 1 else 0)))
    { s := s.bump
      words := if kind = 1 then [] else wordsOf (if kind = 2 then 2 else 1) vals twoWords
      pairs := if kind = 1 then lanesOf fun l => BitVec.ofNat 64 ((vals.find? (fun x => x.1 = l)).elim 0 (·.2)) else [] }

end Sys2Proof.Machine
end

