-- ==== Sys2Proof/Machine/Integer.lean ====
section
/-! DEFINITION. Opcodes 0x00 to 0x2D: integer, address, logic and lane exchange (R109 to R130). -/

namespace Sys2Proof.Machine

/-- Register number and neighbour select of field A (1), B (2) or C (3). -/
def Fields.source (f : Fields) (i : Nat) : Nat × Nat :=
  match i with
  | 1 => (f.a.toNat, f.na.toNat)
  | 2 => (f.b.toNat, f.nb.toNat)
  | _ => (f.c.toNat, 0)

/-- The integer type of a TY code (R65). -/
def tyOf (ty : Nat) : IntTy :=
  { width := if ty < 2 then 32 else if ty < 4 then 64 else if ty < 6 then 16 else 8, signed := ty % 2 = 0 }

/-- An immediate in place of an operand: sign-extended for .i64, zero-extended for .n64 (R66). -/
def immValue (f : Fields) (ty width : Nat) : Nat :=
  if width = 2 ∧ ty % 2 = 0 then intBits 64 ((IntTy.mk 32 true).ext f.imm.toNat) else f.imm.toNat

/-- A source field of an instruction whose immediate, if any, replaces field `pos`. -/
def intSrc (f : Fields) (pos i width : Nat) : Src :=
  let (reg, sel) := Fields.source f i
  { reg, width, sel, imm := if f.len = .w96 ∧ pos = i then some (immValue f (f.mod.toNat % 8) width) else none }

/-- An integer instruction computed lane by lane from the listed source fields and their widths. -/
def intAlu (f : Fields) (pos : Nat) (srcs : List (Nat × Nat)) (n : Nat) (mask : Mask)
    (g : List Nat → List Nat × Word) : Alu :=
  { srcs := srcs.map (fun (i, w) => intSrc f pos i w)
    dst := f.d.toNat, n, tags := List.replicate n 0
    run := fun v => perLane mask n (fun l => g ((List.range srcs.length).map (fun i => v i l))) }

/-- A result word without flags. -/
def word1 (w : Nat) : List Nat × Word := ([w % 2 ^ 32], 0)

/-- The predicate words of R110. -/
def predicate (b : Bool) : Nat := if b then 0xFFFFFFFF else 0

/-- The element-wise result of a packed or full-word operation (R36, R114). -/
def packed2 (w : Nat) (g : Nat → Nat → FRes) (a b : Nat) : List Nat × Word :=
  let rs := (List.range (32 / w)).map (fun i =>
    (i, g (a / 2 ^ (w * i) % 2 ^ w) (b / 2 ^ (w * i) % 2 ^ w)))
  ([rs.foldl (fun acc (i, r) => acc + r.bits % 2 ^ w * 2 ^ (w * i)) 0], rs.foldl (fun acc (_, r) => acc ||| r.flags) 0)

/-- A two-source packed integer instruction. -/
def intPacked (f : Fields) (mask : Mask) (g : IntTy → Nat → Nat → FRes) : Alu :=
  let t := tyOf (f.mod.toNat % 8)
  intAlu f 2 [(1, 1), (2, 1)] 1 mask (fun v => packed2 t.width (g t) (v.getD 0 0) (v.getD 1 0))

/-- A two-source instruction on words. -/
def intBinary (f : Fields) (mask : Mask) (g : Nat → Nat → List Nat × Word) : Alu :=
  intAlu f 2 [(1, 1), (2, 1)] 1 mask (fun v => g (v.getD 0 0) (v.getD 1 0))

/-- A one-source instruction on words. -/
def intUnary (f : Fields) (mask : Mask) (g : Nat → Nat) : Alu :=
  intAlu f 0 [(1, 1)] 1 mask (fun v => word1 (g (v.getD 0 0)))

/-- NOP (R115). -/
def aluNop (f : Fields) (_ : State) (_ : Env) : Alu :=
  { srcs := [], dst := f.d.toNat, n := 0, tags := [], run := fun _ => ([], 0) }

/-- MOV (R115): the words and the tag of A. -/
def aluMov (f : Fields) (_ : State) (e : Env) : Alu :=
  let n := if f.mod = 2 then 2 else 1
  let tag (i : Nat) : Nat := if f.len = .w96 then 0 else e.cl.tag (f.a.toNat + i)
  { intAlu f 1 [(1, n)] n e.mask (fun v => (if n = 2 then twoWords (v.getD 0 0) else [v.getD 0 0], 0)) with
    tags := (List.range n).map tag }

/-- SEL (R115). -/
def aluSel (f : Fields) (_ : State) (e : Env) : Alu :=
  let n := if f.mod = 2 then 2 else 1
  let tag (i : Nat) : Nat :=
    if f.len ≠ .w96 ∧ e.cl.tag (f.a.toNat + i) = e.cl.tag (f.b.toNat + i) then e.cl.tag (f.a.toNat + i) else 0
  { intAlu f 2 [(1, n), (2, n), (3, 1)] n e.mask (fun v =>
      let w := if v.getD 2 0 % 2 ^ 32 ≠ 0 then v.getD 0 0 else v.getD 1 0
      (if n = 2 then twoWords w else [w], 0)) with
    tags := (List.range n).map tag }

/-- IADD, ISUB, IMUL, IMULH, IMAD, IMADW (R114). -/
def aluIadd (f : Fields) (_ : State) (e : Env) : Alu :=
  intPacked f e.mask (fun t a b => { bits := (a + b) % 2 ^ t.width })
def aluIsub (f : Fields) (_ : State) (e : Env) : Alu :=
  intPacked f e.mask (fun t a b => { bits := (a + 2 ^ t.width - b) % 2 ^ t.width })
def aluImul (f : Fields) (_ : State) (e : Env) : Alu := intBinary f e.mask (fun a b => word1 (a * b))
def aluImulh (f : Fields) (_ : State) (e : Env) : Alu :=
  let t := tyOf (f.mod.toNat % 8)
  intBinary f e.mask (fun a b => word1 (intBits 64 (t.ext a * t.ext b) / 2 ^ 32))
def aluImad (f : Fields) (_ : State) (e : Env) : Alu :=
  intAlu f 2 [(1, 1), (2, 1), (3, 1)] 1 e.mask (fun v => word1 (v.getD 0 0 * v.getD 1 0 + v.getD 2 0))
def aluImadw (f : Fields) (_ : State) (e : Env) : Alu :=
  let t := IntTy.mk 32 (f.mod = 2)
  intAlu f 2 [(1, 1), (2, 1), (3, 2)] 2 e.mask (fun v =>
    (twoWords (intBits 64 (t.ext (v.getD 0 0) * t.ext (v.getD 1 0) + v.getD 2 0)), 0))

/-- IDIV and IREM of two words: quotient and remainder, with the cases decided apart (R116). -/
def divRem (t : IntTy) (a b : Nat) : Nat × Nat × Word :=
  let x := t.ext a
  let y := t.ext b
  if y = 0 then
    (if !t.signed then 0xFFFFFFFF else if x < 0 then 0x80000000 else 0x7FFFFFFF, a, flagDz)
  else if t.signed ∧ x = t.lo ∧ y = -1 then (0x7FFFFFFF, 0, flagOvf)
  else (intBits 32 (x.tdiv y), intBits 32 (x.tmod y), 0)
def aluIdiv (f : Fields) (_ : State) (e : Env) : Alu :=
  { intBinary f e.mask (fun a b => let r := divRem (tyOf (f.mod.toNat % 8)) a b; ([r.1], r.2.2)) with long := true }
def aluIrem (f : Fields) (_ : State) (e : Env) : Alu :=
  { intBinary f e.mask (fun a b => let r := divRem (tyOf (f.mod.toNat % 8)) a b; ([r.2.1], r.2.2)) with long := true }

/-- IABS, IMIN, IMAX, IADDC, IADDS (R114). -/
def aluIabs (f : Fields) (_ : State) (e : Env) : Alu :=
  let t := tyOf (f.mod.toNat % 8)
  intAlu f 0 [(1, 1)] 1 e.mask (fun v =>
    packed2 t.width (fun a _ => t.saturate (t.ext a).natAbs) (v.getD 0 0) 0)
def aluImin (f : Fields) (_ : State) (e : Env) : Alu :=
  intPacked f e.mask (fun t a b => { bits := if t.ext b < t.ext a then b else a })
def aluImax (f : Fields) (_ : State) (e : Env) : Alu :=
  intPacked f e.mask (fun t a b => { bits := if t.ext a < t.ext b then b else a })
def aluIaddc (f : Fields) (_ : State) (e : Env) : Alu :=
  intAlu f 2 [(1, 1), (2, 1), (3, 1)] 1 e.mask (fun v =>
    let s := v.getD 0 0 + v.getD 1 0 + v.getD 2 0 % 2
    word1 (if f.mod.toNat / 8 = 0 then s else s / 2 ^ 32))
def aluIadds (f : Fields) (_ : State) (e : Env) : Alu :=
  intPacked f e.mask (fun t a b =>
    t.saturate (if f.mod.toNat / 8 = 0 then t.ext a + t.ext b else t.ext a - t.ext b))

/-- The six integer conditions (R112, R117). -/
def condition (c : Nat) (a b : Int) : Bool :=
  match c with
  | 0 => a = b
  | 1 => a ≠ b
  | 2 => a < b
  | 3 => a ≤ b
  | 4 => b < a
  | _ => b ≤ a

/-- ICMP and CMP64 (R117). -/
def aluIcmp (f : Fields) (_ : State) (e : Env) : Alu :=
  let t := tyOf (f.mod.toNat % 8)
  intBinary f e.mask (fun a b => word1 (predicate (condition (f.mod.toNat / 8) (t.ext a) (t.ext b))))
def aluCmp64 (f : Fields) (_ : State) (e : Env) : Alu :=
  let t := tyOf (f.mod.toNat % 8)
  intAlu f 2 [(1, 2), (2, 2)] 1 e.mask (fun v =>
    word1 (predicate (condition (f.mod.toNat / 8) (t.ext (v.getD 0 0)) (t.ext (v.getD 1 0)))))

/-- The logic instructions (R118). -/
def aluAnd (f : Fields) (_ : State) (e : Env) : Alu := intBinary f e.mask (fun a b => word1 (a &&& b))
def aluOr (f : Fields) (_ : State) (e : Env) : Alu := intBinary f e.mask (fun a b => word1 (a ||| b))
def aluXor (f : Fields) (_ : State) (e : Env) : Alu := intBinary f e.mask (fun a b => word1 (a ^^^ b))
def aluAndn (f : Fields) (_ : State) (e : Env) : Alu :=
  intBinary f e.mask (fun a b => word1 (a &&& (2 ^ 32 - 1 - b)))

/-- A shift of 32 or 64 bits by TY (R118). -/
def shiftAlu (f : Fields) (mask : Mask) (g : Nat → Nat → Nat → Nat) : Alu :=
  let n := if wideTy (f.mod.toNat % 8) then 2 else 1
  intAlu f 2 [(1, n), (2, 1)] n mask (fun v =>
    let r := g (32 * n) (v.getD 0 0) (v.getD 1 0 % 256) % 2 ^ (32 * n)
    (if n = 2 then twoWords r else [r], 0))
def aluShl (f : Fields) (_ : State) (e : Env) : Alu :=
  shiftAlu f e.mask (fun w a n => if w ≤ n then 0 else a * 2 ^ n)
def aluShr (f : Fields) (_ : State) (e : Env) : Alu :=
  shiftAlu f e.mask (fun w a n => if w ≤ n then 0 else a / 2 ^ n)
def aluSar (f : Fields) (_ : State) (e : Env) : Alu :=
  shiftAlu f e.mask (fun w a n => intBits w ((IntTy.mk w true).ext a / (2 ^ min n w : Nat)))
def aluRot (f : Fields) (_ : State) (e : Env) : Alu :=
  intBinary f e.mask (fun a b =>
    let n := if f.mod.toNat / 8 = 0 then b % 32 else (32 - b % 32) % 32
    word1 (a * 2 ^ n + a / 2 ^ (32 - n)))

/-- BFE and BFI (R119). -/
def aluBfe (f : Fields) (_ : State) (e : Env) : Alu :=
  intBinary f e.mask (fun a b =>
    let pos := b % 256
    let len := b / 256 % 256
    if len = 0 ∨ 32 ≤ pos then word1 0
    else
      let n := min len (32 - pos)
      let x := a / 2 ^ pos % 2 ^ n
      word1 (if f.mod.toNat % 8 = 1 then x else intBits 32 ((IntTy.mk n true).ext x)))
def aluBfi (f : Fields) (_ : State) (e : Env) : Alu :=
  intAlu f 2 [(1, 1), (2, 1), (3, 1)] 1 e.mask (fun v =>
    let a := v.getD 0 0
    let b := v.getD 1 0
    let c := v.getD 2 0
    let pos := b % 256
    let len := b / 256 % 256
    if len = 0 ∨ 32 ≤ pos then word1 c
    else
      let n := min len (32 - pos)
      word1 (c % 2 ^ pos + a % 2 ^ n * 2 ^ pos + c / 2 ^ (pos + n) * 2 ^ (pos + n)))

/-- The reversal of the low `n` bits (R118, R120). -/
def reverseBits (n a : Nat) : Nat :=
  (List.range n).foldl (fun acc i => if a.testBit i then acc + 2 ^ (n - 1 - i) else acc) 0
/-- The number of 1 bits in the low `n` bits. -/
def countOnes (n a : Nat) : Nat := ((List.range n).filter (fun i => a.testBit i)).length

/-- POPC, CLZ, BREV, FFS (R118). -/
def aluPopc (f : Fields) (_ : State) (e : Env) : Alu := intUnary f e.mask (countOnes 32)
def aluClz (f : Fields) (_ : State) (e : Env) : Alu := intUnary f e.mask (fun a => 32 - bitLen a)
def aluBrev (f : Fields) (_ : State) (e : Env) : Alu := intUnary f e.mask (reverseBits 32)
def aluFfs (f : Fields) (_ : State) (e : Env) : Alu :=
  intUnary f e.mask (fun a => ((List.range 32).find? (fun i => a.testBit i)).getD 0xFFFFFFFF)

/-- LEA and ADD64 (R121). -/
def aluLea (f : Fields) (_ : State) (e : Env) : Alu :=
  intAlu f 2 [(1, 2), (2, 1)] 2 e.mask (fun v =>
    let b := intBits 64 ((IntTy.mk 32 (f.mod.toNat % 8 = 2)).ext (v.getD 1 0))
    (twoWords (v.getD 0 0 + b * 2 ^ (f.mod.toNat / 8)), 0))
def aluAdd64 (f : Fields) (_ : State) (e : Env) : Alu :=
  intAlu f 2 [(1, 2), (2, 2)] 2 e.mask (fun v => (twoWords (v.getD 0 0 + v.getD 1 0), 0))

/-- CVTI (R122). -/
def aluCvti (f : Fields) (_ : State) (e : Env) : Alu :=
  let src := f.mod.toNat / 8
  let dst := f.mod.toNat % 8
  let n := if wideTy dst then 2 else 1
  intAlu f 0 [(1, if wideTy src then 2 else 1)] n e.mask (fun v =>
    let r := (tyOf dst).saturate ((tyOf src).ext (v.getD 0 0))
    (if n = 2 then twoWords r.bits else [r.bits], r.flags))

/-- BYMIX (R120). -/
def aluBymix (f : Fields) (_ : State) (e : Env) : Alu :=
  intAlu f 3 [(1, 1), (2, 1), (3, 1)] 1 e.mask (fun v =>
    let bytes := v.getD 0 0 % 2 ^ 32 + 2 ^ 32 * v.getD 1 0
    let one (i : Nat) : Nat :=
      let s := v.getD 2 0 / 2 ^ (6 * i) % 64
      let x := bytes / 2 ^ (8 * (s % 8)) % 256
      let x := if s.testBit 4 then reverseBits 8 x else x
      let x := if s.testBit 3 then 255 - x else x
      if s.testBit 5 then 0 else x
    word1 ((List.range 4).foldl (fun acc i => acc + one i * 2 ^ (8 * i)) 0))

/-- An instruction that reads A in every active lane and computes over all lanes. -/
def acrossAlu (f : Fields) (g : (Nat → Nat) → List Lanes × Word) : Alu :=
  { srcs := [intSrc f 0 1 1], dst := f.d.toNat, run := fun v => g (v 0) }

/-- VOTE: a single active lane makes ALL, ANY and UNI true whatever its value is (R123; DEDUCED, log 64: the sentence is taken as
it stands, beside the definitions). -/
def aluVote (f : Fields) (_ : State) (e : Env) : Alu :=
  acrossAlu f (fun a =>
    let ls := lanesIn e.mask
    sameLanes (predicate (ls.length = 1 || match f.mod.toNat / 8 with
      | 0 => ls.all (fun l => a l ≠ 0)
      | 1 => ls.any (fun l => a l ≠ 0)
      | _ => ls.all (fun l => a l = a e.low))))

/-- A beat's word of the active lanes that meet a test (R123). -/
def beatWord (mask : Mask) (j : Nat) (p : Nat → Bool) : Nat :=
  (List.range 32).foldl (fun acc i => if inMask mask (32 * j + i) && p (32 * j + i) then acc + 2 ^ i else acc) 0

/-- The beat that BALLOT and MATCH look at from a lane. -/
def beatOf (xm l : Nat) : Nat := if xm = 3 then l / 32 else xm

/-- BALLOT and MATCH (R123). -/
def aluBallot (f : Fields) (_ : State) (e : Env) : Alu :=
  acrossAlu f (fun a =>
    let w := (List.range 3).map (fun j => beatWord e.mask j (fun k => a k ≠ 0))
    ([lanesOf fun l => BitVec.ofNat 32 (w.getD (beatOf (f.mod.toNat / 8) l) 0)], 0))
def aluMatch (f : Fields) (_ : State) (e : Env) : Alu :=
  acrossAlu f (fun a =>
    ([lanesOf fun l => BitVec.ofNat 32 (if inMask e.mask l then
      beatWord e.mask (beatOf (f.mod.toNat / 8) l) (fun k => a k = a l) else 0)], 0))

/-- The values of the active lanes, absent in the others (R57). -/
def presentLanes (mask : Mask) {α : Type} (v : Nat → α) : List (Option α) :=
  lanesOf fun l => if inMask mask l then some (v l) else none

/-- Combine with ABSENT (R57). -/
def combineOpt {α : Type} (op : α → α → α × Word) : Option α × Word → Option α × Word → Option α × Word
  | (none, p), (y, q) => (y, p ||| q)
  | (x, p), (none, q) => (x, p ||| q)
  | (some x, p), (some y, q) => let r := op x y; (some r.1, p ||| q ||| r.2)

/-- One level of the tree: neighbours combine. -/
def pairUp {α : Type} (g : α → α → α) : List α → List α
  | x :: y :: rest => g x y :: pairUp g rest
  | xs => xs

/-- The fixed tree of R57 over 96 lanes: 48, 24, 12, 6, 3, then (s0 + s1) + s2. -/
def reduceTree {α : Type} (op : α → α → α × Word) (xs : List (Option α)) : Option α × Word :=
  let c := combineOpt op
  let level (ys : List (Option α × Word)) := pairUp c ys
  match level (level (level (level (level (xs.map (fun x => (x, 0))))))) with
  | [x, y, z] => c (c x y) z
  | _ => (none, 0)

/-- Fold the present values, for the operations whose result does not depend on grouping. -/
def foldPresent {α : Type} (op : α → α → α) : List (Option α) → Option α
  | [] => none
  | x :: rest => match x, foldPresent op rest with
    | none, y => y
    | some x, none => some x
    | some x, some y => some (op x y)

/-- REDI (R124). -/
def aluRedi (f : Fields) (_ : State) (e : Env) : Alu :=
  let t := tyOf (f.mod.toNat % 8)
  acrossAlu f (fun a =>
    let xs := presentLanes e.mask a
    let plain (op : Nat → Nat → Nat) := sameLanes ((foldPresent op xs).getD 0 % 2 ^ 32)
    match f.mod.toNat / 8 with
    | 0 => plain (fun x y => (x + y) % 2 ^ 32)
    | 1 => plain (fun x y => if t.ext y < t.ext x then y else x)
    | 2 => plain (fun x y => if t.ext x < t.ext y then y else x)
    | 3 => plain (fun x y => x &&& y)
    | 4 => plain (fun x y => x ||| y)
    | 5 => plain (fun x y => x ^^^ y)
    | _ =>
      let r := reduceTree (fun x y => let r := t.saturate (t.ext x + t.ext y); (r.bits, r.flags)) xs
      (([lanesOf fun _ => BitVec.ofNat 32 (r.1.getD 0)]), r.2))

/-- The running combination before and after each lane, in ascending order. -/
def scanLanes {α : Type} (op : α → α → α × Word) (xs : List (Option α)) : List (Option α × Option α) × Word :=
  let r := xs.foldl (fun (acc : List (Option α × Option α) × Option α × Word) x =>
      let (out, cur, fl) := acc
      let n := combineOpt op (cur, 0) (x, 0)
      (out ++ [(cur, n.1)], n.1, fl ||| n.2)) ([], none, 0)
  (r.1, r.2.2)

/-- SCANI (R125). -/
def aluScani (f : Fields) (_ : State) (e : Env) : Alu :=
  let t := tyOf (f.mod.toNat % 8)
  let xm := f.mod.toNat / 8
  let op (x y : Nat) : Nat := match xm % 4 with
    | 0 => (x + y) % 2 ^ 32
    | 1 => if t.ext y < t.ext x then y else x
    | 2 => if t.ext x < t.ext y then y else x
    | _ => x ||| y
  let identity : Nat := match xm % 4 with
    | 1 => intBits 32 t.hi
    | 2 => intBits 32 t.lo
    | _ => 0
  acrossAlu f (fun a =>
    let r := (scanLanes (fun x y => (op x y, 0)) (presentLanes e.mask a)).1
    ([r.map (fun (before, after) => BitVec.ofNat 32 ((if xm.testBit 2 then before else after).getD identity))], 0))

/-- The awaited lanes of the innermost handler entry; all lanes outside a handler (R196). -/
def Clutch.handlerLanes (c : Clutch) : Mask :=
  match c.stack.reverse.find? (fun x => x.kind = .handler) with
  | some x => x.aw
  | none => BitVec.allOnes 96

/-- The 96 bits of three uniform registers (R126). -/
def Env.triple (e : Env) (reg : Nat) : Mask :=
  BitVec.ofNat 96 ((List.range 3).foldl (fun acc j => acc + (e.cl.word e.hdr.uniform (reg + j) 0).toNat * 2 ^ (32 * j)) 0)

/-- The lane that SHFL's addressing names (R126). -/
def shflLane (xm l t : Nat) : Int :=
  match xm with
  | 0 => t
  | 1 => (l ^^^ t : Nat)
  | 2 => (l : Int) - t
  | _ => (l : Int) + t

/-- SHFL (R126, R196): the source lane of each lane, its own when the lane named is no member. -/
def aluShfl (f : Fields) (s : State) (e : Env) : Alu :=
  let mem := e.triple f.c.toNat &&& e.cl.handlerLanes
  let bsrc := intSrc f 2 2 1
  let from_ (l : Nat) : Nat :=
    let t := e.source s bsrc l % 128
    let k := shflLane (f.mod.toNat / 8) l t
    if 0 ≤ k ∧ k ≤ 95 ∧ inMask mem k.toNat then k.toNat else l
  { srcs := [intSrc f 0 1 1, bsrc, { reg := f.c.toNat }, { reg := f.c.toNat + 1 }, { reg := f.c.toNat + 2 }]
    dst := f.d.toNat
    lanes := some (fun i => if i = 0 then (lanesIn e.mask).map from_ else lanesIn e.mask)
    run := fun v => ([lanesOf fun l => BitVec.ofNat 32 (v 0 (from_ l))], 0) }

/-- BCAST (R127, R196). -/
def aluBcast (f : Fields) (s : State) (e : Env) : Alu :=
  let bsrc := intSrc f 2 2 1
  let k := e.source s bsrc e.low % 128
  let own : Bool := 96 ≤ k || !inMask e.cl.handlerLanes k
  { srcs := [intSrc f 0 1 1, bsrc], dst := f.d.toNat
    lanes := some (fun i => if i = 0 then (if own then lanesIn e.mask else [k]) else [e.low])
    run := fun v => ([lanesOf fun l => BitVec.ofNat 32 (v 0 (if own then l else k))], 0) }

/-- Strictly ascending (R128). -/
def ascending : List Nat → Bool
  | x :: y :: rest => x < y && ascending (y :: rest)
  | _ => true

/-- ISECT (R128, R196): undefined words when a list is not ascending or lies outside the handler's lanes. -/
def aluIsect (f : Fields) (s : State) (e : Env) : Alu :=
  let csrc := intSrc f 0 3 1
  let c := e.source s csrc e.low
  let nx := min (c % 256) 96
  let ny := min (c / 256 % 256) 96
  let outside : Bool := (List.range (max nx ny)).any (fun l => !inMask e.cl.handlerLanes l)
  { srcs := [intSrc f 0 1 1, intSrc f 0 2 1, csrc], dst := f.d.toNat
    lanes := some (fun i => if i = 0 then List.range nx else if i = 1 then List.range ny else [e.low])
    run := fun v =>
      let xs := (List.range nx).map (v 0)
      let ys := (List.range ny).map (v 1)
      if outside ∨ !ascending xs ∨ !ascending ys then
        ([lanesOf fun l => Config.freeWord s.tick f.d.toNat l], 0)
      else if nx = 0 ∨ ny = 0 then ([lanesOf fun _ => BitVec.ofNat 32 (127 + 127 * 2 ^ 7)], 0)
      else
        let hits := xs.zipIdx.filterMap (fun (x, i) => (ys.findIdx? (· = x)).map (fun j => (i, j)))
        let lim := min (xs.getLastD 0) (ys.getLastD 0)
        let adv (zs : List Nat) : Nat := (zs.filter (· ≤ lim)).length
        ([lanesOf fun l =>
          let (i, j) := hits.getD l (127, 127)
          BitVec.ofNat 32 (i + j * 2 ^ 7 + adv xs * 2 ^ 14 + adv ys * 2 ^ 21)], 0) }

/-- A control and status register as a lane reads it (R96). -/
def Env.control (e : Env) (number l : Nat) : Word :=
  let c := e.cl
  match number with
  | 0 => c.fmode
  | 1 => c.mcr
  | 2 => e.ch.sticky
  | 3 => c.accbase
  | 4 => c.acclim
  | 5 => BitVec.ofNat 32 l
  | 6 => BitVec.ofNat 32 c.id
  | 7 => BitVec.ofNat 32 e.ch.index
  | 8 => BitVec.ofNat 32 e.ch.section_
  | 9 => BitVec.ofNat 32 (coreWord e.core)
  | 10 => c.ehbase
  | 16 => c.em.empc
  | 17 => c.em.emop
  | 18 => c.em.emmod
  | 19 => c.em.emd
  | 20 => c.em.ema
  | 21 => c.em.emb
  | 22 => c.em.emc
  | 23 => c.em.emimm
  | _ => 0

/-- RDCR (R129). -/
def aluRdcr (f : Fields) (_ : State) (e : Env) : Alu :=
  { srcs := [], dst := f.d.toNat, run := fun _ => ([lanesOf (e.control f.mod.toNat)], 0) }

/-- A write of accbase or acclim within the allocation; any other changes neither (R101). -/
def Env.windowOk (e : Env) (base limit : Nat) : Bool :=
  e.accStart ≤ base && limit ≤ e.accStart + e.hdr.accRows && base ≤ limit

/-- The effect of WRCR on the clutch (R96 to R103, R130); sticky is the chorus's. -/
def Env.writeControl (e : Env) (number : Nat) (w : Word) : Clutch :=
  let c := e.cl
  match number with
  | 0 => { c with fmode := w &&& 0xCF }
  | 1 => { c with mcr := w &&& 0xFF07 }
  | 3 =>
    let b := w &&& 0x1FF
    if e.windowOk b.toNat c.acclim.toNat then { c with accbase := b } else c
  | 4 =>
    let b := w &&& 0x3FF
    if e.windowOk c.accbase.toNat b.toNat then { c with acclim := b } else c
  | 10 => { c with ehbase := w &&& 0xFFFFFFE0 }
  | _ => c

/-! ### The meanings -/

def execNop (f : Fields) (s : State) : Out := runAlu 0x00 f (aluNop f) s
def execMov (f : Fields) (s : State) : Out := runAlu 0x01 f (aluMov f) s
def execSel (f : Fields) (s : State) : Out := runAlu 0x02 f (aluSel f) s
def execIadd (f : Fields) (s : State) : Out := runAlu 0x03 f (aluIadd f) s
def execIsub (f : Fields) (s : State) : Out := runAlu 0x04 f (aluIsub f) s
def execImul (f : Fields) (s : State) : Out := runAlu 0x05 f (aluImul f) s
def execImulh (f : Fields) (s : State) : Out := runAlu 0x06 f (aluImulh f) s
def execImad (f : Fields) (s : State) : Out := runAlu 0x07 f (aluImad f) s
def execImadw (f : Fields) (s : State) : Out := runAlu 0x08 f (aluImadw f) s
def execIdiv (f : Fields) (s : State) : Out := runAlu 0x09 f (aluIdiv f) s
def execIrem (f : Fields) (s : State) : Out := runAlu 0x0A f (aluIrem f) s
def execIabs (f : Fields) (s : State) : Out := runAlu 0x0B f (aluIabs f) s
def execImin (f : Fields) (s : State) : Out := runAlu 0x0C f (aluImin f) s
def execImax (f : Fields) (s : State) : Out := runAlu 0x0D f (aluImax f) s
def execIaddc (f : Fields) (s : State) : Out := runAlu 0x0E f (aluIaddc f) s
def execIadds (f : Fields) (s : State) : Out := runAlu 0x0F f (aluIadds f) s
def execIcmp (f : Fields) (s : State) : Out := runAlu 0x10 f (aluIcmp f) s
def execAnd (f : Fields) (s : State) : Out := runAlu 0x11 f (aluAnd f) s
def execOr (f : Fields) (s : State) : Out := runAlu 0x12 f (aluOr f) s
def execXor (f : Fields) (s : State) : Out := runAlu 0x13 f (aluXor f) s
def execAndn (f : Fields) (s : State) : Out := runAlu 0x14 f (aluAndn f) s
def execShl (f : Fields) (s : State) : Out := runAlu 0x15 f (aluShl f) s
def execShr (f : Fields) (s : State) : Out := runAlu 0x16 f (aluShr f) s
def execSar (f : Fields) (s : State) : Out := runAlu 0x17 f (aluSar f) s
def execRot (f : Fields) (s : State) : Out := runAlu 0x18 f (aluRot f) s
def execBfe (f : Fields) (s : State) : Out := runAlu 0x19 f (aluBfe f) s
def execBfi (f : Fields) (s : State) : Out := runAlu 0x1A f (aluBfi f) s
def execPopc (f : Fields) (s : State) : Out := runAlu 0x1B f (aluPopc f) s
def execClz (f : Fields) (s : State) : Out := runAlu 0x1C f (aluClz f) s
def execBrev (f : Fields) (s : State) : Out := runAlu 0x1D f (aluBrev f) s
def execFfs (f : Fields) (s : State) : Out := runAlu 0x1E f (aluFfs f) s
def execLea (f : Fields) (s : State) : Out := runAlu 0x1F f (aluLea f) s
def execAdd64 (f : Fields) (s : State) : Out := runAlu 0x20 f (aluAdd64 f) s
def execCmp64 (f : Fields) (s : State) : Out := runAlu 0x21 f (aluCmp64 f) s
def execCvti (f : Fields) (s : State) : Out := runAlu 0x22 f (aluCvti f) s
def execBymix (f : Fields) (s : State) : Out := runAlu 0x23 f (aluBymix f) s
def execVote (f : Fields) (s : State) : Out := runAlu 0x24 f (aluVote f) s
def execBallot (f : Fields) (s : State) : Out := runAlu 0x25 f (aluBallot f) s
def execMatch (f : Fields) (s : State) : Out := runAlu 0x26 f (aluMatch f) s
def execRedi (f : Fields) (s : State) : Out := runAlu 0x27 f (aluRedi f) s
def execScani (f : Fields) (s : State) : Out := runAlu 0x28 f (aluScani f) s
def execShfl (f : Fields) (s : State) : Out := runAlu 0x29 f (aluShfl f) s
def execBcast (f : Fields) (s : State) : Out := runAlu 0x2A f (aluBcast f) s
def execIsect (f : Fields) (s : State) : Out := runAlu 0x2B f (aluIsect f) s

/-- RDCR (R129): of sticky it waits for the clutch's own earlier flags. -/
def execRdcr (f : Fields) (s : State) : Out :=
  withClutch s fun e =>
    if e.mask ≠ 0 ∧ f.mod = 2 ∧ s.flagsPending e.who then .next s else runAlu 0x2C f (aluRdcr f) s

/-- WRCR (R130): the value of the lowest active lane, or IMM. -/
def execWrcr (f : Fields) (s : State) : Out :=
  issue 0x2D f s fun e =>
    let x := intSrc f 1 1 1
    if e.poisonIn x ((e.selected x e.low).toList) then
      poisonEnd s e (e.poisonMask x (fun l => if l = e.low then (e.selected x l).toList else []))
    else
      let w := BitVec.ofNat 32 (e.source s x e.low)
      let s := if f.mod = 2 then s.modChorus e.who.chorus (·.writeSticky s.now e.who.clutch w)
        else s.modClutch e.who (fun _ => e.writeControl f.mod.toNat w)
      .next (s.bump.modClutch e.who (·.advance f.len.bytes))

end Sys2Proof.Machine
end

