-- ==== Sys2Proof/Machine/Special.lean ====
section
/-! DEFINITION. The special functions FRCP, FRSQ, FEXP2, FLOG2, FSIN, FCOS, FTANH, FSIGM and FERF (R150,
R151): the exact value of the function at the input, rounded once to FP32 by RNE. A transcendental value is
enclosed in an interval whose ends round to one word; the precision doubles until they do (log 7). -/

namespace Sys2Proof.Machine

/-- Product of two fixed-point numbers with `q` fraction bits. -/
def fmulQ (q : Nat) (a b : Int) : Int := a * b / (2 ^ q : Nat)

/-- The sum of `x^k / k!` from a term on, for `n` terms, in fixed point. -/
def expSeries (q : Nat) (x : Int) : Nat → Nat → Int → Int
  | 0, _, _ => 0
  | n + 1, k, term => term + expSeries q x n (k + 1) (fmulQ q term x / ((k : Int) + 1))

/-- The sum of `z^(2k+1) / (2k+1)` from a power on, for `n` terms; `s` is z squared. -/
def atanhSeries (q : Nat) (s : Int) : Nat → Nat → Int → Int
  | 0, _, _ => 0
  | n + 1, k, pow => pow / ((2 * k + 1 : Nat) : Int) + atanhSeries q s n (k + 1) (fmulQ q pow s)

/-- The sum of `(-1)^k / ((2k+1) d^(2k+1))` for `n` terms from the power 1/d^(2k+1). -/
def atanInvSeries (d : Nat) : Nat → Nat → Int → Int
  | 0, _, _ => 0
  | n + 1, k, pow =>
    let t := pow / ((2 * k + 1 : Nat) : Int)
    (if k % 2 = 0 then t else -t) + atanInvSeries d n (k + 1) (pow / ((d * d : Nat) : Int))

/-- The alternating series of sine (from `k = 1`) or cosine (from `k = 0`): terms x^k / k!. -/
def trigSeries (q : Nat) (s : Int) : Nat → Nat → Int → Int
  | 0, _, _ => 0
  | n + 1, k, term => term - trigSeries q s n (k + 2) (fmulQ q term s / (((k + 1) * (k + 2) : Nat) : Int))

/-- The series of erf: terms 2^k x^(2k+1) / (1 x 3 x ... x (2k+1)); `s` is 2 x^2. -/
def erfSeries (q : Nat) (s : Int) : Nat → Nat → Int → Int
  | 0, _, _ => 0
  | n + 1, k, term => term + erfSeries q s n (k + 1) (fmulQ q term s / ((2 * k + 3 : Nat) : Int))

/-- ln 2 in fixed point: 2 atanh(1/3). -/
def ln2Q (q : Nat) : Int := 2 * atanhSeries q ((2 ^ q : Nat) / 9) (q / 3 + 4) 0 ((2 ^ q : Nat) / 3)

/-- pi in fixed point, by Machin's formula. -/
def piQ (q : Nat) : Int :=
  16 * atanInvSeries 5 (q / 4 + 4) 0 ((2 ^ q : Nat) / 5) - 4 * atanInvSeries 239 (q / 15 + 4) 0 ((2 ^ q : Nat) / 239)

/-- 2^f for a fixed-point f in [0, 1]. -/
def exp2Q (q : Nat) (f : Int) : Int := expSeries q (fmulQ q f (ln2Q q)) (q / 3) 0 (2 ^ q : Nat)

/-- e^-y for a fixed-point y at or above 0. -/
def expNegQ (q : Nat) (y : Int) : Int :=
  let t := y * (2 ^ q : Nat) / ln2Q q
  let n := (t / (2 ^ q : Nat)).toNat
  let f := t % (2 ^ q : Nat)
  exp2Q q ((2 ^ q : Nat) - f) / (2 ^ (n + 1) : Nat)

/-- The natural logarithm of a fixed-point u in [1, 2]. -/
def lnQ (q : Nat) (u : Int) : Int :=
  let one : Int := (2 ^ q : Nat)
  let z := (u - one) * one / (u + one)
  2 * atanhSeries q (fmulQ q z z) (q / 3 + 4) 0 z

/-- The fixed-point value of m x 2^e. -/
def toQ (q : Nat) (m : Nat) (e : Int) : Int :=
  if 0 ≤ e + q then (m : Int) * (2 ^ (e + q).toNat : Nat) else (m : Int) / (2 ^ (-(e + q)).toNat : Nat)

/-- Sine (`isCos = false`) or cosine of m x 2^e, signed, in fixed point. The argument is reduced by
multiples of pi/2 with as many further bits as it has integer bits. -/
def sinCosQ (q : Nat) (isCos : Bool) (m : Nat) (e : Int) : Int :=
  let g := q + 160
  let x := toQ g m e
  let half := piQ g / 2
  let k := x / half
  let r := (x - k * half) / (2 ^ 160 : Nat)
  let s := fmulQ q r r
  let quad := (k + (if isCos then 1 else 0)) % 4
  let v := if quad % 2 = 0 then trigSeries q s (q / 4) 1 r else trigSeries q s (q / 4) 0 (2 ^ q : Nat)
  if quad ≥ 2 then -v else v

/-- erf of a fixed-point x in [0, 4]. -/
def erfQ (q : Nat) (x : Int) : Int :=
  let x2 := fmulQ q x x
  let sum := erfSeries q (2 * x2) (q + 64) 0 x
  let rootPi : Int := isqrt ((piQ q).toNat * 2 ^ q)
  2 * fmulQ q (expNegQ q x2) sum * (2 ^ q : Nat) / rootPi

/-- Round a fixed-point value times 2^n, when both ends of its error interval round alike. -/
def settle (q : Nat) (n : Int) (v : Int) : Option FRes :=
  let err : Int := (2 ^ 48 : Nat)
  let r (x : Int) : FRes :=
    if x = 0 then fp32.zero false else fp32.round .rne (x < 0) x.natAbs (n - q)
  if r (v - err) = r (v + err) then some (r v) else none

/-- Try precisions in turn; the last is taken as it stands (log 7). -/
def settleIn (n : Int) (g : Nat → Int) : List Nat → FRes
  | [] => fp32.zero false
  | [q] => (settle q n (g q)).getD (fp32.round .rne (g q < 0) (g q).natAbs (n - q))
  | q :: rest => match settle q n (g q) with
    | some r => r
    | none => settleIn n g rest

/-- The precisions, in fraction bits. -/
def precisions : List Nat := [320, 640, 1280]

def fp32Max : Nat := 0x7F7FFFFF
def fp32One : Nat := 0x3F800000
def negWord (neg : Bool) (w : Nat) : Nat := if neg then w + 2 ^ 31 else w
def nanInv : FRes := { bits := fp32.nan, flags := flagInv }

/-- FRCP (R151). -/
def rcp32 (v : FVal) : FRes :=
  match v with
  | .nan => { bits := fp32.nan }
  | .inf s => fp32.zero s
  | .fin s m e =>
    if m = 0 then { bits := negWord s fp32Max, flags := flagDz } else fp32.roundQuot .rne s 1 m (-e)

/-- FRSQ (R151). -/
def rsq32 (v : FVal) : FRes :=
  match v with
  | .nan => { bits := fp32.nan }
  | .inf true => nanInv
  | .inf false => fp32.zero false
  | .fin s m e =>
    if m = 0 then { bits := fp32Max, flags := flagDz }
    else if s then nanInv
    else
      let (m, e) := if e % 2 = 0 then (m, e) else (2 * m, e - 1)
      let k := 40 + bitLen m
      let r := isqrt (2 ^ (2 * k) / m)
      fp32.round .rne false r (-(e / 2) - k) (r * r * m ≠ 2 ^ (2 * k))

/-- FEXP2 (R151). -/
def exp2_32 (v : FVal) : FRes :=
  match v with
  | .nan => { bits := fp32.nan }
  | .inf true => fp32.zero false
  | .inf false => fp32.infinity false
  | .fin s m e =>
    if m = 0 then { bits := fp32One }
    else if !s && (FVal.fin s m e).cmp (.fin false 1 7) ≠ .lt then { bits := fp32Max, flags := flagOvf }
    else if s && (FVal.fin s m e).cmp (.fin true 150 0) ≠ .gt then fp32.zero false
    else
      let fl := roundToInt .rdn s m e
      let x (q : Nat) : Int := if s then -(toQ q m e) else toQ q m e
      if 0 ≤ e || m % 2 ^ (-e).toNat = 0 then fp32.round .rne false 1 fl
      else settleIn fl (fun q => exp2Q q (x q - fl * (2 ^ q : Nat))) precisions

/-- FLOG2 (R151). -/
def log2_32 (v : FVal) : FRes :=
  match v with
  | .nan => { bits := fp32.nan }
  | .inf true => nanInv
  | .inf false => fp32.infinity false
  | .fin s m e =>
    if m = 0 then { bits := negWord true fp32Max, flags := flagDz }
    else if s then nanInv
    else
      let k := bitLen m - 1
      let n := e + k
      if m = 2 ^ k then fp32.ofInt .rne n
      else settleIn 0 (fun q => n * (2 ^ q : Nat) + lnQ q (toQ q m (-(k : Int))) * (2 ^ q : Nat) / ln2Q q) precisions

/-- FSIN and FCOS (R151). -/
def sin32 (v : FVal) : FRes :=
  match v with
  | .nan => { bits := fp32.nan }
  | .inf _ => nanInv
  | .fin s m e =>
    if m = 0 then fp32.zero s
    else settleIn 0 (fun q => if s then -(sinCosQ q false m e) else sinCosQ q false m e) precisions

def cos32 (v : FVal) : FRes :=
  match v with
  | .nan => { bits := fp32.nan }
  | .inf _ => nanInv
  | .fin _ m e => if m = 0 then { bits := fp32One } else settleIn 0 (fun q => sinCosQ q true m e) precisions

/-- FTANH (R151). -/
def tanh32 (v : FVal) : FRes :=
  match v with
  | .nan => { bits := fp32.nan }
  | .inf s => { bits := negWord s fp32One }
  | .fin s m e =>
    if m = 0 then fp32.zero s
    else if (FVal.fin false m e).cmp (.fin false 128 0) ≠ .lt then { bits := negWord s fp32One }
    else settleIn 0 (fun q =>
      let one : Int := (2 ^ q : Nat)
      let t := expNegQ q (2 * toQ q m e)
      let r := (one - t) * one / (one + t)
      if s then -r else r) precisions

/-- FSIGM (R151). -/
def sigm32 (v : FVal) : FRes :=
  match v with
  | .nan => { bits := fp32.nan }
  | .inf s => if s then fp32.zero false else { bits := fp32One }
  | .fin s m e =>
    if m = 0 then { bits := 0x3F000000 }
    else if (FVal.fin false m e).cmp (.fin false 128 0) ≠ .lt then
      (if s then fp32.zero false else { bits := fp32One })
    else settleIn 0 (fun q =>
      let one : Int := (2 ^ q : Nat)
      let t := expNegQ q (toQ q m e)
      if s then t * one / (one + t) else one * one / (one + t)) precisions

/-- FERF (R151). -/
def erf32 (v : FVal) : FRes :=
  match v with
  | .nan => { bits := fp32.nan }
  | .inf s => { bits := negWord s fp32One }
  | .fin s m e =>
    if m = 0 then fp32.zero s
    else if (FVal.fin false m e).cmp (.fin false 4 0) ≠ .lt then { bits := negWord s fp32One }
    else settleIn 0 (fun q => if s then -(erfQ q (toQ q m e)) else erfQ q (toQ q m e)) precisions

/-- The special functions by opcode 0x48 to 0x50. -/
def specialFn (op : Nat) : FVal → FRes :=
  match op with
  | 0x48 => rcp32
  | 0x49 => rsq32
  | 0x4A => exp2_32
  | 0x4B => log2_32
  | 0x4C => sin32
  | 0x4D => cos32
  | 0x4E => tanh32
  | 0x4F => sigm32
  | _ => erf32

end Sys2Proof.Machine
end

