-- ==== Sys2Proof/Machine/Float.lean ====
section
/-! DEFINITION. Opcodes 0x30 to 0x56: floating point, conversion and special functions (R131 to R155). -/

namespace Sys2Proof.Machine

/-- Words a format takes (R36). -/
def fmtWords (tag : Nat) : Nat := if tag = 1 then 2 else 1

/-- A floating source field checked against a tag; an FP64 immediate widens an FP32 word exactly (R66). -/
def floatSrc (f : Fields) (pos i tag : Nat) : Src :=
  let (reg, sel) := Fields.source f i
  let v := if tag = 1 then (fp64.convert .rne (fp32.decode f.imm.toNat)).bits else f.imm.toNat
  { reg, sel, width := fmtWords tag, tag := some tag, imm := if f.len = .w96 ∧ pos = i then some v else none }

/-- A source field that is not read as a floating value. -/
def plainSrc (f : Fields) (pos i width : Nat) (tag : Option Nat) : Src :=
  let (reg, sel) := Fields.source f i
  { reg, sel, width, tag, imm := if f.len = .w96 ∧ pos = i then some f.imm.toNat else none }

/-- The words of a result in a format. -/
def fmtResult (tag : Nat) (r : FRes) : List Nat × Word := (if tag = 1 then twoWords r.bits else [r.bits], r.flags)

/-- A lane-by-lane floating instruction with a result in the format `dst`. -/
def floatAlu (f : Fields) (mask : Mask) (srcs : List Src) (dst : Nat) (g : List Nat → FRes) : Alu :=
  { srcs, dst := f.d.toNat, n := fmtWords dst, tags := List.replicate (fmtWords dst) dst
    run := fun v => perLane mask (fmtWords dst) (fun l =>
      fmtResult dst (g ((List.range srcs.length).map (fun i => v i l)))) }

/-- A floating instruction on one to three sources of one format, rounded and flushed in the modes in
effect (R135). -/
def arithAlu (f : Fields) (e : Env) (fields : List Nat) (g : Fmt → Modes → List FVal → FRes) : Alu :=
  let tag := tagOr f 2
  let md := e.modes f.mod.toNat
  let fm := Fmt.ofTag tag
  floatAlu f e.mask (fields.map (fun i => floatSrc f 2 i tag)) tag
    (fun v => fm.flushOut md (g fm md (v.map (fm.read md))))

/-- FADD, FSUB, FMUL, FFMA of values (R135). -/
def addVals (fm : Fmt) (md : Modes) (v : List FVal) : FRes :=
  fm.sumProducts md.rm false [[v.getD 0 .nan], [v.getD 1 .nan]]
def subVals (fm : Fmt) (md : Modes) (v : List FVal) : FRes :=
  fm.sumProducts md.rm false [[v.getD 0 .nan], [(v.getD 1 .nan).neg]]
def mulVals2 (fm : Fmt) (md : Modes) (v : List FVal) : FRes :=
  fm.sumProducts md.rm false [[v.getD 0 .nan, v.getD 1 .nan]]
def fmaVals (fm : Fmt) (md : Modes) (v : List FVal) : FRes :=
  fm.sumProducts md.rm false [[v.getD 0 .nan, v.getD 1 .nan], [v.getD 2 .nan]]

def aluFadd (f : Fields) (_ : State) (e : Env) : Alu := arithAlu f e [1, 2] addVals
def aluFsub (f : Fields) (_ : State) (e : Env) : Alu := arithAlu f e [1, 2] subVals
def aluFmul (f : Fields) (_ : State) (e : Env) : Alu := arithAlu f e [1, 2] mulVals2
def aluFfma (f : Fields) (_ : State) (e : Env) : Alu := arithAlu f e [1, 2, 3] fmaVals

/-- FMIN and FMAX (R136). -/
def minMaxAlu (f : Fields) (e : Env) (isMax : Bool) : Alu :=
  let tag := tagOr f 2
  let md := e.modes f.mod.toNat
  floatAlu f e.mask [floatSrc f 2 1 tag, floatSrc f 2 2 tag] tag
    (fun v => (Fmt.ofTag tag).minMax md isMax (v.getD 0 0) (v.getD 1 0))
def aluFmin (f : Fields) (_ : State) (e : Env) : Alu := minMaxAlu f e false
def aluFmax (f : Fields) (_ : State) (e : Env) : Alu := minMaxAlu f e true

/-- The eight floating conditions (R137). -/
def floatCondition (c : Nat) (a b : FVal) : Bool :=
  if a.isNan || b.isNan then c = 1 || c = 6
  else
    let o := a.cmp b
    match c with
    | 0 => o = .eq
    | 1 => o ≠ .eq
    | 2 => o = .lt
    | 3 => o ≠ .gt
    | 4 => o = .gt
    | 5 => o ≠ .lt
    | 6 => false
    | _ => true

/-- The subnormal modes of a K layout: the condition stands in the place of RM (R133). -/
def condModes (e : Env) (f : Fields) : Modes := e.modes (f.mod.toNat % 8)

/-- FCMP (R137). -/
def aluFcmp (f : Fields) (_ : State) (e : Env) : Alu :=
  let tag := tagOr f 2
  let fm := Fmt.ofTag tag
  let md := condModes e f
  floatAlu f e.mask [floatSrc f 2 1 tag, floatSrc f 2 2 tag] 0 (fun v =>
    { bits := predicate (floatCondition (f.mod.toNat / 8) (fm.read md (v.getD 0 0)) (fm.read md (v.getD 1 0))) })

/-- The class bit of an encoding (R138). -/
def classBit (fm : Fmt) (bits : Nat) : Nat :=
  let bits := bits % 2 ^ fm.width
  match fm.decode bits with
  | .nan => 8
  | .inf s => if s then 0 else 7
  | .fin s m _ =>
    if m = 0 then (if s then 3 else 4)
    else if fm.isSubnormal bits then (if s then 2 else 5)
    else (if s then 1 else 6)

/-- FCLASS (R138). -/
def aluFclass (f : Fields) (_ : State) (e : Env) : Alu :=
  let tag := tagOr f 2
  floatAlu f e.mask [floatSrc f 0 1 tag] 0 (fun v => { bits := 2 ^ classBit (Fmt.ofTag tag) (v.getD 0 0) })

/-- A packed 16-bit instruction: each element by itself (R139). -/
def packedAlu (f : Fields) (e : Env) (fields : List Nat) (dst : Option Nat) (g : Fmt → List Nat → FRes) : Alu :=
  let tag := tagOr f 3
  let fm := Fmt.ofTag tag
  floatAlu f e.mask (fields.map (fun i => floatSrc f 2 i tag)) (dst.getD tag) (fun v =>
    let lo := g fm (v.map (· % 2 ^ 16))
    let hi := g fm (v.map (· / 2 ^ 16 % 2 ^ 16))
    { bits := lo.bits + 2 ^ 16 * hi.bits, flags := lo.flags ||| hi.flags })

/-- A packed instruction that computes and rounds. -/
def packedArith (f : Fields) (e : Env) (fields : List Nat) (g : Fmt → Modes → List FVal → FRes) : Alu :=
  let md := e.modes f.mod.toNat
  packedAlu f e fields none (fun fm v => fm.flushOut md (g fm md (v.map (fm.read md))))

def aluPkadd (f : Fields) (_ : State) (e : Env) : Alu := packedArith f e [1, 2] addVals
def aluPkmul (f : Fields) (_ : State) (e : Env) : Alu := packedArith f e [1, 2] mulVals2
def aluPkfma (f : Fields) (_ : State) (e : Env) : Alu := packedArith f e [1, 2, 3] fmaVals
def aluPkmin (f : Fields) (_ : State) (e : Env) : Alu :=
  packedAlu f e [1, 2] none (fun fm v => fm.minMax (e.modes f.mod.toNat) false (v.getD 0 0) (v.getD 1 0))
def aluPkmax (f : Fields) (_ : State) (e : Env) : Alu :=
  packedAlu f e [1, 2] none (fun fm v => fm.minMax (e.modes f.mod.toNat) true (v.getD 0 0) (v.getD 1 0))
def aluPkcmp (f : Fields) (_ : State) (e : Env) : Alu :=
  let md := condModes e f
  packedAlu f e [1, 2] (some 0) (fun fm v =>
    { bits := if floatCondition (f.mod.toNat / 8) (fm.read md (v.getD 0 0)) (fm.read md (v.getD 1 0))
        then 0xFFFF else 0 })

/-- FDIV and FSQRT (R140). -/
def aluFdiv (f : Fields) (_ : State) (e : Env) : Alu :=
  { arithAlu f e [1, 2] (fun fm md v => fm.div md.rm (v.getD 0 .nan) (v.getD 1 .nan)) with long := true }
def aluFsqrt (f : Fields) (_ : State) (e : Env) : Alu :=
  { arithAlu f e [1] (fun fm md v => fm.sqrt md.rm (v.getD 0 .nan)) with long := true }

/-- FRND (R141). -/
def aluFrnd (f : Fields) (_ : State) (e : Env) : Alu :=
  arithAlu f e [1] (fun fm md v => match v.getD 0 .nan with
    | .fin s m x =>
      let i := roundToInt md.rm s m x
      if i = 0 then fm.zero s else fm.round .rne s i.natAbs 0
    | w => fm.convert md.rm w)

/-- FSCL (R142). A scale beyond 4000 either way gives what 4000 gives in every format. -/
def aluFscl (f : Fields) (_ : State) (e : Env) : Alu :=
  let tag := tagOr f 2
  let fm := Fmt.ofTag tag
  let md := e.modes f.mod.toNat
  floatAlu f e.mask [floatSrc f 2 1 tag, plainSrc f 2 2 1 none] tag (fun v =>
    let n : Int := max (-4000) (min 4000 ((IntTy.mk 32 true).ext (v.getD 1 0)))
    fm.flushOut md (match fm.read md (v.getD 0 0) with
      | .fin s m x => fm.convert md.rm (.fin s m (x + n))
      | w => fm.convert md.rm w))

/-- FDOT4 (R143). An exact zero follows step 4 of R44 in the mode in effect, as FDOT4's rounding does (DEDUCED, log 64). -/
def aluFdot4 (f : Fields) (_ : State) (e : Env) : Alu :=
  let tag := tagOr f 5
  let fm := Fmt.ofTag tag
  let md := e.modes f.mod.toNat
  floatAlu f e.mask [floatSrc f 0 1 tag, floatSrc f 0 2 tag, floatSrc f 0 3 2] 2 (fun v =>
    let elem (i j : Nat) : FVal := fm.read md (v.getD i 0 / 2 ^ (8 * j) % 256)
    fp32.flushOut md (fp32.sumProducts md.rm true
      ([fp32.read md (v.getD 2 0)] :: (List.range 4).map (fun j => [elem 0 j, elem 1 j]))))

/-- CVTF (R144). -/
def aluCvtf (f : Fields) (_ : State) (e : Env) : Alu :=
  let dst := tagOr f 2
  let src := f.c.toNat
  let md := e.modes f.mod.toNat
  floatAlu f e.mask [floatSrc f 0 1 src] dst (fun v =>
    (Fmt.ofTag dst).flushOut md ((Fmt.ofTag dst).convert md.rm ((Fmt.ofTag src).read md (v.getD 0 0))))

/-- The integer type and tag of a C code (R145). -/
def codeTy (c : Nat) : IntTy × Nat :=
  match c with
  | 0 => (⟨32, true⟩, 0) | 1 => (⟨32, false⟩, 0) | 2 => (⟨64, true⟩, 0) | 3 => (⟨64, false⟩, 0)
  | 4 => (⟨16, true⟩, 7) | 5 => (⟨16, false⟩, 0) | 6 => (⟨8, true⟩, 8) | 7 => (⟨8, false⟩, 9)
  | 8 => (⟨4, true⟩, 10) | _ => (⟨4, false⟩, 11)

/-- CVTFI (R145). -/
def aluCvtfi (f : Fields) (_ : State) (e : Env) : Alu :=
  let src := tagOr f 2
  let (t, tag) := codeTy f.c.toNat
  let md := e.modes f.mod.toNat
  let n := if t.width = 64 then 2 else 1
  { srcs := [floatSrc f 0 1 src], dst := f.d.toNat, n, tags := List.replicate n tag
    run := fun v => perLane e.mask n (fun l =>
      let r := t.ofFloat md.rm ((Fmt.ofTag src).read md (v 0 l))
      (if n = 2 then twoWords r.bits else [r.bits], r.flags)) }

/-- CVTIF (R146). -/
def aluCvtif (f : Fields) (_ : State) (e : Env) : Alu :=
  let dst := tagOr f 2
  let (t, tag) := codeTy f.c.toNat
  let md := e.modes f.mod.toNat
  let src := plainSrc f 0 1 (if t.width = 64 then 2 else 1) (if tag = 0 then none else some tag)
  floatAlu f e.mask [src] dst (fun v =>
    (Fmt.ofTag dst).flushOut md ((Fmt.ofTag dst).ofInt md.rm (t.ext (v.getD 0 0))))

/-- FPACK (R147). -/
def aluFpack (f : Fields) (_ : State) (e : Env) : Alu :=
  let dst := tagOr f 3
  let fm := Fmt.ofTag dst
  let md := e.modes f.mod.toNat
  let ab := [floatSrc f 0 1 2, floatSrc f 0 2 2]
  let cv (x : Nat) : FRes := fm.flushOut md (fm.convert md.rm (fp32.read md x))
  floatAlu f e.mask (if dst ≤ 4 then ab else ab ++ [floatSrc f 0 3 dst]) dst (fun v =>
    let x := cv (v.getD 0 0)
    let y := cv (v.getD 1 0)
    { bits := if dst ≤ 4 then x.bits + 2 ^ 16 * y.bits
        else v.getD 2 0 / 2 ^ 16 % 2 ^ 16 + 2 ^ 16 * x.bits + 2 ^ 24 * y.bits
      flags := x.flags ||| y.flags })

/-- FUNPACK (R147). -/
def aluFunpack (f : Fields) (_ : State) (e : Env) : Alu :=
  let src := tagOr f 3
  let fm := Fmt.ofTag src
  let md := e.modes f.mod.toNat
  floatAlu f e.mask [floatSrc f 0 1 src, plainSrc f 2 2 1 none] 2 (fun v =>
    let i := v.getD 1 0 % (32 / fm.width)
    fp32.flushOut md (fp32.convert .rne (fm.read md (v.getD 0 0 / 2 ^ (fm.width * i) % 2 ^ fm.width))))

/-- The quantised block of a beat: inactive lanes count as +0 (R148). `free` gives the mantissas of NaN elements. -/
def beatBlock (t : Nat) (free : Nat → Nat) (mask : Mask) (j : Nat) (v : Nat → Nat) : TxBlock :=
  txQuantise t (fun i => free (32 * j + i)) ((List.range 32).map (fun i => if inMask mask (32 * j + i) then v (32 * j + i) else 0))

/-- The three blocks of a clutch; a beat with no active lane is skipped (R148). -/
def beatBlocks (t : Nat) (free : Nat → Nat) (mask : Mask) (v : Nat → Nat) : List TxBlock :=
  (List.range 3).map (fun j =>
    if beatWord mask j (fun _ => true) = 0 then { pair := 0, elems := [], flags := 0 } else beatBlock t free mask j v)

/-- BLKQ: elements into D with tag F, the pair into D + 1 (R148). -/
def aluBlkq (f : Fields) (s : State) (e : Env) : Alu :=
  let t := tagOr f 12
  { srcs := [floatSrc f 0 1 2], dst := f.d.toNat, n := 2, tags := [t, 0]
    run := fun v =>
      let bs := beatBlocks t (fun l => (Config.freeWord s.tick f.d.toNat l).toNat) e.mask (v 0)
      let at_ (l : Nat) : TxBlock := bs.getD (l / 32) { pair := 0, elems := [], flags := 0 }
      ([lanesOf fun l => BitVec.ofNat 32 ((at_ l).elems.getD (l % 32) 0),
        lanesOf fun l => BitVec.ofNat 32 (at_ l).pair], bs.foldl (fun a b => a ||| b.flags) 0) }

/-- BLKEX: the pair alone, with no flag; it reads its sources as floating values in the mode in effect, where BLKQ ignores
every mode (R131, R148). -/
def aluBlkex (f : Fields) (_ : State) (e : Env) : Alu :=
  let md := e.modes f.mod.toNat
  { srcs := [floatSrc f 0 1 2], dst := f.d.toNat
    run := fun v =>
      let bs := beatBlocks (tagOr f 12) (fun _ => 0) e.mask (fun l => fp32.flush md.fi (v 0 l))
      ([lanesOf fun l => BitVec.ofNat 32 ((bs.map TxBlock.pair).getD (l / 32) 0)], 0) }

/-- BLKDQ (R149). -/
def aluBlkdq (f : Fields) (_ : State) (e : Env) : Alu :=
  let t := tagOr f 12
  let dst := if f.c = 0 then 2 else f.c.toNat
  let md := e.modes f.mod.toNat
  floatAlu f e.mask [plainSrc f 0 1 1 (some t), plainSrc f 0 2 1 none] dst (fun v =>
    txExpand (Fmt.ofTag dst) md t (v.getD 1 0 % 2 ^ 16) (v.getD 0 0))

/-- A special function: flush inputs, the fixed function, flush outputs (R150 to R152). -/
def specialAlu (op : Nat) (f : Fields) (e : Env) : Alu :=
  let md := e.modes f.mod.toNat
  { floatAlu f e.mask [floatSrc f 0 1 2] 2 (fun v =>
      fp32.flushOut md (specialFn op (fp32.read md (v.getD 0 0)))) with long := true }

def aluFrcp (f : Fields) (_ : State) (e : Env) : Alu := specialAlu 0x48 f e
def aluFrsq (f : Fields) (_ : State) (e : Env) : Alu := specialAlu 0x49 f e
def aluFexp2 (f : Fields) (_ : State) (e : Env) : Alu := specialAlu 0x4A f e
def aluFlog2 (f : Fields) (_ : State) (e : Env) : Alu := specialAlu 0x4B f e
def aluFsin (f : Fields) (_ : State) (e : Env) : Alu := specialAlu 0x4C f e
def aluFcos (f : Fields) (_ : State) (e : Env) : Alu := specialAlu 0x4D f e
def aluFtanh (f : Fields) (_ : State) (e : Env) : Alu := specialAlu 0x4E f e
def aluFsigm (f : Fields) (_ : State) (e : Env) : Alu := specialAlu 0x4F f e
def aluFerf (f : Fields) (_ : State) (e : Env) : Alu := specialAlu 0x50 f e

/-- A result taken from source bits unchanged: canonical when a NaN, and flushed on output (R153, R154). -/
def Fmt.pass (fm : Fmt) (md : Modes) (bits : Nat) : Nat :=
  if (fm.decode bits).isNan then fm.nan else fm.flush md.fo bits

/-- One addition of two encodings already read (R57). Flush outputs acts on every Combine and fold step, which R153 and
R154 leave open (DESIGN CHOICE, log 64). -/
def Fmt.addBits (fm : Fmt) (md : Modes) (x y : Nat) : Nat × Word :=
  let r := fm.flushOut md (addVals fm md [fm.decode x, fm.decode y])
  (r.bits, r.flags)

/-- A reduction in the tree of R57 with its result in every active lane (R153). -/
def reduceAlu (f : Fields) (e : Env) (md : Modes) (op : Fmt → Nat → Nat → Nat × Word) : Alu :=
  let tag := tagOr f 2
  let fm := Fmt.ofTag tag
  { srcs := [floatSrc f 0 1 tag], dst := f.d.toNat, n := fmtWords tag, tags := List.replicate (fmtWords tag) tag
    run := fun v =>
      let r := reduceTree (op fm) (presentLanes e.mask (fun l => fm.flush md.fi (v 0 l % 2 ^ fm.width)))
      let w := fm.pass md (r.1.getD 0)
      ((if tag = 1 then twoWords w else [w]).map (fun x => lanesOf fun _ => BitVec.ofNat 32 x), r.2) }

def aluFreda (f : Fields) (_ : State) (e : Env) : Alu :=
  let md := e.modes f.mod.toNat
  reduceAlu f e md (fun fm x y => fm.addBits md x y)
def aluFredm (f : Fields) (_ : State) (e : Env) : Alu :=
  let md := e.modes 0
  reduceAlu f e md (fun fm x y => ((fm.minMax { md with fi := false } (f.mod = 1) x y).bits, 0))

/-- FSCAN (R154): a fold in ascending lane order; MOD [2] is EX. -/
def aluFscan (f : Fields) (_ : State) (e : Env) : Alu :=
  let md := e.modes (f.mod.toNat / 8 * 8)
  { srcs := [floatSrc f 0 1 2], dst := f.d.toNat, tags := [2]
    run := fun v =>
      let r := scanLanes (fp32.addBits md) (presentLanes e.mask (fun l => fp32.flush md.fi (v 0 l)))
      let out (x : Option Nat) : Word := BitVec.ofNat 32 (match x with | some b => fp32.pass md b | none => 0)
      ([r.1.map (fun (before, after) => out (if f.mod.getLsbD 2 then before else after))], r.2) }

/-! ### The meanings -/

def execFadd (f : Fields) (s : State) : Out := runAlu 0x30 f (aluFadd f) s
def execFsub (f : Fields) (s : State) : Out := runAlu 0x31 f (aluFsub f) s
def execFmul (f : Fields) (s : State) : Out := runAlu 0x32 f (aluFmul f) s
def execFfma (f : Fields) (s : State) : Out := runAlu 0x33 f (aluFfma f) s
def execFmin (f : Fields) (s : State) : Out := runAlu 0x34 f (aluFmin f) s
def execFmax (f : Fields) (s : State) : Out := runAlu 0x35 f (aluFmax f) s
def execFcmp (f : Fields) (s : State) : Out := runAlu 0x36 f (aluFcmp f) s
def execFclass (f : Fields) (s : State) : Out := runAlu 0x37 f (aluFclass f) s
def execPkadd (f : Fields) (s : State) : Out := runAlu 0x38 f (aluPkadd f) s
def execPkmul (f : Fields) (s : State) : Out := runAlu 0x39 f (aluPkmul f) s
def execPkfma (f : Fields) (s : State) : Out := runAlu 0x3A f (aluPkfma f) s
def execPkmin (f : Fields) (s : State) : Out := runAlu 0x3B f (aluPkmin f) s
def execPkmax (f : Fields) (s : State) : Out := runAlu 0x3C f (aluPkmax f) s
def execPkcmp (f : Fields) (s : State) : Out := runAlu 0x3D f (aluPkcmp f) s
def execFdiv (f : Fields) (s : State) : Out := runAlu 0x3E f (aluFdiv f) s
def execFsqrt (f : Fields) (s : State) : Out := runAlu 0x3F f (aluFsqrt f) s
def execCvtf (f : Fields) (s : State) : Out := runAlu 0x40 f (aluCvtf f) s
def execCvtfi (f : Fields) (s : State) : Out := runAlu 0x41 f (aluCvtfi f) s
def execCvtif (f : Fields) (s : State) : Out := runAlu 0x42 f (aluCvtif f) s
def execFpack (f : Fields) (s : State) : Out := runAlu 0x43 f (aluFpack f) s
def execFunpack (f : Fields) (s : State) : Out := runAlu 0x44 f (aluFunpack f) s
def execBlkq (f : Fields) (s : State) : Out := runAlu 0x45 f (aluBlkq f) s
def execBlkdq (f : Fields) (s : State) : Out := runAlu 0x46 f (aluBlkdq f) s
def execBlkex (f : Fields) (s : State) : Out := runAlu 0x47 f (aluBlkex f) s
def execFrcp (f : Fields) (s : State) : Out := runAlu 0x48 f (aluFrcp f) s
def execFrsq (f : Fields) (s : State) : Out := runAlu 0x49 f (aluFrsq f) s
def execFexp2 (f : Fields) (s : State) : Out := runAlu 0x4A f (aluFexp2 f) s
def execFlog2 (f : Fields) (s : State) : Out := runAlu 0x4B f (aluFlog2 f) s
def execFsin (f : Fields) (s : State) : Out := runAlu 0x4C f (aluFsin f) s
def execFcos (f : Fields) (s : State) : Out := runAlu 0x4D f (aluFcos f) s
def execFtanh (f : Fields) (s : State) : Out := runAlu 0x4E f (aluFtanh f) s
def execFsigm (f : Fields) (s : State) : Out := runAlu 0x4F f (aluFsigm f) s
def execFerf (f : Fields) (s : State) : Out := runAlu 0x50 f (aluFerf f) s
def execFreda (f : Fields) (s : State) : Out := runAlu 0x51 f (aluFreda f) s
def execFredm (f : Fields) (s : State) : Out := runAlu 0x52 f (aluFredm f) s
def execFscan (f : Fields) (s : State) : Out := runAlu 0x53 f (aluFscan f) s
def execFrnd (f : Fields) (s : State) : Out := runAlu 0x54 f (aluFrnd f) s
def execFscl (f : Fields) (s : State) : Out := runAlu 0x55 f (aluFscl f) s
def execFdot4 (f : Fields) (s : State) : Out := runAlu 0x56 f (aluFdot4 f) s

end Sys2Proof.Machine
end

