-- ==== Sys2Proof/Machine/Moment.lean ====
section
/-! DEFINITION. Moment instructions 0x60 to 0x69, 0x6C and 0x6D (R156 to R172); MLD and MST stand with the
loads and stores. -/

namespace Sys2Proof.Machine

/-- The half format of a moment format (R42). -/
def halfFmt (tag : Nat) : Fmt := if tag = 16 then bf16 else fp32

/-- The encodings of the two halves of a stored pair. -/
def halves (tag : Nat) (w : DWord) : Nat × Nat :=
  if tag = 16 then (w.toNat % 2 ^ 16, w.toNat / 2 ^ 16 % 2 ^ 16) else (w.toNat % 2 ^ 32, w.toNat / 2 ^ 32)

/-- The stored pair of two half encodings. -/
def pairOfHalves (tag mean var : Nat) : DWord :=
  BitVec.ofNat 64 (if tag = 16 then mean + 2 ^ 16 * var else mean + 2 ^ 32 * var)

/-- mcr.CLAMP (R99). -/
def Clutch.clamp (c : Clutch) : Bool := c.mcr.getLsbD 2
/-- mcr.COV and mcr.RHO (R99). -/
def Clutch.cov (c : Clutch) : Nat := c.mcr.toNat % 4
def Clutch.rho (c : Clutch) : Nat := c.mcr.toNat / 256 % 256

/-- What a lane of a moment instruction computes: its values, its flags, and whether it meets NEGVAR. -/
structure MVal where
  mu : FVal
  v : FVal
  flags : Word := 0
  neg : Bool := false

/-- A value below zero. -/
def FVal.below (x : FVal) : Bool := x.sign && !x.isZero

/-- A variance as it is read: -0 is +0, and one below zero is clamped or raises NEGVAR (R42, R158). -/
def readVariance (clamp : Bool) (x : FVal) : FVal × Word × Bool :=
  if x.isZero then (.fin false 0 0, 0, false)
  else if x.below then (if clamp then (.fin false 0 0, flagNegv, false) else (x, 0, true))
  else (x, 0, false)

/-- A moment source in a lane (R156, R158). -/
def Env.momentIn (e : Env) (md : Modes) (tag reg l : Nat) : MVal :=
  let h := halves tag (e.cl.moment reg l)
  let fm := halfFmt tag
  let (v, flags, neg) := readVariance e.cl.clamp (fm.read md h.2)
  { mu := fm.read md h.1, v, flags, neg }

/-- A lane's result: the stored pair (or an ordinary word), its flags, and whether it meets NEGVAR. -/
structure MOut where
  pair : DWord
  flags : Word
  neg : Bool

/-- Both halves rounded: a NaN half makes both NaN, a variance below zero after rounding is clamped or raises NEGVAR, and
that before a subnormal is flushed; a zero variance is +0 (R156, R158). -/
def momentOut (clamp : Bool) (md : Modes) (tag : Nat) (mean var : FRes) (flags : Word) (neg : Bool) : MOut :=
  let fm := halfFmt tag
  let v := fm.decode var.bits
  let mean := fm.flushOut md mean
  let var := fm.flushOut md var
  let flags := flags ||| mean.flags ||| var.flags
  if (fm.decode mean.bits).isNan || v.isNan then
    { pair := pairOfHalves tag fm.nan fm.nan, flags, neg }
  else
    if (fm.decode var.bits).isZero && !v.below then { pair := pairOfHalves tag mean.bits 0, flags, neg }
    else if v.below then
      { pair := pairOfHalves tag mean.bits 0, flags := flags ||| flagNegv, neg := neg || !clamp }
    else { pair := pairOfHalves tag mean.bits var.bits, flags, neg }

/-- The moment registers an instruction reads, from its shape. -/
def momentReads (op : Nat) (f : Fields) : List Nat :=
  ((readsOf op f).filter (·.moment)).map (·.reg)

/-- A poisoned word in an active lane of a moment register (R94). -/
def Env.momentPoison (e : Env) (reg : Nat) : Bool :=
  (lanesIn e.mask).any (e.cl.momentBad reg)

/-- The active lanes whose word of a moment register is poisoned (R205). -/
def Env.momentPoisonMask (e : Env) (reg : Nat) : Mask :=
  maskOf (fun l => inMask e.mask l && e.cl.momentBad reg l)

/-- Where a moment instruction's results go. -/
inductive MDst where
  | moment (reg : Nat)
  | ordinary (reg : Nat)
  /-- a long-latency producer (R157) -/
  | late (reg : Nat)

/-- The correlation register as a source, when the instruction reads one (R99, R161). -/
def Env.rhoSrc (e : Env) (usesRho : Bool) : Option Src :=
  if usesRho ∧ e.cl.cov = 3 then some { reg := e.cl.rho, tag := some 2 } else none

/-- The instructions that take a correlation: MADD, MSUB, MMUL, MFMA (R161). -/
def takesRho (op : Nat) : Bool := op = 0x60 || op = 0x61 || op = 0x63 || op = 0x64

/-- The correlation register among the registers that a word reads, with the empty action of C (R99, R161). One that the
chorus does not have traps before anything is read. -/
def Env.rhoReads (e : Env) (op : Nat) (f : Fields) : List Named :=
  match e.rhoSrc (takesRho op) with
  | some x => if e.ranges.ordinary x.reg then [{ moment := false, reg := x.reg, fe := f.fe.getLsbD 2 }] else []
  | none => []

/-- Run a moment instruction. `srcTag` is the tag its moment sources are checked against, `tag` the format of
its result; `srcs` are its ordinary sources. FORMAT comes before NEGVAR (R172). -/
def runMoment (op : Nat) (f : Fields) (usesRho : Bool) (srcTag : Option Nat) (tag : Env → Nat) (dst : MDst)
    (srcs : List Src) (g : State → Env → Nat → MOut) (s : State) : Out :=
  withClutch s fun e =>
    if e.mask ≠ 0 ∧ (e.rhoSrc usesRho).isSome ∧ !e.ranges.ordinary e.cl.rho then
      emulationTrap s e 6 f.len.bytes op f false false
    else issueWith op f (fun e => match e.rhoSrc usesRho with
        | some x => [{ moment := false, reg := x.reg, fe := f.fe.getLsbD 2 }]
        | none => []) s fun e =>
      let all := srcs ++ (e.rhoSrc usesRho).toList
      let regs := momentReads op f
      let badTag : Bool := match srcTag with
        | some t => regs.any (fun r => e.cl.momentTag r ≠ t)
        | none => false
      if badTag || all.any e.srcFails then fatal s e .format e.mask
      else if regs.any e.momentPoison || all.any (fun x => e.poisonIn x (e.readLanes x)) then
        poisonEnd s e (regs.foldl (fun m r => m ||| e.momentPoisonMask r) (e.poisonAll all))
      else
        let outs := lanesOf fun l => if inMask e.mask l then g s e l else { pair := 0, flags := 0, neg := false }
        let at_ (l : Nat) : MOut := outs.getD l { pair := 0, flags := 0, neg := false }
        let negs := maskOf (fun l => (at_ l).neg)
        let flags := (outs.foldl (fun a r => a ||| r.flags) 0) ||| (if all.any e.srcFmt then flagFmt else 0)
        if negs ≠ 0 then fatal s e .negvar negs
        else
          let s := match dst with
            | .moment reg =>
              (s.modClutch e.who (fun c => c.putMoment e.mask reg (tag e) (fun l => (at_ l).pair))).flag e.who.chorus flags
            | .ordinary reg =>
              (s.modClutch e.who (fun c =>
                c.put e.hdr.uniform e.mask reg (tag e) (fun l => (at_ l).pair.setWidth 32))).flag e.who.chorus flags
            | .late reg =>
              s.produce {
                id := 0, who := e.who, dst := .moment reg, mask := e.mask
                pairs := outs.map MOut.pair, tag := BitVec.ofNat 5 (tag e), flags, canFlag := true }
          .next (s.bump.modClutch e.who (·.advance f.len.bytes))

/-- The moment format of an instruction (R156). -/
def momentTag (f : Fields) : Nat := if f.tg = 16 then 16 else 15

/-- The correlation of a lane: none when the cross term is omitted (R161). -/
def Env.correlation (e : Env) (s : State) (md : Modes) (l : Nat) : Option FVal :=
  let one (neg : Bool) : FVal := .fin neg 1 0
  match e.cl.cov with
  | 0 => none
  | 1 => some (one false)
  | 2 => some (one true)
  | _ =>
    match fp32.read md (e.read s e.cl.rho l).toNat with
    | .nan => some .nan
    | x =>
      if x.isZero then none
      else if x.cmp (one false) = .gt then some (one false)
      else if x.cmp (one true) = .lt then some (one true)
      else some x

/-- The standard deviation product T (R161). -/
def devProduct (va vb : FVal) : FVal :=
  if va.isZero || vb.isZero then .fin false 0 0
  else
    match va, vb with
    | .nan, _ => .nan
    | _, .nan => .nan
    | .fin _ m e, .fin _ n g => fp32.decode (fp32.roundSqrt .rne (m * n) (e + g)).bits
    | _, _ => .inf false

/-- The covariance as a list of factors; none when it is omitted. -/
def covariance (rho : Option FVal) (a b : MVal) : Option (List FVal) :=
  rho.map (fun r => [r, devProduct a.v b.v])

/-- The value two. -/
def fTwo : FVal := .fin false 1 1

/-- MADD and MSUB before rounding: the terms of mean and variance (R162). -/
def sumTerms (sub : Bool) (a b : MVal) (k : Option (List FVal)) : List (List FVal) × List (List FVal) :=
  let sg (x : FVal) : FVal := if sub then x.neg else x
  ([[a.mu], [sg b.mu]],
    [[a.v], [b.v]] ++ (match k with | some k => [sg fTwo :: k] | none => []))

/-- MMUL before rounding (R164). -/
def productTerms (a b : MVal) (k : Option (List FVal)) : List (List FVal) × List (List FVal) :=
  ([[a.mu, b.mu]] ++ k.toList,
    [[a.v, b.v], [a.v, b.mu, b.mu], [b.v, a.mu, a.mu]]
      ++ (match k with | some k => [k ++ k, fTwo :: (k ++ [a.mu, b.mu])] | none => []))

/-- An arithmetic moment form with a correlation (R161 to R165). -/
def momentArith (op : Nat) (f : Fields) (srcs : Nat)
    (terms : List MVal → Option (List FVal) → List (List FVal) × List (List FVal)) (s : State) : Out :=
  let tag := momentTag f
  runMoment op f true (some tag) (fun _ => tag) (.moment f.d.toNat) [] (fun s e l =>
    let md := e.modes f.mod.toNat
    let fm := halfFmt tag
    let ins := ([f.a.toNat, f.b.toNat, f.c.toNat].take srcs).map (fun r => e.momentIn md tag r l)
    let flags := ins.foldl (fun a x => a ||| x.flags) 0
    let neg := ins.any (·.neg)
    match e.correlation s md l with
    | some .nan =>
      { pair := pairOfHalves tag fm.nan fm.nan, flags := flags ||| flagInv, neg }
    | rho =>
      match ins with
      | a :: b :: _ =>
        let (tm, tv) := terms ins (covariance rho a b)
        momentOut e.cl.clamp md tag (fm.sumProducts md.rm false tm) (fm.sumProducts md.rm false tv) flags neg
      | _ => { pair := 0, flags, neg }) s

def execMadd (f : Fields) (s : State) : Out :=
  momentArith 0x60 f 2 (fun v k => match v with
    | [a, b] => sumTerms false a b k
    | _ => ([], [])) s
def execMsub (f : Fields) (s : State) : Out :=
  momentArith 0x61 f 2 (fun v k => match v with
    | [a, b] => sumTerms true a b k
    | _ => ([], [])) s
def execMmul (f : Fields) (s : State) : Out :=
  momentArith 0x63 f 2 (fun v k => match v with
    | [a, b] => productTerms a b k
    | _ => ([], [])) s
def execMfma (f : Fields) (s : State) : Out :=
  momentArith 0x64 f 3 (fun v k => match v with
    | [a, b, c] =>
      let t := productTerms a b k
      (t.1 ++ [[c.mu]], t.2 ++ [[c.v]])
    | _ => ([], [])) s

/-- MSCL (R163). -/
def execMscl (f : Fields) (s : State) : Out :=
  let tag := momentTag f
  let b := floatSrc f 2 2 2
  runMoment 0x62 f false (some tag) (fun _ => tag) (.moment f.d.toNat) [b] (fun s e l =>
    let md := e.modes f.mod.toNat
    let fm := halfFmt tag
    let a := e.momentIn md tag f.a.toNat l
    let c := fp32.read md (e.source s b l)
    momentOut e.cl.clamp md tag (fm.sumProducts md.rm false [[a.mu, c]])
      (fm.sumProducts md.rm false [[a.v, c, c]]) a.flags a.neg) s

/-- MSET (R168). -/
def execMset (f : Fields) (s : State) : Out :=
  let tag := momentTag f
  let a := floatSrc f 2 1 2
  let b := floatSrc f 2 2 2
  runMoment 0x68 f false none (fun _ => tag) (.moment f.d.toNat) [a, b] (fun s e l =>
    let md := e.modes f.mod.toNat
    let fm := halfFmt tag
    momentOut e.cl.clamp md tag (fm.convert md.rm (fp32.read md (e.source s a l)))
      (fm.convert md.rm (fp32.read md (e.source s b l))) 0 false) s

/-- One FP32 step of a fixed sequence, rounded RNE with subnormals preserved (R167). -/
def stepMul (x y : Nat) : FRes := fp32.sumProducts .rne false [[fp32.decode x, fp32.decode y]]
def stepAdd (x y : Nat) : FRes := fp32.sumProducts .rne false [[fp32.decode x], [fp32.decode y]]
def stepFma (x y z : Nat) : FRes := fp32.sumProducts .rne false [[fp32.decode x, fp32.decode y], [fp32.decode z]]
def stepDiv (x y : Nat) : FRes := fp32.div .rne (fp32.decode x) (fp32.decode y)
def stepSqrt (x : Nat) : FRes := fp32.sqrt .rne (fp32.decode x)
def stepExp2 (x : Nat) : FRes := exp2_32 (fp32.decode x)
def negate32 (x : Nat) : Nat := if 2 ^ 31 ≤ x then x - 2 ^ 31 else x + 2 ^ 31
def one32 : Nat := 0x3F800000
def half32 : Nat := 0x3F000000

/-- A mean or variance below zero after its rounding becomes +0 (R166). -/
def notBelow (r : FRes) : FRes := if (fp32.decode r.bits).below then { r with bits := 0 } else r

/-- The flags of some steps. -/
def flagsOf (rs : List FRes) : Word := rs.foldl (fun a r => a ||| r.flags) 0

/-- MRELU's fixed sequence (R167). -/
def reluSteps (mu v : Nat) : FRes × FRes × Word :=
  let s := stepSqrt v
  let al := stepDiv mu s.bits
  let p1 := stepMul al.bits 0x3F3504F3
  let p2 := erf32 (fp32.decode p1.bits)
  let p3 := stepAdd p2.bits one32
  let p := stepMul p3.bits half32
  let f1 := stepMul al.bits al.bits
  let f2 := stepMul f1.bits 0xBF38AA3B
  let f3 := stepExp2 f2.bits
  let f := stepMul f3.bits 0x3ECC422A
  let g := stepMul s.bits f.bits
  let m1 := notBelow (stepFma mu p.bits g.bits)
  let q := stepFma mu mu v
  let w := stepMul mu g.bits
  let m2 := notBelow (stepFma q.bits p.bits w.bits)
  let var := notBelow (stepFma (negate32 m1.bits) m1.bits m2.bits)
  (m1, var, flagsOf [s, al, p1, p2, p3, p, f1, f2, f3, f, g, q, w, m2])

/-- MSIGM's fixed sequence (R167). -/
def sigmSteps (mu v : Nat) : FRes × FRes × Word :=
  let a := stepMul v 0x3EC90FDB
  let b := stepAdd a.bits one32
  let c := stepSqrt b.bits
  let k := stepDiv one32 c.bits
  let d := stepMul mu k.bits
  let p := notBelow (sigm32 (fp32.decode d.bits))
  let q := stepAdd one32 (negate32 p.bits)
  let r := stepMul p.bits q.bits
  let u := stepAdd one32 (negate32 k.bits)
  let var := notBelow (stepMul r.bits u.bits)
  (p, var, flagsOf [a, b, c, k, d, q, r, u])

/-- MEXP's fixed sequence (R167). -/
def expSteps (mu v : Nat) : FRes × FRes × Word :=
  let h := stepFma v half32 mu
  let a := stepMul h.bits 0x3FB8AA3B
  let m := notBelow (stepExp2 a.bits)
  let b := stepMul v 0x3FB8AA3B
  let c := stepExp2 b.bits
  let e := stepAdd c.bits (negate32 one32)
  let d := stepMul m.bits m.bits
  let var := notBelow (stepMul d.bits e.bits)
  (m, var, flagsOf [h, a, b, c, e, d])

/-- The exact difference of a finite value (negated when `flip`) and an integer. -/
def lessInt (flip : Bool) (x : FVal) (t : Int) : FVal :=
  match (if flip then x.neg else x) with
  | .fin s m e =>
    let g := min e 0
    let i := sumAt g [.fin s m e] - t * (2 ^ (-g).toNat : Nat)
    .fin (i < 0) i.natAbs g
  | y => y

/-- x ≥ 8σ on exact values: x ≥ 0 and x² ≥ 64v (R166). -/
def eightSigma (x v : FVal) : Bool :=
  match x, v with
  | .inf s, _ => !s
  | .fin s m e, .fin _ n g =>
    (!s || m = 0) && (FVal.fin false (m * m) (2 * e)).cmp (.fin false (64 * n) g) ≠ .lt
  | _, _ => false

/-- The result of a non-linear form from FP32 halves: unchanged source bits, exact FP32 words, or steps. -/
def nonlinear (op : Nat) (mu v : FVal) (muBits vBits : Nat) : FRes × FRes × Word :=
  let zero : FRes := { bits := 0 }
  match op with
  | 0x65 =>
    if eightSigma mu v then ({ bits := muBits }, { bits := vBits }, 0)
    else if eightSigma mu.neg v then (zero, zero, 0)
    else reluSteps muBits vBits
  | 0x66 =>
    if v.isZero then (sigm32 mu, zero, 0)
    else if eightSigma (lessInt false mu 24) v then ({ bits := one32 }, zero, 0)
    else if eightSigma (lessInt true mu 104) v then (zero, zero, 0)
    else sigmSteps muBits vBits
  | _ =>
    if v.isZero then
      let p := stepMul muBits 0x3FB8AA3B
      let r := stepExp2 p.bits
      (r, zero, p.flags)
    else if eightSigma (lessInt true mu 104) v then (zero, zero, 0)
    else expSteps muBits vBits

/-- MRELU, MSIGM, MEXP (R166): modes are ignored; MB16 results round RNE into BF16. -/
def nonlinearForm (op : Nat) (f : Fields) (s : State) : Out :=
  let tag := momentTag f
  let fm := halfFmt tag
  runMoment op f false (some tag) (fun _ => tag) (.late f.d.toNat) [] (fun _ e l =>
    let a := e.momentIn {} tag f.a.toNat l
    let nan : DWord := pairOfHalves tag fm.nan fm.nan
    if a.mu.isNan || a.v.isNan then { pair := nan, flags := a.flags, neg := a.neg }
    else if a.v.isInf ∧ !a.neg then { pair := nan, flags := a.flags ||| flagInv, neg := a.neg }
    else
      let wide (x : FVal) : Nat := (fp32.convert .rne x).bits
      let (m, v, flags) := nonlinear op a.mu a.v (wide a.mu) (wide a.v)
      let narrow (r : FRes) : FRes :=
        if tag = 16 then
          let n := fm.convert .rne (fp32.decode r.bits)
          { n with flags := n.flags ||| r.flags }
        else r
      momentOut true {} tag (narrow m) (narrow v) (flags ||| a.flags) a.neg) s

def execMrelu (f : Fields) (s : State) : Out := nonlinearForm 0x65 f s
def execMsigm (f : Fields) (s : State) : Out := nonlinearForm 0x66 f s
def execMexp (f : Fields) (s : State) : Out := nonlinearForm 0x67 f s

/-- MCOLL (R169): an FP32 word from the moment source. -/
def execMcoll (f : Fields) (s : State) : Out :=
  let tag := momentTag f
  let mode := f.mod.toNat / 8
  let b := { floatSrc f 2 2 2 with low := mode = 3 }
  runMoment 0x69 f false (some tag) (fun _ => 2) (.ordinary f.d.toNat) (if mode = 3 ∨ mode = 4 then [b] else [])
    (fun s e l =>
      let md := e.modes (f.mod.toNat % 8)
      let a := e.momentIn md tag f.a.toNat l
      let r : FRes := match mode with
        | 0 => fp32.convert md.rm a.mu
        | 1 => fp32.convert md.rm a.v
        | 2 => if a.neg then { bits := 0 } else fp32.sqrt md.rm a.v
        | _ =>
          let k := fp32.read md (e.source s b (if mode = 3 then e.low else l))
          let sd := if a.neg then { bits := 0 } else fp32.sqrt .rne a.v
          fp32.sumProducts md.rm false [[a.mu], [k, fp32.decode sd.bits]]
      let r := fp32.flushOut md r
      { pair := BitVec.ofNat 64 r.bits, flags := r.flags ||| a.flags, neg := a.neg }) s

/-- MMOV (R170): both halves bit for bit, with A's tag. -/
def execMmov (f : Fields) (s : State) : Out :=
  runMoment 0x6C f false none (fun e => e.cl.momentTag f.a.toNat) (.moment f.d.toNat) []
    (fun _ e l => { pair := e.cl.moment f.a.toNat l, flags := 0, neg := false }) s

/-- MCVT (R170): into F from the other moment format. -/
def execMcvt (f : Fields) (s : State) : Out :=
  let tag := momentTag f
  let src := if tag = 16 then 15 else 16
  runMoment 0x6D f false (some src) (fun _ => tag) (.moment f.d.toNat) [] (fun _ e l =>
    let md := e.modes f.mod.toNat
    let fm := halfFmt tag
    let a := e.momentIn md src f.a.toNat l
    momentOut e.cl.clamp md tag (fm.convert md.rm a.mu) (fm.convert md.rm a.v) a.flags a.neg) s

end Sys2Proof.Machine
end

