-- ==== Sys2Proof/Machine/LoadStore.lean ====
section
/-! DEFINITION. Opcodes 0x88 to 0x9B, MLD and MST (R171, R230 to R248). -/

namespace Sys2Proof.Machine

/-! ### Addresses and issue -/

/-- DISP as a signed number (R232). -/
def signedDisp (f : Fields) : Int := signedOf 32 f.imm.toNat

/-- Registers of the address of a space: a pair in global space. -/
def addrWidth (space : Nat) : Nat := if space = 0 then 2 else 1

/-- The scaled index of a gather or scatter in a lane (R241). -/
def Env.index (e : Env) (s : State) (f : Fields) (l : Nat) : Int :=
  let w := (e.read s f.b.toNat l).toNat
  (if f.mod.getLsbD 2 then signedOf 32 w else w) * 2 ^ (f.mod.toNat % 4)

/-- The address of a lane (R232). -/
def Env.addr (e : Env) (s : State) (f : Fields) (space : Nat) (x : Int) (l : Nat) : Nat :=
  if space = 0 then ((e.read64 s f.a.toNat l + signedDisp f + x) % 2 ^ 64).toNat
  else (((e.read s f.a.toNat l).toNat + f.imm.toNat + x) % 2 ^ 32).toNat

/-- The elements of the active lanes. -/
def Env.elems (e : Env) (s : State) (f : Fields) (space n : Nat) (gather : Bool) : List Elem :=
  (lanesIn e.mask).map (fun l =>
    { lane := l, addr := e.addr s f space (if gather then e.index s f l else 0) l, bytes := n })

/-- A value of one, two or four registers in a lane. -/
def Env.wideValue (e : Env) (s : State) (reg n l : Nat) : Nat :=
  (List.range n).foldr (fun i acc => (e.read s (reg + i) l).toNat + 2 ^ 32 * acc) 0

/-- The tag that a TG of loads and stores checks, none for 0 (R237). -/
def moveCheck (f : Fields) : Option Nat := if f.tg = 0 then none else some f.tg.toNat

/-- A moment register that a memory word reads has another tag than the one it is checked against (R171, R245). -/
def Env.momentFails (e : Env) (m : Option (Nat × Nat)) : Bool := m.any (fun x => e.cl.momentTag x.1 ≠ x.2)

/-- Steps 3 and 4 of R200 for a memory word with some register sources and at most one moment source with its tag;
`release` waits for the clutch's earlier accesses (R248). Tags are checked before poison is met (log 20). The continuation
gets FMT when a checked source is RAW. -/
def memoryWordWith (m : Option (Nat × Nat)) (op : Nat) (f : Fields) (release : Bool) (srcs : List Src) (s : State)
    (k : Env → Word → Out) : Out :=
  issue op f s fun e =>
    if srcs.any e.srcFails || e.momentFails m then fatal s e .format e.mask
    else if srcs.any (fun x => e.poisonIn x (e.readLanes x)) || m.any (fun x => e.momentPoison x.1) then
      poisonEnd s e (m.toList.foldl (fun a x => a ||| e.momentPoisonMask x.1) (e.poisonAll srcs))
    else if release && !s.drained e then .next s
    else k e (fmtFlag (srcs.any e.srcFmt))

/-- A memory word that reads no moment register. -/
def memoryWord (op : Nat) (f : Fields) (release : Bool) (srcs : List Src) (s : State) (k : Env → Word → Out) : Out :=
  memoryWordWith none op f release srcs s k

/-- An access waits for the clutch's earlier accesses to its bytes (R247). -/
def State.mustWait (s : State) (e : Env) (sp : Space) (places : List (Nat × List Nat)) (store : Bool) : Bool :=
  let flat := places.flatMap (·.2)
  s.accessPending e.who sp flat || (!store && sp = .global && s.writePending e.who flat)

/-- The scope of an acquire (R248). -/
def acquireOf (f : Fields) : Option Nat := if f.ord % 2 = 1 then some f.scope else none

/-- The sectors of some elements whose pages have a CACHE of at least `least` (R221): of an element that straddles two
pages, each sector has its own page's. -/
def State.sectorsWith (s : State) (e : Env) (least : Nat) (elems : List Elem) : List Nat :=
  let reps := elems.flatMap (fun x => x.addr :: x.vas.filter (· % 64 = 0))
  ((reps.filter (fun va => least ≤ pteCache (s.leafOf e.core e.l.ctx va))).map (fun va =>
    s.paOf e.core e.l.ctx va / 64)).foldl setInsert []

/-- The access of a load of some elements: a global one may leave in L1 what CH and the pages' CACHE admit (R218, R221,
R230). -/
def State.loadAccess (s : State) (e : Env) (f : Fields) (sp : Space) (elems : List Elem) (op : AccessOp)
    (places : List (Nat × List Nat)) : Access :=
  let global : Bool := sp = .global
  { op, space := sp, places, acquire := acquireOf f, pc := e.cl.pc, alloc := global && f.ch ≠ 1
    notL1 := if global then s.sectorsWith e 1 elems else [], notDie := if global then s.sectorsWith e 2 elems else [] }

/-- A producer whose access is performed when it lands. -/
def startAccess (s : State) (e : Env) (p : Landing) (flags : Word) : Out :=
  let holds := p.access.any (fun a => a.acquire.isSome)
  .next (((s.produce { p with who := e.who, mask := e.mask, holds }).flag e.who.chorus flags).bump.modClutch e.who
    (·.advance 16))

/-! ### Loads and gathers (R236, R237, R241) -/

/-- A load or gather in a space. -/
def loadForm (op : Nat) (f : Fields) (space : Nat) (gather : Bool) (s : State) : Out :=
  let srcs : List Src :=
    { reg := f.a.toNat, width := addrWidth space } :: (if gather then [{ reg := f.b.toNat }] else [])
  memoryWord op f false srcs s fun e flags =>
    let elems := e.elems s f space (szBytes f.sz) gather
    withPlaces s e space false elems fun s sp places =>
      if s.mustWait e sp places false then .next s
      else startAccess s e
        { id := 0, who := e.who, dst := .ordinary f.d.toNat (szRegs f.sz), mask := e.mask, tag := f.tg
          access := some (s.loadAccess e f sp elems (.load f.sz) places) } flags

def execLd (f : Fields) (s : State) : Out := loadForm 0x88 f 0 false s
def execLds (f : Fields) (s : State) : Out := loadForm 0x8A f 1 false s
def execLdc (f : Fields) (s : State) : Out := loadForm 0x8C f 2 false s
def execGath (f : Fields) (s : State) : Out := loadForm 0x8E f 0 true s
def execGaths (f : Fields) (s : State) : Out := loadForm 0x90 f f.space true s

/-! ### Stores and scatters (R236 to R238, R241) -/

/-- The bytes an instruction stores: of lanes that write one byte, the highest keeps it (R238). -/
def storeBytes (places : List (Nat × List Nat)) (value : Nat → Nat) : Store Byte :=
  places.foldl (fun m x =>
    (x.2.zip (bytesOfNat x.2.length (value x.1))).foldl (fun m y => Store.insert m y.1 y.2) m) []

/-- Perform a store: into the open windows of its homes, or at the scratchpad's banks. -/
def State.storeAll (s : State) (e : Env) (sp : Space) (bytes : Store Byte) (uncached : List Nat := []) : State :=
  match sp with
  | .global => (s.gatherUncached uncached).gather { rank := 0, order := coreWord e.core, who := some e.who, launch := some e.l.uid } bytes
  | .scratch => (s.writeLocal e.who.chorus bytes).noteScratch e.who (bytes.map (·.1))
  | .cells => s

/-- A store or scatter in a space, of the data register `reg`. -/
def storeForm (op : Nat) (f : Fields) (space : Nat) (gather : Bool) (reg : Nat) (s : State) : Out :=
  let srcs : List Src :=
    { reg := f.a.toNat, width := addrWidth space } :: { reg, width := szRegs f.sz, tag := moveCheck f }
      :: (if gather then [{ reg := f.b.toNat }] else [])
  memoryWord op f (f.ord = 2) srcs s fun e flags =>
    let elems := e.elems s f space (szBytes f.sz) gather
    withPlaces s e space true elems fun s sp places =>
      if s.mustWait e sp places true then .next s
      else
        let s' := s.storeAll e sp (storeBytes places (e.wideValue s reg (szRegs f.sz)))
          (if space = 0 then s.sectorsWith e 2 elems else [])
        .next ((s'.flag e.who.chorus flags).bump.modClutch e.who (·.advance 16))

def execSt (f : Fields) (s : State) : Out := storeForm 0x89 f 0 false f.b.toNat s
def execSts (f : Fields) (s : State) : Out := storeForm 0x8B f 1 false f.b.toNat s
def execStc (f : Fields) (s : State) : Out := storeForm 0x8D f 2 false f.b.toNat s
def execScat (f : Fields) (s : State) : Out := storeForm 0x8F f 0 true f.c.toNat s
def execScats (f : Fields) (s : State) : Out := storeForm 0x91 f f.space true f.c.toNat s

/-! ### Moment loads and stores (R171) -/

/-- Bytes of a lane of a moment format (R42). -/
def momentBytes (tag : Nat) : Nat := if tag = 16 then 4 else 8

def execMld (f : Fields) (s : State) : Out :=
  memoryWord 0x6A f false [{ reg := f.a.toNat, width := addrWidth f.space }] s fun e flags =>
    let tag := momentTag f
    let elems := e.elems s f f.space (momentBytes tag) false
    withPlaces s e f.space false elems fun s sp places =>
      if s.mustWait e sp places false then .next s
      else startAccess s e
        { id := 0, who := e.who, dst := .moment f.d.toNat, mask := e.mask, tag := BitVec.ofNat 5 tag
          access := some (s.loadAccess e f sp elems (.moment tag) places) } flags

/-- MST (R171, R172). B's tag is checked before any poison (log 20). -/
def execMst (f : Fields) (s : State) : Out :=
  let tag := momentTag f
  memoryWordWith (some (f.b.toNat, tag)) 0x6B f (f.ord = 2) [{ reg := f.a.toNat, width := addrWidth f.space }] s
    fun e flags =>
    let elems := e.elems s f f.space (momentBytes tag) false
    withPlaces s e f.space true elems fun s sp places =>
      if s.mustWait e sp places true then .next s
      else
        let s' := s.storeAll e sp (storeBytes places (fun l => (e.cl.moment f.b.toNat l).toNat))
          (if f.space = 0 then s.sectorsWith e 2 elems else [])
        .next ((s'.flag e.who.chorus flags).bump.modClutch e.who (·.advance 16))

/-! ### Accumulator copies (R244, R245) -/

/-- The rows that an MMA or MZERO covers on each of its engines (R254, R273). -/
def Job.rowCount (j : Job) : Nat :=
  if j.op = 0xAB then j.fields.imm.toNat / 2 ^ 16 % 1024
  else if j.fields.mod.toNat / 16 = 3 then 128 else 64

/-- Whether a job covers a row of the engine of a sub-core. -/
def Job.meets (j : Job) (sub row : Nat) : Bool :=
  j.fields.mod.getLsbD sub && j.row ≤ row && row < j.row + j.rowCount

/-- The jobs of the engines of a core position. -/
def Chorus.jobsAt (c : Chorus) (pos : Nat) : List Job :=
  match c.seqs.find? (fun q => q.pos = pos) with
  | some q => q.jobs
  | none => []

/-- Mark the operations that a copy overlaps: an MMA's tile on this engine becomes undefined (R263); of an MZERO only the
cells that the copy stores to (R245). -/
def Chorus.disturb (c : Chorus) (pos sub : Nat) (rows stored : List Nat) : Chorus :=
  let mark (j : Job) : Job :=
    if !rows.any (j.meets sub) then j
    else if j.op = 0xAB then { j with spoiled := j.spoiled ++ stored.filter (fun k => j.meets sub (k / 128 % 512)) }
    else { j with touched := setInsert j.touched sub }
  { c with seqs := c.seqs.map (fun q => if q.pos = pos then { q with jobs := q.jobs.map mark } else q) }

/-- The fields of DISP in an accumulator copy (R244). -/
def accCol (f : Fields) : Nat := f.imm.toNat / 2 ^ 16 % 256
def accRowOff (f : Fields) : Nat := f.imm.toNat % 1024

/-- The row of an accumulator copy, read in the lowest active lane (R244). -/
def Env.accRow (e : Env) (s : State) (f : Fields) : Nat :=
  ((e.read s f.a.toNat e.low).toNat + accRowOff f) % 2 ^ 32

/-- Rows of a copy. -/
def accRows (kind r : Nat) : List Nat := if kind = 1 then [r, r + 1] else [r]

/-- The row window and the parity of R244. -/
def Env.accRowOk (e : Env) (kind r : Nat) : Bool :=
  (accRows kind r).all (fun r => (e.cl.accbase.toNat + r) < e.cl.acclim.toNat) && (kind ≠ 1 || r % 2 = 0)

/-- The chorus row of a clutch's row (R101, R254). -/
def Env.chorusRow (e : Env) (r : Nat) : Nat := e.cl.accbase.toNat + r - e.accStart

/-- The cells of each active lane. -/
def Env.accPlaces (e : Env) (f : Fields) (kind r : Nat) : List (Nat × List Nat) :=
  let key (row col : Nat) : Nat := cellKey e.cl.pos e.cl.sub (e.chorusRow row) col
  (lanesIn e.mask).filterMap (fun l =>
    match kind with
    | 0 => some (l, [key r (accCol f + l)])
    | 1 => some (l, [key r (accCol f + l), key (r + 1) (accCol f + l)])
    | _ => if l < 64 then some (l, [key r (2 * l), key r (2 * l + 1)]) else none)

/-- LDACC (R244, R245). A pair copy with no active lane among lanes 0 to 63 writes no word and leaves D's tag as it is (DEDUCED,
log 25). -/
def execLdacc (f : Fields) (s : State) : Out :=
  memoryWord 0x92 f false [{ reg := f.a.toNat, low := true }] s fun e flags =>
    let kind := f.mod.toNat / 16
    let r := e.accRow s f
    if !e.accRowOk kind r then fatal s e .accrow e.mask
    else
      let places := e.accPlaces f kind r
      let rows := (accRows kind r).map e.chorusRow
      if s.mustWait e .cells places true then .next s
      else
        let jobs := e.ch.jobsAt e.cl.pos
        let hazard := (places.flatMap (·.2)).filter (fun k => jobs.any (fun j => j.meets e.cl.sub (k / 128 % 512)))
        let s := s.modChorus e.who.chorus (fun c => c.disturb e.cl.pos e.cl.sub rows [])
        let mask := if kind = 2 then e.mask &&& BitVec.ofNat 96 (2 ^ 64 - 1) else e.mask
        let tag := if kind = 1 then 15 else if kind = 2 then 1 else f.tg
        .next (((s.produce
          { id := 0, who := e.who, mask, tag
            dst := if kind = 1 then .moment f.d.toNat else .ordinary f.d.toNat (if kind = 2 then 2 else 1)
            access := some { op := .acc kind hazard, space := .cells, places, pc := e.cl.pc } }).flag
              e.who.chorus flags).bump.modClutch e.who (·.advance 16))

/-- STACC (R244, R245): a cell of an overlapping operation holds an undefined value. -/
def execStacc (f : Fields) (s : State) : Out :=
  let kind := f.mod.toNat / 16
  let data : List Src :=
    if kind = 1 then []
    else [{ reg := f.b.toNat, width := if kind = 2 then 2 else 1, tag := moveCheck f, upTo := if kind = 2 then 64 else 96 }]
  memoryWordWith (if kind = 1 then some (f.b.toNat, 15) else none) 0x93 f false
    ({ reg := f.a.toNat, low := true } :: data) s fun e flags =>
    let r := e.accRow s f
    if !e.accRowOk kind r then fatal s e .accrow e.mask
    else
      let places := e.accPlaces f kind r
      let rows := (accRows kind r).map e.chorusRow
      if s.mustWait e .cells places true then .next s
      else
        let jobs := e.ch.jobsAt e.cl.pos
        let value (l : Nat) : Nat :=
          if kind = 1 then (e.cl.moment f.b.toNat l).toNat else e.wideValue s f.b.toNat (if kind = 2 then 2 else 1) l
        let cell (k : Nat) (w : Word) : Word :=
          if jobs.any (fun j => j.meets e.cl.sub (k / 128 % 512)) then Config.freeWord s.tick k 0 else w
        let put (m : Store Word) (x : Nat × List Nat) : Store Word :=
          x.2.zipIdx.foldl (fun m y => m.set 0 y.1 (cell y.1 (BitVec.ofNat 32 (value x.1 / 2 ^ (32 * y.2))))) m
        let s := s.modChorus e.who.chorus (fun c =>
          { c.disturb e.cl.pos e.cl.sub rows (places.flatMap (·.2)) with
            acc := places.foldl put c.acc, accPoison := clearedBy 16 c.accPoison (places.flatMap (·.2)) })
        .next ((s.flag e.who.chorus flags).bump.modClutch e.who (·.advance 16))

/-! ### Local atomics (R242, R243) -/

/-- The lanes whose address is not a multiple of the size (R235). -/
def misaligned (elems : List Elem) : Mask :=
  maskOf (fun l => elems.any (fun x => x.lane = l && x.addr % x.bytes ≠ 0))

/-- An atomic or CAS: its access is performed when it lands; a release waits at issue. -/
def atomicForm (op : Nat) (f : Fields) (space : Nat) (srcs : List Src) (mk : Env → AccessOp) (tag : BitVec 5)
    (flag : Bool) (s : State) : Out :=
  let n := if f.mod.toNat % 8 < 2 then 1 else 2
  memoryWord op f (2 ≤ f.ord) ({ reg := f.a.toNat, width := addrWidth space } :: srcs) s fun e flags =>
    let elems := e.elems s f space (4 * n) false
    let bad := misaligned elems
    if bad ≠ 0 then fatal s e .align bad
    else withPlaces s e space true elems fun s sp places =>
      if s.mustWait e sp places false then .next s
      else startAccess s e
        { id := 0, who := e.who, dst := .ordinary f.d.toNat n, mask := e.mask, tag, canFlag := flag
          access := some { op := mk e, space := sp, places, acquire := acquireOf f, pc := e.cl.pc } } flags

/-- ATOM, ATOMS, ATOMC: D receives RAW, or FP32 under FADD. -/
def rmwForm (op : Nat) (f : Fields) (space : Nat) (s : State) : Out :=
  let aop := f.mod.toNat / 8
  let ty := f.mod.toNat % 8
  let n := if ty < 2 then 1 else 2
  let b : Src := { reg := f.b.toNat, width := n, tag := if aop = 7 then some 2 else none }
  atomicForm op f space [b] (fun e => .rmw aop ty (lanesOf (e.wideValue s f.b.toNat n)))
    (if aop = 7 then 2 else 0) (aop = 7) s

def execAtom (f : Fields) (s : State) : Out := rmwForm 0x94 f 0 s
def execAtoms (f : Fields) (s : State) : Out := rmwForm 0x95 f 1 s
def execAtomc (f : Fields) (s : State) : Out := rmwForm 0x96 f 2 s

/-- CAS, CASS, CASC. -/
def casForm (op : Nat) (f : Fields) (space : Nat) (s : State) : Out :=
  let n := if f.mod.toNat % 8 < 2 then 1 else 2
  atomicForm op f space [{ reg := f.b.toNat, width := n }, { reg := f.c.toNat, width := n }]
    (fun e => .cas (4 * n) (lanesOf (e.wideValue s f.b.toNat n)) (lanesOf (e.wideValue s f.c.toNat n))) 0 false s

def execCas (f : Fields) (s : State) : Out := casForm 0x97 f 0 s
def execCass (f : Fields) (s : State) : Out := casForm 0x98 f 1 s
def execCasc (f : Fields) (s : State) : Out := casForm 0x99 f 2 s

/-! ### Prefetch and cache control (R246) -/

/-- The physical addresses of the active lanes whose page is valid and whose home is the clutch's die. -/
def Env.ownAddrs (e : Env) (s : State) (f : Fields) : List (Nat × Nat) :=
  (e.elems s f 0 1 false).filterMap (fun x =>
    if 2 ^ 57 ≤ x.addr then none
    else match s.translate e.core e.l.ctx x.addr with
      | .page va _ pte =>
        let pa := pageAddr va pte x.addr
        if homeOf pa = e.ch.die then some (pa, pte) else none
      | _ => none)

/-- The lanes' addresses are translated; the word waits while a walk that it needs cannot run (R225), a walk that reads a poisoned
sector ends the launch (R219, R226), and a lease on a region that the word reaches is recalled first (R223, R308). -/
def withBrought (s : State) (e : Env) (f : Fields) (k : State → Out) : Out :=
  let elems := e.elems s f 0 1 false
  match s.bring e.core e.l.ctx (onePerPage (elems.map (·.addr))) with
  | none => .next s
  | some s =>
    let bad := maskOf (fun l => elems.any (fun x => x.lane = l && s.translate e.core e.l.ctx x.addr = .poison))
    if bad ≠ 0 then poisonEnd s e bad
    else match s.recall ((e.ownAddrs s f).map (·.1)) with
      | some s' => .next s'
      | none => k s

/-- PREF: the unpoisoned sectors come into the caches that the pages' CACHE admits, LEVEL 1 into the die cache only. -/
def execPref (f : Fields) (s : State) : Out :=
  memoryWord 0x9A f false [{ reg := f.a.toNat, width := 2 }] s fun e flags => withBrought s e f fun s =>
    let sectors (least : Nat) : List Nat :=
      ((((e.ownAddrs s f).filter (fun x => pteCache x.2 ≤ least && !s.poisonedAt x.1)).map (·.1 / 64))).foldl setInsert []
    let s' := s.fillCache (sectors 1)
    let s' := if f.mod = 0 then s'.fillL1 e.core (fun _ => true) (fun _ => true) (sectors 0) else s'
    .next ((s'.flag e.who.chorus flags).bump.modClutch e.who (·.advance 16))

/-- LINEOP: DROP and DROPALL invalidate L1; CLEAN and EVICT write lines of the die cache to DRAM, and EVICT drops them. -/
def execLineop (f : Fields) (s : State) : Out :=
  let done (s : State) (e : Env) : Out := .next (s.bump.modClutch e.who (·.advance 16))
  let srcs : List Src := if f.mod = 1 then [] else [{ reg := f.a.toNat, width := 2 }]
  memoryWord 0x9B f false srcs s fun e _ =>
    if f.mod = 1 then done (s.invalidateL1 e.core) e
    else withBrought s e f fun s =>
      let pas := (e.ownAddrs s f).map (·.1)
      if f.mod = 0 then done (s.dropL1 e.core (fun sec => pas.any (fun pa => pa / 128 = sec / 2))) e
      else done (s.modDie e.ch.die (fun d => pas.foldl (fun d pa => d.cleanLine (f.mod = 3) (pa / 256)) d)) e

end Sys2Proof.Machine
end

