-- ==== Sys2Proof/Machine/Order.lean ====
section
/-! DEFINITION. FENCE and PROMOTE (R249 to R252) and the completion of a fence. -/

namespace Sys2Proof.Machine

/-- A FENCE.OPR covers what the clutch has written until now: it is published to the matrix stream by the arrivals that
follow the fence (R250). -/
def State.publish (s : State) (e : Env) (kind : FenceKind) : State :=
  if kind = .opr then
    (s.modChorus e.who.chorus (·.fence e.who.clutch (fun _ => true))).modClutch e.who
      (fun c => { c with loans := c.loans.fence (fun _ => true) })
  else s

/-- A FENCE issues and is pending until it completes; the clutch goes on (R249). -/
def fenceForm (f : Fields) (kind : FenceKind) (s : State) : Out :=
  issue 0x81 f s fun e =>
    .next ((s.publish e kind).bump.modClutch e.who (fun c => { c with fence := some kind, fenceAt := s.fresh }.advance 8))

def execFence (f : Fields) (s : State) : Out := fenceForm f (.memory (f.mod.toNat % 4)) s
def execFenceOpr (f : Fields) (s : State) : Out := fenceForm f .opr s
def execFenceQ (f : Fields) (s : State) : Out := fenceForm f .q s

/-- PROMOTE (R252): the releases of the model are performed after every earlier write of their clutch, at
every scope, so step 1 has nothing left to do; the core's L1 goes, and a word is loaded as an acquire at die
scope. -/
def execPromote (f : Fields) (s : State) : Out :=
  memoryWord 0x82 f false [{ reg := f.a.toNat, width := 2 }] s fun e _ =>
    let elems := e.elems s f 0 4 false
    let bad := misaligned elems
    if bad ≠ 0 then fatal s e .align bad
    else withGlobal s e false elems fun s places =>
      if s.mustWait e .global places false then .next s
      else
        .next (((s.invalidateL1 e.core).produce
          { id := 0, who := e.who, dst := .ordinary f.d.toNat 1, mask := e.mask, holds := true
            access := some { s.loadAccess e f .global elems (.load 4) places with acquire := some 3 } }).bump.modClutch e.who (·.advance 8))

/-- Whether the pending fence of a clutch may complete (R249 to R251). -/
def State.fenceDone (s : State) (e : Env) : Bool :=
  match e.cl.fence with
  | none => false
  | some (.memory _) => !s.hasWrite e.who && !s.inQueue e
      && s.landings.all (fun p => p.who ≠ e.who || e.cl.fenceAt ≤ p.id || (p.access.isNone && p.awaited = 0))
  | some .opr => s.landings.all (fun p => p.who ≠ e.who || e.cl.fenceAt ≤ p.id)
  | some .q => true

/-- FENCE_COMPLETE (R249 to R251): a memory fence of cluster or die scope is an acquire, and invalidates L1. -/
def execFenceComplete (who : ClutchId) (s : State) : Out :=
  match s.env? who with
  | none => .next s
  | some e =>
    if !s.fenceDone e then .next s
    else
      let s := match e.cl.fence with
        | some (.memory scope) => if 2 ≤ scope then s.invalidateL1 e.core else s
        | _ => s
      .next (s.modClutch who (fun c => { c with fence := none }))

end Sys2Proof.Machine
end

