-- ==== Sys2Proof/Machine/Landing.lean ====
section
/-! DEFINITION. The landing of long-latency producers (R91, R92) and what the event log records (R440). -/

namespace Sys2Proof.Machine

/-- A clutch of a chorus with its launch, ended or not. -/
def State.anyEnv? (s : State) (who : ClutchId) : Option Env :=
  match s.chorus? who.chorus with
  | none => none
  | some ch =>
    match s.launch? ch.launch, ch.clutch? who.clutch with
    | some l, some cl => some { who, l, ch, cl }
    | _, _ => none

/-- The destination of a producer receives its datum and becomes full (R91, R93). -/
def Clutch.fill (c : Clutch) (n : Nat) (p : Landing) : Clutch :=
  match p.dst with
  | .ordinary first k =>
    { c with empty := c.empty.filter (fun r => !(first ≤ r && r < first + k)) }.putAll n p.mask first
      (List.replicate k p.tag.toNat) p.words
  | .moment reg =>
    { c with mempty := setErase c.mempty reg }.putMoment p.mask reg p.tag.toNat (laneM p.pairs)

/-- What a pending FENCE.OPR that issued after a producer covers of its destination (R250). -/
def Clutch.cover (c : Clutch) (p : Landing) : Clutch :=
  if c.fence = some .opr && p.id < c.fenceAt then
    { c with loans := c.loans.fence (fun r => match p.dst with
      | .ordinary first k => first ≤ r && r < first + k
      | .moment reg => r = 256 + reg) }
  else c

/-- A producer lands: its registers, its flags (R132), and the blocks of a clutch that has ended (R190). -/
def State.land (s : State) (p : Landing) : State :=
  let s := { s with landings := s.landings.filter (fun q => q.id ≠ p.id) }
  match s.anyEnv? p.who with
  | none => s
  | some e =>
    let s := (s.modClutch p.who (fun c => (c.fill e.hdr.uniform p).cover p)).flag p.who.chorus p.flags
    if e.cl.ended && !s.hasLanding p.who then s.returnBlocks e else s

/-- Waiting FREADs land when their future completes, not by themselves (R398). -/
def State.waitsOnFuture (s : State) (id : Nat) : Bool :=
  (List.range 4).any (fun d => (s.die d).futures.any (fun x => x.2.waiters.any (fun w => w.1 = id)))

/-- A lane that reads a poisoned sector ends the launch with POISON (R219). -/
def State.poisonLanding (s : State) (p : Landing) (pc : Word) (mask : Mask) : State :=
  let s := { s with landings := s.landings.filter (fun q => q.id ≠ p.id) }
  match s.anyEnv? p.who with
  | none => s
  | some e => s.endWith e ({ e with cl := { e.cl with pc } }.report Code.poison.num 0 mask)

/-- Words of one register from two sources: the second in the lanes it covers. -/
def mergeWords (lanes : List Nat) (old new : List Lanes) : List Lanes :=
  if old.isEmpty then new
  else new.zipIdx.map (fun (w, i) => lanesOf fun l => if lanes.contains l then lane w l else lane (old.getD i []) l)

/-- LONG_LATENCY_LANDING: a producer performs its access, if it has one, and lands. One whose reply, future or
copy is outstanding does not land by itself; a plain access to a leased region waits for the return (R308). -/
def execLongLatencyLanding (id : Nat) (s : State) : Out :=
  match s.landings.find? (fun p => p.id = id) with
  | none => .next s
  | some p =>
    if p.awaited ≠ 0 ∨ s.waitsOnFuture id ∨ s.copies.any (fun j => p.copy = some j.id) then .next s
    else match p.access with
      | none => .next (s.land p)
      | some a =>
        match s.chorus? p.who.chorus with
        | none => .next { s with landings := s.landings.filter (fun q => q.id ≠ id) }
        | some ch =>
          match s.recall a.globalPlaces with
          | some s' => .next s'
          | none =>
            let core := match ch.clutch? p.who.clutch with
              | some c => ch.coreAt c.pos
              | none => ch.coreAt 0
            let r := s.perform p core a
            if r.poison ≠ 0 then .next (r.s.poisonLanding p a.pc r.poison)
            else .next (r.s.land { p with words := mergeWords (a.places.map (·.1)) p.words r.words, pairs := r.pairs, flags := p.flags ||| r.flags })

/-! ### The event log (R440) -/

/-- The kinds of event the log records; the 16-bit code of each is not given by the manual (log 10). -/
inductive LogKind where
  | corrected | uncorrectable | lostDie | lostDevice | droppedAccess | unknownMessage | droppedStatus | lease
deriving DecidableEq, Repr

def LogKind.index : LogKind → Nat
  | .corrected => 0 | .uncorrectable => 1 | .lostDie => 2 | .lostDevice => 3 | .droppedAccess => 4
  | .unknownMessage => 5 | .droppedStatus => 6 | .lease => 7

/-- Enter an event in the log; a full ring loses its oldest entry (R440). -/
def State.logEvent (s : State) (kind : LogKind) (die ctx coreid detail : Nat) : State :=
  let entry : LogEntry := {
    cycle := (s.die die).cycle.toNat, code := Config.eventCode kind.index, die, ctx, coreid, detail }
  (s.modCrucible (fun c =>
    if c.log.length < 4096 then { c with log := c.log ++ [entry] }
    else { c with log := c.log.drop 1 ++ [entry], overwritten := c.overwritten + 1 })).interrupt 1

end Sys2Proof.Machine
end

