-- ==== Sys2Proof/Machine/Tables.lean ====
section
/-! DEFINITION. The future table (R394 to R396) and the tile table (R401 to R403). -/

namespace Sys2Proof.Machine

/-! ### Futures -/

/-- The handle of an entry (R394). -/
def handleWord (gen : BitVec 16) (index : Nat) : Word := BitVec.ofNat 32 (2 ^ 16 * gen.toNat + index)

/-- The lowest-numbered FREE entry; index 0 is never allocated (R394, R396). -/
def Die.freeFuture (d : Die) : Option Nat :=
  ((List.range (min (d.futures.length + 1) 65535)).map (· + 1)).find? (fun i => (d.futures.get {} i).state = .free)

/-- Allocate a future in PENDING (R396). -/
def State.allocFuture (s : State) (die ctx : Nat) (kind : FutureKind) (owner : Nat) : Option (Nat × State) :=
  match (s.die die).freeFuture with
  | none => none
  | some i => some (i, s.modDie die (fun d => { d with
      futures := d.futures.modify {} i (fun x => { gen := x.gen, ctx, kind, owner, state := .pending }) }))

/-- The entry a handle names, when it is valid for a context (R394). -/
def State.future? (s : State) (die ctx : Nat) (h : Word) : Option (Nat × Future) :=
  let i := h.toNat % 2 ^ 16
  let x := (s.die die).futures.get {} i
  if i ≠ 0 ∧ x.state ≠ .free ∧ x.gen.toNat = h.toNat / 2 ^ 16 ∧ x.ctx = ctx then some (i, x) else none

/-- Both words of a 64-bit value in every lane. -/
def pairLanes (v : Nat) : List Lanes := (twoWords v).map (fun w => lanesOf fun _ => BitVec.ofNat 32 w)

/-- A waiting FREAD receives a value and lands; it is an acquire at die scope (R345, R398). -/
def State.deliver (s : State) (id v : Nat) : State :=
  match s.landings.find? (fun p => p.id = id) with
  | none => s
  | some p =>
    let s := s.land { p with words := pairLanes v }
    match s.env? p.who with
    | some e => s.invalidateL1 e.core
    | none => s

/-- The value that an invalid handle reads as (R398). -/
def invalidValue : Nat := 2 ^ 64 - 1

/-- Free an entry (R396): a node still on its list receives the invalid value. -/
def State.freeFutureAt (s : State) (die i : Nat) : State :=
  let x := (s.die die).futures.get {} i
  let s := s.modDie die (fun d => { d with futures := d.futures.modify {} i (fun x => { gen := x.gen + 1 }) })
  x.waiters.foldl (fun s w => s.deliver w.1 invalidValue) s

/-- Complete a PENDING entry: VALUE and STATE in one step, the value to every waiting FREAD, and the freeing
that a REL or an owner that has gone asks for (R396, R398). The completion for an owner that was abandoned is dropped. -/
def State.completeFuture (s : State) (die i : Nat) (st : FutureState) (v : DWord) : State :=
  let x := (s.die die).futures.get {} i
  if x.state ≠ .pending then s
  else if x.dropped then s.freeFutureAt die i
  else
    let s := s.modDie die (fun d => { d with
      futures := d.futures.modify {} i (fun x => { x with value := v, state := st, waiters := [] }) })
    let s := x.waiters.foldl (fun s w => s.deliver w.1 v.toNat) s
    if x.orphan ∨ x.waiters.any (·.2) then s.freeFutureAt die i else s

/-- The owner of some futures has retired: completed entries are freed now, the others at completion (R396). -/
def State.retireFutures (s : State) (die uid : Nat) : State :=
  (s.die die).futures.foldl (fun s x =>
    if x.2.owner ≠ uid ∨ x.2.state = .free then s
    else if x.2.state = .pending then
      s.modDie die (fun d => { d with futures := d.futures.modify {} x.1 (fun y => { y with orphan := true }) })
    else s.freeFutureAt die x.1) s

/-- The owner of some futures is abandoned or its launch has ended: copies and completed entries are freed at
once, the others when they are settled (R396). -/
def State.discardFutures (s : State) (die uid : Nat) : State :=
  (s.die die).futures.foldl (fun s x =>
    if x.2.owner ≠ uid ∨ x.2.state = .free then s
    else if x.2.state = .pending ∧ x.2.kind ≠ .copy then
      s.modDie die (fun d => { d with futures := d.futures.modify {} x.1 (fun y => { y with orphan := true, dropped := true }) })
    else s.freeFutureAt die x.1) s

/-- A FAILED value: a reason and 57 further bits (R287, R391). -/
def failValue (reason rest : Nat) : DWord := BitVec.ofNat 64 (2 ^ 57 * reason + rest % 2 ^ 57)

/-! ### Words that write one result -/

/-- A long-latency producer that writes one word, the same in every active lane, tag RAW. -/
def produceWord (s : State) (e : Env) (d bytes : Nat) (w : Word) : Out :=
  .next ((s.produce { id := 0, who := e.who, dst := .ordinary d 1, mask := e.mask, words := [lanesOf fun _ => w] }).bump.modClutch
    e.who (·.advance bytes))

/-- A result written at once, the same in every active lane, tag RAW. -/
def writeResult (s : State) (e : Env) (d bytes : Nat) (w : Word) : State :=
  s.bump.modClutch e.who (fun c => (c.put e.hdr.uniform e.mask d 0 (fun _ => w)).advance bytes)

/-- An operand read once in the lowest active lane: poison there is a machine error (R94). -/
def withLow (s : State) (e : Env) (regs : List Nat) (k : Out) : Out :=
  if regs.any (fun r => e.poisonIn { reg := r } [e.low]) then
    poisonEnd s e (regs.foldl (fun m r => m ||| e.poisonAmong { reg := r } [e.low]) 0) else k

/-- An operand that is read in every active lane (R295): poison there is a machine error (R94). -/
def withActive (s : State) (e : Env) (regs : List Nat) (k : Out) : Out :=
  let lanes := lanesIn e.mask
  if regs.any (fun r => e.poisonIn { reg := r } lanes) then
    poisonEnd s e (regs.foldl (fun m r => m ||| e.poisonAmong { reg := r } lanes) 0) else k

/-- A 32-bit operand of the lowest active lane. -/
def Env.lowWord (e : Env) (s : State) (reg : Nat) : Nat := (e.read s reg e.low).toNat
/-- A 64-bit operand of the lowest active lane. -/
def Env.lowPair (e : Env) (s : State) (reg : Nat) : Nat := e.read64 s reg e.low

/-! ### Tiles -/

def Chorus.tile (c : Chorus) (n : Nat) : Tile := c.tiles.get {} n
def Chorus.modTile (c : Chorus) (n : Nat) (g : Tile → Tile) : Chorus := { c with tiles := c.tiles.modify {} n g }

/-- A tile is defined for the chorus (R401). -/
def Chorus.tileDefined (c : Chorus) (n : Nat) : Bool := n < 64 && (c.tile n).size ≠ 0

/-- The code of a tile state (R401). -/
def TileState.num : TileState → Nat
  | .empty => 0
  | .filling => 1
  | .ready => 2
  | .draining => 3

/-- An event of a tile may still happen in a cycle: the landing of copy bytes, then TILEDEF, TILEREL and TILEDRN in increasing
clutchid, then admissions (R404). -/
def Tile.inOrder (t : Tile) (now order : Nat) : Bool := t.stamps.at_.1 ≠ now + 1 || t.stamps.at_.2 ≤ order

/-- The places of the events in a cycle's order (R404). -/
def landingOrder : Nat := 0
def clutchOrder (clutch : Nat) : Nat := 1 + clutch
def admissionOrder : Nat := 1000

/-- A tile that was READY as the cycle began, which the READY checks of the cycle see (R404). -/
def Tile.wasReady (t : Tile) (now : Nat) : Bool :=
  t.stamps.readied ≠ now + 1 && (t.state = .ready || t.stamps.unready = now + 1)

/-- The stamps of a tile that goes from one entry to another. -/
def TileStamps.step (now order : Nat) (old new : Tile) : TileStamps :=
  { at_ := (now + 1, order)
    emptied := if new.size ≠ 0 ∧ new.state = .empty ∧ (old.size = 0 ∨ old.state ≠ .empty) then now + 1 else old.stamps.emptied
    readied := if new.state = .ready ∧ old.state ≠ .ready then now + 1 else old.stamps.readied
    unready := if old.state = .ready ∧ new.state ≠ .ready then now + 1 else old.stamps.unready }

/-- An event of a tile: its new entry, and undefined operands for the operations that name a tile that leaves READY (R274). -/
def Chorus.tileEvent (c : Chorus) (now order n : Nat) (g : Tile → Tile) : Chorus :=
  let old := c.tile n
  let new := g old
  let mark (j : Job) : Job := if j.tiles.contains n then { j with touched := [0, 1, 2, 3] } else j
  (if old.state = .ready ∧ new.state ≠ .ready then c.mapJobs mark else c).modTile n
    (fun _ => { new with stamps := TileStamps.step now order old new })

/-- A tile enters EMPTY (R403). -/
def Tile.clear (t : Tile) : Tile := { t with state := .empty, dcount := 0, remain := 0, open_ := 0 }

end Sys2Proof.Machine
end

