-- ==== Sys2Proof/Machine/Fabric.lean ====
section
/-! DEFINITION. What the crucible keeps for remote operations: keys and freezes (R207, R309), pacing (R310), the
duplicate filter (R411), settled elements, refusals (R305) and the release of identities (R306). -/

namespace Sys2Proof

/-- The entry of a key index and tag (R411). -/
def FilterEntry.names (x : FilterEntry) (keyidx : Nat) (tag : DWord) : Bool := x.keyidx = keyidx && x.tag = tag

/-- The target of an element of the lessee's own, under a lease. -/
def Lease.target (l : Lease) (x : Element) : Nat := 65536 * l.region + x.addr.toNat % 65536

/-- The code of a refusal reason (R305). -/
def Reason.num : Reason → Nat
  | .kind => 1
  | .miss => 2
  | .header => 3
  | .arrival => 4
  | .unreach => 5

/-- The epoch of a window element (R312). -/
def Element.epoch (x : Element) : Option Nat := x.win.map (·.epoch)

/-- The element has this identity and destination. -/
def Element.identified (x : Element) (keyidx : Nat) (tag : DWord) (lane dev : Nat) : Bool :=
  x.keyidx = keyidx && x.tag = tag && x.lane = lane && x.dstDev = dev

/-- The element of this identity and destination, and of this epoch if it is a window element: an acknowledgement of an
older placement's element settles no element of a newer one (R312, R317). -/
def Element.named (x : Element) (keyidx : Nat) (tag : DWord) (lane dev : Nat) (epoch : Option Nat) : Bool :=
  x.identified keyidx tag lane dev && x.epoch = epoch

/-- The acknowledgement of an element, under the key that it carried (R309). -/
def Element.ack (x : Element) (result : AckResult) : Ack :=
  { fromDev := x.dstDev, toDev := x.srcDev, keyidx := x.keyidx, tag := x.tag, lane := x.lane, epoch := x.epoch, key := x.key, result }

end Sys2Proof

namespace Sys2Proof.Machine

/-! ### Time -/

/-- A microsecond in arithmetic cycles (R6). -/
def microsecond : Nat := 3300
/-- The 10 ms of R296, R408 and R436. -/
def tenMs : Nat := 10000 * microsecond

/-! ### Messages -/

/-- A message arrives from the fabric: one that this device sent to itself must be under way, and leaves the
fabric; what other devices send is theirs to choose, and comes while some port to them is in use (R436, log 12). -/
def State.receive (s : State) (src dst : Nat) (m : Msg) : Option State :=
  if dst ≠ s.crucible.devnum then none
  else if src = s.crucible.devnum then
    if s.outbox.contains m then some { s with outbox := s.outbox.erase m } else none
  else if s.hasPath src then some s else none

/-! ### Keys and freezes -/

/-- A receive entry accepts a carried key: the key, or the previous one (R309, R410). -/
def ReceiveKey.accepts (k : ReceiveKey) (key : DWord) : Bool := k.valid && (k.key = key || k.prev = some key)

/-- Lanes of a landing receive words; it lands once nothing is awaited (R302, R315). -/
def State.landLanes (s : State) (id : Nat) (mask : Mask) (words : List Lanes) (flags : Word) : State :=
  match s.landings.find? (fun p => p.id = id) with
  | none => s
  | some p =>
    let got := lanesIn mask
    let p := { p with
      words := if p.words.isEmpty then words else mergeWords got p.words words
      awaited := p.awaited &&& ~~~mask, flags := p.flags ||| flags }
    if p.awaited = 0 ∧ p.access.isNone then s.land p
    else { s with landings := updateFirst (fun q => q.id = id) (fun _ => p) s.landings }

/-- The registers of a landing. -/
def State.landingSize (s : State) (id : Nat) : Nat :=
  match s.landings.find? (fun p => p.id = id) with
  | some p => match p.dst with
    | .ordinary _ n => n
    | .moment _ => 1
  | none => 1

/-- A read that no answer will come for: D becomes full all the same, with free values (R302, log 70). -/
def State.landFree (s : State) (a : Asked) : State :=
  match a.landing with
  | none => s
  | some id =>
    (s.landLanes id a.mask ((List.range (s.landingSize id)).map (fun i => lanesOf (fun l => Config.freeWord s.tick i l))) 0).bump

/-- Freeze a context after a violation (R207, R309): its cores take a stop with the code, and the elements and requests it
has queued at the crucible are dropped. -/
def State.freeze (s : State) (ctx : Nat) (code : Code) : State :=
  if (s.context ctx).frozen.isSome then s
  else
    let s := s.modContext ctx (fun c => { c with frozen := some code.num })
    let cores : List CoreId := (List.range 4).flatMap (fun d => (List.range 48).map (fun k => { die := d, core := k }))
    let mine := cores.filter (fun c => ((s.die c.die).holders.get {} (c.core / 4)).ctx = some ctx)
    let s := mine.foldl (fun s c => s.stopCore c none 31 code) s
    let dropped := s.crucible.asked.filter (fun a => a.req.ctx = ctx)
    let s := s.modCrucible (fun c => { c with
      unsettled := c.unsettled.filter (fun u => u.elem.ctx ≠ ctx), asked := c.asked.filter (fun a => a.req.ctx ≠ ctx) })
    (dropped.foldl State.landFree s).interrupt 2

/-- What a receiving port makes of a packet whose key it does not accept: the packet is dropped, and a context of this device
that sent it is frozen (R309). -/
def State.dropPacket (s : State) (src keyidx : Nat) : State :=
  if src = s.crucible.devnum then s.freeze (s.rcvKey keyidx).ctx .key else s

/-! ### The duplicate filter (R411) -/

/-- Whether a filter holds an identity. -/
def filterHolds (fs : List FilterEntry) (keyidx : Nat) (tag : DWord) (lane : Nat) : Bool :=
  fs.any (fun x => x.names keyidx tag && inMask x.lanes lane)

/-- Enter an identity. -/
def filterEnter (fs : List FilterEntry) (keyidx : Nat) (tag : DWord) (lane : Nat) (win : Bool) : List FilterEntry :=
  let bit := maskOf (· = lane)
  if fs.any (·.names keyidx tag) then
    updateFirst (fun (x : FilterEntry) => x.names keyidx tag) (fun x => { x with lanes := x.lanes ||| bit }) fs
  else fs ++ [{ tag, keyidx, win, lanes := bit }]

/-- Whether the filter of a home die holds an identity (R297, R306). -/
def State.knowsAt (s : State) (die keyidx : Nat) (tag : DWord) (lane : Nat) : Bool :=
  filterHolds (s.die die).filter keyidx tag lane

/-- Whether some filter of this device holds an identity, for an element whose address has no translation any more, so that
it has no home: it has been applied here (R297). -/
def State.knows (s : State) (keyidx : Nat) (tag : DWord) (lane : Nat) : Bool :=
  s.dies.any (fun d => filterHolds d.2.filter keyidx tag lane)

/-- Whether a die's filter has room for an identity within its quota. -/
def State.filterRoom (s : State) (die keyidx : Nat) (tag : DWord) : Bool :=
  let fs := (s.die die).filter
  fs.any (·.names keyidx tag)
    || (fs.length < 2 ^ 21 && (fs.filter (fun x => x.keyidx = keyidx)).length < 512 * (s.rcvKey keyidx).quota)

def State.enterFilter (s : State) (die keyidx : Nat) (tag : DWord) (lane : Nat) (win : Bool) : State :=
  s.modDie die (fun d => { d with filter := filterEnter d.filter keyidx tag lane win })

/-! ### Refusals, settling, release -/

/-- Count a refusal for its launch, keeping the first (R305). -/
def State.refuse (s : State) (launch : Nat) (r : RefusalRec) : State :=
  s.modLaunch launch (fun l => { l with
    refusals := min (l.refusals + 1) 0xFFFFFFFF, first := if l.first.isSome then l.first else some r })

/-- The refusal of an element. -/
def refusalOf (x : Element) (r : Reason) : RefusalRec :=
  { reason := r, lane := x.lane, dev := x.dstDev, tag := x.tag, addr := x.addr }

/-- Whether a chorus still has elements or requests that are not settled. -/
def State.owes (s : State) (chorus : Nat) : Bool :=
  s.crucible.unsettled.any (fun u => u.chorus = chorus) || s.crucible.asked.any (fun a => a.chorus = chorus)
    || s.dies.any (fun d => d.2.cores.any (fun c => c.2.queue.any (fun q => q.who.chorus = chorus)))

/-- The tags of a chorus that node bins hold are released with it (R379, R306). -/
def State.releaseBinTags (s : State) (ctx pre : Nat) : State :=
  let clean (b : Bin) : Bin := { b with held := b.held.filter (fun t => t.toNat / 2 ^ 25 ≠ pre) }
  s.modContext ctx (fun c => { c with
    nodes := c.nodes.map (fun n => { n with bins := n.bins.map (fun b => (b.1, clean b.2)) }) })

/-- Send the releases of the choruses that owe nothing more and whose context is not frozen (R306); what bins and the
collective queue hold for their tags goes with them (R379, R388). -/
def State.flushReleases (s : State) : State :=
  s.crucible.releases.foldl (fun s p =>
    if s.owes p.chorus || (s.context p.ctx).frozen.isSome then s
    else
      let s := (s.modCrucible (fun c => { c with
        releases := c.releases.filter (· ≠ p)
        colls := c.colls.filter (fun x => !(x.who.chorus = p.chorus && x.outcome.isSome)) })).releaseBinTags p.ctx p.pre
      p.homes.foldl (fun s h =>
        (List.range 4).foldl (fun s d =>
          s.send (.release (h / 256) d (h % 256) p.pre (s.srcKey p.ctx (h % 256)).key)) s) s) s

/-- Tag bits [63:25] of a chorus: LID, SECTION, CHORUS (R292). -/
def tagPrefix (lid section_ index : Nat) : Nat := 2 ^ 27 * (lid % 4096) + 2 ^ 24 * (section_ % 8) + index % 2 ^ 24

/-- The tag of a clutch's next remote instruction (R292). -/
def Env.tag (e : Env) : DWord :=
  BitVec.ofNat 64 (2 ^ 25 * tagPrefix e.l.lid e.ch.section_ e.ch.index + 2 ^ 18 * (e.cl.id % 128) + e.cl.opc.toNat)

/-- A chorus has gone for good: its identities are released once its elements are acknowledged. -/
def State.releaseChorus (s : State) (c : Chorus) (l : Launch) : State :=
  (s.modCrucible (fun k => { k with
    releases := k.releases ++ [{ chorus := c.uid, ctx := l.ctx, pre := tagPrefix l.lid c.section_ c.index, homes := c.homes }] })).flushReleases

/-- Note a home that elements of a chorus are sent to (R306). -/
def State.noteHome (s : State) (chorus dev keyidx : Nat) : State :=
  let h := 256 * dev + keyidx
  (s.modChorus chorus (fun c => { c with homes := setInsert c.homes h })).modCrucible (fun k => { k with
    releases := k.releases.map (fun p => if p.chorus = chorus then { p with homes := setInsert p.homes h } else p) })

/-- The scratchpad key of a window address in its section (R216). -/
def windowKey (addr : Nat) : Nat := scratchSpan * (addr / 2 ^ 19 % 4) + addr % 2 ^ 19

/-! ### Multicasts (R304) -/

/-- The report block: bit i for member i refused. -/
def Mcast.reportNumber (m : Mcast) : Nat :=
  m.members.zipIdx.foldl (fun acc x => if m.neg.contains x.1 then acc + 2 ^ x.2 else acc) 0

/-- The value of a multicast's future. -/
def Mcast.value (m : Mcast) : DWord :=
  BitVec.ofNat 64 (2 ^ 32 * (m.reasons % 256) + 2 ^ 16 * m.neg.length + (m.members.length - m.neg.length))

/-- Every member has been settled: the report block, then the future. -/
def State.finishMcast (s : State) (m : Mcast) : State :=
  let s := s.modCrucible (fun c => { c with mcasts := c.mcasts.filter (fun x => x.id ≠ m.id) })
  (s.writeLocal m.who.chorus (bytesAt m.report 64 m.reportNumber)).completeFuture m.die m.future .done m.value

/-- One element of a multicast is settled. -/
def State.mcastSettled (s : State) (id dev : Nat) (r : Option Reason) : State :=
  match s.crucible.mcasts.find? (fun m => m.id = id) with
  | none => s
  | some m =>
    let m := match r with
      | some r => { m with neg := setInsert m.neg dev, reasons := m.reasons ||| 2 ^ (r.num - 1), left := m.left - 1 }
      | none => { m with left := m.left - 1 }
    if m.left = 0 then s.finishMcast m
    else s.modCrucible (fun c => { c with mcasts := updateFirst (fun x => x.id = id) (fun _ => m) c.mcasts })

/-! ### Settled elements and requests -/

/-- An element is settled, with a reason where it was refused: copies of it still on the fabric are gone
(log 12). A copy that a restarted chorus has issued again is settled with it, for its own multicast. -/
def State.settle (s : State) (u : Unsettled) (r : Option Reason) : State :=
  let x := u.elem
  let same (y : Element) : Bool := y.named x.keyidx x.tag x.lane x.dstDev x.epoch
  let casts := ((s.crucible.unsettled.filter (fun v => same v.elem)).filterMap (·.elem.mcast)).foldl setInsert []
  let s := s.modCrucible (fun c => { c with unsettled := c.unsettled.filter (fun v => !same v.elem) })
  let s := { s with
    outbox := s.outbox.filter (fun m => match m with
      | .elem y => !same y
      | _ => true) }
  let s := match x.mcast, r with
    | some _, r => casts.foldl (fun (s : State) id => s.mcastSettled id x.dstDev r) s
    | none, some r => s.refuse u.launch (refusalOf x r)
    | none, none => s
  s.flushReleases

/-- A request is settled. -/
def State.settleAsked (s : State) (a : Asked) (r : Option Reason) : State :=
  let s := s.modCrucible (fun c => { c with asked := c.asked.filter (fun b => b.req.id ≠ a.req.id) })
  let s := { s with
    outbox := s.outbox.filter (fun m => match m with
      | .rreq q => q.id ≠ a.req.id
      | .rreply q => q.req.id ≠ a.req.id
      | _ => true) }
  let s := match r with
    | some r => s.refuse a.launch
        { reason := r, lane := a.req.lane, dev := a.req.dstDev, tag := a.req.tag, addr := a.req.addr }
    | none => s
  s.flushReleases

/-- A poisoned sector met at a home ends the source launch with POISON (R305, R219). -/
def State.poisonSource (s : State) (who : ClutchId) (launch : Nat) (pc : Word) (lane : Nat) : State :=
  let mask := maskOf (· = lane)
  match s.chorus? who.chorus with
  | none => s.launchFault launch { code := Code.poison.num, pc, clutch := who.clutch, mask }
  | some c =>
    match s.env? who with
    | some e => s.endWith e { e.report Code.poison.num 0 mask with pc }
    | none => s.launchFault launch
        { code := Code.poison.num, pc, clutch := who.clutch, section_ := c.section_, chorus := c.index, mask }

/-! ### The core's remote queue (R295, R296) -/

/-- The core's remote queue is full. -/
def State.queueFull (s : State) (e : Env) : Bool := 64 ≤ (s.core e.core).queue.length

/-- Enter an instruction in the core's remote queue. -/
def State.enqueue (s : State) (e : Env) (elems : List Element) (reqs : List Asked) : State :=
  s.modCore e.core (fun k => { k with queue := k.queue ++ [{ who := e.who, launch := e.l.uid, elems, reqs, pc := e.cl.pc, seq := s.fresh }] })

/-! ### Pacing at the source (R310) -/

/-- A credit towards a device and key index is held; none is needed to this device. An element and a request are one 64-byte
flit each (log 12). -/
def State.credited (s : State) (dev keyidx : Nat) : Bool :=
  dev = s.crucible.devnum || 0 < s.crucible.credits.get 0 (256 * dev + keyidx)

/-- Spend a credit. -/
def State.spend (s : State) (dev keyidx : Nat) : State :=
  if dev = s.crucible.devnum then s
  else s.modCrucible (fun c => { c with credits := c.credits.modify 0 (256 * dev + keyidx) (· - 1) })

/-- Elements and requests towards a device and key index that wait for credits. -/
def State.waitingFor (s : State) (dev keyidx : Nat) : Nat :=
  s.crucible.unsettled.countP (fun u => !u.sent && u.elem.dstDev = dev && u.elem.keyidx = keyidx)
    + s.crucible.asked.countP (fun a => !a.sent && a.req.dstDev = dev && a.req.keyidx = keyidx)

/-- Announce the demand of a context towards a device, in units of 256 bytes; one that retransmits has a demand too. -/
def State.announce (s : State) (ctx dev keyidx : Nat) : State :=
  s.send (.demand { srcDev := s.crucible.devnum, dstDev := dev, keyidx, key := (s.srcKey ctx keyidx).key
                    units := max 1 ((s.waitingFor dev keyidx + 3) / 4) })

end Sys2Proof.Machine
end

