-- ==== Sys2Proof/Machine/Home.lean ====
section
/-! DEFINITION. Remote operations after issue: sending (R296, R309, R310), application at the home (R297 to R301,
R316), answers (R296, R301, R302, R305) and pacing (R310). -/

namespace Sys2Proof.Machine

/-! ### Effects at a home (R298, R300) -/

/-- The bytes an effect reaches. -/
def opBytes : HomeOp → Nat
  | .add n => n
  | .min n _ => n
  | .max n _ => n
  | .or n => n
  | .put1 n => n
  | .arr => 8
  | .fx _ _ => 40

/-- The new value of the target (R298). -/
def opValue (op : HomeOp) (old x : Nat) : Nat :=
  let less (n : Nat) (sg : Bool) (a b : Nat) : Bool := if sg then signedOf (8 * n) a < signedOf (8 * n) b else a < b
  match op with
  | .add n => (old + x) % 2 ^ (8 * n)
  | .min n sg => if less n sg x old then x else old
  | .max n sg => if less n sg old x then x else old
  | .or _ => old ||| x
  | .put1 _ => x
  | .arr => (old + x) % 2 ^ 64
  | .fx _ _ => (old + x) % 2 ^ 320

/-- One byte of a write-once application: its new value, and whether it conflicts. Which value a conflicting
byte keeps is free (R300). -/
def putByte (tick : Nat) (written : Bool) (old new : Byte) (i : Nat) : Byte × Bool :=
  if !written then (new, false)
  else if old = new then (old, false)
  else (if Config.freePick tick i then new else old, true)

/-- Count a conflicting application (R300, R429). -/
def State.countConflict (s : State) (die ctx : Nat) : State :=
  s.modDie die (fun d => { d.noteCount s.now (32 + ctx) (d.conflict.get 0 ctx) with conflict := d.conflict.modify 0 ctx upOne })

/-- A write-once application of bytes to physical addresses of pages of a context, counted on a die. -/
def State.putOnce (s : State) (ctx die : Nat) (bytes : Store Byte) : State :=
  let rs : List (Nat × Byte × Bool) := bytes.zipIdx.map (fun (y, i) =>
    (y.1, putByte s.tick (s.written.contains y.1) (Memory.read s.mem y.1) y.2 i))
  let t := s.writeBytes (rs.map (fun (r : Nat × Byte × Bool) => (r.1, r.2.1)))
  let t := { t with written := (rs.map (fun (r : Nat × Byte × Bool) => r.1)).foldl setInsert (s.written.filter (fun a => !rs.any (fun (r : Nat × Byte × Bool) => r.1 = a))) }
  (if rs.any (fun r => r.2.2) then t.countConflict die ctx else t).bump

/-- The same in a chorus's scratchpads. -/
def State.putOnceLocal (s : State) (c : Chorus) (ctx key n x : Nat) : State :=
  let rs : List (Nat × Byte × Bool) := (bytesAt key n x).map (fun y =>
    (y.1, putByte s.tick (c.scratchWritten.contains y.1) (c.scratch.get 0 y.1) y.2 (y.1 - key)))
  let t := s.writeLocal c.uid (rs.map (fun (r : Nat × Byte × Bool) => (r.1, r.2.1)))
  let t := t.modChorus c.uid (fun c => { c with scratchWritten := (rs.map (fun (r : Nat × Byte × Bool) => r.1)).foldl setInsert c.scratchWritten })
  (if rs.any (fun r => r.2.2) then t.countConflict c.die ctx else t).bump

/-! ### Translation at a home -/

/-- What a home finds at an address of a context. -/
inductive Spot where
  | page (pa kind key : Nat)
  | miss
  | poison
deriving DecidableEq, Repr

/-- The entry of a die's TLB that translates an address for its home, which that die is (R224, R228). -/
def State.homeEntry (s : State) (ctx va : Nat) : Option TlbEntry :=
  (List.range 4).findSome? (fun d =>
    (s.die d).tlb.find? (fun e => e.covers ctx va && pteHome e.pte.toNat = d))

def State.spot (s : State) (ctx va : Nat) : Spot :=
  if 2 ^ 57 ≤ va ∨ !(s.context ctx).active then .miss
  else match s.homeEntry ctx va with
    | some e => .page (e.pa va) (pteKind e.pte.toNat) (pteKey e.pte.toNat)
    | none =>
      match s.walk ctx va with
      | .page va0 _ pte => .page (pageAddr va0 pte va) (pteKind pte) (pteKey pte)
      | .none => .miss
      | .poison => .poison

/-- The page of an address admits allocation in the die cache (R221). -/
def State.spotCaches (s : State) (ctx va : Nat) : Bool :=
  match s.homeEntry ctx va with
  | some e => pteCache e.pte.toNat < 2
  | none =>
    match s.walk ctx va with
    | .page _ _ pte => pteCache pte < 2
    | _ => true

/-- The walks that a home's translations take: each joins the tracker of the home's die and fills its TLB; the access waits
while one cannot run (R224, R225). -/
def State.bringHome (s : State) (ctx : Nat) : List Nat → Option State
  | [] => some s
  | va :: rest =>
    if 2 ^ 57 ≤ va ∨ !(s.context ctx).active ∨ (s.homeEntry ctx va).isSome then State.bringHome s ctx rest
    else match s.walk ctx va with
      | .page _ _ pte =>
        match s.bring (dieSide (pteHome pte)) ctx [va] with
        | some s => State.bringHome s ctx rest
        | none => none
      | _ => State.bringHome s ctx rest

/-- Whether some physical bytes meet a poisoned sector. -/
def State.anyPoison (s : State) (pa n : Nat) : Bool :=
  !s.poisoned.isEmpty && (List.range n).any (fun i => s.poisonedAt (pa + i))

/-! ### Wide accumulator lines (R51, R302, R305) -/

/-- The header of a line: its format and lowest weight, none when it is invalid (R51). -/
def State.lineHeader (s : State) (pa : Nat) : Option (Nat × Int) :=
  let h := s.number (pa / 256 * 256) 16
  let fmt := h % 256
  let lw := signedOf 16 (h / 2 ^ 16 % 2 ^ 16)
  if 1 ≤ fmt ∧ fmt ≤ 4 ∧ h / 2 ^ 32 = 0 ∧ h / 2 ^ 8 % 2 ^ 8 = 0
      ∧ (if fmt = 1 then -1074 ≤ lw ∧ lw ≤ 1023 else lw = -149) then some (fmt, lw)
  else none

/-- The address is that of an accumulator of its line. -/
def accumulatorAt (pa : Nat) : Bool := 16 ≤ pa % 256 && (pa % 256 - 16) % 40 = 0 && pa % 256 < 256

/-- The kind of page an effect needs (R222). -/
def opKind : HomeOp → Nat
  | .put1 _ => 1
  | .fx _ _ => 2
  | _ => 0

/-- The refusal of HEADER (R305). -/
def State.headerBad (s : State) (pa : Nat) (op : HomeOp) : Bool :=
  match op with
  | .fx fmt lw =>
    !accumulatorAt pa || match s.lineHeader pa with
      | none => true
      | some (h, w) => w ≠ lw || (if h = 1 then fmt ≠ 1 else fmt = 1)
  | _ => false

/-- Where the arrival word of an element lies that keeps R299, or why the element has no effect. -/
def State.arrivalAt (s : State) (ctx keyidx die : Nat) (arr : Option DWord) : Except AckResult (Option Nat) :=
  match arr with
  | none => .ok none
  | some w =>
    match s.spot ctx w.toNat with
    | .page pa kind key =>
      if kind = 0 ∧ key = keyidx ∧ homeOf pa = die ∧ w.toNat % 8 = 0 then
        if s.anyPoison pa 8 then .error .poisoned else .ok (some pa)
      else .error (.refused .arrival)
    | .miss => .error (.refused .arrival)
    | .poison => .error .poisoned

/-- What keeps an element from its effect at its home, in the order of R305: KIND, HEADER, ARRIVAL, with a poisoned sector where
the check that comes next reads it (R219); and where the arrival word lies. -/
def State.refusalAt (s : State) (ctx pa kind keyidx : Nat) (op : HomeOp) (need : Nat) (arr : Option DWord) :
    Except AckResult (Option Nat) :=
  let header : Bool := match op with
    | .fx .. => accumulatorAt pa && s.anyPoison (pa / 256 * 256) 16
    | _ => false
  if kind ≠ need then .error (.refused .kind)
  else if header then .error .poisoned
  else if s.headerBad pa op then .error (.refused .header)
  else match s.arrivalAt ctx keyidx (homeOf pa) arr with
    | .error r => .error r
    | .ok w => if s.anyPoison pa (opBytes op) then .error .poisoned else .ok w

/-- An arrival word counts (R299). -/
def State.arrive (s : State) (arr : Option Nat) : State :=
  match arr with
  | none => s
  | some w => s.writeBytes (bytesAt w 8 ((s.number w 8 + 1) % 2 ^ 64))

/-- An effect and its arrival, the arrival after the effect (R297, R299). -/
def State.applyAt (s : State) (ctx pa : Nat) (op : HomeOp) (x : Nat) (arr : Option Nat) : State :=
  (match op with
    | .put1 n => s.putOnce ctx (homeOf pa) (bytesAt pa n x)
    | op => s.writeBytes (bytesAt pa (opBytes op) (opValue op (s.number pa (opBytes op)) x))).arrive arr

/-- The clutch of an element or a request. -/
def Unsettled.who (u : Unsettled) : ClutchId := { chorus := u.chorus, clutch := u.elem.tag.toNat / 2 ^ 18 % 128 }
def Asked.who (a : Asked) : ClutchId := { chorus := a.chorus, clutch := a.clutch }

/-! ### Sending (R296, R303, R309, R310) -/

/-- A merged delta (R307). -/
def mergeDelta (pa : Nat) (op : HomeOp) (x : Nat) (ds : List Delta) : List Delta :=
  let same (d : Delta) : Bool := d.pa = pa && d.op = op
  if ds.any same then updateFirst same (fun d => { d with value := opValue op d.value x }) ds
  else ds ++ [{ pa, op, value := x }]

/-- Elements that a combining lease merges: those of plain and accumulator pages without an arrival word (R307). -/
def leasable (x : Element) : Bool :=
  x.arr.isNone && match x.op with
    | .put1 _ => false
    | .arr => false
    | _ => true

/-- The lease under which an element of this device is merged here instead of going to its home (R307). The lessee cannot
read a line's header: an addend to an accumulator that no element has reached under the lease goes to the home, which
checks it and forwards it (log 32). -/
def State.leaseFor (s : State) (x : Element) : Option HeldLease :=
  if !leasable x || x.win.isSome || x.pa.isSome then none
  else s.crucible.leases.find? (fun h =>
    h.lease.homeDev = x.dstDev && h.lease.keyidx = x.keyidx && h.lease.view = x.addr.toNat / 65536 && match x.op with
      | .fx .. => h.lease.kind = 2 && h.deltas.any (fun d => d.pa = h.lease.target x && d.op = x.op)
      | _ => h.lease.kind = 0)

/-- The entries of the crucible's lease filter (R412). -/
def Crucible.leaseEntries (c : Crucible) : Nat := (c.leases.map (fun h => h.entries.length)).sum

/-- Whether a lease's filter holds an identity: its own entries, or those of the home's when it was granted. -/
def HeldLease.knows (h : HeldLease) (x : Element) : Bool :=
  filterHolds h.entries x.keyidx x.tag x.lane || filterHolds h.held x.keyidx x.tag x.lane

/-- The lessee's filter has room for an identity (R412). -/
def State.leaseRoom (s : State) (h : HeldLease) (x : Element) : Bool :=
  s.crucible.leaseEntries < 65536 || h.entries.any (·.names x.keyidx x.tag)

/-- An element is merged into a delta of a lease (R307). -/
def State.merge (s : State) (l : Lease) (pa : Nat) (x : Element) : State :=
  let merged (h : HeldLease) : HeldLease :=
    { h with
      deltas := mergeDelta pa x.op x.data h.deltas, lastMerge := s.now
      entries := filterEnter h.entries x.keyidx x.tag x.lane false }
  s.modCrucible (fun c => { c with leases := updateFirst (fun h => h.lease = l) merged c.leases })

/-- The lessee ends a lease: its deltas and filter entries go to the home (R308). -/
def State.returnLease (s : State) (l : Lease) : State :=
  match s.crucible.leases.find? (fun h => h.lease = l) with
  | none => s
  | some h =>
    (s.modCrucible (fun c => { c with leases := c.leases.filter (fun x => x.lease ≠ l) })).send
      (.leaseReturn l h.deltas h.entries)

/-- An element leaves for its home: on the fabric against a credit, or to wait for one (R296, R310). -/
def State.leave (s : State) (u : Unsettled) : State :=
  let x := u.elem
  if s.credited x.dstDev x.keyidx then
    ((s.modCrucible (fun c => { c with unsettled := c.unsettled ++ [u] })).spend x.dstDev x.keyidx).send (.elem x)
  else s.modCrucible (fun c => { c with unsettled := c.unsettled ++ [{ u with sent := false }] })

/-- An element of a queued instruction goes to the lessee of its region if that is this device, else to its home. -/
def State.sendElem (s : State) (q : Queued) (x : Element) : State :=
  let s := s.noteHome q.who.chorus x.dstDev x.keyidx
  let u : Unsettled := { elem := x, chorus := q.who.chorus, launch := q.launch, deadline := s.now + tenMs, pc := q.pc }
  match s.leaseFor x with
  | none => s.leave u
  | some h =>
    if h.knows x then s
    else if s.leaseRoom h x then s.merge h.lease (h.lease.target x) x
    else (s.returnLease h.lease).leave u

/-- Put a request on the fabric, or let it wait for a credit. -/
def State.sendReq (s : State) (a : Asked) : State :=
  let a := { a with deadline := s.now + tenMs }
  if s.credited a.req.dstDev a.req.keyidx then
    ((s.modCrucible (fun c => { c with asked := c.asked ++ [a] })).spend a.req.dstDev a.req.keyidx).send (.rreq a.req)
  else s.modCrucible (fun c => { c with asked := c.asked ++ [{ a with sent := false }] })

/-- A request is refused: RACC.CVT gives the canonical NaN (R302); a window load, whose value the manual does
not state, a free value (log 13). -/
def State.refuseAsked (s : State) (a : Asked) (r : Reason) : State :=
  let s := s.settleAsked a (some r)
  match a.req.kind, a.landing with
  | .acc fmt, some id =>
    let v := (Fmt.ofTag fmt).nan
    s.landLanes id a.mask (if fmt = 1 then pairLanes v else [lanesOf fun _ => BitVec.ofNat 32 v]) 0
  | .window _ _, _ => s.landFree a
  | _, _ => s

/-- The elements and requests of a queued instruction whose destination has no route are refused at the source (R290, R437). -/
def State.refuseUnrouted (s : State) (q : Queued) : State :=
  let s := (q.elems.filter (fun x => !s.routed x.dstDev)).foldl (fun s x => s.refuse q.launch (refusalOf x .unreach)) s
  (q.reqs.filter (fun a => !s.routed a.req.dstDev)).foldl (fun s a => s.refuseAsked a .unreach) s

/-- The context of a queued instruction; none when every lane was refused at issue. -/
def Queued.ctx (q : Queued) : Option Nat :=
  match q.elems, q.reqs with
  | x :: _, _ => some x.ctx
  | [], a :: _ => some a.req.ctx
  | [], [] => none

/-- The elements of a multicast, for every member (R303). -/
def expand (xs : List Element) (g : Group) : List Element :=
  g.members.flatMap (fun dev => xs.map (fun x => { x with dstDev := dev, keyidx := g.keyidx }))

/-- The destinations of elements and requests: 256 x device + key index. -/
def destinations (elems : List Element) (reqs : List Asked) : List Nat :=
  (elems.map (fun (x : Element) => 256 * x.dstDev + x.keyidx) ++ reqs.map (fun (a : Asked) => 256 * a.req.dstDev + a.req.keyidx)).foldl setInsert []

/-- The elements and requests of an instruction go to their destinations under valid keys; each goes against a credit of its
own destination, and the demand of those that wait is announced (R303, R309, R310). -/
def State.sendAll (s : State) (q : Queued) (ctx : Nat) (elems : List Element) (popped : State → State) : State :=
  let keys := elems.map (·.keyidx) ++ q.reqs.map (·.req.keyidx)
  if keys.any (fun k => !(s.srcKey ctx k).valid) then q.reqs.foldl State.landFree ((popped s).freeze ctx .key)
  else
    let keyed (x : Element) : Element := { x with key := (s.srcKey ctx x.keyidx).key }
    let asks (a : Asked) : Asked := { a with req := { a.req with key := (s.srcKey ctx a.req.keyidx).key } }
    let before := popped s
    let t := elems.foldl (fun t x => t.sendElem q (keyed x)) before
    let t := q.reqs.foldl (fun t a => t.sendReq (asks a)) t
    (destinations elems q.reqs).foldl (fun t k =>
      if t.waitingFor (k / 256) (k % 256) = before.waitingFor (k / 256) (k % 256) then t
      else t.announce ctx (k / 256) (k % 256)) t

/-- REMOTE_SEND: the oldest instruction of a core's remote queue leaves. A multicast takes its snapshot of the
group now. What no route reaches is refused at once. -/
def execRemoteSend (c : CoreId) (s : State) : Out :=
  match (s.core c).queue with
  | [] => .next s
  | q :: rest =>
    let pop (s : State) : State := s.modCore c (fun k => { k with queue := rest })
    match q.ctx with
    | none => .next (pop s)
    | some ctx =>
      if (s.context ctx).frozen.isSome then .next s
      else match q.elems.head?.bind (·.mcast) with
        | none =>
          let go : Queued := { q with
            elems := q.elems.filter (fun x => s.routed x.dstDev), reqs := q.reqs.filter (fun a => s.routed a.req.dstDev) }
          .next (s.sendAll go ctx go.elems (fun s => (pop s).refuseUnrouted q))
        | some id =>
          match s.crucible.mcasts.find? (fun m => m.id = id) with
          | none => .next (pop s)
          | some m =>
            let g := s.crucible.groups.get {} m.set
            if !(g.valid && g.ctx = ctx) then
              .next ((pop s).finishMcast { m with neg := m.members, reasons := m.reasons ||| 2 ^ 4 })
            else
              let all := expand q.elems g
              let routed (x : Element) : Bool := s.routed x.dstDev
              let leave (s : State) : State :=
                let s := (pop s).modCrucible (fun k => { k with
                  mcasts := updateFirst (fun x => x.id = id) (fun x => { x with members := g.members, left := all.length }) k.mcasts })
                (all.filter (fun x => !routed x)).foldl (fun s x => s.mcastSettled id x.dstDev (some .unreach)) s
              .next (s.sendAll q ctx (all.filter routed) leave)

/-! ### Retransmission and the time limit (R296, R297) -/

/-- The element, or else the request, of an identity at a destination. -/
def State.unsettledOf (s : State) (keyidx : Nat) (tag : DWord) (lane dev : Nat) (epoch : Option Nat) : Option Unsettled :=
  s.crucible.unsettled.find? (fun u => u.elem.named keyidx tag lane dev epoch)
def State.askedOf (s : State) (keyidx : Nat) (tag : DWord) (lane dev : Nat) : Option Asked :=
  s.crucible.asked.find? (fun a => a.req.keyidx = keyidx && a.req.tag = tag && a.req.lane = lane && a.req.dstDev = dev)

/-- The oldest element of an identity at a destination for which something is due. -/
def State.dueOf (s : State) (keyidx : Nat) (tag : DWord) (lane dev : Nat) (due : Unsettled → Bool) : Option Unsettled :=
  s.crucible.unsettled.find? (fun u => u.elem.identified keyidx tag lane dev && due u)

/-- The deadline of an element or a request that is sent now: a retransmission does not move it (R296). -/
def sendDeadline (sent : Bool) (deadline now : Nat) : Nat := if sent then deadline else now + tenMs

/-- RETRANSMIT: an element or request that is not settled is sent, again or for the first time, against a credit and not before
its back-off; without a credit its demand is announced again. Nothing is sent to a device whose route is none (R437). -/
def execRetransmit (keyidx : Nat) (tag : DWord) (lane dev : Nat) (s : State) : Out :=
  match s.dueOf keyidx tag lane dev (fun u => u.notBefore ≤ s.now) with
  | some u =>
    let k := s.srcKey u.elem.ctx keyidx
    if (s.context u.elem.ctx).frozen.isSome ∨ !s.routed dev then .next s
    else if !k.valid then .next (s.freeze u.elem.ctx .key)
    else if !s.credited dev keyidx then .next (s.announce u.elem.ctx dev keyidx)
    else
      let x := { u.elem with key := k.key }
      let s := s.modCrucible (fun c => { c with
        unsettled := updateFirst (· = u)
          (fun v => { v with elem := x, sent := true, deadline := sendDeadline v.sent v.deadline s.now }) c.unsettled })
      .next ((s.spend dev keyidx).send (.elem x))
  | none =>
    match s.askedOf keyidx tag lane dev with
    | none => .next s
    | some a =>
      let k := s.srcKey a.req.ctx keyidx
      if s.now < a.notBefore ∨ (s.context a.req.ctx).frozen.isSome ∨ !s.routed dev then .next s
      else if !k.valid then .next (s.freeze a.req.ctx .key)
      else if !s.credited dev keyidx then .next (s.announce a.req.ctx dev keyidx)
      else
        let r := { a.req with key := k.key }
        let s := s.modCrucible (fun c => { c with
          asked := updateFirst (fun b => b.req.id = r.id)
            (fun b => { b with req := r, sent := true, deadline := sendDeadline b.sent b.deadline s.now }) c.asked })
        .next ((s.spend dev keyidx).send (.rreq r))

/-- UNREACH_DEADLINE (R296). -/
def execUnreachDeadline (keyidx : Nat) (tag : DWord) (lane dev : Nat) (s : State) : Out :=
  match s.dueOf keyidx tag lane dev (fun u => u.deadline ≤ s.now) with
  | some u => .next (s.settle u (some .unreach))
  | none =>
    match s.askedOf keyidx tag lane dev with
    | some a => .next (if a.deadline ≤ s.now then s.refuseAsked a .unreach else s)
    | none => .next s

/-! ### An element at its home (R297, R309, R316) -/

/-- Acknowledge an element. -/
def State.ackElem (s : State) (x : Element) (r : AckResult) : State := s.send (.ack (x.ack r))

/-- Count an element of a device in the contention table (R413). -/
def State.contend (s : State) (pa kind : Nat) (x : Element) : State :=
  let region := pa / 65536
  let view := x.addr.toNat / 65536
  s.modDie (homeOf pa) (fun d =>
    let mine (y : Contention) : Bool := y.region = region && y.source = x.srcDev
    if d.contention.any mine then
      { d with contention := updateFirst mine (fun y =>
          { y with count := min (y.count + 1) 65535, kind, keyidx := x.keyidx, view, last := s.now }) d.contention }
    else
      let fresh : Contention := { region, source := x.srcDev, count := 1, kind, keyidx := x.keyidx, view, last := s.now }
      if d.contention.length < 1024 then { d with contention := d.contention ++ [fresh] }
      else
        match d.contention.filter (fun y => y.lease.isNone) with
        | [] => d
        | y :: ys =>
          let oldest := ys.foldl (fun a b => if b.last < a.last then b else a) y
          { d with contention := updateFirst (· = oldest) (fun _ => fresh) d.contention })

/-- An element that the port has accepted, at its page. -/
def State.globalElement (s : State) (x : Element) (ctx pa kind : Nat) : State :=
  let die := homeOf pa
  let s := s.contend pa kind x
  if s.knowsAt die x.keyidx x.tag x.lane then s.ackElem x .duplicate
  else match s.refusalAt ctx pa kind x.keyidx x.op (opKind x.op) x.arr with
    | .error r => s.ackElem x r
    | .ok arr =>
      match (if leasable x then s.leasedAt pa else none) with
      | some l => s.send (.leaseForward l { x with pa := some pa, kind })
      | none =>
        if !s.filterRoom die x.keyidx x.tag then s.ackElem x .busy
        else ((s.applyAt ctx pa x.op x.data arr).enterFilter die x.keyidx x.tag x.lane false).ackElem x .applied

/-- How a section stands towards an element's epoch (R312). -/
inductive Epoch where
  | current | newer | older
deriving DecidableEq, Repr

def epochOf (mine theirs : Nat) : Epoch :=
  let d := (theirs + 2 ^ 16 - mine % 2 ^ 16) % 2 ^ 16
  if d = 0 then .current else if d ≤ 32767 then .newer else .older

/-- The launch that a window access names on this device. -/
def State.windowLaunch (s : State) (ctx : Nat) (w : WinTarget) : Option Launch :=
  s.launches.find? (fun l => l.lid = w.lid && l.ctx = ctx && l.section_ = w.section_ && l.ending.isNone)

/-- What becomes of a window access here (R312). -/
inductive WindowSpot where
  | here (c : Chorus)
  | hold
  | stale

/-- The placement here that a window access names. A chorus that is not linked counts its own placements. -/
def State.windowSpot (s : State) (ctx : Nat) (w : WinTarget) : WindowSpot :=
  match s.windowLaunch ctx w with
  | none => .stale
  | some l =>
    let c? := s.choruses.find? (fun c => c.launch = l.uid && c.index = w.index)
    let epoch? := if l.linked then l.epochs.get 0 w.index else (c?.map (fun c => c.epoch + 1)).getD 0
    match epoch? with
    | 0 => if l.linked then .hold else .stale
    | n + 1 =>
      match epochOf n w.epoch with
      | .newer => .hold
      | .older => .stale
      | .current =>
        match c? with
        | some c => if c.status = .resident ∨ c.status = .exitHeld then .here c else .stale
        | none => .stale

/-- An arrival word of a window element lies in the same section, on the same core, inside the allocation. -/
def windowArrivalOk (hdr : Header) (addr arr : Nat) : Bool :=
  arr / 2 ^ 19 = addr / 2 ^ 19 && arr % 8 = 0 && arr % 2 ^ 19 + 8 ≤ hdr.scratch

/-- A window element at its section (R316). -/
def State.windowElement (s : State) (x : Element) (ctx : Nat) (w : WinTarget) : State :=
  match s.windowSpot ctx w with
  | .stale => s.ackElem x .stale
  | .hold => { s with windowHeld := s.windowHeld ++ [{ x with ctx }] }
  | .here c =>
    let hdr := match s.launch? c.launch with
      | some l => l.hdr
      | none => {}
    let addr := x.addr.toNat
    if s.knowsAt c.die x.keyidx x.tag x.lane then s.ackElem x .duplicate
    else if x.arr.any (fun a => !windowArrivalOk hdr addr a.toNat) then s.ackElem x (.refused .arrival)
    else if c.scratchBad (((List.range (opBytes x.op)).map (windowKey addr + ·))
        ++ x.arr.toList.flatMap (fun a => (List.range 8).map (windowKey a.toNat + ·))) then s.ackElem x .poisoned
    else if !s.filterRoom c.die x.keyidx x.tag then s.ackElem x .busy
    else
      let key := windowKey addr
      let s := match x.op with
        | .put1 n => s.putOnceLocal c ctx key n x.data
        | op => s.applyLocal c.uid (bytesAt key (opBytes op) (opValue op (c.number key (opBytes op)) x.data))
      let s := match x.arr with
        | none => s
        | some a =>
          match s.chorus? c.uid with
          | none => s
          | some c => s.applyLocal c.uid (bytesAt (windowKey a.toNat) 8 ((c.number (windowKey a.toNat) 8 + 1) % 2 ^ 64))
      (s.enterFilter c.die x.keyidx x.tag x.lane true).ackElem x .applied

/-- The credits that another device has left of those granted to it (R310). -/
def State.creditLeft (s : State) (src keyidx : Nat) : Bool :=
  src = s.crucible.devnum || 0 < s.crucible.granted.get 0 (256 * src + keyidx)

/-- A packet of another device has used a credit. -/
def State.useCredit (s : State) (src keyidx : Nat) : State :=
  if src = s.crucible.devnum then s
  else s.modCrucible (fun c => { c with granted := c.granted.modify 0 (256 * src + keyidx) (· - 1) })

/-- An element as its port takes it: only one that this device has sent to itself has been translated (R295, R309). -/
def State.untranslated (s : State) (x : Element) : Element := if x.srcDev = s.crucible.devnum then x else { x with pa := none }

/-- ELEM: the port checks the key and the credits, and the home treats the element by R297; it waits while the translation of
its target or of its arrival word takes a walk that cannot run. -/
def execElem (x : Element) (s : State) : Out :=
  match s.receive x.srcDev x.dstDev (.elem x) with
  | none => .next s
  | some t =>
    let x := t.untranslated x
    let k := t.rcvKey x.keyidx
    if !k.accepts x.key then .next (t.ackElem x .keyViolation)
    else if !t.creditLeft x.srcDev x.keyidx then .next (t.ackElem x .shareViolation)
    else match x.win with
      | some w => .next ((t.useCredit x.srcDev x.keyidx).windowElement x k.ctx w)
      | none =>
        let ctx := if x.pa.isSome then x.ctx else k.ctx
        match t.bringHome ctx ((if x.pa.isSome then [] else [x.addr.toNat]) ++ x.arr.toList.map (·.toNat)) with
        | none => .next s
        | some t =>
          let t := t.useCredit x.srcDev x.keyidx
          let lands (pa kind : Nat) : State :=
            let u := t.globalElement x ctx pa kind
            if t.spotCaches ctx x.addr.toNat then u else u.uncache t [pa / 64]
          match x.pa with
          | some pa => .next (lands pa x.kind)
          | none =>
            match t.spot ctx x.addr.toNat with
            | .page pa kind key =>
              if key ≠ x.keyidx then .next (t.ackElem x .keyViolation) else .next (lands pa kind)
            | spot =>
              .next (t.ackElem x (if t.knows x.keyidx x.tag x.lane then .duplicate
                else if spot = .miss then .refused .miss else .poisoned))

/-! ### Acknowledgements (R296, R297, R305, R309, R310) -/

/-- The back-off after a BUSY: 1 µs, doubling up to 1 ms. -/
def nextBackoff (b : Nat) : Nat := if b = 0 then microsecond else min (2 * b) (1000 * microsecond)

/-- ACK. -/
def execAck (a : Ack) (s : State) : Out :=
  match s.receive a.fromDev a.toDev (.ack a) with
  | none => .next s
  | some s =>
    if !(s.rcvKey a.keyidx).accepts a.key ∧ a.result ≠ .keyViolation then .next (s.dropPacket a.fromDev a.keyidx)
    else match s.unsettledOf a.keyidx a.tag a.lane a.fromDev a.epoch with
    | none => .next s
    | some u =>
      match a.result with
      | .applied | .duplicate | .stale => .next (s.settle u none)
      | .refused r => .next (s.settle u (some r))
      | .poisoned => .next ((s.settle u none).poisonSource u.who u.launch u.pc a.lane)
      | .keyViolation => .next (s.freeze u.elem.ctx .key)
      | .shareViolation => .next (s.freeze u.elem.ctx .share)
      | .busy =>
        let b := nextBackoff u.backoff
        .next (s.modCrucible (fun c => { c with
          unsettled := updateFirst (fun v => v.elem.named a.keyidx a.tag a.lane a.fromDev a.epoch)
            (fun v => { v with backoff := b, notBefore := s.now + b, deadline := s.now + tenMs }) c.unsettled }))

/-! ### Requests and replies (R301, R302, R315) -/

/-- Reply to a request. -/
def State.reply (s : State) (r : ReadReq) (body : ReplyBody) : State :=
  s.send (.rreply { req := r, fromDev := s.crucible.devnum, body })

/-- The reply to a read-back of an accumulator (R302). -/
def State.accumReply (s : State) (pa kind fmt : Nat) : ReplyBody :=
  if kind ≠ 2 then .refused .kind
  else if !accumulatorAt pa then .refused .header
  else match s.lineHeader pa with
    | none => .refused .header
    | some (h, lw) => if h = fmt then .accum (s.number pa 40) lw else .refused .header

/-- A read request at its home: it is not filtered. What it reads is brought back from a lease on its region first (R301,
R308). -/
def execRreq (r : ReadReq) (s : State) : Out :=
  match s.receive r.srcDev r.dstDev (.rreq r) with
  | none => .next s
  | some t =>
    let k := t.rcvKey r.keyidx
    if !k.accepts r.key then .next (t.reply r .keyViolation)
    else if !t.creditLeft r.srcDev r.keyidx then .next (t.reply r .shareViolation)
    else match r.kind with
      | .window n w =>
        match t.windowSpot k.ctx w with
        | .hold => .next s
        | .stale => .next ((t.useCredit r.srcDev r.keyidx).reply r (.refused .unreach))
        | .here c =>
          let t := t.useCredit r.srcDev r.keyidx
          if c.scratchBad ((List.range n).map (windowKey r.addr.toNat + ·)) then .next (t.reply r .poisoned)
          else .next (t.reply r (.bytes (c.number (windowKey r.addr.toNat) n)))
      | kind =>
        let own := if r.srcDev = s.crucible.devnum then r.pa else none
        match t.bringHome k.ctx (if own.isSome then [] else [r.addr.toNat]) with
        | none => .next s
        | some b =>
          let spot := match own with
            | some pa => Spot.page pa r.page r.keyidx
            | none => b.spot k.ctx r.addr.toNat
          let t := b.useCredit r.srcDev r.keyidx
          match spot with
          | .miss => .next (t.reply r (.refused .miss))
          | .poison => .next (t.reply r .poisoned)
          | .page pa page key =>
            if key ≠ r.keyidx then .next (t.reply r .keyViolation)
            else match s.recall [pa] with
              | some s' => .next s'
              | none =>
                match kind with
                | .get n _ _ =>
                  if t.anyPoison pa n then .next (t.reply r .poisoned)
                  else
                    let read := if t.spotCaches k.ctx r.addr.toNat then t.readsAt ((List.range n).map (pa + ·)) else t
                    .next (read.reply r (.bytes (t.number pa n)))
                | .acc fmt =>
                  if page = 2 && (t.anyPoison pa 40 || t.anyPoison (pa / 256 * 256) 16) then .next (t.reply r .poisoned)
                  else .next (t.reply r (t.accumReply pa page fmt))
                | .window _ _ => .next t

/-- What the landing bytes of a reply find: the physical address of each, or why the reply has no effect (R301). -/
def State.landingPas (s : State) (ctx keyidx : Nat) : List Nat → Except AckResult (List Nat)
  | [] => .ok []
  | va :: rest =>
    match s.spot ctx va with
    | .miss => .error (.refused .miss)
    | .poison => .error .poisoned
    | .page pa kind key =>
      if key ≠ keyidx then .error .keyViolation
      else match State.landingPas s ctx keyidx rest with
        | .error r => .error r
        | .ok pas => if kind ≠ 3 then .error (.refused .kind) else .ok (pa :: pas)

/-- A reply lands at the landing address of its request, as a write-once element (R301); the home is that of the first
byte. -/
def State.landReply (s : State) (a : Asked) (n : Nat) (landing : DWord) (arr : Option DWord) (v : Nat) : State :=
  let r := a.req
  let k := s.rcvKey r.keyidx
  let fail : AckResult → State
    | .refused e => s.settleAsked a (some e)
    | .keyViolation => (s.settleAsked a none).freeze r.ctx .key
    | _ => (s.settleAsked a none).poisonSource a.who a.launch a.pc r.lane
  if !k.accepts r.key ∨ k.ctx ≠ r.ctx then (s.settleAsked a none).freeze r.ctx .key
  else if (match s.spot r.ctx landing.toNat with
      | .page pa _ _ => s.knowsAt (homeOf pa) r.keyidx r.tag r.lane
      | _ => s.knows r.keyidx r.tag r.lane) then s.settleAsked a none
  else match s.landingPas r.ctx r.keyidx ((List.range n).map (landing.toNat + ·)) with
    | .error e => fail e
    | .ok pas =>
      let die := homeOf (pas.headD 0)
      match s.arrivalAt r.ctx r.keyidx die arr with
      | .error e => fail e
      | .ok w =>
        if pas.any (fun pa => s.anyPoison pa 1) then fail .poisoned
        else if !s.filterRoom die r.keyidx r.tag then
          let b := nextBackoff a.backoff
          s.modCrucible (fun c => { c with
            asked := updateFirst (fun b => b.req.id = r.id)
              (fun x => { x with backoff := b, notBefore := s.now + b, deadline := s.now + tenMs }) c.asked })
        else
          let bytes : Store Byte := (pas.zip (bytesAt 0 n v)).map (fun (pa, y) => (pa, y.2))
          (((((s.putOnce r.ctx die bytes).arrive w).enterFilter die r.keyidx r.tag r.lane false).noteHome a.chorus
            s.crucible.devnum r.keyidx).settleAsked a none)

/-- The result of RACC.CVT from an accumulator, in the modes sampled at issue (R302). -/
def readBack (fmt mode v : Nat) (lw : Int) : FRes :=
  let fm := Fmt.ofTag fmt
  fm.flushOut { rm := RM.ofCode (mode % 4), fi := mode / 4 % 2 = 1, fo := mode / 8 % 2 = 1 }
    (fm.fromWide (RM.ofCode (mode % 4)) v lw)

/-- RREPLY: a repeated reply finds nothing to answer and is dropped; one whose landing takes a walk that cannot run waits. -/
def execRreply (r : ReadReply) (s : State) : Out :=
  match s.receive r.fromDev r.req.srcDev (.rreply r) with
  | none => .next s
  | some t =>
    match t.crucible.asked.find? (fun a => a.req.id = r.req.id && a.req.dstDev = r.fromDev) with
    | none => .next t
    | some a =>
      match r.body, a.req.kind, a.landing with
      | .keyViolation, _, _ => .next ((t.settleAsked a none).landFree a |>.freeze a.req.ctx .key)
      | .shareViolation, _, _ => .next ((t.settleAsked a none).landFree a |>.freeze a.req.ctx .share)
      | .poisoned, _, _ => .next ((t.settleAsked a none).poisonSource a.who a.launch a.pc a.req.lane)
      | .refused e, _, _ => .next (t.refuseAsked a e)
      | .bytes v, .get n landing arr, _ =>
        match t.bringHome a.req.ctx ([landing.toNat, landing.toNat + (n - 1)] ++ arr.toList.map (·.toNat)) with
        | none => .next s
        | some t => .next (t.landReply a n landing arr v)
      | .bytes v, .window _ _, some id =>
        let ws := (loadWords a.mode v).map (fun w => lanesOf fun _ => BitVec.ofNat 32 w)
        .next ((t.settleAsked a none).landLanes id a.mask ws 0)
      | .accum v lw, .acc fmt, some id =>
        let x := readBack fmt a.mode v lw
        let ws := if fmt = 1 then pairLanes x.bits else [lanesOf fun _ => BitVec.ofNat 32 x.bits]
        .next ((t.settleAsked a none).landLanes id a.mask ws x.flags)
      | _, _, _ => .next t

/-! ### Pacing (R310) -/

/-- DEMAND: what a tenant of another device has to send to this one. -/
def execDemand (p : Pace) (s : State) : Out :=
  match s.receive p.srcDev p.dstDev (.demand p) with
  | none => .next s
  | some s =>
    if !(s.rcvKey p.keyidx).accepts p.key then .next (s.dropPacket p.srcDev p.keyidx)
    else .next (s.modCrucible (fun c => { c with demands := c.demands.set 0 (256 * p.srcDev + p.keyidx) p.units }))

/-- The tenants with demand. -/
def State.demanding (s : State) : List Nat :=
  (s.crucible.demands.filter (fun x => x.2 ≠ 0)).map (fun x => x.1 % 256) |>.foldl setInsert []

/-- The weight of a tenant, as system software has set it by now: at least 1. -/
def State.shareWeight (s : State) (keyidx : Nat) : Nat := max 1 (Config.pacingShare s.tick keyidx)

/-- The units that a tenant's share of the rate allows in a microsecond, the rate divided by weight among the tenants that have
demand. -/
def State.paceShare (s : State) (keyidx : Nat) : Nat :=
  max 1 (max 1 Config.absorbRate * s.shareWeight keyidx / max 1 ((s.demanding.map s.shareWeight).sum))

/-- The units granted to a tenant in the present microsecond. -/
def State.pacedNow (s : State) (keyidx : Nat) : Nat :=
  let x := s.crucible.paced.get (0, 0) keyidx
  if x.1 = s.now / microsecond then x.2 else 0

/-- GRANT: this device grants credits to a tenant of another within its share and its demand; at the device that receives it,
they are credits towards the one that grants, and an answer to what waits for them (R296). -/
def execGrant (p : Pace) (s : State) : Out :=
  if p.srcDev = s.crucible.devnum then
    let k := 256 * p.dstDev + p.keyidx
    let demand := s.crucible.demands.get 0 k
    if p.dstDev = s.crucible.devnum ∨ p.units = 0 ∨ demand < p.units ∨ s.paceShare p.keyidx < s.pacedNow p.keyidx + p.units
        ∨ !(s.rcvKey p.keyidx).valid then .next s
    else
      let s' := s.modCrucible (fun c => { c with
        demands := c.demands.set 0 k (demand - p.units), granted := c.granted.modify 0 k (· + 4 * p.units)
        paced := c.paced.set (0, 0) p.keyidx (s.now / microsecond, s.pacedNow p.keyidx + p.units) })
      .next (s'.send (.grant { p with key := (s.rcvKey p.keyidx).key }))
  else match s.receive p.srcDev p.dstDev (.grant p) with
  | none => .next s
  | some s =>
    if !(s.rcvKey p.keyidx).accepts p.key then .next (s.dropPacket p.srcDev p.keyidx)
    else
      .next (s.modCrucible (fun c => { c with
        credits := c.credits.modify 0 (256 * p.srcDev + p.keyidx) (· + 4 * p.units)
        unsettled := c.unsettled.map (fun u =>
          if !u.sent ∧ u.elem.dstDev = p.srcDev ∧ u.elem.keyidx = p.keyidx then { u with deadline := s.now + tenMs } else u)
        asked := c.asked.map (fun a =>
          if !a.sent ∧ a.req.dstDev = p.srcDev ∧ a.req.keyidx = p.keyidx then { a with deadline := s.now + tenMs } else a) }))

end Sys2Proof.Machine
end

