-- ==== Sys2Proof/Machine/Barrier.lean ====
section
/-! DEFINITION. Named barriers (R424 to R428). -/

namespace Sys2Proof.Machine

/-- Arrivals entered and phases completed, as far as EXPECT allows (R426). -/
def Barrier.settle (b : Barrier) (now : Nat) : Barrier :=
  let total := b.arrivals + b.held
  if b.expect = 0 then { b with arrivals := min total 127, held := total - 127 }
  else
    { b with
      phases := b.phases + BitVec.ofNat 16 (total / b.expect), arrivals := total % b.expect, held := 0
      doneAt := if total / b.expect = 0 then b.doneAt else now + 1 }

/-- A count carried by a BAR sets EXPECT when it is 0 or nothing has arrived; what arrived in this cycle counts even where it has
completed a phase (R426). -/
def Barrier.expecting (b : Barrier) (n now : Nat) : Barrier :=
  if 1 ≤ n ∧ (b.expect = 0 ∨ b.arrivals = 0 ∧ b.doneAt ≠ now + 1) then { b with expect := n } else b

/-- One arrival (R426). -/
def Barrier.arrive (b : Barrier) (now : Nat) : Barrier := { b with held := b.held + 1 }.settle now

def Chorus.barrier (c : Chorus) (b : Nat) : Barrier := c.barriers.get {} b
def Chorus.modBarrier (c : Chorus) (b : Nat) (g : Barrier → Barrier) : Chorus :=
  { c with barriers := c.barriers.modify {} b g }

/-- The count of a BAR, 0 when it carries none (R425). -/
def Env.barCount (e : Env) (s : State) (f : Fields) : Nat :=
  if !f.mod.getLsbD 0 then 0
  else if f.len = .w96 then f.imm.toNat % 128
  else (e.read s f.b.toNat e.low).toNat % 128

/-- The clutch holds until the phase count passes its own wait count, and then goes on; a wait in a cluster
chorus is an acquire at cluster scope (R427, R335, R331). -/
def barPass (s : State) (e : Env) (f : Fields) : Out :=
  let b := f.a.toNat
  let w := e.cl.barWaits.get 0 b
  match s.chorus? e.who.chorus with
  | none => .next s
  | some ch =>
    if (ch.barrier b).phases = w then .next (s.modClutch e.who (fun c => { c with progress := .arrived }))
    else
      let s := if e.hdr.cluster then s.invalidateL1 e.core else s
      .next (s.bump.modClutch e.who (fun c =>
        { c with barWaits := c.barWaits.set 0 b (w + 1), progress := .none }.advance f.len.bytes))

/-- The checks that every BAR makes after step 3 of R200. -/
def barWord (f : Fields) (s : State) (k : Env → Out) : Out :=
  issue 0x80 f s fun e =>
    let b : Src := { reg := f.b.toNat }
    if f.mod.getLsbD 0 && f.len = .w64 && e.poisonIn b [e.low] then poisonEnd s e (e.poisonAmong b [e.low]) else k e

/-- A clutch arrives: what it has written without a FENCE.OPR is then undefined for the operations that read it (R250). -/
def State.expose (s : State) (e : Env) : State :=
  (s.modChorus e.who.chorus (fun c =>
    if c.unfenced.isEmpty then c
    else { c with exposed := (c.unfenced.filter (fun x => x.2 = e.who.clutch)).map (·.1) ++ c.exposed })).modClutch e.who
      (fun c => { c with loans := c.loans.expose (c.empty ++ c.mempty.map (256 + ·)) })

/-- An arrival of a clutch at a barrier, with the count that its BAR carries (R426). -/
def Chorus.arriveAt (c : Chorus) (barrier count now : Nat) : Chorus :=
  c.modBarrier barrier (fun b => ((b.expecting count now).settle now).arrive now)

/-- The scratchpad bytes that a clutch's atomics have still to write. -/
def State.scratchToWrite (s : State) (who : ClutchId) : List Nat :=
  (s.landings.filter (fun p => p.who = who)).flatMap (fun p =>
    match p.access with
    | some a => if a.space = .scratch then a.places.flatMap (·.2) else []
    | none => [])

/-- An arrival of the clutch at some barrier has still to be performed. -/
def Env.arriving (e : Env) (at_ : Nat → Bool) : Bool := e.ch.arriving.any (fun a => a.clutch = e.who.clutch && at_ a.barrier)

/-- BAR.ARRIVE: a release, which never holds the clutch: it is performed at once where every earlier access of the clutch is,
and as soon as they are otherwise (R332, R335, R426). -/
def execBarArrive (f : Fields) (s : State) : Out :=
  barWord f s fun e =>
    let n := e.barCount s f
    let b := f.a.toNat
    let s' := s.expose e
    let s' :=
      if s.drained e && !e.arriving (fun _ => true) then s'.modChorus e.who.chorus (·.arriveAt b n s.now)
      else { s'.modChorus e.who.chorus (fun c => { c with
          arriving := c.arriving ++ [{ clutch := e.who.clutch, barrier := b, count := n, before := s.fresh + 1
                                       places := s.scratchToWrite e.who }] }) with fresh := s.fresh + 1 }
    .next (s'.bump.modClutch e.who (·.advance f.len.bytes))

/-- The oldest arrival of a clutch that waits is performed once what the clutch issued before it is (R332, R426). -/
def State.arriveNow (s : State) (who : ClutchId) : State :=
  match s.chorus? who.chorus with
  | none => s
  | some c =>
    match c.arriving.find? (fun a => a.clutch = who.clutch), c.clutch? who.clutch with
    | some a, some cl =>
      if c.status ≠ .resident ∨ !s.drainedBefore (c.coreAt cl.pos) who a.before then s
      else s.modChorus who.chorus (fun c => { c.arriveAt a.barrier a.count s.now with
        arriving := c.arriving.erase a
        exposed := a.places.filter (fun k => c.unfenced.contains (k, who.clutch)) ++ c.exposed })
    | _, _ => s

/-- BAR.WAIT and BAR.SYNC (R426 to R428): they wait for the clutch's own flags, stop on an armed flag among those that have been
entered by their turn (DEDUCED, log 68), follow the clutch's own earlier arrivals at the barrier, are counted once, and hold the
clutch until the phase has passed. -/
def barWait (f : Fields) (sync : Bool) (s : State) : Out :=
  barWord f s fun e =>
    if e.cl.progress = .arrived then barPass s e f
    else if s.flagsPending e.who then .next s
    else if !e.cl.barUnchecked ∧ stickyArmed e.ch.sticky then
      .next ((s.clutchStop e .sticky).modClutch e.who (fun c => { c with barUnchecked := true }))
    else if e.arriving (· = f.a.toNat) || (sync && !s.drained e) then .next s
    else
      let n := e.barCount s f
      let enter (b : Barrier) : Barrier :=
        let b := (b.expecting n s.now).settle s.now
        if sync then b.arrive s.now else b
      let s := ((if sync then s.expose e else s).modChorus e.who.chorus (fun c => c.modBarrier f.a.toNat enter)).modClutch e.who
        (fun c => { c with barUnchecked := false })
      barPass s e f

def execBarWait (f : Fields) (s : State) : Out := barWait f false s
def execBarSync (f : Fields) (s : State) : Out := barWait f true s

end Sys2Proof.Machine
end

