-- ==== Sys2Proof/Machine/Matrix.lean ====
section
/-! DEFINITION. The matrix stream (R254 to R274): the sequencer's scalar and barrier words, MMA in its four
forms, MZERO, and the completion of operations on the engines. -/

namespace Sys2Proof

/-! ### Fields of a stream word (R264) -/

def Fields.form (f : Fields) : Nat := f.mod.toNat / 16
def Fields.engines (f : Fields) : List Nat := (List.range 4).filter (fun i => f.mod.getLsbD i)
def Fields.aScratch (f : Fields) : Bool := f.sp.getLsbD 0
def Fields.bScratch (f : Fields) : Bool := f.sp.getLsbD 1
def Fields.slotOf (f : Fields) : Nat := f.imm.toNat / 2 ^ 16 % 8
def Fields.ns (f : Fields) : Nat := f.imm.toNat / 2 ^ 20 % 4
def Fields.rowOff (f : Fields) : Nat := f.imm.toNat % 2 ^ 16
/-- The tiles that E and F name. -/
def Fields.tiles (f : Fields) : List Nat :=
  (if f.e = 0 then [] else [f.e.toNat - 1]) ++ (if f.f = 0 then [] else [f.f.toNat - 1])
/-- The elements N that each group of a row keeps (R271). -/
def Fields.keep (f : Fields) : Nat := if f.ns = 1 then 64 else if f.ns = 2 then 32 else 16

end Sys2Proof

namespace Sys2Proof.Machine

/-! ### Sequencers -/

/-- What a stream word sees: its launch, chorus and sequencer. -/
structure SeqEnv where
  l : Launch
  ch : Chorus
  q : Sequencer
deriving DecidableEq, Repr

def SeqEnv.core (e : SeqEnv) : CoreId := e.ch.coreAt e.q.pos

/-- A running sequencer of a chorus that has not retired: one whose exit is held still runs (R257, R320). -/
def State.seqEnv? (s : State) (uid pos : Nat) : Option SeqEnv :=
  match s.chorus? uid with
  | none => none
  | some ch =>
    match s.launch? ch.launch, ch.seqs.find? (fun q => q.pos = pos) with
    | some l, some q => if (ch.status = .resident ∨ ch.status = .exitHeld) ∧ !q.ended then some { l, ch, q } else none
    | _, _ => none

/-- Run a stream word in the sequencer whose word executes. -/
def withSequencer (s : State) (k : SeqEnv → Out) : Out :=
  match s.cur with
  | .sequencer uid pos =>
    match s.seqEnv? uid pos with
    | some e => k e
    | none => .fault .noSequencer
  | _ => .fault .noSequencer

def Chorus.modSeq (c : Chorus) (pos : Nat) (g : Sequencer → Sequencer) : Chorus :=
  { c with seqs := updateFirst (fun q => q.pos = pos) g c.seqs }

/-- Change the sequencer whose word executes. -/
def State.modSeq (s : State) (e : SeqEnv) (g : Sequencer → Sequencer) : State :=
  s.modChorus e.ch.uid (·.modSeq e.q.pos g)

/-- The stream PC moves past a word. -/
def Sequencer.advance (q : Sequencer) (n : Nat) : Sequencer := { q with pc := q.pc + BitVec.ofNat 32 n }

def Sequencer.get (q : Sequencer) (r : BitVec 8) : Word := q.q.get 0 r.toNat
def Sequencer.set (q : Sequencer) (r : BitVec 8) (w : Word) : Sequencer := { q with q := q.q.set 0 r.toNat w }

/-- A fault of a sequencer ends the launch (R256): SLOT 30, clutchid 0xFF, no lanes. -/
def State.seqFault (s : State) (e : SeqEnv) (code : Code) : State :=
  (s.modSeq e (fun q => { q with ended := true })).launchFault e.l.uid
    { code := code.num, coreid := coreWord e.core, pc := e.q.pc, section_ := e.ch.section_, slot := 30
      chorus := e.ch.index }

/-- A stream word that only changes its sequencer. -/
def seqWord (s : State) (bytes : Nat) (g : SeqEnv → Sequencer → Sequencer) : Out :=
  withSequencer s fun e => .next (s.modSeq e (fun q => (g e q).advance bytes))

/-! ### Scalar and barrier words (R260 to R262) -/

/-- The item that QMOV SRC 2 reads. -/
def SeqEnv.item (e : SeqEnv) (a : Nat) : Word :=
  BitVec.ofNat 32 (match a with
    | 0 => e.core.core % 4
    | 1 => e.ch.index
    | 2 => e.ch.section_
    | _ => e.l.hdr.accRows)

def execQmov (f : Fields) (s : State) : Out :=
  seqWord s f.len.bytes fun e q =>
    q.set f.d (if f.mod = 0 then q.get f.a else if f.mod = 1 then f.imm else e.item f.a.toNat)

def execQadd (f : Fields) (s : State) : Out :=
  seqWord s f.len.bytes fun _ q => q.set f.d (q.get f.a + (if f.len = .w96 then f.imm else q.get f.b))

def execQbra (f : Fields) (s : State) : Out :=
  withSequencer s fun e =>
    let a := e.q.get f.a
    let taken := f.mod = 0 || (f.mod = 1 && a ≠ 0) || (f.mod = 2 && a = 0)
    .next (s.modSeq e (fun q => { q with pc := q.pc + (if taken then f.imm else 12) }))

/-- MEND; while another sequencer waits at an MMA.BC the launch ends (R270). -/
def execMend (_ : Fields) (s : State) : Out :=
  withSequencer s fun e =>
    if e.ch.seqs.any (fun q => q.pos ≠ e.q.pos && q.waiting.isSome) then .next (s.seqFault e .streamop)
    else .next (s.modSeq e (fun q => { q with ended := true }))

/-- MWAIT (R261). -/
def execMwait (f : Fields) (s : State) : Out :=
  withSequencer s fun e =>
    let w := e.q.waits.get 0 f.a.toNat
    if (e.ch.barrier f.a.toNat).phases = w then .next s
    else .next (s.modSeq e (fun q => { q with waits := q.waits.set 0 f.a.toNat (w + 1) }.advance 8))

/-- MARRIVE (R262). -/
def execMarrive (f : Fields) (s : State) : Out :=
  withSequencer s fun e =>
    if !e.q.jobs.isEmpty then .next s
    else .next ((s.modChorus e.ch.uid (fun c => c.modBarrier f.a.toNat (fun b => b.arrive s.now))).modSeq e (·.advance 8))

/-! ### Operands of an MMA (R264 to R267, R271) -/

/-- K of R265. -/
def mmaK (tag : Nat) : Nat :=
  match tag with
  | 1 => 4
  | 2 | 15 => 8
  | 3 | 4 | 7 | 16 => 32
  | 10 | 11 | 14 => 128
  | _ => 64

/-- Bits of an element of an operand. -/
def mmaWidth (tag : Nat) : Nat := if tag = 16 then 32 else tagWidth tag

/-- The class of a format in R265; the two of an MMA are of one class. -/
def mmaClass (tag : Nat) : Nat :=
  match tag with
  | 1 => 1
  | 2 => 2
  | 3 | 4 => 3
  | 7 => 4
  | 5 | 6 | 12 | 13 => 5
  | 8 | 9 => 6
  | 10 | 11 => 7
  | _ => 8

/-- Whether a tag is an integer format (R31). -/
def mmaInt (tag : Nat) : Bool := 7 ≤ tag && tag ≤ 11

/-- Format pairs (R265, R271). -/
def mmaPairOk (form a b : Nat) : Bool :=
  if form = 3 then (a = 15 && b = 2) || (a = 16 && (b = 3 || b = 4))
  else 1 ≤ a && a ≤ 14 && 1 ≤ b && b ≤ 14 && mmaClass a = mmaClass b && (form ≠ 2 || [5, 6, 8, 9, 10, 11].contains a)

/-- Elements of a row of A, elements of a column of B, and groups of a row's metadata (R265, R271). -/
def mmaSizes (f : Fields) : Nat × Nat × Nat :=
  let k := mmaK f.tg.toNat
  if f.form ≠ 2 then (k, k, 0)
  else
    let four := mmaClass f.tg.toNat = 7
    let logical := (if four then 256 else 128) * (if f.ns = 1 then 1 else 2)
    ((if f.ns = 3 then k / 2 else k), logical, logical / 128)

/-- Columns of the C tile. -/
def mmaCols (f : Fields) : Nat := if f.tg = 1 then 64 else 128

/-- Bytes of a scratchpad vector of `k` elements. -/
def vectorBytes (tag k : Nat) : Nat :=
  if tag = 12 ∨ tag = 13 ∨ tag = 14 then k / 32 * txBlockBytes tag else k * mmaWidth tag / 8

/-- Registers of A and of B (R265, R266). -/
def mmaRegsA (f : Fields) : Nat :=
  let k := (mmaSizes f).1
  if f.form = 3 then k else k * mmaWidth f.tg.toNat / 32
def mmaColumnRegs (f : Fields) : Nat := (mmaSizes f).2.1 * mmaWidth f.hn.toNat / 32
def mmaRegsB (f : Fields) : Nat := if f.hn = 1 then mmaColumnRegs f else 2 * mmaColumnRegs f

/-- The scratchpad key of a byte at a cluster address that a sequencer reaches (R215, R267). -/
def Chorus.streamKey (c : Chorus) (hdr : Header) (pos addr : Nat) : Option Nat :=
  let p := addr / scratchSpan % 4
  let off := addr % scratchSpan
  if addr < 2 ^ 21 ∧ (hdr.cluster ∨ p = (c.coreAt pos).core % 4) ∧ off < hdr.scratch then
    some (scratchSpan * (if hdr.cluster then p else pos) + off)
  else none

/-- The address of a byte of a vector (R267). -/
def vectorAddr (x : Word × Word) (s v b : Nat) : Nat :=
  (x.1.toNat % 2 ^ 21 + 64 * (x.2.toNat / 2 ^ 16) * s + x.2.toNat % 2 ^ 16 * v
    + 4 * ((v * (x.1.toNat / 2 ^ 28)) % 32) + b) % 2 ^ 32

/-- A q pair is well formed and every byte of its vectors is inside the chorus's scratchpads (R267). -/
def Chorus.vectorsInside (c : Chorus) (hdr : Header) (pos s : Nat) (x : Word × Word) (vectors bytes : Nat) : Bool :=
  x.1.toNat / 2 ^ 21 % 2 ^ 7 = 0
    && (List.range vectors).all (fun v => (List.range bytes).all (fun b =>
        (c.streamKey hdr pos (vectorAddr x s v b)).isSome))

/-- The vectors at a q pair, as numbers. -/
def Chorus.scratchVectors (c : Chorus) (hdr : Header) (pos s : Nat) (x : Word × Word) (vectors bytes : Nat) : List Nat :=
  (List.range vectors).map (fun v =>
    numberOf ((List.range bytes).map (fun b =>
      match c.streamKey hdr pos (vectorAddr x s v b) with
      | some k => c.scratch.get 0 k
      | none => 0)))

/-- The clutch that supplies register operands of an engine (R266). -/
def Chorus.supplier (c : Chorus) (pos sub slot : Nat) : Option Clutch :=
  c.clutches.find? (fun x => x.pos = pos && x.sub = sub && x.slot = slot && !x.ended)

/-- The words of consecutive registers in a lane as one number. -/
def Clutch.column (c : Clutch) (first n l : Nat) : Nat :=
  (List.range n).foldr (fun i acc => (lane (c.regs.get [] (first + i)) l).toNat + 2 ^ 32 * acc) 0

/-- The rows of A in registers. -/
def Clutch.rowsA (c : Clutch) (f : Fields) : List Nat :=
  (List.range 64).map (fun l =>
    if f.form = 3 then
      (List.range (mmaRegsA f)).foldr (fun k acc =>
        (c.moment (f.a.toNat + k) l).toNat % 2 ^ mmaWidth f.tg.toNat + 2 ^ mmaWidth f.tg.toNat * acc) 0
    else c.column f.a.toNat (mmaRegsA f) l)

/-- The columns of B in registers. -/
def Clutch.colsB (c : Clutch) (f : Fields) : List Nat :=
  let n := mmaColumnRegs f
  (List.range (mmaCols f)).map (fun j =>
    if j < 96 then c.column f.b.toNat n j else c.column (f.b.toNat + n) n (j - 96))

/-- An operation's operands as the engine of a sub-core reads them: rows of A, columns of B, metadata rows.
None while an operand register is empty, which makes them undefined (R263). -/
structure Operands where
  a : List Nat
  b : List Nat
  meta_ : List Nat
deriving DecidableEq, Repr

def Chorus.operands (c : Chorus) (hdr : Header) (pos : Nat) (j : Job) (s : Nat) : Option Operands :=
  let f := j.fields
  let sizes := mmaSizes f
  let clutch := c.supplier pos s f.slotOf
  let emptyReg (x : Clutch) : Bool :=
    (!f.aScratch && (if f.form = 3 then x.mempty.any (fun r => f.a.toNat ≤ r && r < f.a.toNat + mmaRegsA f)
      else x.empty.any (fun r => f.a.toNat ≤ r && r < f.a.toNat + mmaRegsA f)))
    || (!f.bScratch && x.empty.any (fun r => f.b.toNat ≤ r && r < f.b.toNat + mmaRegsB f))
  if (!f.aScratch || !f.bScratch) && clutch.elim true emptyReg then none
  else some {
    a := if f.aScratch then c.scratchVectors hdr pos s j.qa 64 (vectorBytes f.tg.toNat sizes.1)
         else clutch.elim [] (·.rowsA f)
    b := if f.bScratch then
           c.scratchVectors hdr pos (if f.form = 1 then 0 else s) j.qb (mmaCols f) (vectorBytes f.hn.toNat sizes.2.1)
         else clutch.elim [] (·.colsB f)
    meta_ := if f.form = 2 then c.scratchVectors hdr pos s j.qm 64 (32 * sizes.2.2) else [] }

/-! ### The checks of an MMA (R268) -/

/-- Step 1 for one sequencer's word: validity of the word and its operands. -/
def SeqEnv.validWord (e : SeqEnv) (f : Fields) : Bool :=
  let tx (t : Nat) : Bool := t = 12 || t = 13 || t = 14
  let hdr := e.l.hdr
  mmaPairOk f.form f.tg.toNat f.hn.toNat
    && (f.aScratch || !tx f.tg.toNat) && (f.bScratch || !tx f.hn.toNat)
    && (f.form ≠ 1 || hdr.cluster)
    && f.tiles.all e.ch.tileDefined
    && ((f.aScratch && f.bScratch) || f.engines.all (fun s =>
        match e.ch.supplier e.q.pos s f.slotOf with
        | none => false
        | some c =>
          (f.aScratch || (if f.form = 3 then f.a.toNat + mmaRegsA f ≤ hdr.moments
            else f.a.toNat + mmaRegsA f ≤ c.held))
          && (f.bScratch || f.b.toNat + mmaRegsB f ≤ c.held)))

/-- The tags of the register operands of the named engines with the tag each is checked against (R266). -/
def SeqEnv.operandTags (e : SeqEnv) (f : Fields) : List (Nat × Nat) :=
  f.engines.flatMap (fun s =>
    match e.ch.supplier e.q.pos s f.slotOf with
    | none => []
    | some c =>
      (if f.aScratch then [] else
        (List.range (mmaRegsA f)).map (fun i =>
          (if f.form = 3 then c.momentTag (f.a.toNat + i) else c.tag (f.a.toNat + i), f.tg.toNat)))
      ++ (if f.bScratch then [] else
        (List.range (mmaRegsB f)).map (fun i => (c.tag (f.b.toNat + i), f.hn.toNat))))

/-- Step 2: a tag that is neither the operand's format nor RAW. -/
def SeqEnv.tagsOk (e : SeqEnv) (f : Fields) : Bool := (e.operandTags f).all (fun x => x.1 = x.2 || x.1 = 0)

/-- The first row of a word's tile. -/
def SeqEnv.row (e : SeqEnv) (f : Fields) : Nat := ((e.q.get f.d).toNat + f.rowOff) % 2 ^ 32

/-- Step 3: the tile lies in the chorus's rows. -/
def SeqEnv.rowsOk (e : SeqEnv) (f : Fields) : Bool :=
  e.row f + (if f.form = 3 then 128 else 64) ≤ e.l.hdr.accRows && (f.form ≠ 3 || e.row f % 2 = 0)

/-- A q pair of a sequencer. -/
def Sequencer.pair (q : Sequencer) (r : BitVec 8) : Word × Word := (q.get r, q.get (r + 1))

/-- The job a word starts: `first` is the sequencer and word whose B is read (MMA.BC: position 0's). -/
def SeqEnv.job (e : SeqEnv) (f : Fields) (first : Sequencer × Fields) (id : Nat) : Job :=
  { id, fields := f, op := 0xA8, row := e.row f, pc := e.q.pc
    qa := if f.aScratch then e.q.pair f.a else (0, 0)
    qb := if f.bScratch then first.1.pair first.2.b else (0, 0)
    qm := if f.form = 2 then e.q.pair f.c else (0, 0)
    bpos := first.1.pos }

/-- Step 4: every scratchpad byte lies inside (R267). -/
def SeqEnv.bytesOk (e : SeqEnv) (j : Job) : Bool :=
  let f := j.fields
  let sizes := mmaSizes f
  f.engines.all (fun s =>
    (!f.aScratch || e.ch.vectorsInside e.l.hdr e.q.pos s j.qa 64 (vectorBytes f.tg.toNat sizes.1))
    && (!f.bScratch || e.ch.vectorsInside e.l.hdr e.q.pos (if f.form = 1 then 0 else s) j.qb (mmaCols f)
          (vectorBytes f.hn.toNat sizes.2.1))
    && (f.form ≠ 2 || e.ch.vectorsInside e.l.hdr e.q.pos s j.qm 64 (32 * sizes.2.2)))

/-- A metadata record keeps N elements and says so (R271). -/
def recordOk (n w : Nat) : Bool :=
  ((List.range 128).filter w.testBit).length = n && w / 2 ^ 128 % 256 = n && w / 2 ^ 136 = 0

/-- Step 5: every record of the metadata (R271). -/
def SeqEnv.metaOk (e : SeqEnv) (j : Job) : Bool :=
  let f := j.fields
  f.form ≠ 2 || f.engines.all (fun s =>
    (e.ch.scratchVectors e.l.hdr e.q.pos s j.qm 64 (32 * (mmaSizes f).2.2)).all (fun v =>
      (List.range (mmaSizes f).2.2).all (fun g => recordOk f.keep (v / 2 ^ (256 * g) % 2 ^ 256))))

/-- The first check that a set of words fails, with the sequencer that fails it (R268, R270). -/
def firstFailure (ws : List (SeqEnv × Fields × Job)) : Option (SeqEnv × Code) :=
  let find (p : SeqEnv → Fields → Job → Bool) (code : Code) : Option (SeqEnv × Code) :=
    (ws.find? (fun w => !p w.1 w.2.1 w.2.2)).map (fun w => (w.1, code))
  let joint (f : Fields) : Bool :=
    match ws with
    | [_] => true
    | (_, g, _) :: _ => f.bScratch && f.tg = g.tg && f.hn = g.hn && f.form = g.form
    | [] => true
  [find (fun e f _ => e.validWord f && joint f) .streamop,
   find (fun e f _ => e.tagsOk f) .format,
   find (fun e f _ => e.rowsOk f) .accrow,
   find (fun e _ j => e.bytesOk j) .bounds,
   find (fun e _ j => e.metaOk j) .sparsemeta].findSome? id

/-! ### Issue -/

/-- Copies of accumulator cells on their way that an operation overlaps return undefined cells, and leave its
tile undefined on their engine (R245, R263). -/
def State.meetCopies (s : State) (uid pos : Nat) (j : Job) : State × List Nat :=
  let hits (p : Landing) : List Nat :=
    match p.access with
    | some a =>
      if p.who.chorus = uid ∧ a.space = .cells then
        (a.places.flatMap (·.2)).filter (fun k => k / 65536 / 4 = pos && j.meets (k / 65536 % 4) (k / 128 % 512))
      else []
    | none => []
  let mark (p : Landing) : Landing :=
    { p with access := p.access.map (fun a =>
      match a.op with
      | .acc kind hazard => { a with op := .acc kind (hazard ++ hits p) }
      | _ => a) }
  ({ s with landings := s.landings.map (fun p => if (hits p).isEmpty then p else mark p) },
    ((s.landings.flatMap hits).map (fun k => k / 65536 % 4)).foldl setInsert [])

/-- The scratchpad keys of the vectors at a q pair. -/
def Chorus.vectorKeys (c : Chorus) (hdr : Header) (pos s : Nat) (x : Word × Word) (vectors bytes : Nat) : List Nat :=
  (List.range vectors).flatMap (fun v => (List.range bytes).filterMap (fun b => c.streamKey hdr pos (vectorAddr x s v b)))

/-- The scratchpad bytes that an operation reads on an engine. -/
def Chorus.operandKeys (c : Chorus) (hdr : Header) (pos s : Nat) (j : Job) : List Nat :=
  let f := j.fields
  let sizes := mmaSizes f
  (if f.aScratch then c.vectorKeys hdr pos s j.qa 64 (vectorBytes f.tg.toNat sizes.1) else [])
    ++ (if f.bScratch then c.vectorKeys hdr pos (if f.form = 1 then 0 else s) j.qb (mmaCols f)
          (vectorBytes f.hn.toNat sizes.2.1) else [])
    ++ (if f.form = 2 then c.vectorKeys hdr pos s j.qm 64 (32 * sizes.2.2) else [])

/-- The registers that an operation reads, as the loans of their clutch number them (R263). -/
def Fields.operandRegs (f : Fields) : List Nat :=
  (if f.aScratch then [] else (List.range (mmaRegsA f)).map (fun i => (if f.form = 3 then 256 else 0) + f.a.toNat + i))
    ++ (if f.bScratch then [] else (List.range (mmaRegsB f)).map (fun i => f.b.toNat + i))

/-- An engine's operands hold what a clutch has written without a FENCE.OPR before its arrival (R250). -/
def Chorus.exposedOn (c : Chorus) (pos : Nat) (j : Job) (s : Nat) : Bool :=
  (!c.exposed.isEmpty && (j.keys.any (fun x => x.1 = s && x.2.any c.exposed.contains)))
    || (c.supplier pos s j.fields.slotOf).any (fun x => (Fields.operandRegs j.fields).any x.loans.exposed.contains)

/-- An operation's registers are lent to it by the clutches that supply them. -/
def Chorus.lend (c : Chorus) (pos : Nat) (j : Job) : Chorus :=
  let regs := Fields.operandRegs j.fields
  let lends (x : Clutch) : Bool := j.fields.engines.any (fun s => (c.supplier pos s j.fields.slotOf).any (fun y => y.id = x.id))
  if regs.isEmpty then c
  else { c with clutches := c.clutches.map (fun x =>
    if lends x then { x with loans := { x.loans with lent := (j.id, regs) :: x.loans.lent } } else x) }

/-- The registers that an engine reads have not been written since the operation issued. A clutch that has ended by the time the
operation completes supplies undefined values (DEDUCED, log 25). -/
def Chorus.loanStands (c : Chorus) (pos : Nat) (j : Job) (s : Nat) : Bool :=
  (Fields.operandRegs j.fields).isEmpty
    || (c.supplier pos s j.fields.slotOf).any (fun x => x.loans.lent.any (fun y => y.1 = j.id))

/-- An operation issues, and its engines hold it. -/
def SeqEnv.start (e : SeqEnv) (s : State) (j : Job) (bytes : Nat) (bc : Bool) : State :=
  let mma : Bool := j.op ≠ 0xAB
  let j := { j with
    id := s.fresh, tiles := if mma then j.fields.tiles else []
    keys := if mma then j.fields.engines.map (fun n => (n, e.ch.operandKeys e.l.hdr e.q.pos n j)) else [] }
  let left := j.tiles.any (fun t => (e.ch.tile t).state ≠ .ready)
  let (s, copied) := s.meetCopies e.ch.uid e.q.pos j
  let touched := if !mma then [] else
    (j.fields.engines.filter (fun n => left || e.ch.exposedOn e.q.pos j n)).foldl setInsert copied
  let s := { s with fresh := s.fresh + 1 }
  let s := if mma then s.modChorus e.ch.uid (fun c => c.lend e.q.pos j) else s
  s.modSeq e (fun q =>
    { q with
      jobs := q.jobs ++ [{ j with touched }], waiting := none
      lockstep := if bc then q.lockstep + 1 else q.lockstep }.advance bytes)

/-- The words of an MMA that have passed every wait are checked and issued together. -/
def issueMma (s : State) (es : List (SeqEnv × Fields)) : Out :=
  match es with
  | [] => .next s
  | (e0, f0) :: _ =>
    let ws := es.map (fun (e, f) => (e, f, e.job f (if f.form = 1 then (e0.q, f0) else (e.q, f)) 0))
    match firstFailure ws with
    | some (e, code) => .next (s.seqFault e code)
    | none =>
      let raw := ws.any (fun w => (w.1.operandTags w.2.1).any (fun x => x.1 = 0))
      .next ((ws.foldl (fun s w => w.1.start s w.2.2 16 (w.2.1.form = 1)) s).flag e0.ch.uid (fmtFlag raw))

/-- MMA, MMA.S and MMA.M: a word naming a tile that is not defined ends the launch at once; the word waits for
its tiles (R268, R274). -/
def mmaForm (f : Fields) (s : State) : Out :=
  withSequencer s fun e =>
    if !f.tiles.all e.ch.tileDefined then .next (s.seqFault e .streamop)
    else if f.tiles.any (fun t => !(e.ch.tile t).wasReady s.now) then .next s
    else issueMma s [(e, f)]

def execMma (f : Fields) (s : State) : Out := mmaForm f s
def execMmaS (f : Fields) (s : State) : Out := mmaForm f s
def execMmaM (f : Fields) (s : State) : Out := mmaForm f s

/-- MMA.BC (R270): the word waits until every sequencer of the chorus has reached its own and every named tile
is READY; then all issue as one. -/
def execMmaBc (f : Fields) (s : State) : Out :=
  withSequencer s fun e =>
    if !f.tiles.all e.ch.tileDefined then .next (s.seqFault e .streamop)
    else
      let s := s.modSeq e (fun q => { q with waiting := some f })
      match s.chorus? e.ch.uid with
      | none => .next s
      | some ch =>
        let party (q : Sequencer) : Option (SeqEnv × Fields) := q.waiting.map (fun g => ({ e with ch, q }, g))
        let ws := ch.seqs.filterMap party
        match ws.find? (fun w => !w.2.tiles.all ch.tileDefined) with
        | some w => .next (s.seqFault w.1 .streamop)
        | none =>
          if ws.length ≠ ch.seqs.length ∨ ws.any (fun w => w.2.tiles.any (fun t => !(ch.tile t).wasReady s.now)) then
            .next s
          else issueMma s ws

/-- MZERO (R273). -/
def execMzero (f : Fields) (s : State) : Out :=
  withSequencer s fun e =>
    let count := f.imm.toNat / 2 ^ 16 % 2 ^ 10
    let row := ((e.q.get f.d).toNat + f.imm.toNat % 2 ^ 16) % 2 ^ 32
    if e.l.hdr.accRows < row + count then .next (s.seqFault e .accrow)
    else .next (e.start s { id := 0, fields := f, op := 0xAB, row, pc := e.q.pc } 12 false)

/-! ### Completion (R55, R56, R269, R272, R273) -/

/-- An element of a vector in a floating or TX format. -/
def mmaFloat (tag v k : Nat) : FVal :=
  if tag = 12 ∨ tag = 13 ∨ tag = 14 then
    let block := v / 2 ^ (8 * txBlockBytes tag * (k / 32))
    let w := txK tag + 2
    txDecode tag (block % 2 ^ 16) (block / 2 ^ (16 + w * (k % 32)) % 2 ^ w)
  else (Fmt.ofTag tag).decode (v / 2 ^ (mmaWidth tag * k) % 2 ^ mmaWidth tag)

/-- An element of a vector in an integer format (R35). -/
def mmaInteger (tag v k : Nat) : Int :=
  let w := mmaWidth tag
  (IntTy.mk w (tag = 7 || tag = 8 || tag = 10)).ext (v / 2 ^ (w * k) % 2 ^ w)

/-- The logical elements of a row: those a sparse row does not keep are zero (R271). -/
def spread {α : Type} (zero : α) (f : Fields) (row : Nat → α) (meta_ : Nat) : List α :=
  let k := (mmaSizes f).2.1
  if f.form ≠ 2 then (List.range k).map row
  else
    ((List.range k).foldl (fun (acc : List α × Nat) i =>
      if meta_.testBit (256 * (i / 128) + i % 128) then (row acc.2 :: acc.1, acc.2 + 1)
      else (zero :: acc.1, acc.2)) ([], 0)).1.reverse

/-- A cell of the tile from its old value: the new value and flags (R55). -/
def mmaCell (f : Fields) (old : Nat) (a b : List FVal) : FRes :=
  let fm := if f.tg = 1 then fp64 else fp32
  fm.sumProducts .rne true ([fm.decode old] :: (a.zip b).map (fun x => [x.1, x.2]))

def mmaIntCell (old : Nat) (a b : List Int) : FRes :=
  let t : IntTy := { width := 32, signed := true }
  t.saturate (t.ext old + ((a.zip b).map (fun x => x.1 * x.2)).sum)

/-- The old value of a word of the store. -/
def Chorus.cell (c : Chorus) (k : Nat) : Nat := (c.acc.get 0 k).toNat

/-- The new words of a tile's rows, in rising order of cell, and the flags, for the engine of a sub-core. -/
def Chorus.mmaRows (c : Chorus) (pos s : Nat) (j : Job) (x : Operands) : List (List Nat) × Word :=
  let f := j.fields
  let tag := f.tg.toNat
  let key (r col : Nat) : Nat := cellKey pos s r col
  let rows : List (List Nat × Word) :=
    if f.form = 3 then
      let bs := x.b.map (fun v => (List.range (mmaK tag)).map (mmaFloat f.hn.toNat v))
      x.a.zipIdx.flatMap (fun (v, i) =>
        let fm := halfFmt tag
        let ms := (List.range (mmaK tag)).map (fun k =>
          let h := halves tag (BitVec.ofNat 64 (v / 2 ^ (mmaWidth tag * k)))
          (fm.decode h.1, readVariance true (fm.decode h.2)))
        let neg := ms.foldl (fun acc m => acc ||| m.2.2.1) (0 : Word)
        let mean := bs.zipIdx.map (fun (b, col) => fp32.sumProducts .rne true
          ([fp32.decode (c.cell (key (j.row + 2 * i) col))] :: (ms.zip b).map (fun y => [y.1.1, y.2])))
        let var := bs.zipIdx.map (fun (b, col) => fp32.sumProducts .rne true
          ([fp32.decode (c.cell (key (j.row + 2 * i + 1) col))] :: (ms.zip b).map (fun y => [y.1.2.1, y.2, y.2])))
        [(mean.map (·.bits), flagsOf mean), (var.map (·.bits), flagsOf var ||| neg)])
    else if mmaInt tag then
      let bs := x.b.map (fun v => (List.range (mmaSizes f).2.1).map (mmaInteger f.hn.toNat v))
      x.a.zipIdx.map (fun (v, i) =>
        let a := spread 0 f (mmaInteger tag v) (x.meta_.getD i 0)
        let rs := bs.zipIdx.map (fun (b, col) => mmaIntCell (c.cell (key (j.row + i) col)) a b)
        (rs.map (·.bits), flagsOf rs))
    else
      let bs := x.b.map (fun v => (List.range (mmaSizes f).2.1).map (mmaFloat f.hn.toNat v))
      x.a.zipIdx.map (fun (v, i) =>
        let a := spread (.fin false 0 0) f (mmaFloat tag v) (x.meta_.getD i 0)
        let r := j.row + i
        if tag = 1 then
          let rs := bs.zipIdx.map (fun (b, col) =>
            mmaCell f (c.cell (key r (2 * col)) + 2 ^ 32 * c.cell (key r (2 * col + 1))) a b)
          (rs.flatMap (fun y => twoWords y.bits), flagsOf rs)
        else
          let rs := bs.zipIdx.map (fun (b, col) => mmaCell f (c.cell (key r col)) a b)
          (rs.map (·.bits), flagsOf rs))
  (rows.map (·.1), rows.foldl (fun acc r => acc ||| r.2) 0)

/-- Words placed in cells from a key on; zero words are not listed. -/
def cellsFrom (base : Nat) (ws : List Word) : Store Word :=
  (ws.zipIdx.filter (fun x => x.1 ≠ 0)).map (fun x => (base + x.2, x.1))

/-- Rows of an engine's store replaced. -/
def Chorus.putRows (c : Chorus) (pos s row count : Nat) (ws : List Word) : Chorus :=
  let lo := cellKey pos s row 0
  let hi := cellKey pos s (row + count) 0
  { c with
    acc := c.acc.filter (fun x => x.1 < lo) ++ cellsFrom lo (ws.take (128 * count)) ++ c.acc.filter (fun x => hi ≤ x.1)
    accPoison := c.accPoison.filter (fun n => !(lo ≤ 16 * n && 16 * n < hi)) }

/-- Cells that hold undefined values. -/
def Chorus.freeCells (c : Chorus) (tick : Nat) (cells : List Nat) : Chorus :=
  { c with acc := cells.foldl (fun m k => m.set 0 k (Config.freeWord tick k 0)) c.acc }

/-- One engine completes an operation: the chorus's new cells and the flags that enter sticky. An MMA that an operand write
or a copy has overlapped leaves its tile undefined and changes nothing else (R263); an MZERO leaves undefined the cells that
a STACC stored to beside it (R245, R273). -/
def Chorus.completeOn (c : Chorus) (hdr : Header) (pos tick : Nat) (j : Job) (s : Nat) : Chorus × Word :=
  let n := j.rowCount
  let undefined : List Word := (List.range (128 * n)).map (fun i => Config.freeWord tick (cellKey pos s j.row i) 0)
  if j.op = 0xAB then
    ((c.putRows pos s j.row n []).freeCells tick (j.spoiled.filter (fun k => k / 65536 = 4 * pos + s && j.meets s (k / 128 % 512))), 0)
  else if j.touched.contains s || !c.loanStands pos j s then (c.putRows pos s j.row n undefined, 0)
  else match c.operands hdr pos j s with
    | none => (c.putRows pos s j.row n undefined, 0)
    | some x =>
      let r := c.mmaRows pos s j x
      (c.putRows pos s j.row n (r.1.flatten.map (BitVec.ofNat 32)), r.2)

/-- A scratchpad operand or an old cell of an operation lies in a poisoned sector (R219). -/
def Chorus.poisonedSectors (c : Chorus) (hdr : Header) (pos : Nat) (j : Job) : Bool :=
  if c.scratchPoison.isEmpty ∧ c.accPoison.isEmpty then false
  else j.fields.engines.any (fun s =>
    c.scratchBad (c.operandKeys hdr pos s j)
    || c.accBad ((List.range j.rowCount).flatMap (fun r => (List.range 8).map (fun n => cellKey pos s (j.row + r) (16 * n)))))

/-- A register operand of an operation holds a poisoned word in a lane that the engine reads (R94, R266), or another operand
lies in a poisoned sector. -/
def Chorus.poisonedOperand (c : Chorus) (hdr : Header) (pos : Nat) (j : Job) : Bool :=
  let f := j.fields
  (j.op ≠ 0xAB && c.poisonedSectors hdr pos j) ||
  j.op ≠ 0xAB && f.engines.any (fun s =>
    match c.supplier pos s f.slotOf with
    | none => false
    | some x =>
      let inA (k : Nat) : Bool := f.a.toNat ≤ k / 96 && k / 96 < f.a.toNat + mmaRegsA f && k % 96 < 64
      (!f.aScratch && (if f.form = 3 then x.mpoison.any (fun k => inA (k / 2) && (k % 2 = 0 || x.momentTag (k / 192) = 15)) else x.poison.any inA))
      || (!f.bScratch && x.poison.any (fun k =>
        f.b.toNat ≤ k / 96 && k / 96 < f.b.toNat + mmaRegsB f
          && k % 96 < (if f.hn = 1 then 64 else if k / 96 < f.b.toNat + mmaColumnRegs f then 96 else 32))))

/-- An operation in progress has ended, and with it what it was lent. -/
def Clutch.endLoan (c : Clutch) (job : Nat) : Clutch :=
  if c.loans.lent.isEmpty then c else { c with loans := { c.loans with lent := c.loans.lent.filter (fun y => y.1 ≠ job) } }

/-- MMA_COMPLETE: the engines of a sequencer complete an operation, each engine its operations in stream order
(R269). -/
def execMmaComplete (uid pos job : Nat) (s : State) : Out :=
  match s.chorus? uid with
  | none => .next s
  | some c =>
    match s.launch? c.launch, c.seqs.find? (fun q => q.pos = pos) with
    | some l, some q =>
      match q.jobs.find? (fun j => j.id = job) with
      | none => .next s
      | some j =>
        let before := q.jobs.takeWhile (fun x => x.id ≠ job)
        if before.any (fun x => x.fields.engines.any (fun n => j.fields.mod.getLsbD n)) then .next s
        else
          let drop (c : Chorus) : Chorus :=
            let c := c.modSeq pos (fun q => { q with jobs := q.jobs.filter (fun x => x.id ≠ job) })
            { c with clutches := c.clutches.map (·.endLoan job) }
          if c.poisonedOperand l.hdr pos j then
            .next (((s.modChorus uid drop).seqFault { l, ch := c, q := { q with pc := j.pc } } .poison))
          else
            let (c', flags) := j.fields.engines.foldl (fun (acc : Chorus × Word) n =>
              let r := acc.1.completeOn l.hdr pos s.tick j n
              (r.1, acc.2 ||| r.2)) (c, 0)
            .next (((s.modChorus uid (fun _ => drop c')).flag uid flags).bump)
    | _, _ => .next s

end Sys2Proof.Machine
end

