-- ==== Sys2Proof/Machine/Counters.lean ====
section
/-! DEFINITION. The performance counters of a core (R431). -/

namespace Sys2Proof.Machine

/-- A select register counts an event of a context. -/
def selects (sel : Word) (event : Nat) (ctx : Option Nat) : Bool :=
  sel.getLsbD 31 && sel.toNat % 256 = event && (!sel.getLsbD 30 || ctx = some (sel.toNat / 2 ^ 26 % 16))

/-- A counter with events added: COUNT modulo 2^48, and OVF when it wraps. -/
def countUp (cnt : DWord) (n : Nat) : DWord :=
  let t := cnt.toNat % 2 ^ 48 + n
  BitVec.ofNat 64 (t % 2 ^ 48 + if cnt.getLsbD 63 ∨ 2 ^ 48 ≤ t then 2 ^ 63 else 0)

/-- The events of counter `i` that count: those of a cycle in which its COUNT has been written are lost, one cycle of an event
that counts cycles and all others (R431). -/
def Core.counts (k : Core) (now i event n : Nat) : Nat :=
  if k.pmWritten.get 0 i ≠ now + 1 then n
  else if event = 0 ∨ event = 8 ∨ event = 9 then n - 1
  else 0

/-- Events are added to the counters that select them. What a counter held before the events of a cycle is remembered: a write of
its COUNT in that cycle loses them. -/
def Core.count (k : Core) (now event : Nat) (ctx : Option Nat) (n : Nat) : Core :=
  (List.range 4).foldl (fun k i =>
    if !selects (k.pmsel.get 0 i) event ctx then k
    else
      let old := k.pmcnt.get 0 i
      { k with
        pmcnt := k.pmcnt.set 0 i (countUp old (k.counts now i event n))
        pmBefore := if (k.pmBefore.get (0, 0) i).1 = now + 1 then k.pmBefore else k.pmBefore.set (0, 0) i (now + 1, old) }) k

/-- Some counter of the device is enabled. -/
def State.counting (s : State) : Bool :=
  s.dies.any (fun d => d.2.cores.any (fun c => c.2.pmsel.any (fun p => p.2.getLsbD 31)))

/-- Events of a core. -/
def State.count (s : State) (c : CoreId) (event : Nat) (ctx : Option Nat) (n : Nat) : State :=
  if n = 0 then s else s.modCore c (·.count s.now event ctx n)

/-! ### What each event of the machine counts -/

/-- Cycles pass: event 0 on every core at L0 for its cluster's holder, events 8 and 9 for clutches that a BAR or an
ARRWAIT holds. -/
def State.countCycles (s : State) (n : Nat) : State :=
  let level0 : Bool := s.crucible.level = 0
  let tick (x : Die) : Die :=
    if !x.serving then x
    else { x with cores := x.cores.map (fun c =>
      if level0 && !c.2.resting then (c.1, c.2.count s.now 0 (x.holders.get {} (c.1 / 4)).ctx n) else c) }
  let s := { s with dies := s.dies.map (fun (d : Nat × Die) => (d.1, tick d.2)) }
  (s.choruses.filter (fun (ch : Chorus) => ch.status = .resident)).foldl (fun s ch =>
    let ctx := (s.launch? ch.launch).map (·.ctx)
    (ch.clutches.filter (fun c => !c.ended)).foldl (fun s c =>
      if c.progress = .arrived then s.count (ch.coreAt c.pos) 8 ctx n
      else if c.progress = .watching then s.count (ch.coreAt c.pos) 9 ctx n
      else s) s) s

/-- The sectors that a landing load reaches and its core's L1 does not hold (event 4). -/
def State.missesOf (s : State) (p : Landing) (c : CoreId) : Nat :=
  match p.access with
  | some a =>
    let reads : Bool := match a.op with
      | .load _ | .moment _ => a.space = .global
      | _ => false
    if !reads then 0
    else
      let sectors := (a.places.flatMap (fun x => x.2.map (· / 64))).foldl setInsert []
      sectors.countP (fun n => ((s.core c).l1Sector? n).isNone)
  | none => 0

/-- The core and context of a clutch. -/
def State.whereabouts (s : State) (who : ClutchId) : Option (CoreId × Option Nat) :=
  match s.chorus? who.chorus with
  | none => none
  | some ch => match ch.clutch? who.clutch with
    | none => none
    | some cl => some (ch.coreAt cl.pos, (s.launch? ch.launch).map (·.ctx))

/-- The elements on the fabric. -/
def State.elemsOut (s : State) : Nat :=
  s.outbox.countP (fun m => match m with
    | .elem _ => true
    | _ => false)

/-- An event of the machine that has taken a state to another (events 4 to 7). -/
def State.countEvent (t s : State) (i : Instr) : State :=
  match i with
  | .longLatencyLanding id =>
    match t.landings.find? (fun p => p.id = id) with
    | none => s
    | some p =>
      if s.landings.any (fun q => q.id = id) then s
      else match t.whereabouts p.who with
        | some (c, ctx) => s.count c 4 ctx (t.missesOf p c)
        | none => s
  | .remoteSend c =>
    let ctx := ((t.core c).queue.head?).bind Queued.ctx
    s.count c 5 ctx (s.elemsOut - t.elemsOut)
  | .retransmit keyidx tag lane dev =>
    match t.dueOf keyidx tag lane dev (fun u => u.notBefore ≤ t.now) with
    | none => s
    | some u =>
      match t.whereabouts u.who with
      | some (c, ctx) => s.count c 5 ctx (s.elemsOut - t.elemsOut)
      | none => s
  | .ack a =>
    match (t.receive a.fromDev a.toDev (.ack a)).isSome, t.unsettledOf a.keyidx a.tag a.lane a.fromDev a.epoch with
    | true, some u =>
      match t.whereabouts u.who with
      | some (c, ctx) => s.count c 6 ctx (if a.result = .duplicate then 1 else 0) |>.count c 7 ctx (if a.result = .busy then 1 else 0)
      | none => s
    | _, _ => s
  | _ => s

/-- An MMA that its engines have accepted (event 3): the streams that have moved on, those of every core for MMA.BC. -/
def State.countStream (t s : State) (uid pos : Nat) (i : Instr) : State :=
  match i with
  | .mma _ | .mmaBc _ | .mmaS _ | .mmaM _ =>
    match t.seqEnv? uid pos with
    | none => s
    | some e => e.ch.seqs.foldl (fun u q =>
        match s.seqEnv? uid q.pos with
        | some e' => if q.pc = e'.q.pc then u else u.count e'.core 3 (some e.l.ctx) 1
        | none => u) s
  | _ => s

end Sys2Proof.Machine
end

