-- ==== Sys2Proof/Machine/Remote.lean ====
section
/-! DEFINITION. Opcodes 0xC0 to 0xC8 at the source (R290 to R304). -/

namespace Sys2Proof.Machine

/-! ### Targets -/

/-- The target of a lane: its address, and the device and key index that name it (R290). -/
structure Target where
  lane : Nat
  addr : Nat
  dev : Nat
  keyidx : Nat
  pa : Option Nat
  kind : Nat
  /-- the device word is refused at the source -/
  bad : Bool

def Fields.self (f : Fields) : Bool := f.sp.getLsbD 0
def Fields.arr (f : Fields) : Bool := f.hn.getLsbD 0

/-- A device word that is refused at the source: reserved bits, or the route none (R290, R437). -/
def State.badDevice (s : State) (w : Nat) : Bool :=
  w / 2 ^ 18 ≠ 0 || w.testBit 9 || s.crucible.routes.get 0 (w % 512) = 2

/-- The address of a lane. -/
def Env.remoteAddr (e : Env) (s : State) (f : Fields) (l : Nat) : Nat := e.addr s f 0 0 l

/-- The target of a lane, whose address has been translated when the word says SELF. -/
def Env.target (e : Env) (s : State) (f : Fields) (l : Nat) : Target :=
  let addr := e.remoteAddr s f l
  if Fields.self f then
    let leaf := s.leafOf e.core e.l.ctx addr
    { lane := l, addr, dev := s.crucible.devnum, keyidx := pteKey leaf, pa := some (s.paOf e.core e.l.ctx addr)
      kind := pteKind leaf, bad := false }
  else
    let w := (e.read s f.e.toNat l).toNat
    { lane := l, addr, dev := w % 512, keyidx := w / 2 ^ 10 % 256, pa := none, kind := 0, bad := s.badDevice w }

/-- The arrival word that a lane names (R299). -/
def Env.arrival (e : Env) (s : State) (f : Fields) (l : Nat) : Option DWord :=
  if Fields.arr f then some (BitVec.ofNat 64 (e.read64 s f.c.toNat l)) else none

/-- The element of a target. -/
def Env.element (e : Env) (s : State) (f : Fields) (t : Target) (op : HomeOp) (data : Nat) : Element :=
  { srcDev := s.crucible.devnum, srcDie := e.ch.die, dstDev := t.dev, keyidx := t.keyidx, key := 0, tag := e.tag
    lane := t.lane, op, data, addr := BitVec.ofNat 64 t.addr, pa := t.pa, kind := t.kind, ctx := e.l.ctx
    arr := e.arrival s f t.lane, win := none, mcast := none }

/-- The lanes whose addresses are misaligned, or whose arrival words are (R295). -/
def Env.remoteMisaligned (e : Env) (s : State) (f : Fields) (n : Nat) (lanes : List Nat) : Mask :=
  maskOf (fun l => lanes.contains l &&
    (e.remoteAddr s f l % n ≠ 0 || (e.arrival s f l).any (fun w => w.toNat % 8 ≠ 0)))

/-- Translate what a remote instruction translates at the source: SELF targets, then landing addresses. -/
def withTranslated (s : State) (e : Env) (access : Nat) (vas : List Nat) (k : State → Out) : Out :=
  match s.xlate e.core e.l.ctx false vas with
  | .walk va => .next (s.miss e access va)
  | .bad va => .next (s.missStop e access va)
  | .ok => k (s.touchTlb e.core e.l.ctx vas)

/-- The sources that every remote word reads: its addresses, device words and arrival words. -/
def remoteSrcs (f : Fields) : List Src :=
  { reg := f.a.toNat, width := 2 }
    :: (if Fields.self f then [] else [{ reg := f.e.toNat }])
    ++ (if Fields.arr f then [{ reg := f.c.toNat, width := 2 }] else [])

/-- Sources of one, two or four registers. -/
def wideSrc (reg n : Nat) (tag : Option Nat) : List Src :=
  if n = 4 then [{ reg, width := 2, tag }, { reg := reg + 2, width := 2, tag }] else [{ reg, width := n, tag }]

/-- Refuse at once what is refused at the source (R290, R305). -/
def State.refuseTargets (s : State) (e : Env) (ts : List Target) (tag : DWord) : State :=
  ts.foldl (fun s t =>
    if t.bad then
      s.refuse e.l.uid { reason := .unreach, lane := t.lane, dev := t.dev, tag, addr := BitVec.ofNat 64 t.addr }
    else s) s

/-- The instruction has entered the remote queue, takes its OPC, and the clutch goes on (R292, R295). -/
def remoteDone (s : State) (e : Env) : Out :=
  .next (s.bump.modClutch e.who (fun c => { c with opc := c.opc + 1 }.advance 16))

/-! ### RADD to RARR (R294, R298) -/

/-- What distinguishes one data word: its data registers, its operation, and lanes that meet NONFINITE. -/
structure RemoteData where
  size : Nat
  srcs : List Src
  op : State → Env → HomeOp
  data : State → Env → Nat → Nat
  bad : State → Env → Mask := fun _ _ => 0
  flags : State → Env → Word := fun _ _ => 0
  /-- a register whose value in the lowest active lane serves every lane -/
  low : Option Nat := none

/-- A remote data word at its source. -/
def remoteForm (op : Nat) (f : Fields) (r : RemoteData) (s : State) : Out :=
  memoryWord op f false (remoteSrcs f ++ r.srcs) s fun e fmt => withActive s e r.low.toList <|
    let lanes := lanesIn e.mask
    let bad := e.remoteMisaligned s f r.size lanes
    let ts := lanes.map (e.target s f)
    if bad ≠ 0 then fatal s e .align bad
    else withTranslated s e 1 (if Fields.self f then lanes.map (e.remoteAddr s f) else []) fun s =>
      let nonFinite := r.bad s e
      if nonFinite ≠ 0 then fatal s e .nonfinite nonFinite
      else if s.queueFull e then .next s
      else
        let elems := (ts.filter (!·.bad)).map (fun t => e.element s f t (r.op s e) (r.data s e t.lane))
        let s' := ((s.refuseTargets e ts e.tag).flag e.who.chorus (fmt ||| r.flags s e)).enqueue e elems []
        remoteDone s' e

/-- A 4-byte or 8-byte integer operand. -/
def intData (f : Fields) (op : Nat → HomeOp) : RemoteData :=
  let n := if f.mod.toNat % 8 < 2 then 1 else 2
  { size := 4 * n, srcs := wideSrc f.b.toNat n none, op := fun _ _ => op (4 * n)
    data := fun s e l => e.wideValue s f.b.toNat n l }

/-- The format of a fixed-point addend: TG, FP32 by default (R298). -/
def fxFmt (f : Fields) : Nat := if f.tg = 0 then 2 else f.tg.toNat

/-- The lowest weight of a fixed-point addend (R298). -/
def Env.fxWeight (e : Env) (s : State) (f : Fields) : Int :=
  if f.tg = 1 then signedOf 16 (e.lowWord s f.f.toNat % 2 ^ 16) else -149

/-- The addend of a lane in its format. -/
def Env.fxValue (e : Env) (s : State) (f : Fields) (l : Nat) : FVal :=
  let fm := Fmt.ofTag (fxFmt f)
  fm.decode (e.wideValue s f.b.toNat (if f.tg = 1 then 2 else 1) l % 2 ^ fm.width)

/-- A value that is no NaN and no infinity. -/
def FVal.finite : FVal → Bool
  | .fin .. => true
  | _ => false

/-- RADD under XM 1. -/
def fxData (f : Fields) : RemoteData :=
  let n := if f.tg = 1 then 2 else 1
  { size := 8, srcs := wideSrc f.b.toNat n (moveCheck f)
    op := fun s e => .fx (fxFmt f) (e.fxWeight s f)
    data := fun s e l => (toWide (e.fxValue s f l) (e.fxWeight s f)).bits
    bad := fun s e => maskOf (fun l => inMask e.mask l && !(e.fxValue s f l).finite)
    flags := fun s e => (lanesIn e.mask).foldl (fun a l => a ||| (toWide (e.fxValue s f l) (e.fxWeight s f)).flags) 0
    low := if f.tg = 1 then some f.f.toNat else none }

/-- RADD.fx is the RADD of XM 1 (R294). -/
def execRadd (f : Fields) (s : State) : Out := remoteForm 0xC0 f (intData f .add) s
def execRaddFx (f : Fields) (s : State) : Out := remoteForm 0xC0 f (fxData f) s
def execRmin (f : Fields) (s : State) : Out :=
  remoteForm 0xC1 f (intData f (fun n => .min n (!f.mod.getLsbD 0))) s
def execRmax (f : Fields) (s : State) : Out :=
  remoteForm 0xC2 f (intData f (fun n => .max n (!f.mod.getLsbD 0))) s
def execRor (f : Fields) (s : State) : Out := remoteForm 0xC3 f (intData f .or) s

/-- RPUT1: a write-once put of the size code's bytes (R300). -/
def execRput1 (f : Fields) (s : State) : Out :=
  let n := szBytes f.sz
  remoteForm 0xC4 f
    { size := n, srcs := wideSrc f.b.toNat (szRegs f.sz) (moveCheck f), op := fun _ _ => .put1 n
      data := fun s e l => e.wideValue s f.b.toNat (szRegs f.sz) l % 2 ^ (8 * n) } s

/-- RARR: adds the unsigned word of B to an arrival word. -/
def execRarr (f : Fields) (s : State) : Out :=
  remoteForm 0xC5 f
    { size := 8, srcs := [{ reg := f.b.toNat }], op := fun _ _ => .arr
      data := fun s e l => (e.read s f.b.toNat l).toNat } s

/-! ### Reads (R301, R302) -/

/-- RGET: a request for each lane, whose reply lands at the address in F. -/
def execRget (f : Fields) (s : State) : Out :=
  let n := szBytes f.sz
  memoryWord 0xC6 f false (remoteSrcs f ++ [{ reg := f.f.toNat, width := 2 }]) s fun e _ =>
    let lanes := lanesIn e.mask
    let landing (l : Nat) : Nat := e.read64 s f.f.toNat l
    let bad := e.remoteMisaligned s f n lanes
    let ts := lanes.map (e.target s f)
    if bad ≠ 0 then fatal s e .align bad
    else withTranslated s e 0 (if Fields.self f then lanes.map (e.remoteAddr s f) else []) fun s =>
      withTranslated s e 1 (lanes.flatMap (fun l => Elem.pages { lane := l, addr := landing l, bytes := n })) fun s =>
        if s.queueFull e then .next s
        else
          let good := ts.filter (!·.bad)
          let reqs := good.zipIdx.map (fun (t, i) => {
            req := {
              id := s.fresh + i, srcDev := s.crucible.devnum, srcDie := e.ch.die, dstDev := t.dev, ctx := e.l.ctx
              keyidx := t.keyidx, key := 0, tag := e.tag, lane := t.lane
              kind := .get n (BitVec.ofNat 64 (landing t.lane)) (e.arrival s f t.lane)
              addr := BitVec.ofNat 64 t.addr, pa := t.pa, page := t.kind }
            chorus := e.who.chorus, launch := e.l.uid, deadline := 0, landing := none, mask := 0
            clutch := e.cl.id, pc := e.cl.pc : Asked })
          let s' := { s.refuseTargets e ts e.tag with fresh := s.fresh + good.length }
          remoteDone (s'.enqueue e [] reqs) e

/-- The canonical NaN of a read-back that is refused, as register words (R302). -/
def nanWords (tag : Nat) : List Lanes :=
  let v := (Fmt.ofTag tag).nan
  if tag = 1 then pairLanes v else [lanesOf fun _ => BitVec.ofNat 32 v]

/-- RACC.CVT: one request, of the lowest active lane; the result lands in every active lane. A device word that
is refused at the source gives the canonical NaN. -/
def execRaccCvt (f : Fields) (s : State) : Out :=
  issue 0xC8 f s fun e =>
    withActive s e (f.a.toNat :: (f.a.toNat + 1) :: (if Fields.self f then [] else [f.e.toNat])) <|
    let l := e.low
    let n := if f.tg = 1 then 2 else 1
    let addr := e.remoteAddr s f l
    if addr % 8 ≠ 0 then fatal s e .align (maskOf (· = l))
    else withTranslated s e 0 (if Fields.self f then [addr] else []) fun s =>
      if s.queueFull e then .next s
      else
        let t := e.target s f l
        let p : Landing :=
          { id := 0, who := e.who, dst := .ordinary f.d.toNat n, mask := e.mask, tag := f.tg, canFlag := true }
        if t.bad then
          .next (((s.refuseTargets e [t] 0).produce { p with words := nanWords f.tg.toNat }).bump.modClutch e.who (·.advance 16))
        else
          let id := s.fresh
          let s := s.produce { p with awaited := e.mask }
          let req : ReadReq :=
            { id, srcDev := s.crucible.devnum, srcDie := e.ch.die, dstDev := t.dev, ctx := e.l.ctx
              keyidx := t.keyidx, key := 0, tag := BitVec.ofNat 64 id, lane := l, kind := .acc f.tg.toNat
              addr := BitVec.ofNat 64 t.addr, pa := t.pa, page := t.kind }
          let a : Asked :=
            { req, chorus := e.who.chorus, launch := e.l.uid, deadline := 0, landing := some id, mask := e.mask
              mode := e.cl.fmode.toNat % 16, clutch := e.cl.id, pc := e.cl.pc }
          .next ((s.enqueue e [] [a]).bump.modClutch e.who (·.advance 16))

/-! ### Multicast (R303, R304) -/

/-- A set is valid for a context (R406). -/
def groupValid (g : Group) (ctx : Nat) : Bool := g.valid && g.ctx = ctx

/-- MCAST1: the future is allocated at issue; a group word or a group that is not valid completes it at once. -/
def execMcast1 (f : Fields) (s : State) : Out :=
  let n := szBytes f.sz
  let srcs : List Src :=
    { reg := f.a.toNat, width := 2 } :: wideSrc f.b.toNat (szRegs f.sz) (moveCheck f)
      ++ (if Fields.arr f then [{ reg := f.c.toNat, width := 2 }] else [])
  memoryWord 0xC7 f false srcs s fun e fmt => withActive s e [f.e.toNat, f.f.toNat] <|
    let lanes := lanesIn e.mask
    let word := e.lowWord s f.e.toNat
    let report := e.lowWord s f.f.toNat
    let bad := e.remoteMisaligned s f n lanes
    if bad ≠ 0 then fatal s e .align bad
    else match (if report % 64 = 0 then e.localKey 1 report 64 else none) with
      | none => fatal s e .bounds e.mask
      | some key =>
        let g := s.crucible.groups.get {} (word % 4096)
        if s.queueFull e then .next s
        else match s.allocFuture e.ch.die e.l.ctx .multicast e.who.chorus with
          | none => .next s
          | some (i, s) =>
            let h := handleWord ((s.die e.ch.die).futures.get {} i).gen i
            let id := s.fresh
            let members := if groupValid g e.l.ctx then g.members else []
            let m : Mcast := { id, die := e.ch.die, future := i, who := e.who, set := word % 4096, report := key, members, left := 0 }
            let s := { s with fresh := s.fresh + 1 }
            let s :=
              if word / 4096 ≠ 0 ∨ !groupValid g e.l.ctx then
                s.finishMcast { m with neg := members, reasons := 2 ^ 4 }
              else
                let elems := lanes.map (fun l =>
                  let t : Target :=
                    { lane := l, addr := e.remoteAddr s f l, dev := 0, keyidx := g.keyidx, pa := none, kind := 0, bad := false }
                  { e.element s f t (.put1 n) (e.wideValue s f.b.toNat (szRegs f.sz) l % 2 ^ (8 * n)) with mcast := some id })
                (s.modCrucible (fun c => { c with mcasts := c.mcasts ++ [m] })).enqueue e elems []
            let s := (s.flag e.who.chorus fmt).modClutch e.who (fun c => { c with opc := c.opc + 1 })
            .next (writeResult s e f.d.toNat 16 h)

end Sys2Proof.Machine
end

