-- ==== Sys2Proof/Machine/Window.lean ====
section
/-! DEFINITION. The chorus window, opcodes 0xD8 to 0xDA (R314 to R319, R322). -/

namespace Sys2Proof.Machine

/-! ### Window addresses (R216, R314) -/

/-- The window address of a lane. -/
def Env.windowAddr (e : Env) (s : State) (f : Fields) (l : Nat) : Nat := e.addr s f 1 0 l

def windowSection (addr : Nat) : Nat := addr / 2 ^ 21 % 8

/-- An access of `n` bytes passes R216 and R314. In a core chorus the only core is 0; a chorus that is not linked
has one section (log 14). -/
def Env.reachesWindow (e : Env) (addr n : Nat) : Bool :=
  addr < 2 ^ 24 && windowSection addr < max 1 e.hdr.sections && (e.hdr.cluster || addr / 2 ^ 19 % 4 = 0)
    && addr % 2 ^ 19 + n ≤ e.hdr.scratch

/-- The lanes that name another section. -/
def Env.otherSection (e : Env) (s : State) (f : Fields) : Mask :=
  maskOf (fun l => inMask e.mask l && windowSection (e.windowAddr s f l) ≠ e.ch.section_)

/-- DEPARTED: a detached clutch, or one whose member has learned of a departure, reaches for another section
(R319, R321). -/
def Env.departs (e : Env) (s : State) (f : Fields) : Mask :=
  if e.cl.detached || e.ch.departed then e.otherSection s f else 0

/-- The section that a window access names. -/
def Env.winTarget (e : Env) (addr : Nat) : WinTarget :=
  { lid := e.l.lid, index := e.ch.index, epoch := e.ch.epoch, section_ := windowSection addr }

/-- The device that holds a section (R311). -/
def Launch.member (l : Launch) (sec : Nat) : Nat := l.members.getD sec 0

/-! ### Attach and detach (R318, R319) -/

/-- CWIN.ATTACH: the section is marked once, its peers are told, and the clutch waits for theirs or for a departure; a second
one returns as the first did. -/
def execCwinAttach (f : Fields) (s : State) : Out :=
  issue 0xD8 f s fun e =>
    let done (s : State) (status : Word) : Out :=
      .next ((writeResult s e f.d.toNat 16 status).modClutch e.who (fun c => { c with progress := .none }))
    if !e.l.linked then done s 0
    else
      let s := if e.ch.attached then s else
        let s := s.modChorus e.who.chorus (fun c => { c with attached := true })
        (s.notices e.ch e.l).foldl (fun s p => s.sendOwed (.attached p)) s
      let s := s.modChorus e.who.chorus (·.settleAttach e.hdr.sections)
      match (s.chorus? e.who.chorus).bind (·.attachResult) with
      | some r => done s r
      | none => .next (s.modClutch e.who (fun c => { c with progress := .attaching }))

/-- A window element or remote read of the clutch is not acknowledged. -/
def State.owesWindow (s : State) (e : Env) : Bool :=
  s.crucible.unsettled.any (fun u => u.chorus = e.who.chorus && u.elem.tag.toNat / 2 ^ 18 % 128 = e.who.clutch && u.elem.win.isSome)
    || s.crucible.asked.any (fun a => a.chorus = e.who.chorus && a.clutch = e.who.clutch)
    || s.windowHeld.any (fun x => x.srcDev = s.crucible.devnum && x.tag.toNat / 2 ^ 18 = e.tag.toNat / 2 ^ 18)
    || (s.core e.core).queue.any (fun q => q.who = e.who && (!q.reqs.isEmpty || q.elems.any (·.win.isSome)))

/-- CWIN.DETACH completes once the clutch's window elements and remote reads are acknowledged. -/
def execCwinDetach (f : Fields) (s : State) : Out :=
  issue 0xD8 f s fun e =>
    if s.owesWindow e then .next s
    else .next ((s.bump.modClutch e.who (fun c => { c with detached := true }.advance 16)).noteDetached e.who.chorus)

/-! ### Remote forms (R316) -/

/-- The lanes whose element or arrival word is misaligned (R314). -/
def Env.windowMisaligned (e : Env) (s : State) (f : Fields) (n : Nat) : Mask :=
  maskOf (fun l => inMask e.mask l &&
    (e.windowAddr s f l % n ≠ 0 || (Fields.arr f && (e.read s f.c.toNat l).toNat % 8 ≠ 0)))

/-- A window form: its elements go through the own crucible, to the own section as to another; one for a member that no route
reaches is refused at once (R437). -/
def windowForm (f : Fields) (n : Nat) (srcs : List Src) (op : HomeOp) (data : State → Env → Nat → Nat) (s : State) : Out :=
  let all : List Src :=
    { reg := f.a.toNat } :: srcs ++ (if Fields.arr f then [{ reg := f.c.toNat }] else [])
  memoryWord 0xD8 f false all s fun e fmt =>
    let lanes := lanesIn e.mask
    let departed := e.departs s f
    if departed ≠ 0 then fatal s e .departed departed
    else
      let bad := e.windowMisaligned s f n
      let outside := maskOf (fun l => inMask e.mask l && !e.reachesWindow (e.windowAddr s f l) n)
      if bad ≠ 0 then fatal s e .align bad
      else if outside ≠ 0 then fatal s e .bounds outside
      else if s.queueFull e then .next s
      else
        let elems := lanes.map (fun l =>
          let addr := e.windowAddr s f l
          { srcDev := s.crucible.devnum, srcDie := e.ch.die
            dstDev := if windowSection addr = e.ch.section_ then s.crucible.devnum else e.l.member (windowSection addr)
            keyidx := e.l.keyidx, key := 0, tag := e.tag, lane := l, op, data := data s e l
            addr := BitVec.ofNat 64 addr, pa := none, ctx := e.l.ctx
            arr := if Fields.arr f then some (BitVec.ofNat 64 (e.read s f.c.toNat l).toNat) else none
            win := some (e.winTarget addr), mcast := none : Element })
        let routed (x : Element) : Bool := s.routed x.dstDev
        let s' := (elems.filter (fun x => !routed x)).foldl (fun s x => s.refuse e.l.uid (refusalOf x .unreach)) s
        remoteDone ((s'.flag e.who.chorus fmt).enqueue e (elems.filter routed) []) e

/-- The integer forms: TY as RADD's. -/
def windowInt (f : Fields) (op : Nat → HomeOp) (s : State) : Out :=
  let r := intData f op
  windowForm f r.size r.srcs (op r.size) r.data s

def execCwinAdd (f : Fields) (s : State) : Out := windowInt f .add s
def execCwinMin (f : Fields) (s : State) : Out := windowInt f (fun n => .min n (!f.mod.getLsbD 0)) s
def execCwinMax (f : Fields) (s : State) : Out := windowInt f (fun n => .max n (!f.mod.getLsbD 0)) s
def execCwinOr (f : Fields) (s : State) : Out := windowInt f .or s

def execCwinPut1 (f : Fields) (s : State) : Out :=
  let sz := f.mod.toNat % 8
  let n := szBytes sz
  windowForm f n (wideSrc f.b.toNat (szRegs sz) (moveCheck f)) (.put1 n)
    (fun s e l => e.wideValue s f.b.toNat (szRegs sz) l % 2 ^ (8 * n)) s

def execCwinArr (f : Fields) (s : State) : Out :=
  windowForm f 8 [{ reg := f.b.toNat }] .arr (fun s e l => (e.read s f.b.toNat l).toNat) s

/-! ### CWLD and CWST (R314, R315) -/

/-- Lanes of a mask that name the own section, with the places of their bytes. -/
def Env.ownPlaces (e : Env) (s : State) (f : Fields) (n : Nat) : List (Nat × List Nat) :=
  ((lanesIn e.mask).filter (fun l => windowSection (e.windowAddr s f l) = e.ch.section_)).map (fun l =>
    (l, (List.range n).map (windowKey (e.windowAddr s f l) + ·)))

/-- CWLD: own lanes are a plain load, the others remote reads; D is full when every lane has landed. -/
def execCwld (f : Fields) (s : State) : Out :=
  let n := szBytes f.sz
  memoryWord 0xD9 f false [{ reg := f.a.toNat }] s fun e flags =>
    let departed := e.departs s f
    if departed ≠ 0 then fatal s e .departed departed
    else
      let other := e.otherSection s f
      let bad := maskOf (fun l => inMask other l && e.windowAddr s f l % n ≠ 0)
      let outside := maskOf (fun l => inMask e.mask l && !e.reachesWindow (e.windowAddr s f l) n)
      let places := e.ownPlaces s f n
      if bad ≠ 0 then fatal s e .align bad
      else if outside ≠ 0 then fatal s e .bounds outside
      else if s.mustWait e .scratch places false || (other ≠ 0 && s.queueFull e) then .next s
      else
        let id := s.fresh
        let p : Landing :=
          { id := 0, who := e.who, dst := .ordinary f.d.toNat (szRegs f.sz), mask := e.mask, tag := f.tg
            awaited := other, holds := (acquireOf f).isSome
            access := some { op := .load f.sz, space := .scratch, places, acquire := acquireOf f, pc := e.cl.pc } }
        let s := (s.produce p).flag e.who.chorus flags
        let reqs := (lanesIn other).zipIdx.map (fun (l, i) =>
          let addr := e.windowAddr s f l
          { req := {
              id := id + 1 + i, srcDev := s.crucible.devnum, srcDie := e.ch.die, dstDev := e.l.member (windowSection addr)
              ctx := e.l.ctx, keyidx := e.l.keyidx, key := 0, tag := BitVec.ofNat 64 (id + 1 + i), lane := l
              kind := .window n (e.winTarget addr), addr := BitVec.ofNat 64 addr, pa := none }
            chorus := e.who.chorus, launch := e.l.uid, deadline := 0, landing := some id, mask := maskOf (· = l)
            mode := f.sz, clutch := e.cl.id, pc := e.cl.pc : Asked })
        let s := { s with fresh := s.fresh + reqs.length }
        let routed (a : Asked) : Bool := s.routed a.req.dstDev
        let out := reqs.filter routed
        let s := if out.isEmpty then s else s.enqueue e [] out
        let s := (reqs.filter (fun a => !routed a)).foldl (fun s a => s.refuseAsked a .unreach) s
        .next (s.bump.modClutch e.who (·.advance 16))

/-- CWST: a plain store to the own section; a lane that names another ends the launch with REMOTE. -/
def execCwst (f : Fields) (s : State) : Out :=
  let n := szBytes f.sz
  memoryWord 0xDA f (f.ord = 2) [{ reg := f.a.toNat }, { reg := f.b.toNat, width := szRegs f.sz, tag := moveCheck f }] s
    fun e flags =>
    let departed := e.departs s f
    if departed ≠ 0 then fatal s e .departed departed
    else
      let other := e.otherSection s f
      let outside := maskOf (fun l => inMask e.mask l && !e.reachesWindow (e.windowAddr s f l) n)
      let places := e.ownPlaces s f n
      if outside ≠ 0 then fatal s e .bounds outside
      else if other ≠ 0 then fatal s e .remote other
      else if s.mustWait e .scratch places true then .next s
      else
        let s' := s.storeAll e .scratch (storeBytes places (e.wideValue s f.b.toNat (szRegs f.sz)))
        .next ((s'.flag e.who.chorus flags).bump.modClutch e.who (·.advance 16))

end Sys2Proof.Machine
end

