-- ==== Sys2Proof/Machine/Arrival.lean ====
section
/-! DEFINITION. Arrival words, opcodes 0xC9 to 0xCB (R416 to R423). -/

namespace Sys2Proof.Machine

/-- The word an arrival instruction names. -/
structure ArrivalWord where
  space : Space
  /-- its eight bytes' places -/
  places : List Nat

/-- The address of an arrival instruction, in the lowest active lane (R417). -/
def Env.arrivalAddr (e : Env) (s : State) (f : Fields) : Nat :=
  if Fields.self f then e.windowAddr s f e.low else e.addr s f 0 0 e.low

/-- A clutch that a watch holds waits for it (R419). Otherwise the checks of R418, the recall of a lease (R420), poison and the order of one clutch’s accesses; then the
word and its value. WIN lies where SELF does. -/
def arrivalForm (op : Nat) (f : Fields) (write : Bool) (s : State) (k : State → Env → ArrivalWord → Nat → Out) : Out :=
  issue op f s fun e =>
    let win := Fields.self f
    let regs := f.a.toNat :: f.b.toNat :: (f.b.toNat + 1) :: (if win then [] else [f.a.toNat + 1])
    if e.cl.progress = .watching then .next s else
    withLow s e regs <|
    let addr := e.arrivalAddr s f
    if addr % 8 ≠ 0 then fatal s e .align e.mask
    else if win then
      if !e.reachesWindow addr 8 then fatal s e .bounds e.mask
      else if windowSection addr ≠ e.ch.section_ then fatal s e .remote e.mask
      else
        let places := (List.range 8).map (windowKey addr + ·)
        if s.mustWait e .scratch [(e.low, places)] false then .next s
        else if e.ch.scratchBad places then poisonEnd s e e.mask
        else k s e { space := .scratch, places } (e.ch.number (windowKey addr) 8)
    else
      match s.xlate e.core e.l.ctx write [addr] with
      | .walk va => .next (s.miss e (if write then 1 else 0) va)
      | .bad va => .next (s.missStop e (if write then 1 else 0) va)
      | .ok =>
        let s := s.touchTlb e.core e.l.ctx [addr]
        let pa := s.paOf e.core e.l.ctx addr
        let places := (List.range 8).map (pa + ·)
        if homeOf pa ≠ e.ch.die then fatal s e .remote e.mask
        else if s.mustWait e .global [(e.low, places)] false then .next s
        else match s.recall [pa] with
          | some s' => .next s'
          | none =>
            if s.poisonedAt pa then poisonEnd s e e.mask
            else k s e { space := .global, places } (s.number pa 8)

/-- A long-latency result pair, the same in every active lane. -/
def State.producePair (s : State) (e : Env) (d v : Nat) : State :=
  (s.produce { id := 0, who := e.who, dst := .ordinary d 2, mask := e.mask, words := pairLanes v }).bump.modClutch
    e.who (·.advance 16)

/-- ARRWAIT: the value at once when it is at least the target; otherwise a watch that holds the clutch. It is an
acquire and invalidates the core's L1 (R419). -/
def execArrwait (f : Fields) (s : State) : Out :=
  arrivalForm 0xC9 f false s fun s e w v =>
    let t := e.lowPair s f.b.toNat
    if t ≤ v then
      let s := (s.producePair e f.d.toNat v).modClutch e.who (fun c => { c with progress := .none })
      .next (s.invalidateL1 e.core)
    else
      let watch : Watch :=
        { who := e.who, pa := w.places.headD 0, win := w.space = .scratch, target := BitVec.ofNat 64 t, dst := f.d.toNat }
      if 4096 ≤ (s.die e.ch.die).watches.length then .next s
      else .next ((s.modDie e.ch.die (fun d => { d with watches := d.watches ++ [watch] })).modClutch e.who
        (·.watchFor f.d.toNat))

/-- ARRSET: an atomic exchange of the word (R422). -/
def execArrset (f : Fields) (s : State) : Out :=
  arrivalForm 0xCA f true s fun s e w v =>
    let s' := s.storeAt e.who w.space w.places (e.lowPair s f.b.toNat)
    let s' := if w.space = .global then s'.dropL1 e.core (fun sec => sec / 2 = w.places.headD 0 / 128) else s'
    .next (s'.producePair e f.d.toNat v)

/-- ARRTEST: a predicate; a true one is an observation (R421, R340). -/
def execArrtest (f : Fields) (s : State) : Out :=
  arrivalForm 0xCB f false s fun s e _ v =>
    let met : Bool := e.lowPair s f.b.toNat ≤ v
    let s := if met then s.invalidateL1 e.core else s
    produceWord s e f.d.toNat 16 (if met then BitVec.allOnes 32 else 0)

end Sys2Proof.Machine
end

