-- ==== Sys2Proof/Machine/Copy.lean ====
section
/-! DEFINITION. The tensor copy engine (R275 to R289): TCP.KICK, TCP.CANCEL, and the admission, completion and
failure of copies. -/

namespace Sys2Proof.Machine

/-! ### Descriptors (R277 to R281) -/

/-- A descriptor from its 64 bytes as a number (R277). -/
def Desc.ofNumber (w : Nat) : Desc :=
  let at_ (byte n : Nat) : Nat := w / 2 ^ (8 * byte) % 2 ^ (8 * n)
  let ctl := at_ 0 4
  let ssp := ctl / 2 ^ 22 % 4
  let dsp := ctl / 2 ^ 20 % 4
  { tile := ctl / 2 ^ 24, ssp, dsp, pad := ctl / 2 ^ 18 % 4, esz := ctl / 2 ^ 16 % 4
    sfmt := ctl / 2 ^ 11 % 32, dfmt := ctl / 2 ^ 6 % 32
    reserved := ctl % 2 ^ 6 ≠ 0 || (ssp ≠ 0 && at_ 12 4 ≠ 0) || (dsp ≠ 0 && at_ 20 4 ≠ 0)
    dpitch := at_ 4 4, src := at_ 8 8, dst := at_ 16 8
    cnt := (List.range 6).map (fun i => at_ (24 + 2 * i) 2)
    sstr := (List.range 5).map (fun i => signedOf 32 (at_ (36 + 4 * i) 4))
    lo0 := signedOf 16 (at_ 56 2), ext0 := at_ 58 2, lo1 := signedOf 16 (at_ 60 2), ext1 := at_ 62 2 }

def isTx (t : Nat) : Bool := t = 12 || t = 13 || t = 14

/-- The bytes of an element of a side (R31, R277). -/
def Desc.elemBytes (d : Desc) (tag : Nat) : Nat :=
  match tag with
  | 0 => 2 ^ d.esz
  | 1 | 15 => 8
  | 2 | 16 => 4
  | 3 | 4 | 7 => 2
  | _ => 1

/-- The elements of dimension 0 that are converted together: 32 where a side is TX. -/
def Desc.group (d : Desc) : Nat := if isTx d.sfmt || isTx d.dfmt then 32 else 1

def Desc.count (d : Desc) (i : Nat) : Nat := d.cnt.getD i 0

/-- Bytes of one group at the destination. -/
def Desc.dstBytes (d : Desc) : Nat := if isTx d.dfmt then txBlockBytes d.dfmt else d.group * d.elemBytes d.dfmt

/-- The bytes of one dimension-0 run of the destination. -/
def Desc.runBytes (d : Desc) : Nat := d.count 0 / d.group * d.dstBytes

/-- The destination bytes of the whole copy. -/
def Desc.totalBytes (d : Desc) : Nat := d.runBytes * (d.count 1 * d.count 2 * d.count 3 * d.count 4 * d.count 5)

/-- Format pairs (R278). -/
def Desc.pairOk (d : Desc) : Bool :=
  let plain (t : Nat) : Bool := 2 ≤ t && t ≤ 6
  (d.sfmt = d.dfmt && (d.sfmt ≤ 9 || d.sfmt = 15 || d.sfmt = 16))
    || (plain d.sfmt && plain d.dfmt) || (d.sfmt = 2 && isTx d.dfmt) || (isTx d.sfmt && d.dfmt = 2)

/-- One group of a copy: what it reads, none being padding, and where it writes (R279). -/
structure CopyUnit where
  srcs : List (Option Nat)
  srcBytes : Nat
  dst : Nat
deriving DecidableEq, Repr

/-- Index tuples of some counts, the first index running fastest. -/
def indexTuples : List Nat → List (List Nat)
  | [] => [[]]
  | n :: rest => (indexTuples rest).flatMap (fun t => (List.range n).map (· :: t))

/-- An address of a space: global addresses wrap modulo 2^64, local ones modulo 2^32 (R279). -/
def wrapAddr (space : Nat) (a : Int) : Nat := (a % (if space = 0 then 2 ^ 64 else 2 ^ 32)).toNat

/-- The groups of a copy (R279). -/
def Desc.units (d : Desc) : List CopyUnit :=
  let g := d.group
  let txSrc := isTx d.sfmt
  let n := if txSrc then txBlockBytes d.sfmt else d.elemBytes d.sfmt
  (indexTuples ((d.cnt.drop 1))).flatMap (fun t =>
    let j1 : Int := (t.getD 0 0 : Int) + d.lo1
    let srcOff : Int := j1 * d.sstr.getD 0 0
      + ((List.range 4).map (fun i => (t.getD (i + 1) 0 : Int) * d.sstr.getD (i + 1) 0)).sum
    let dstOff : Nat := d.dpitch * (t.getD 0 0 + d.count 1 * (t.getD 1 0 + d.count 2 * (t.getD 2 0
      + d.count 3 * (t.getD 3 0 + d.count 4 * t.getD 4 0))))
    let outside1 : Bool := d.pad ≠ 0 && (j1 < 0 || (d.ext1 : Int) ≤ j1)
    (List.range (d.count 0 / g)).map (fun u =>
      let read (i : Nat) : Option Nat :=
        let j0 : Int := ((g * u + i : Nat) : Int) + d.lo0
        if outside1 || (d.pad ≠ 0 && (j0 < 0 || (d.ext0 : Int) ≤ j0)) then none
        else some (wrapAddr d.ssp (d.src + j0 * n + srcOff))
      { srcs := if txSrc then [some (wrapAddr d.ssp (d.src + u * n + srcOff))] else (List.range g).map read
        srcBytes := n
        dst := wrapAddr d.dsp (d.dst + u * d.dstBytes + dstOff) }))

/-- The scratchpad keys of `n` bytes that a copy reaches at an address of SPACE 1 or 2: each byte has its own check (R215,
R281). -/
def Env.byteKeys (e : Env) (space a n : Nat) : List (Option Nat) :=
  (List.range n).map (fun i => e.localKey space ((a + i) % 2 ^ 32) 1)

/-- The region of a tile holds the destination bytes (R281). -/
def Env.insideTile (e : Env) (d : Desc) : Bool :=
  let t := e.ch.tile (d.tile - 1)
  match e.localKey 2 t.base t.size with
  | none => false
  | some base => d.units.all (fun u =>
      (e.byteKeys d.dsp u.dst d.dstBytes).all (fun k => k.any (fun k => base ≤ k && k < base + t.size)))

/-- The validity of a descriptor (R281). -/
def Env.descOk (e : Env) (d : Desc) : Bool :=
  !d.reserved && d.ssp ≠ 3 && d.dsp ≠ 3 && d.pad ≠ 3
    && d.pairOk && (d.esz = 0 || d.sfmt = 0)
    && d.cnt.all (fun n => 1 ≤ n) && d.cnt.foldl (· * ·) 1 < 2 ^ 32
    && (d.pad ≠ 0 || (d.lo0 = 0 && d.ext0 = 0 && d.lo1 = 0 && d.ext1 = 0))
    && (d.pad = 0 || !isTx d.sfmt) && (d.pad ≠ 2 || d.sfmt ≠ 0)
    && d.count 0 % d.group = 0
    && (d.count 1 ≤ 1 || d.runBytes ≤ d.dpitch)
    && (d.tile = 0 || (e.ch.tileDefined (d.tile - 1) && d.dsp ≠ 0 && e.insideTile d))

/-- Every byte of the scratchpad sides of a copy passes R215. -/
def Env.copyInside (e : Env) (d : Desc) : Bool :=
  d.units.all (fun u =>
    (d.ssp = 0 || (u.srcs.filterMap id).all (fun a => (e.byteKeys d.ssp a u.srcBytes).all (·.isSome)))
    && (d.dsp = 0 || (e.byteKeys d.dsp u.dst d.dstBytes).all (·.isSome)))

/-! ### Values -/

/-- The pad value of R279. -/
def Desc.padValue (d : Desc) : Nat :=
  if d.pad ≠ 2 then 0
  else match d.sfmt with
    | 7 => 2 ^ 15
    | 8 => 2 ^ 7
    | 9 => 0
    | 15 => fp32.signBit true + fp32.maxBits
    | 16 => bf16.signBit true + bf16.maxBits
    | t => (Fmt.ofTag t).signBit true + (Fmt.ofTag t).maxBits

/-- Elements of `w` bits packed from the lowest bit. -/
def packBits (w : Nat) (xs : List Nat) : Nat := xs.foldr (fun x acc => x + 2 ^ w * acc) 0

/-- The value of a group at its destination, and the flags its conversion sets (R278). `free` gives the mantissas of NaN
elements of a quantised block. -/
def Desc.convert (d : Desc) (free : Nat → Nat) (xs : List Nat) : Nat × Word :=
  if d.sfmt = d.dfmt then (xs.headD 0, 0)
  else if isTx d.dfmt then
    let b := txQuantise d.dfmt free xs
    (b.pair + 2 ^ 16 * packBits (txK d.dfmt + 2) b.elems, b.flags)
  else if isTx d.sfmt then
    let x := xs.headD 0
    let w := txK d.sfmt + 2
    let rs := (List.range 32).map (fun i => txExpand fp32 {} d.sfmt (x % 2 ^ 16) (x / 2 ^ (16 + w * i) % 2 ^ w))
    (packBits 32 (rs.map (·.bits)), rs.foldl (fun a r => a ||| r.flags) 0)
  else
    let r := (Fmt.ofTag d.dfmt).convert .rne ((Fmt.ofTag d.sfmt).decode (xs.headD 0))
    (r.bits, r.flags)

/-! ### Bytes that an engine reaches -/

/-- What an engine finds at a virtual address (R287). -/
inductive EngineByte where
  | here (pa : Nat)
  | miss
  /-- a poisoned sector, of the data or of a table -/
  | poison
deriving DecidableEq, Repr

/-- Translate one byte for an engine. -/
def State.engineByte (s : State) (c : CoreId) (ctx va : Nat) (write : Bool) : EngineByte :=
  if 2 ^ 57 ≤ va then .miss
  else match s.translate c ctx va with
    | .page va0 _ pte =>
      let pa := pageAddr va0 pte va
      if write && !pteW pte then .miss
      else if !write && s.poisonedAt pa then .poison
      else .here pa
    | .none => .miss
    | .poison => .poison

/-- The first byte in each sector of `n` bytes at an address. -/
def sectorHeads (a n : Nat) : List Nat := (List.range ((a + n + 63) / 64 - a / 64)).map (fun i => max a (64 * (a / 64 + i)))

/-- Reads of `n` bytes at each of some virtual addresses bring the sectors into the die caches that their pages' CACHE admits
(R210, R221). -/
def State.readsThrough (s : State) (c : CoreId) (ctx : Nat) (spans : List (Nat × Nat)) : State :=
  s.readsAt ((spans.flatMap (fun x => sectorHeads x.1 x.2)).filterMap (fun va =>
    match s.translate c ctx va with
    | .page va0 _ pte => if pteCache pte < 2 then some (pageAddr va0 pte va) else none
    | _ => none))

/-- The virtual addresses of `n` bytes. -/
def vaRange (a n : Nat) : List Nat := (List.range n).map (fun i => (a + i) % 2 ^ 64)

/-- The translations that an engine of a die needs for some spans of virtual addresses: their walks take their turns in the
tracker and fill the die's TLB, and the access waits while one cannot run (R224, R225). -/
def State.bringSpans (s : State) (die ctx : Nat) (spans : List (Nat × Nat)) : Option State :=
  s.bring (dieSide die) ctx (onePerPage (spans.flatMap (fun x => vaRange x.1 x.2)))

/-- The global bytes that a group reads or writes, with whether it writes them. -/
def Desc.globalBytes (d : Desc) (u : CopyUnit) : List (Nat × Bool) :=
  (if d.ssp = 0 then (u.srcs.filterMap id).flatMap (fun a => (vaRange a u.srcBytes).map (·, false)) else [])
    ++ (if d.dsp = 0 then (vaRange u.dst d.dstBytes).map (·, true) else [])

/-- The scratchpad keys that a group reads. -/
def Env.localReads (e : Env) (d : Desc) (u : CopyUnit) : List Nat :=
  if d.ssp = 0 then []
  else (u.srcs.filterMap id).flatMap (fun a => (e.byteKeys d.ssp a u.srcBytes).filterMap id)

/-- The addresses at which a group fails, and whether it meets poison. -/
def State.unitMisses (s : State) (e : Env) (d : Desc) (u : CopyUnit) : List Nat :=
  ((d.globalBytes u).filter (fun x => s.engineByte e.core e.l.ctx x.1 x.2 = .miss)).map (·.1)
def State.unitPoison (s : State) (e : Env) (d : Desc) (u : CopyUnit) : Bool :=
  (d.globalBytes u).any (fun x => s.engineByte e.core e.l.ctx x.1 x.2 = .poison) || e.ch.scratchBad (e.localReads d u)

/-- The global pages that a copy translates (R224). -/
def Desc.pages (d : Desc) : List Nat := onePerPage (d.units.flatMap (fun u => (d.globalBytes u).map (·.1)))

/-- `n` bytes that an engine reads at an address of a space. -/
def State.engineRead (s : State) (e : Env) (space a n : Nat) : Nat :=
  if space = 0 then
    numberOf ((vaRange a n).map (fun va =>
      match s.engineByte e.core e.l.ctx va false with
      | .here pa => Memory.read s.mem pa
      | _ => 0))
  else numberOf ((e.byteKeys space a n).map (fun k => k.elim 0 (e.ch.scratch.get 0)))

/-- The bytes a group writes: global bytes by physical address and scratchpad bytes by key. -/
def State.unitWrites (s : State) (e : Env) (d : Desc) (u : CopyUnit) : Store Byte × Store Byte × Word :=
  let xs := u.srcs.map (fun a => match a with
    | some a => s.engineRead e d.ssp a u.srcBytes
    | none => d.padValue)
  let (v, flags) := d.convert (fun i => (Config.freeWord s.tick u.dst i).toNat) xs
  let bytes := bytesOfNat d.dstBytes v
  if d.dsp = 0 then
    ((vaRange u.dst d.dstBytes).zip bytes |>.filterMap (fun (va, b) =>
      match s.engineByte e.core e.l.ctx va true with
      | .here pa => some (pa, b)
      | _ => none), [], flags)
  else ([], ((e.byteKeys d.dsp u.dst d.dstBytes).zip bytes).filterMap (fun (k, b) => k.map (·, b)), flags)

/-- Bytes in canonical order, later ones replacing earlier ones. Where elements of one tensor copy overlap, a DPITCH below a
run, the manual says that none do and gives no order: the later element's byte stays (DESIGN CHOICE, log 24). -/
def gatherBytes (bytes : List (Nat × Byte)) : Store Byte := bytes.foldl (fun m x => Store.insert m x.1 x.2) []

/-- Move some groups of a copy: global bytes gather in the windows of their homes (R338). The chorus keeps the flags and the
number of bytes for the copy's future. -/
def State.performUnits (s : State) (e : Env) (j : CopyJob) (us : List CopyUnit) : State × Word :=
  let rs := us.map (s.unitWrites e j.desc)
  let s := if j.desc.ssp = 0 then
      s.readsThrough e.core e.l.ctx (us.flatMap (fun u => (u.srcs.filterMap id).map (·, u.srcBytes))) else s
  let s := s.gather { rank := 1, order := coreWord e.core, who := none, launch := some e.l.uid, job := some j.id }
    (gatherBytes (rs.flatMap (·.1)))
  let local_ := gatherBytes (rs.flatMap (·.2.1))
  let flags := rs.foldl (fun a r => a ||| r.2.2) 0
  (((if local_.isEmpty then s else s.writeLocal e.who.chorus local_).modChorus j.who.chorus (fun c => { c with
    copyNotes := c.copyNotes.set {} j.id { flags, landed := us.length * j.desc.dstBytes } })).bump, flags)

/-! ### Kick -/

/-- The copies of a core. -/
def State.copiesOn (s : State) (c : CoreId) : List CopyJob :=
  s.copies.filter (fun j =>
    match s.chorus? j.who.chorus with
    | some ch =>
      match ch.clutch? j.who.clutch with
      | some cl => ch.coreAt cl.pos = c
      | none => false
    | none => false)

/-- TCP.KICK (R276, R281, R282): a release; it waits while no future is free, and a valid one while the engine holds 16
copies. -/
def execTcpKick (f : Fields) (s : State) : Out :=
  issue 0xB8 f s fun e => withLow s e [f.a.toNat] <|
    let addr := (e.lowWord s f.a.toNat + f.imm.toNat) % 2 ^ 32
    if !s.drained e then .next s
    else if addr % 64 ≠ 0 then fatal s e .align e.mask
    else match e.localKey (f.sp.toNat % 4) addr 64 with
      | none => fatal s e .bounds e.mask
      | some key =>
        let d := Desc.ofNumber (e.ch.number key 64)
        if e.ch.scratchBad [key] then poisonEnd s e e.mask else
        let ok := e.descOk d
        if ok && !e.copyInside d then fatal s e .bounds e.mask
        else if ok && 16 ≤ (s.copiesOn e.core).length then .next s
        else match s.allocFuture e.ch.die e.l.ctx .copy e.who.chorus with
          | none => .next s
          | some (i, s) =>
            let h := handleWord ((s.die e.ch.die).futures.get {} i).gen i
            let job : CopyJob := {
              id := s.fresh, who := e.who, die := e.ch.die, desc := d, future := i, admitted := d.tile = 0
              bytes := d.totalBytes, pc := e.cl.pc, lanes := e.mask }
            let s :=
              if ok then { s with fresh := s.fresh + 1, copies := s.copies ++ [job] }
              else s.completeFuture e.ch.die i .failed (failValue 1 0)
            .next (writeResult s e f.d.toNat 16 h)

/-! ### Admission, completion, failure, cancellation -/

/-- The environment of a copy's clutch, ended or not. -/
def State.copyEnv (s : State) (j : CopyJob) : Option Env := s.anyEnv? j.who

def State.dropCopy (s : State) (id : Nat) : State := { s with copies := s.copies.filter (fun j => j.id ≠ id) }

/-- An admitted copy that stops gives its tile back what it took (R286): all of it, since a copy's bytes land
in one step. -/
def State.giveBack (s : State) (j : CopyJob) : State :=
  if j.desc.tile = 0 ∨ !j.admitted then s
  else s.modChorus j.who.chorus (fun c => c.modTile (j.desc.tile - 1) (fun t => { t with open_ := t.open_ + j.bytes }))

/-- A tile at which copies wait: step 1 of R285. -/
def Tile.waits (t : Tile) : Bool := t.size = 0 || (t.state ≠ .empty && t.state ≠ .filling)

/-- A copy waits at step 1 of R285. -/
def Chorus.holdsCopy (c : Chorus) (j : CopyJob) : Bool := !j.admitted && (c.tile (j.desc.tile - 1)).waits

/-- COPY_ADMIT (R285, R403): copies that wait on one tile are taken in the order in which they began to wait. -/
def execCopyAdmit (id : Nat) (s : State) : Out :=
  match s.copies.find? (fun j => j.id = id) with
  | none => .next s
  | some j =>
    match s.chorus? j.who.chorus with
    | none => .next s
    | some c =>
      let n := j.desc.tile - 1
      let t := c.tile n
      let first := s.copies.find? (fun x => x.who.chorus = j.who.chorus && !x.admitted && x.desc.tile = j.desc.tile)
      if j.admitted ∨ t.waits ∨ first ≠ some j ∨ !t.inOrder s.now admissionOrder
          ∨ (t.state = .empty ∧ t.stamps.emptied = s.now + 1) then .next s
      else
        let room := if t.state = .empty then t.size else t.open_
        if room < j.bytes then .next ((s.dropCopy id).completeFuture j.die j.future .failed (failValue 3 0))
        else
          let remain := if t.state = .empty then t.size else t.remain
          let s := s.modChorus j.who.chorus (fun c => c.tileEvent s.now admissionOrder n (fun t =>
            { t with state := .filling, remain, open_ := room - j.bytes }))
          .next { s with copies := updateFirst (fun x => x.id = id) (fun x => { x with admitted := true }) s.copies }

/-- The physical places that a group of a copy reaches, for the recall of leases. -/
def State.unitPlaces (s : State) (e : Env) (d : Desc) (u : CopyUnit) : List Nat :=
  (d.globalBytes u).filterMap (fun x =>
    match s.engineByte e.core e.l.ctx x.1 x.2 with
    | .here pa => some pa
    | _ => none)

def State.copyPlaces (s : State) (e : Env) (d : Desc) : List Nat := d.units.flatMap (s.unitPlaces e d)

/-- A copy ends: its tile becomes READY with its last byte, or gets back what the copy took; its future completes, and its
flags enter sticky (R278, R285, R286). -/
def State.endCopy (s : State) (j : CopyJob) (st : FutureState) (v : DWord) : State :=
  let s :=
    if st ≠ .done then s.giveBack j
    else if j.desc.tile = 0 then s
    else s.modChorus j.who.chorus (fun c => c.tileEvent s.now landingOrder (j.desc.tile - 1) (fun t =>
      { t with remain := t.remain - j.bytes, state := if t.remain ≤ j.bytes then .ready else t.state }))
  let flags := (s.chorus? j.who.chorus).elim 0 (fun c => (c.copyNotes.get {} j.id).flags)
  let s := s.modChorus j.who.chorus (fun c => { c with copyNotes := c.copyNotes.set {} j.id {} })
  ((s.dropCopy j.id).flag j.who.chorus flags).completeFuture j.die j.future st v

/-- A copy moves no more bytes: it ends at once, or once its gathered writes are performed (R283, R287, R288). -/
def State.stopCopy (s : State) (j : CopyJob) (st : FutureState) (v : DWord) : State :=
  if s.jobOpen j.id then
    { s with copies := updateFirst (fun x => x.id = j.id) (fun x => { x with result := some (st, v) }) s.copies }
  else s.endCopy j st v

/-- The tile of a copy lets bytes land in this cycle (R404). -/
def Chorus.mayLand (c : Chorus) (now : Nat) (j : CopyJob) : Bool :=
  j.desc.tile = 0 || (c.tile (j.desc.tile - 1)).inOrder now landingOrder

/-- A copy meets a poisoned sector: the launch that made the read ends with POISON (R287, R219). -/
def State.poisonCopy (s : State) (e : Env) (j : CopyJob) : State :=
  (s.dropCopy j.id).endWith e ({ e with cl := { e.cl with pc := j.pc } }.report Code.poison.num 0 j.lanes)

/-- COPY_COMPLETE (R283, R285): the copy moves its bytes; once every destination byte is performed, the tile becomes READY with
its last byte, and the future is DONE with the number of bytes. A copy that has stopped moving bytes ends. -/
def execCopyComplete (id : Nat) (s : State) : Out :=
  match s.copies.find? (fun j => j.id = id) with
  | none => .next s
  | some j =>
    match s.copyEnv j with
    | none => .next (s.dropCopy id)
    | some e =>
      match j.result with
      | some (st, v) => .next (if s.jobOpen id || (st = .done && !e.ch.mayLand s.now j) then s else s.endCopy j st v)
      | none =>
      let units := j.desc.units
      match s.bring e.core e.l.ctx j.desc.pages with
      | none => .next s
      | some s =>
      if !j.admitted ∨ units.any (fun u => !(s.unitMisses e j.desc u).isEmpty) ∨ !e.ch.mayLand s.now j then .next s
      else if units.any (s.unitPoison e j.desc) then .next (s.poisonCopy e j)
      else match s.recall (s.copyPlaces e j.desc) with
        | some s' => .next s'
        | none =>
          .next ((s.performUnits e j units).1.stopCopy j .done (BitVec.ofNat 64 j.bytes))

/-- The groups that a stopped copy has moved: any of those that can be, which reach no leased region (R286, R287, R308). -/
def State.landedUnits (s : State) (e : Env) (j : CopyJob) : List CopyUnit :=
  (j.desc.units.zipIdx.filter (fun (u, i) =>
    (s.unitMisses e j.desc u).isEmpty && !s.unitPoison e j.desc u && (s.recall (s.unitPlaces e j.desc u)).isNone
      && Config.freePick s.tick i)).map (·.1)

/-- COPY_FAIL (R287): a byte with no valid translation or no W stops an admitted copy; what it had performed
stays, and the future holds a failing address. Where the copy has a poisoned source sector beside the missing byte the manual
orders neither before the other: it meets the missing byte first (DESIGN CHOICE, log 24). -/
def execCopyFail (id : Nat) (s : State) : Out :=
  match s.copies.find? (fun j => j.id = id) with
  | none => .next s
  | some j =>
    match s.copyEnv j with
    | none => .next (s.dropCopy id)
    | some e =>
      match s.bring e.core e.l.ctx j.desc.pages with
      | none => .next s
      | some s =>
      let misses := j.desc.units.flatMap (s.unitMisses e j.desc)
      if !j.admitted ∨ j.result.isSome ∨ misses.isEmpty then .next s
      else
        let va := misses.getD (Config.freeNat s.tick % misses.length) 0
        .next ((s.performUnits e j (s.landedUnits e j)).1.stopCopy j .failed (failValue 2 va)).bump

/-- Stop a PENDING copy, also one that has failed and still waits for its writes; its value is the number of bytes landed
(R288). -/
def State.cancelCopy (s : State) (j : CopyJob) : State :=
  match s.copyEnv j with
  | none => s.dropCopy j.id
  | some e =>
    let value (v : DWord) : State :=
      { s with copies := updateFirst (fun x => x.id = j.id) (fun x => { x with result := some (.cancelled, v) }) s.copies }
    match j.result with
    | some (.failed, _) => value (BitVec.ofNat 64 (e.ch.copyNotes.get {} j.id).landed)
    | some (_, v) => value v
    | none =>
      let us := if j.admitted then s.landedUnits e j else []
      ((s.performUnits e j us).1.stopCopy j .cancelled (BitVec.ofNat 64 (us.length * j.desc.dstBytes))).bump

/-- The effect and status of TCP.CANCEL on a handle, with the copy that it stops (R288). -/
def cancelHandle (s : State) (e : Env) (h : Word) : State × Nat × Option Nat :=
  match s.future? e.ch.die e.l.ctx h with
  | none => (s, 2, none)
  | some (i, x) =>
    if x.kind ≠ .copy ∨ x.owner ≠ e.who.chorus then (s, 2, none)
    else if x.state ≠ .pending then (s, 1, none)
    else match s.copies.find? (fun j => j.die = e.ch.die && j.future = i) with
      | some j => (s.cancelCopy j, 0, some j.id)
      | none => (s, 1, none)

/-- TCP.CANCEL: D is written once the copy has stopped (R288). -/
def cancelWord (s : State) (e : Env) (h : Word) (d bytes : Nat) : Out :=
  let (s, status, copy) := cancelHandle s e h
  .next ((s.produce { id := 0, who := e.who, dst := .ordinary d 1, mask := e.mask, copy
                      words := [lanesOf fun _ => BitVec.ofNat 32 status] }).bump.modClutch e.who (·.advance bytes))

def execTcpCancel (f : Fields) (s : State) : Out :=
  issue 0xB8 f s fun e => withLow s e [f.a.toNat] <|
    cancelWord s e (BitVec.ofNat 32 (e.lowWord s f.a.toNat)) f.d.toNat 16

end Sys2Proof.Machine
end

