-- ==== Sys2Proof/Machine/Futures.lean ====
section
/-! DEFINITION. FTEST, FREAD, FCANCEL (R397 to R400) and the tile instructions (R402, R403). -/

namespace Sys2Proof.Machine

def FutureKind.num : FutureKind → Nat
  | .copy => 0
  | .multicast => 1
  | .collective => 2

def FutureState.num : FutureState → Nat
  | .free => 0
  | .pending => 1
  | .done => 2
  | .cancelled => 3
  | .failed => 4

/-- FTEST (R399): a completed state is an acquire at die scope (R345). -/
def execFtest (f : Fields) (s : State) : Out :=
  issue 0xE2 f s fun e => withLow s e [f.a.toNat] <|
    match s.future? e.ch.die e.l.ctx (BitVec.ofNat 32 (e.lowWord s f.a.toNat)) with
    | none => .next (writeResult s e f.d.toNat 8 7)
    | some (_, x) =>
      let s := if x.state = .pending then s else s.invalidateL1 e.core
      .next (writeResult s e f.d.toNat 8 (BitVec.ofNat 32 (8 * x.kind.num + x.state.num)))

/-- The waiter nodes a clutch holds (R398). -/
def State.nodesOf (s : State) (die : Nat) (who : ClutchId) : Nat :=
  ((s.die die).futures.flatMap (fun x => x.2.waiters)).countP (fun w =>
    s.landings.any (fun p => p.id = w.1 && p.who = who))

/-- FREAD (R398): a completed value at once, a pending one at completion, all ones for an invalid handle. -/
def execFread (f : Fields) (s : State) : Out :=
  issue 0xE4 f s fun e => withLow s e [f.a.toNat] <|
    let rel := f.mod.getLsbD 0
    let start (s : State) (words : List Lanes) (holds : Bool) : State :=
      (s.produce { id := 0, who := e.who, dst := .ordinary f.d.toNat 2, mask := e.mask, words, holds, pc := e.cl.pc }).bump.modClutch
        e.who (·.advance 8)
    match s.future? e.ch.die e.l.ctx (BitVec.ofNat 32 (e.lowWord s f.a.toNat)) with
    | none => .next (start s (pairLanes invalidValue) false)
    | some (i, x) =>
      if x.state = .pending then
        if 4 ≤ s.nodesOf e.ch.die e.who then .next s
        else
          let id := s.fresh
          .next ((start s [] true).modDie e.ch.die (fun d => { d with
            futures := d.futures.modify {} i (fun x => { x with waiters := x.waiters ++ [(id, rel)] }) }))
      else
        let s' := start (s.invalidateL1 e.core) (pairLanes x.value.toNat) true
        .next (if rel then s'.freeFutureAt e.ch.die i else s')

/-- FCANCEL (R400): TCP.CANCEL on a copy; the others go on. -/
def execFcancel (f : Fields) (s : State) : Out :=
  issue 0xE3 f s fun e => withLow s e [f.a.toNat] <|
    let h := BitVec.ofNat 32 (e.lowWord s f.a.toNat)
    match s.future? e.ch.die e.l.ctx h with
    | none => produceWord s e f.d.toNat 8 2
    | some (_, x) =>
      if x.kind = .copy then cancelWord s e h f.d.toNat 8
      else produceWord s e f.d.toNat 8 (if x.state = .pending then 3 else 1)

/-- A word that changes the tile it names, or says why not: the tile's new entry and the status. It waits for the next cycle
where the order of R404 lets it no longer act in this one. -/
def tileWord (s : State) (e : Env) (f : Fields) (k : Tile → (Tile → Tile) × Word) : Out :=
  let n := f.mod.toNat
  let t := e.ch.tile n
  if !t.inOrder s.now (clutchOrder e.cl.id) then .next s
  else
    let (g, status) := k t
    produceWord (s.modChorus e.who.chorus (fun c => c.tileEvent s.now (clutchOrder e.cl.id) n g)) e f.d.toNat 16 status

/-- TILEDEF (R403). -/
def execTiledef (f : Fields) (s : State) : Out :=
  issue 0xB9 f s fun e => withLow s e [f.a.toNat] <|
    let size := f.imm.toNat
    let base := e.lowWord s f.a.toNat
    if size % 64 ≠ 0 ∨ 524288 < size then produceWord s e f.d.toNat 16 3
    else if size ≠ 0 ∧ (e.localKey 2 base size).isNone then fatal s e .bounds e.mask
    else tileWord s e f fun t =>
      if t.size ≠ 0 ∧ t.state ≠ .empty then (id, 1)
      else if size ≠ 0 then (fun _ => { base, size }, 0)
      else (fun t => if t.size = 0 then t else {}, 0)

/-- TILEREL (R403). -/
def execTilerel (f : Fields) (s : State) : Out :=
  issue 0xBA f s fun e => tileWord s e f fun t =>
    if t.size = 0 then (id, 2)
    else match t.state with
      | .ready => (Tile.clear, 0)
      | .draining => (fun t => if t.dcount ≤ 1 then t.clear else { t with dcount := t.dcount - 1 }, 0)
      | _ => (id, 1)

/-- TILEST (R403). -/
def execTilest (f : Fields) (s : State) : Out :=
  issue 0xBB f s fun e =>
    let t := e.ch.tile f.mod.toNat
    produceWord s e f.d.toNat 16
      (if t.size = 0 then 0 else BitVec.ofNat 32 (256 * t.dcount + t.state.num))

/-- TILEDRN (R403). -/
def execTiledrn (f : Fields) (s : State) : Out :=
  issue 0xBC f s fun e =>
    let k := f.imm.toNat
    if k < 1 ∨ 96 < k then produceWord s e f.d.toNat 16 3
    else tileWord s e f fun t =>
      if t.size = 0 then (id, 2)
      else if t.state = .ready then (fun t => { t with state := .draining, dcount := k }, 0)
      else (id, 1)

end Sys2Proof.Machine
end

