-- ==== Sys2Proof/Machine/Blocks.lean ====
section
/-! DEFINITION. Register blocks: REGCLAIM, REGSURR, the grant and the deadlock of claims (R104 to R108). -/

namespace Sys2Proof.Machine

/-- The status word of R104. -/
def blockStatus (h status : Nat) : Word := BitVec.ofNat 32 (256 * (h / 8) + status)

/-- Hmax (R87). -/
def Env.hmax (e : Env) : Nat := 8 * ((256 - e.hdr.uniform) / 8)

/-- The block count k: B in the lowest active lane, or IMM (R104). -/
def Env.blockCount (e : Env) (s : State) (f : Fields) : Nat :=
  if f.len = .w96 then f.imm.toNat else (e.read s f.b.toNat e.low).toNat

/-- Registers at or above a held count no longer exist, and their contents are lost: an operation in progress that was to read
one finds undefined values (R105, R263). -/
def Clutch.cutRegs (c : Clutch) (n h : Nat) : Clutch :=
  let keep (r : Nat) : Bool := r < h || isUniform n r
  { c with
    held := h
    regs := c.regs.filter (fun x => keep x.1)
    tags := c.tags.filter (fun x => keep x.1)
    poison := c.poison.filter (fun k => keep (k / 96))
    loans := { c.loans with lent := c.loans.lent.filter (fun y => y.2.all (fun r => 256 ≤ r || keep r)) } }

/-- Write the status of a block instruction into D, where D is still a register of the clutch (R105). -/
def Clutch.putStatus (c : Clutch) (n d : Nat) (w : Word) : Clutch :=
  if d < c.held ∨ isUniform n d then c.put n c.mask d 0 (fun _ => w) else c

/-- Registers that receive undefined contents, full and RAW (R95, R106). -/
def Clutch.undefine (c : Clutch) (tick first count : Nat) : Clutch :=
  (List.range count).foldl (fun c i =>
    let r := first + i
    { c with
      regs := c.regs.set [] r (packLanes (lanesOf (Config.freeWord tick r)))
      tags := c.tags.set 0 r 0
      empty := setErase c.empty r
      poison := c.poison.filter (fun k => k / 96 ≠ r)
      loans := c.loans.write r }) c

/-- Steps that REGCLAIM and REGSURR share. -/
def blockWord (op : Nat) (f : Fields) (s : State) (k : Env → Nat → Out) : Out :=
  issue op f s fun e =>
    if f.len = .w64 && e.poisonIn { reg := f.b.toNat } [e.low] then poisonEnd s e (e.poisonAmong { reg := f.b.toNat } [e.low])
    else k e (e.blockCount s f)

/-- REGSURR (R105): it waits until the registers it gives up are full. -/
def execRegsurr (f : Fields) (s : State) : Out :=
  blockWord 0xE7 f s fun e k =>
    let h := e.cl.held
    let n := e.hdr.uniform
    let done (s : State) (c : Clutch) (status : Nat) : Out :=
      .next (s.bump.modClutch e.who (fun _ =>
        (c.putStatus n f.d.toNat (blockStatus c.held status)).advance f.len.bytes))
    if k < 1 ∨ 31 < k ∨ h < 8 * k + 8 then done s e.cl 3
    else if e.cl.empty.any (fun r => h - 8 * k ≤ r && r < h) then .next s
    else
      done (s.modChorus e.who.chorus (fun c => { c with pools := c.pools.modify 0 e.cl.pos (· + k) }))
        (e.cl.cutRegs n (h - 8 * k)) 0

/-- REGCLAIM (R106): LIMIT completes at once; any other claim enters the queue, and the clutch stalls. -/
def execRegclaim (f : Fields) (s : State) : Out :=
  blockWord 0xE6 f s fun e k =>
    if e.cl.progress = .claiming then .next s
    else if k < 1 ∨ 31 < k ∨ e.hmax < e.cl.held + 8 * k then
      .next (s.bump.modClutch e.who (fun c =>
        (c.putStatus e.hdr.uniform f.d.toNat (blockStatus c.held 2)).advance f.len.bytes))
    else
      .next ((s.modChorus e.who.chorus (fun c => { c with
        claims := c.claims ++ [{ pos := e.cl.pos, clutch := e.who.clutch, k, dst := f.d.toNat, bytes := f.len.bytes }]
        })).modClutch e.who (fun c => { c with progress := .claiming }))

/-- Complete a claim of a clutch with a status. -/
def Chorus.completeClaim (c : Chorus) (n tick : Nat) (x : Claim) (granted : Bool) : Chorus :=
  c.modClutch x.clutch (fun cl =>
    let cl :=
      if granted then { cl with held := cl.held + 8 * x.k }.undefine tick cl.held (8 * x.k) else cl
    { cl with progress := .none }.putStatus n x.dst (blockStatus cl.held (if granted then 0 else 1))
      |>.advance x.bytes)

/-- Every pending claim of a core position completes with DEADLOCK (R107). -/
def Chorus.endClaims (c : Chorus) (n tick pos : Nat) : Chorus :=
  let mine := c.claims.filter (fun x => x.pos = pos)
  let c := { c with claims := c.claims.filter (fun x => x.pos ≠ pos), deadlocked := setErase c.deadlocked pos }
  mine.foldl (fun c x => c.completeClaim n tick x false) c

/-- Grant the claims of a core position, in issue order, that the pool covers (R106). -/
def grantClaims (n tick pos : Nat) : List Claim → Chorus → Chorus
  | [], c => c
  | x :: rest, c =>
    let pool := c.pools.get 0 pos
    if x.pos = pos ∧ x.k ≤ pool then
      let c := { c with pools := c.pools.set 0 pos (pool - x.k), claims := c.claims.filter (· ≠ x) }
      grantClaims n tick pos rest (c.completeClaim n tick x true)
    else grantClaims n tick pos rest c

/-- The header of a chorus's launch. -/
def State.headerOf (s : State) (c : Chorus) : Header :=
  match s.launch? c.launch with
  | some l => l.hdr
  | none => {}

/-- REGCLAIM_GRANT: the core scans the pending claims of a chorus; none is granted during a stop (R108). -/
def execRegclaimGrant (uid pos : Nat) (s : State) : Out :=
  match s.chorus? uid with
  | none => .next s
  | some c =>
    if c.status ≠ .resident ∨ (s.core (c.coreAt pos)).stopped then .next s
    else if c.claims.all (fun x => x.pos ≠ pos || c.pools.get 0 pos < x.k) then .next s
    else .next (s.bump.modChorus uid (fun c =>
      { grantClaims (s.headerOf c).uniform s.tick pos c.claims c with deadlocked := setErase c.deadlocked pos }))

/-- Every clutch of a chorus on a core that has not exited is stalled in a claim, and the pool is smaller than
every pending one (R107). -/
def Chorus.claimsDeadlock (c : Chorus) (pos : Nat) : Bool :=
  let here := c.clutches.filter (fun x => x.pos = pos && !x.ended)
  !here.isEmpty && here.all (fun x => x.progress = .claiming)
    && c.claims.all (fun x => x.pos ≠ pos || c.pools.get 0 pos < x.k)

/-- REGCLAIM_DEADLOCK (R107): every pending claim completes with DEADLOCK; under DLSTOP the core stops first,
and the claims complete when it resumes. -/
def execRegclaimDeadlock (uid pos : Nat) (s : State) : Out :=
  match s.chorus? uid with
  | none => .next s
  | some c =>
    let core := c.coreAt pos
    let k := s.core core
    if c.status ≠ .resident ∨ k.stopped ∨ !c.claimsDeadlock pos then .next s
    else if k.dlstop then
      .next ((s.stopCore core none 31 .deadlock).modChorus uid (fun c =>
        { c with deadlocked := setInsert c.deadlocked pos }))
    else
      let n := (s.headerOf c).uniform
      .next (s.bump.modChorus uid (·.endClaims n s.tick pos))

end Sys2Proof.Machine
end

