-- ==== Sys2Proof/Machine/Debug.lean ====
section
/-! DEFINITION. Core stops and their end, the debug window (R201 to R203), and uncorrectable errors (R94,
R219). -/

namespace Sys2Proof.Machine

/-- The clutches of a core: chorus, launch header and clutch. -/
def State.clutchesOn (s : State) (c : CoreId) : List (Chorus × Header × Clutch) :=
  (s.choruses.filter (fun ch => ch.status = .resident && ch.die = c.die)).flatMap (fun ch =>
    (ch.clutches.filter (fun cl => !cl.ended && (ch.coreAt cl.pos) = c)).map (fun cl => (ch, s.headerOf ch, cl)))

/-- The clutch at a slot of a core: 6 x sub-core + residency position (R203). -/
def State.clutchAt (s : State) (c : CoreId) (slot : Nat) : Option ClutchId :=
  match (s.clutchesOn c).find? (fun x => x.2.2.slotNum = slot) with
  | some (ch, _, cl) => some { chorus := ch.uid, clutch := cl.id }
  | none => none

/-- The context that holds a core's cluster. -/
def State.holderOf (s : State) (c : CoreId) : Option Nat := ((s.die c.die).holders.get {} (c.core / 4)).ctx

/-- A core whose context is frozen refuses RESUME and ESCALATE (R207). -/
def State.coreFrozen (s : State) (c : CoreId) : Bool :=
  match s.holderOf c with
  | some ctx => (s.context ctx).frozen.isSome
  | none => false

/-- The volatile registers of a clutch become undefined after a resume (R95). A register whose producer is still on its way stays
empty until that lands, so that no second producer overtakes it (R92; DEDUCED, log 59). -/
def Clutch.loseVolatile (c : Clutch) (tick : Nat) (h : Header) : Clutch :=
  { c.undefine tick h.volFirst (min h.volCount (c.held - h.volFirst)) with empty := c.empty }

/-- Every clutch of a core continues from its snapshot (R202); one stopped by BREAK at the word after its BKPT
unless its PC was written (R193). Claims held by a DEADLOCK stop complete, unless their pool has changed (R107). STEP lets
the selected clutch issue one instruction (R203). -/
def State.resumeCore (s : State) (c : CoreId) : State :=
  let k := s.core c
  let s := match k.stopper with
    | some who =>
      if k.code = Code.break_.num ∧ !k.pcWritten then s.modClutch who (·.advance 8) else s
    | none => s
  let stepping := if k.step then s.clutchAt c k.sel else none
  let s := (s.clutchesOn c).foldl (fun s (ch, h, cl) =>
    if h.volCount = 0 then s
    else s.modClutch { chorus := ch.uid, clutch := cl.id } (·.loseVolatile s.tick h)) s
  let s := s.choruses.foldl (fun s ch => ch.deadlocked.foldl (fun s pos =>
    if ch.coreAt pos = c then s.modChorus ch.uid (fun ch => ch.endClaims (s.headerOf ch).uniform s.tick pos) else s) s) s
  (s.modCore c (fun k => { k with
    stopped := false, slot := 31, code := 0, stopper := none, stopInfo := none, pcWritten := false, stepping })).bump

/-- End the launch of the stopping clutch, be it one that has ended since, or of every chorus on the core, and let the
others go on (R202). -/
def State.endStop (s : State) (c : CoreId) (code : Code) (inner : Nat) : State :=
  let k := s.core c
  let s := match k.stopper with
    | some who =>
      match s.env? who, k.stopInfo with
      | some e, _ => s.endWith e (e.report code.num inner e.mask)
      | none, some (l, r) => s.launchFault l { r with code := code.num, inner }
      | none, none => s
    | none =>
      let here := s.choruses.filter (fun (ch : Chorus) =>
        (decide (ch.status = Residency.resident) || decide (ch.status = Residency.exitHeld))
          && ch.die = c.die && ch.cores.contains c.core)
      let launches := here.map (fun (ch : Chorus) => ch.launch)
      (launches.foldl setInsert []).foldl (fun s l =>
        s.launchFault l { code := code.num, inner, coreid := coreWord c }) s
  let s := s.modCore c (fun k => { k with code := 0 })
  s.resumeCore c

/-- RESUME (R202). -/
def execResume (c : CoreId) (s : State) : Out :=
  .next (if (s.core c).stopped && !s.coreFrozen c then s.resumeCore c else s)

/-- ESCALATE (R202). -/
def execEscalate (c : CoreId) (s : State) : Out :=
  .next (if (s.core c).stopped && !s.coreFrozen c then s.endStop c .escalated (s.core c).code else s)

/-- HALT: a stop with REQUEST, which has no stopping clutch (R199, R203). -/
def execHalt (c : CoreId) (s : State) : Out := .next (s.stopCore c none 31 .request)

/-- 100 ms in arithmetic cycles (R6, R202). -/
def stopLimit : Nat := 330000000

/-- STOPTIME (R202): a stop that nobody has ended within 100 ms. -/
def execStoptime (c : CoreId) (s : State) : Out :=
  let k := s.core c
  .next (if k.stopped && !s.coreFrozen c && k.stopAt + stopLimit ≤ s.now then s.endStop c .stoptime 0 else s)

/-! ### The debug window (R203) -/

/-- A write of DBGCTL: its RW bits, then HALT, then ESCALATE, else RESUME (R202, R203; DESIGN CHOICE, log 27: no order is
given for a write that sets several). -/
def State.dbgctl (s : State) (c : CoreId) (w : Word) : State :=
  let s := s.modCore c (fun k => { k with step := w.getLsbD 5, dlstop := w.getLsbD 4, bken := w.getLsbD 3 })
  let s := if w.getLsbD 1 then s.stopCore c none 31 .request else s
  if !(s.core c).stopped || s.coreFrozen c then s
  else if w.getLsbD 7 then s.endStop c .escalated (s.core c).code
  else if w.getLsbD 6 then s.resumeCore c
  else s

/-- A word of a number with 32-bit word `i` replaced. -/
def withWord (x i : Nat) (w : Word) : Nat :=
  x - x / 2 ^ (32 * i) % 2 ^ 32 * 2 ^ (32 * i) + w.toNat * 2 ^ (32 * i)

/-- A mask with a word replaced. -/
def maskWith (m : Mask) (i : Nat) (w : Word) : Mask := BitVec.ofNat 96 (withWord m.toNat i w)

/-- Kinds by code (R176). -/
def kindOf (n : Nat) : EntryKind :=
  match n with
  | 0 => .branch
  | 1 => .loop
  | 2 => .call
  | _ => .handler

/-- A stack entry with word `i` of its 64 bytes written (R203). -/
def Entry.withWord (x : Entry) (i : Nat) (w : Word) : Entry :=
  if i = 0 then
    { x with
      kind := kindOf (w.toNat / 2 ^ 30), seq := BitVec.ofNat 20 w.toNat
      rpc := if w.getLsbD 29 then some (x.rpc.getD x.rpcBits) else none
      rpcBits := x.rpc.getD x.rpcBits }
  else if i = 1 then { x with rpc := x.rpc.map (fun _ => w), rpcBits := w }
  else if i = 2 then { x with ppc := w }
  else if i < 6 then { x with aw := maskWith x.aw (i - 3) w }
  else if i < 9 then { x with ar := maskWith x.ar (i - 6) w }
  else if i < 12 then { x with pm := maskWith x.pm (i - 9) w }
  else if i < 15 then { x with ct := maskWith x.ct (i - 12) w }
  else x

/-- A stack entry as the debug window finds it after reset (R203). -/
def emptyEntry : Entry := { kind := .branch, aw := 0, seq := 0 }

/-- The stack with another depth: entries at or above it keep what they hold (R203, log 27). -/
def Clutch.setDepth (c : Clutch) (depth : Nat) : Clutch :=
  { c with
    stack := c.stack.take depth
      ++ (List.range (depth - c.stack.length)).map (fun i => c.above.get emptyEntry (c.stack.length + i))
    above := (c.stack.zipIdx.drop depth).foldl (fun m x => m.set emptyEntry x.2 x.1) c.above }

/-- The state region of the selected clutch with a 32-bit word written at an offset (R203). Edits that break the stack's
invariants lead where the rules of the control instructions lead on the edited entries, and a depth of 17 to 31 is taken as 16
(DESIGN CHOICE, log 27). -/
def Clutch.poke (c : Clutch) (n moments off : Nat) (w : Word) : Clutch :=
  if off < 0x18000 then
    let r := off / 384
    let l := off % 384 / 4
    if r < c.held ∨ isUniform n r then
      c.write n (BitVec.ofNat 96 (2 ^ l)) r (fun _ => w)
    else c
  else if off < 0x24000 then
    let r := (off - 0x18000) / 768
    let l := (off - 0x18000) % 768 / 8
    if r < moments then
      let half := off / 4 % 2
      let old := c.moment r l
      { c.putMoment (BitVec.ofNat 96 (2 ^ l)) r (c.momentTag r)
          (fun _ => BitVec.ofNat 64 (withWord old.toNat half w)) with
        mtags := c.mtags, mpoison := setErase c.mpoison (momentKey r l half) }
    else c
  else if off < 0x24400 then
    let r := (off - 0x24000) / 4
    if r < c.held ∨ isUniform n r then c.setTag r (w.toNat % 32) else c
  else if off = 0x24400 then { c with pc := w, progress := .none, barUnchecked := false }
  else if off < 0x24410 then { c with path := maskWith c.path ((off - 0x24404) / 4) w }
  else if off < 0x2441C then { c with exited := maskWith c.exited ((off - 0x24410) / 4) w }
  else if off = 0x24420 then
    { c.setDepth (min (w.toNat / 2 ^ 20 % 32) 16) with seq := BitVec.ofNat 20 w.toNat }
  else if 0x24500 ≤ off ∧ off < 0x24900 then
    let i := (off - 0x24500) / 64
    let put (x : Entry) : Entry := x.withWord (off % 64 / 4) w
    if i < c.stack.length then { c with stack := c.stack.modify i put }
    else { c with above := c.above.modify emptyEntry i put }
  else c

/-- Word `i` of the 64 bytes of a stack entry (R203). -/
def Entry.wordAt (x : Entry) (i : Nat) : Word :=
  if i = 0 then
    BitVec.ofNat 32 (2 ^ 30 * x.kind.code + (if x.rpc.isSome then 2 ^ 29 else 0) + x.seq.toNat)
  else if i = 1 then x.rpc.getD x.rpcBits
  else if i = 2 then x.ppc
  else if i < 6 then maskWord x.aw (i - 3)
  else if i < 9 then maskWord x.ar (i - 6)
  else if i < 12 then maskWord x.pm (i - 9)
  else if i < 15 then maskWord x.ct (i - 12)
  else 0

/-- What the state region of a clutch shows at an offset: reserved bits and registers that do not exist read zero (R3,
R203). A poisoned word is undefined (R94). -/
def Clutch.peek (c : Clutch) (tick n moments off : Nat) : Word :=
  if off < 0x18000 then
    let r := off / 384
    let l := off % 384 / 4
    if r < c.held ∨ isUniform n r then
      if c.poison.contains (poisonKey n r l) then Config.freeWord tick r l else c.word n r l
    else 0
  else if off < 0x24000 then
    let r := (off - 0x18000) / 768
    let l := (off - 0x18000) % 768 / 8
    if r < moments then
      if c.mpoison.contains (momentKey r l (off / 4 % 2)) then Config.freeWord tick (256 + r) l
      else BitVec.ofNat 32 ((c.moment r l).toNat / 2 ^ (32 * (off / 4 % 2)))
    else 0
  else if off < 0x24400 then
    let r := (off - 0x24000) / 4
    if r < c.held ∨ isUniform n r then
      BitVec.ofNat 32 (c.tag r + if c.poison.any (fun k => k / 96 = r) then 32 else 0)
    else 0
  else if off = 0x24400 then c.pc
  else if off < 0x24410 then maskWord c.path ((off - 0x24404) / 4)
  else if off < 0x2441C then maskWord c.exited ((off - 0x24410) / 4)
  else if off = 0x24420 then BitVec.ofNat 32 (2 ^ 20 * c.stack.length + c.seq.toNat)
  else if 0x24500 ≤ off ∧ off < 0x24900 then
    let i := (off - 0x24500) / 64
    (c.stack.getD i (c.above.get emptyEntry i)).wordAt (off % 64 / 4)
  else 0

/-- A 32-bit write in a core's debug window. -/
def State.debugWord (s : State) (c : CoreId) (offset : Nat) (w : Word) : State :=
  let k := s.core c
  if offset = 0 then s.dbgctl c w
  else if offset = 8 then s.modCore c (fun k => { k with sel := w.toNat % 32 })
  else if offset < 0x100000 ∨ !k.stopped then s
  else
    match s.clutchAt c k.sel with
    | none => s
    | some who =>
      match s.env? who with
      | none => s
      | some e =>
        let s := s.modClutch who (·.poke e.hdr.uniform e.hdr.moments (offset - 0x100000) w)
        if offset = 0x124400 then
          let s := ((s.die c.die).watches.filter (fun w => w.who = who)).foldl (fun s w => s.modClutch w.who (·.unwatch w.dst)) s
          let s := s.modDie c.die (fun d => { d with watches := d.watches.filter (fun w => w.who ≠ who) })
          (s.modChorus who.chorus (fun ch => { ch with claims := ch.claims.filter (fun x => x.clutch ≠ who.clutch) })).modCore c
            (fun k => { k with pcWritten := k.pcWritten || k.stopper = some who })
        else s

/-- A 32-bit read in a core's debug window: write-only and reserved fields read zero, and the state region does so while the
core runs and where DBGSEL names no clutch (R2, R3, R203). -/
def State.readDebug (s : State) (c : CoreId) (offset : Nat) : Word :=
  let k := s.core c
  if offset = 0 then
    BitVec.ofNat 32 ((if k.step then 2 ^ 5 else 0) + (if k.dlstop then 2 ^ 4 else 0) + if k.bken then 2 ^ 3 else 0)
  else if offset = 4 then BitVec.ofNat 32 ((if k.stopped then 2 ^ 31 else 0) + 2 ^ 24 * k.slot + 2 ^ 16 * k.code)
  else if offset = 8 then BitVec.ofNat 32 k.sel
  else if offset < 0x100000 ∨ !k.stopped then 0
  else
    match s.clutchAt c k.sel with
    | none => 0
    | some who =>
      match s.env? who with
      | none => 0
      | some e => e.cl.peek s.tick e.hdr.uniform e.hdr.moments (offset - 0x100000)

/-! ### Uncorrectable errors -/

/-- UNCORRECTABLE_ERROR: the word's poison mark, or the poison of a sector of a memory or cache that holds it, and an entry in
the log (R94, R219). -/
def execUncorrectableError (site : ErrorSite) (s : State) : Out :=
  match site with
  | .register who reg l =>
    match s.anyEnv? who with
    | none => .next s
    | some e =>
      let n := e.hdr.uniform
      if l < 96 ∧ (reg < e.cl.held ∨ (isUniform n reg ∧ reg < 256)) then
        .next ((s.modClutch who (fun c => { c with poison := setInsert c.poison (poisonKey n reg l) })).logEvent
          .uncorrectable e.ch.die e.l.ctx (coreWord e.core) (2 ^ 16 * e.cl.id + 2 ^ 8 * reg + l))
      else .next s
  | .moment who reg l half =>
    match s.anyEnv? who with
    | none => .next s
    | some e =>
      if l < 96 ∧ reg < e.hdr.moments ∧ half < 2 then
        .next ((s.modClutch who (fun c => { c with mpoison := setInsert c.mpoison (momentKey reg l half) })).logEvent
          .uncorrectable e.ch.die e.l.ctx (coreWord e.core) (2 ^ 16 * e.cl.id + 2 ^ 8 * reg + l))
      else .next s
  | .sector n =>
    if mapped (64 * n) 64 then
      .next ({ s with poisoned := setInsert s.poisoned n }.logEvent .uncorrectable (homeOf (64 * n)) 0 0 (64 * n))
    else .next s
  | .scratchpad uid pos n =>
    match s.chorus? uid with
    | none => .next s
    | some c =>
      let key := scratchSpan * pos + 64 * n
      let l := s.launch? c.launch
      if c.cores.length ≤ pos ∨ !l.any (fun l => 64 * n < l.hdr.scratch) then .next s
      else .next ((s.modChorus uid (fun c => { c with scratchPoison := setInsert c.scratchPoison (key / 64) })).logEvent
        .uncorrectable c.die (l.elim 0 (·.ctx)) (coreWord (c.coreAt pos)) (64 * n))
  | .accumulator uid pos sub row n =>
    match s.chorus? uid with
    | none => .next s
    | some c =>
      let l := s.launch? c.launch
      if c.cores.length ≤ pos ∨ 4 ≤ sub ∨ 8 ≤ n ∨ !l.any (fun l => row < l.hdr.accRows) then .next s
      else .next ((s.modChorus uid (fun c => { c with
        accPoison := setInsert c.accPoison (cellKey pos sub row (16 * n) / 16) })).logEvent
        .uncorrectable c.die (l.elim 0 (·.ctx)) (coreWord (c.coreAt pos)) (8 * row + n))
  | .l1 c n =>
    if ((s.core c).l1Sector? n).isNone then .next s
    else .next ((s.mapL1 c (fun sec x => some (if sec = n then { x with poisoned := true } else x))).logEvent
      .uncorrectable c.die 0 (coreWord c) (64 * n))

end Sys2Proof.Machine
end

