-- ==== Sys2Proof/Machine/Lease.lean ====
section
/-! DEFINITION. Combining leases (R307, R308, R412), the contention window (R413) and filter releases (R306, R411). -/

namespace Sys2Proof.Machine

/-- An active lease of a contention entry. -/
def Contention.isLease (x : Contention) (l : Lease) : Bool := x.lease = some l

/-- The lease that a contention entry is granted as. -/
def State.leaseOf (s : State) (die : Nat) (x : Contention) : Lease :=
  { homeDev := s.crucible.devnum, homeDie := die, lessee := x.source, region := x.region, kind := x.kind
    keyidx := x.keyidx, key := (s.rcvKey x.keyidx).key, view := x.view, held := (s.die die).filter }

/-- LEASE_GRANT: at the home, a region that one device has sent 4,096 elements to in a window, of a plain or
accumulator page, is leased to it; at the lessee, the lease is held, or returned when 16 are held (R307, R413). -/
def execLeaseGrant (l : Lease) (s : State) : Out :=
  if l.homeDev = s.crucible.devnum then
    let d := s.die l.homeDie
    let active := d.contention.filter (fun x => x.lease.isSome)
    match d.contention.find? (fun x => x.region = l.region && x.source = l.lessee) with
    | none => .next s
    | some x =>
      if l.lessee = s.crucible.devnum ∨ x.count < 4096 ∨ 64 ≤ active.length ∨ (x.kind ≠ 0 ∧ x.kind ≠ 2)
          ∨ active.any (fun y => y.region = l.region) ∨ homeOf (65536 * l.region) ≠ l.homeDie then .next s
      else
        let g := s.leaseOf l.homeDie x
        let s := s.modDie l.homeDie (fun d => { d with
          contention := updateFirst (· = x) (fun y => { y with lease := some g, recalled := false }) d.contention })
        .next ((s.send (.leaseGrant g)).logEvent .lease l.homeDie 0 0 (65536 * l.region))
  else match s.receive l.homeDev l.lessee (.leaseGrant l) with
    | none => .next s
    | some s =>
      if !(s.rcvKey l.keyidx).accepts l.key then .next (s.dropPacket l.homeDev l.keyidx)
      else if s.crucible.leases.any (fun h => h.lease = l) then .next s
      else if 16 ≤ s.crucible.leases.length then .next (s.send (.leaseReturn l [] []))
      else .next (s.modCrucible (fun c => { c with
        leases := c.leases ++ [{ lease := l, held := l.held, granted := s.now, lastMerge := s.now }] }))

/-- LEASE_FORWARD: the lessee filters the element and merges it. With the lease gone, or its filter full, the
element is answered BUSY, so that its source sends it again (R412). -/
def execLeaseForward (l : Lease) (x : Element) (s : State) : Out :=
  match s.receive l.homeDev l.lessee (.leaseForward l x) with
  | none => .next s
  | some s =>
    if !(s.rcvKey x.keyidx).accepts x.key then .next (s.dropPacket l.homeDev x.keyidx)
    else match s.crucible.leases.find? (fun h => h.lease = l), x.pa with
    | some h, some pa =>
      if h.knows x then .next (s.ackElem x .duplicate)
      else if !s.leaseRoom h x then .next ((s.returnLease l).ackElem x .busy)
      else .next ((s.merge l pa x).ackElem x .applied)
    | _, _ => .next (s.ackElem x .busy)

/-- LEASE_RECALL at the lessee. -/
def execLeaseRecall (l : Lease) (s : State) : Out :=
  match s.receive l.homeDev l.lessee (.leaseRecall l) with
  | none => .next s
  | some s =>
    .next (if (s.rcvKey l.keyidx).accepts l.key then s.returnLease l else s.dropPacket l.homeDev l.keyidx)

/-- LEASE_RETURN at the home: every delta as one effect, and the entries join the filter, in one step. -/
def execLeaseReturn (l : Lease) (deltas : List Delta) (entries : List FilterEntry) (s : State) : Out :=
  match s.receive l.lessee l.homeDev (.leaseReturn l deltas entries) with
  | none => .next s
  | some s =>
    if !(s.rcvKey l.keyidx).accepts l.key then .next (s.dropPacket l.lessee l.keyidx)
    else if !(s.die l.homeDie).contention.any (fun x => x.isLease l) then .next s
    else
      let s := (deltas.filter (fun d => d.pa / 65536 = l.region)).foldl (fun s d =>
        s.writeBytes (bytesAt d.pa (opBytes d.op) (opValue d.op (s.number d.pa (opBytes d.op)) d.value))) s
      .next (s.modDie l.homeDie (fun d => { d with
        contention := updateFirst (fun x => x.isLease l) (fun x => { x with lease := none, recalled := false }) d.contention
        filter := entries.foldl (fun fs y => (lanesIn y.lanes).foldl (fun fs n => filterEnter fs y.keyidx y.tag n y.win) fs) d.filter }))

/-- LEASE_EXPIRY at the lessee: 100 µs after the grant, or 10 µs without a merged element. -/
def execLeaseExpiry (l : Lease) (s : State) : Out :=
  match s.crucible.leases.find? (fun h => h.lease = l) with
  | none => .next s
  | some h =>
    .next (if h.granted + 100 * microsecond ≤ s.now ∨ h.lastMerge + 10 * microsecond ≤ s.now then s.returnLease l else s)

/-- CONTENTION_WINDOW: the counts of a die clear at the end of each window of 10 µs (R413). -/
def execContentionWindow (die : Nat) (s : State) : Out :=
  .next (if s.now < (s.die die).contendAt + 10 * microsecond then s
    else s.modDie die (fun d => { d with contendAt := s.now, contention := d.contention.map (fun x => { x with count := 0 }) }))

/-- Entries without those of a chorus's tags. -/
def releaseEntries (keyidx pre : Nat) (win : Bool) (fs : List FilterEntry) : List FilterEntry :=
  fs.filter (fun x => !(x.keyidx = keyidx && x.tag.toNat / 2 ^ 25 = pre && (x.win || !win)))

/-- The key of a release that this device has sent to itself. -/
def State.ownRelease (s : State) (die keyidx pre : Nat) : Option DWord :=
  s.outbox.findSome? (fun m => match m with
    | .release dev d k p key => if dev = s.crucible.devnum ∧ d = die ∧ k = keyidx ∧ p = pre then some key else none
    | _ => none)

/-- RELEASE: the identities of a chorus leave a die's filter and the filters of leases (R306, R307, R411). Identities name
no device (R293), so a release by another device drops the tags of a chorus of this one that has the same numbers. Of the
releases of other devices the event is one whose key the port accepts. -/
def execRelease (die keyidx pre : Nat) (win : Bool) (s : State) : Out :=
  let own := s.ownRelease die keyidx pre
  let k := s.rcvKey keyidx
  let s := match own with
    | some key => { s with outbox := s.outbox.erase (.release s.crucible.devnum die keyidx pre key) }
    | none => s
  if !(match own with
    | some key => k.accepts key
    | none => k.valid) then .next s
  else
    let drop (h : HeldLease) : HeldLease :=
      { h with entries := releaseEntries keyidx pre win h.entries, held := releaseEntries keyidx pre win h.held }
    let s := (s.modDie die (fun d => { d with filter := releaseEntries keyidx pre win d.filter })).modCrucible
      (fun c => { c with leases := c.leases.map drop })
    .next (((s.die die).contention.filterMap (·.lease)).foldl (fun s l => s.send (.release l.lessee 0 keyidx pre k.key)) s)

end Sys2Proof.Machine
end

