-- ==== Sys2Proof/Machine/Residency.lean ====
section
/-! DEFINITION. What a chorus holds while it is resident: cores, blocks, positions, scratchpad and accumulator rows
(R17, R18, R88, R211 to R213), the entry state of its clutches (R366), the energy it is charged (R364), and the ways
it leaves its cores (R204, R368, R369). -/

namespace Sys2Proof.Machine

/-! ### The shape of a kernel (R17, R18, R88, R211) -/

/-- Clutches on each core. -/
def Header.perCore (h : Header) : Nat := if h.cluster then h.clutches / 4 else h.clutches
def Header.coreCount (h : Header) : Nat := if h.cluster then 4 else 1
/-- Register blocks of one clutch at placement. -/
def Header.clutchBlocks (h : Header) : Nat := h.regs / 8 + (h.moments + 3) / 4
/-- The scratchpad partition in bytes. -/
def Header.partition (h : Header) : Nat := max 131072 ((h.scratch + 65535) / 65536 * 65536)

/-! ### What the cores hold -/

/-- The chorus holds resources and is charged. -/
def Chorus.holds (c : Chorus) : Bool :=
  decide (c.status = .resident) || decide (c.status = .reserved) || decide (c.status = .exitHeld)

/-- The choruses that hold resources on a core, with their headers and core positions. -/
def State.onCore (s : State) (c : CoreId) : List (Chorus × Header × Nat) :=
  (s.choruses.filter (fun (x : Chorus) => x.holds && x.die = c.die && x.cores.contains c.core)).map
    (fun x => (x, s.headerOf x, x.cores.idxOf c.core))

/-- Residency positions of a sub-core that no clutch holds (R18). -/
def State.freePositions (s : State) (c : CoreId) (sub : Nat) : List Nat :=
  let used := (s.onCore c).flatMap (fun x =>
    (x.1.clutches.filter (fun cl => cl.pos = x.2.2 && cl.sub = sub && !cl.ended)).map (·.resPos))
  (List.range 6).filter (fun p => !used.contains p)

/-- The lowest multiple of `step` at which `size` units fit below `limit` beside some allocations. -/
def firstFit (step limit size : Nat) (used : List (Nat × Nat)) : Option Nat :=
  let used := used.filter (fun (x : Nat × Nat) => x.2 ≠ 0)
  let starts := 0 :: used.map (fun (x : Nat × Nat) => (x.1 + x.2 + step - 1) / step * step)
  let ok (b : Nat) : Bool := b + size ≤ limit && used.all (fun x => b + size ≤ x.1 || x.1 + x.2 ≤ b)
  (starts.filter ok).foldl (fun a b => some (a.elim b (min b))) none

/-- Scratchpad allocations of a core. -/
def State.scratchUsed (s : State) (c : CoreId) : List (Nat × Nat) :=
  (s.onCore c).map (fun x => (x.1.scratchBase, x.2.1.scratch))

/-- Accumulator rows in use on a core. -/
def State.rowsUsed (s : State) (c : CoreId) : List (Nat × Nat) :=
  (s.onCore c).map (fun x => (x.1.accStarts.getD x.2.2 0, x.2.1.accRows))

/-- What a placement takes (R212, R213). -/
structure Room where
  base : Nat
  rows : List Nat
deriving DecidableEq, Repr

/-- The clutches of a kernel on a sub-core of each of its cores (R18). -/
def Header.onSub (h : Header) (sub : Nat) : Nat := (h.perCore + 3 - sub) / 4

/-- Room on one core at a core position, scratchpad and rows apart (R30, R88, R211, R8, R424): the barriers of a
chorus lie at core position 0; by sub-core, `clutches` need a residency position. -/
def State.coreRoom (s : State) (c : CoreId) (pos : Nat) (h : Header) (clutches : Nat → Nat) : Bool :=
  let there := s.onCore c
  let blocks := (there.map (fun x => x.2.1.perCore * x.2.1.clutchBlocks)).sum
  let barriers := (there.map (fun x => if x.2.2 = 0 then x.2.1.barriers else 0)).sum
  (there.isEmpty || (s.core c).partition = h.partition)
    && blocks + h.perCore * h.clutchBlocks ≤ 384
    && barriers + (if pos = 0 then h.barriers else 0) ≤ 96
    && (List.range 4).all (fun sub => clutches sub ≤ (s.freePositions c sub).length)

/-- Room for a chorus on some cores: one scratchpad base for all of them, and rows on each; by core position and sub-core,
`clutches` need a residency position. -/
def State.roomOn (s : State) (die : Nat) (cores : List Nat) (h : Header) (clutches : Nat → Nat → Nat) : Option Room :=
  let ids : List CoreId := cores.map (fun k => { die, core := k })
  if !(ids.zipIdx.all (fun (c, i) => s.coreRoom c i h (clutches i))) then none
  else
    let rows := ids.map (fun c => firstFit 64 512 h.accRows (s.rowsUsed c))
    match firstFit 256 h.partition h.scratch (ids.flatMap s.scratchUsed) with
    | none => none
    | some base => if rows.all (·.isSome) then some { base, rows := rows.map (·.getD 0) } else none

/-- Room for a saved chorus on the cores it left: its residency positions and its rows, which its accumulator
windows name, must be free (R369; log 15). -/
def State.roomBack (s : State) (c : Chorus) (h : Header) : Option Room :=
  let live (p sub : Nat) : Nat := c.clutches.countP (fun cl => cl.pos = p && cl.sub = sub && !cl.ended)
  match s.roomOn c.die c.cores h live with
  | none => none
  | some r =>
    let free (cl : Clutch) : Bool := cl.ended || (s.freePositions (c.coreAt cl.pos) cl.sub).contains cl.resPos
    let rowsFree (p : Nat) : Bool :=
      let b := c.accStarts.getD p 0
      (s.rowsUsed (c.coreAt p)).all (fun x => x.2 = 0 || h.accRows = 0 || b + h.accRows ≤ x.1 || x.1 + x.2 ≤ b)
    if c.clutches.all free && (List.range c.cores.length).all rowsFree then some { r with rows := c.accStarts } else none

/-! ### Where a context may place (R12, R85, R356, R414) -/

/-- The number of a cluster in a context's masks (R354). -/
def clusterBit (die cluster : Nat) : Nat := 12 * die + cluster

/-- The context lists a cluster. -/
def Context.lists (c : Context) (die cluster : Nat) : Bool := c.clusters.testBit (clusterBit die cluster)

def State.holder (s : State) (die cluster : Nat) : Holder := (s.die die).holders.get {} cluster

/-- The die serves placements. -/
def State.dieLive (s : State) (die : Nat) : Bool := (s.die die).serving && !(s.die die).lost

/-- The cores that the variant of a launch and the defect map leave usable on a die. -/
def State.usable (s : State) (l : Launch) (die core : Nat) : Bool :=
  (l.variants.get {} die).cores.testBit core && (s.die die).defCores.getLsbD core

/-- A context places nothing new on a cluster that it does not hold or is giving up (R12, R367). -/
def State.mayPlaceOn (s : State) (ctx die cluster : Nat) : Bool :=
  let c := s.context ctx
  c.lists die cluster && (s.holder die cluster).ctx = some ctx
    && !c.drains.any (fun (x : Nat × Option Nat) => x.2 = none || x.2 = some (clusterBit die cluster))

/-- The groups of cores that a chorus of a shape may take. -/
def coreGroups (h : Header) : List (List Nat) :=
  if h.cluster then (List.range 12).map (fun k => (List.range 4).map (4 * k + ·)) else (List.range 48).map ([·])

/-- Room for a new placement on a group of cores. -/
def State.fitsOn (s : State) (l : Launch) (die : Nat) (cores : List Nat) : Option Room :=
  if s.mayPlaceOn l.ctx die (cores.headD 0 / 4) && cores.all (s.usable l die) then s.roomOn die cores l.hdr (fun _ => l.hdr.onSub) else none

/-! ### Energy (R364, R365, R430) -/

/-- The power headroom of a die. -/
def State.headroom (s : State) (die : Nat) : Int :=
  (s.die die).pwrbud.toInt - (((s.choruses.filter (fun (c : Chorus) => c.holds && c.die = die)).map (·.charge)).sum : Nat)

/-- The threshold of an effective class: the largest of it and the classes below it. -/
def Die.threshold (d : Die) (e : Nat) : Int :=
  (List.range (e + 1)).foldl (fun a n => max a (d.enth.get 0 n).toInt) (d.enth.get 0 0).toInt

/-- The charge of a chorus: its true class's, for each of its cores. -/
def Die.chargeOf (d : Die) (h : Header) : Nat := (d.enchg.get 0 h.energy).toNat * h.coreCount

/-- The energy conditions of R365 for a chorus of an effective class. -/
def State.energyFits (s : State) (die : Nat) (h : Header) (e : Nat) : Bool :=
  (s.die die).threshold e < s.headroom die && ((s.die die).chargeOf h : Int) ≤ s.headroom die

/-- 2 ms and 6 ms in cycles (R363, R365). -/
def agingStep : Nat := 2000 * microsecond
def starvation : Nat := 6000 * microsecond

/-! ### Entry (R366) -/

/-- A register whose every lane holds one word. -/
def splat (w : Word) : Lanes := packLanes (lanesOf fun _ => w)

/-- The clutches of a chorus placed on some cores. Each takes the lowest free residency positions of its sub-core: R18 says only
that a position is free (DESIGN CHOICE, log 67). -/
def State.entryClutches (s : State) (l : Launch) (die : Nat) (cores : List Nat) (rows : List Nat) : List Clutch :=
  let h := l.hdr
  let per := max 1 h.perCore
  (List.range h.clutches).map (fun k =>
    let p := k / per
    let j := k % per
    let start := rows.getD p 0
    { id := k, pos := p, sub := j % 4, slot := j / 4
      resPos := (s.freePositions { die, core := cores.getD p 0 } (j % 4)).getD (j / 4) 0
      pc := BitVec.ofNat 32 (l.variants.get {} die).entry, held := h.regs
      regs := Store.set [] (Store.set [] ([] : Store Lanes) 0 (splat (l.args.setWidth 32))) 1 (splat (l.args >>> 32 |>.setWidth 32))
      accbase := BitVec.ofNat 32 start, acclim := BitVec.ofNat 32 (start + h.accRows) })

/-- The sequencers of a chorus (R255). -/
def entrySequencers (l : Launch) (die : Nat) : List Sequencer :=
  let st := (l.variants.get {} die).stream
  if st = 0 then [] else (List.range l.hdr.coreCount).map (fun p => { pos := p, pc := BitVec.ofNat 32 st })

/-- The record block of a node chorus (R382): its bytes, in each core's allocation. -/
def recordBlock (node : Nat) (nd : Node) (records : List (List Word)) (cores : Nat) : Store Byte :=
  let words := (records.flatten.map (·.toNat)).foldr (fun w acc => w + 2 ^ 32 * acc) 0
  let value := records.length + 2 ^ 32 * node + 2 ^ 128 * words
  ((List.range cores).flatMap (fun p =>
    bytesAt (scratchSpan * p + nd.recoff) (16 + 4 * nd.words * records.length) value)).filter (fun x => x.2 ≠ 0)

/-- The node of a launch that stands for one. -/
def State.nodeOf (s : State) (l : Launch) : Option Node :=
  match l.node with
  | none => none
  | some n => (s.context l.ctx).nodes.find? (fun x => x.num = n)

/-- A chorus starts again after a forced pre-emption (R368); one that is granted again after the loss of its die does not. -/
def Chorus.restarts (c : Chorus) : Bool := c.forced

/-- A chorus in the state in which it enters its kernel on some cores. Volatile registers are undefined after a forced
pre-emption (R95; log 67). -/
def State.enter (s : State) (l : Launch) (c : Chorus) (cores : List Nat) (r : Room) : Chorus :=
  let volatile (x : Clutch) : Clutch :=
    if c.restarts && l.hdr.volCount ≠ 0 then x.loseVolatile s.tick l.hdr else x
  { uid := c.uid, launch := c.launch, index := c.index, section_ := c.section_, die := c.die, cores
    clutches := (s.entryClutches l c.die cores r.rows).map volatile
    scratch := match s.nodeOf l with
      | some nd => recordBlock nd.num nd c.records cores.length
      | none => []
    scratchBase := r.base, accStarts := r.rows, seqs := entrySequencers l c.die, epoch := c.epoch, homes := c.homes, forced := c.forced
    departed := l.departed.isSome
    charge := (s.die c.die).chargeOf l.hdr, records := c.records }

/-- Cores that a chorus takes: an empty core changes its partition, which empties its L1 (R211). -/
def State.takeCores (s : State) (die : Nat) (cores : List Nat) (h : Header) : State :=
  cores.foldl (fun s k =>
    let c : CoreId := { die, core := k }
    if (s.core c).partition = h.partition then s
    else s.modCore c (fun x => { x with partition := h.partition, l1 := [] })) s

/-- A chorus record stands among the choruses. -/
def State.putChorus (s : State) (c : Chorus) : State :=
  if (s.chorus? c.uid).isSome then s.modChorus c.uid (fun _ => c) else { s with choruses := s.choruses ++ [c] }

/-- A chorus is placed with its resources, or reserved with them (R311). -/
def State.install (s : State) (l : Launch) (c : Chorus) (cores : List Nat) (r : Room) (status : Residency) : State :=
  (s.bump.takeCores c.die cores l.hdr).putChorus { s.enter l c cores r with status }

/-- What the start of a placed chorus leaves beside it: its cycle and its stamp, the launch's START (R373), and the quantum of the
holder of its cluster (R370). -/
def State.started (s : State) (l : Launch) (uid : Nat) : State :=
  match s.chorus? uid with
  | none => s
  | some c =>
    let s := s.modChorus uid (fun c => { c with placed := s.fresh })
    let s := { s with fresh := s.fresh + 1 }
    let s := s.modLaunch l.uid (fun l =>
      if l.placedAny then l else { l with placedAny := true, start := (s.die l.leader).cycle.toNat })
    s.modDie c.die (fun d => { d with
      placedAt := s.now + 1
      holders := d.holders.modify {} (c.cores.headD 0 / 4) (fun h => { h with since := some (h.since.getD s.now) }) })

/-! ### Leaving the cores -/

/-- The core of a copy has performed part of it; the copy is discarded and its future with the chorus (R289). -/
def State.haltCopy (s : State) (j : CopyJob) : State :=
  match s.copyEnv j with
  | none => s.dropCopy j.id
  | some e =>
    let us := if j.admitted && j.result.isNone then s.landedUnits e j else []
    ((s.performUnits e j us).1.dropCopy j.id).bump

def State.copiesOf (s : State) (uid : Nat) : List CopyJob := s.copies.filter (fun j => j.who.chorus = uid)

/-- A STEP.STORE that lands no more leaves its slot as it was, BUSY no longer unless another store holds it (R326). -/
def State.freeSlot (s : State) (left : List Landing) (p : Landing) : State :=
  match p.access.map Access.op, s.chorus? p.who.chorus with
  | some (.stepStore ctx slot ..), some c =>
    let holds (q : Landing) : Bool :=
      match q.access.map Access.op with
      | some (.stepStore x n ..) => x = ctx && n = slot && (s.chorus? q.who.chorus).any (fun d => d.die = c.die)
      | _ => false
    if left.any holds then s else s.modDie c.die (fun d => d.modTag ctx slot (fun x => { x with busy := false }))
  | _, _ => s

/-- The landings of a chorus's clutches are gone, with their nodes on futures (R398) and their hold of step slots. -/
def State.dropLandings (s : State) (p : Landing → Bool) : State :=
  let gone := (s.landings.filter p).map (·.id)
  if gone.isEmpty then s else
  let s := (s.landings.filter p).foldl (fun s x => s.freeSlot (s.landings.filter (fun y => !p y)) x) s
  let clean (d : Die) : Die :=
    { d with futures := d.futures.map (fun x =>
        (x.1, { x.2 with waiters := x.2.waiters.filter (fun w => !gone.contains w.1) })) }
  { s with
    landings := s.landings.filter (fun x => !p x)
    dies := s.dies.map (fun d => (d.1, clean d.2)) }

/-- The watches of a chorus's clutches are freed (R423). -/
def State.dropWatches (s : State) (die uid : Nat) : State :=
  s.modDie die (fun d => { d with watches := d.watches.filter (fun w => w.who.chorus ≠ uid) })

/-- The cores of a chorus begin to be idle (R372). -/
def State.markIdle (s : State) (c : Chorus) : State :=
  c.cores.foldl (fun s k => s.modCore { die := c.die, core := k } (fun x => { x with idleSince := s.now })) s

/-- A chorus stops where it stands: its copies, producers, watches and futures are discarded (R204, R289, R368,
R396). Writes already gathered and elements already issued go on. -/
def State.discard (s : State) (c : Chorus) : State :=
  let s := (s.copiesOf c.uid).foldl State.haltCopy s
  let s := (s.dropLandings (fun p => p.who.chorus = c.uid)).dropWatches c.die c.uid
  (s.discardFutures c.die c.uid).markIdle c

/-- A chorus record that has left its cores. -/
def Chorus.bare (c : Chorus) (status : Residency) : Chorus :=
  { uid := c.uid, launch := c.launch, index := c.index, section_ := c.section_, die := c.die, status
    epoch := c.epoch, homes := c.homes, records := c.records, slots := c.slots, forced := c.forced }

/-- Window identities of a chorus leave the filters of this device at once, whatever section made them (R317). -/
def State.dropWindowTags (s : State) (l : Launch) (c : Chorus) : State :=
  let pres := (List.range (max 1 l.hdr.sections)).map (fun n => tagPrefix l.lid (if l.linked then n else c.section_) c.index)
  { s with dies := s.dies.map (fun d =>
      (d.1, { d.2 with filter := pres.foldl (fun fs p => releaseEntries l.keyidx p true fs) d.2.filter })) }

/-- Forced pre-emption of one chorus (R368): it is abandoned and waits to be placed afresh under its own index. Its
tags stay held. -/
def State.abandon (s : State) (l : Launch) (c : Chorus) : State :=
  let s := s.discard c
  let next := if l.linked then c.epoch else (c.epoch + 1) % 2 ^ 16
  (s.modChorus c.uid (fun c => { c.bare .abandoned with since := s.now, epoch := next, forced := true })).dropWindowTags l c

/-- Elements held for a launch that has ended are dropped (R312). -/
def State.dropHeld (s : State) (l : Launch) : State :=
  if l.linked then
    { s with windowHeld := s.windowHeld.filter (fun x =>
      !(x.ctx = l.ctx && x.win.any (fun w => w.lid = l.lid && w.section_ = l.section_))) }
  else s

/-- A saved chorus gives its place in the save area back. -/
def State.freeSave (s : State) (l : Launch) (c : Chorus) : State :=
  if c.status = .saved then s.modContext l.ctx (fun x => { x with saveUsed := x.saveUsed - c.saveBytes }) else s

/-- A chorus is gone for good: its identities and the tags held for it are released once its elements are acknowledged
(R306, R379, R388). -/
def State.bury (s : State) (l : Launch) (c : Chorus) : State :=
  { s with choruses := s.choruses.filter (fun x => x.uid ≠ c.uid) }.releaseChorus c l

end Sys2Proof.Machine
end

