-- ==== Sys2Proof/Machine/Bins.lean ====
section
/-! DEFINITION. Node bins: NREC (R378 to R380) and the release of choruses (R381, R382). -/

namespace Sys2Proof.Machine

/-! ### Nodes and their rings (R376) -/

/-- A node of a context. -/
def State.node? (s : State) (ctx num : Nat) : Option Node := (s.context ctx).nodes.find? (fun n => n.num = num)

def State.modNode (s : State) (ctx num : Nat) (g : Node → Node) : State :=
  s.modContext ctx (fun c => { c with nodes := updateFirst (fun n => n.num = num) g c.nodes })

def Node.modBin (n : Node) (die : Nat) (g : Bin → Bin) : Node := { n with bins := n.bins.modify {} die g }
def Node.bin (n : Node) (die : Nat) : Bin := n.bins.get {} die
def Node.capacity (n : Node) : Nat := 2 ^ n.logcap

/-- The address of a slot of a die's ring. -/
def Node.slotVa (n : Node) (die slot : Nat) : Nat :=
  n.binBase + die * (n.capacity * 4 * n.words) + 4 * n.words * (slot % n.capacity)

/-- The physical places of a slot, as far as they translate. -/
def State.slotPlaces (s : State) (ctx die : Nat) (n : Node) (slot : Nat) (write : Bool) : List (Option Nat) :=
  (List.range (4 * n.words)).map (fun i =>
    match s.engineByte (dieSide die) ctx (n.slotVa die slot + i) write with
    | .here pa => some pa
    | _ => none)

/-- A record as a number. -/
def recordNumber (ws : List Word) : Nat := ws.foldr (fun w acc => w.toNat + 2 ^ 32 * acc) 0

/-- A record enters its slot of the ring, whose bytes are watched from then on. -/
def State.writeSlot (s : State) (places : List (Option Nat)) (ws : List Word) : State :=
  let s := s.writeBytes (gatherBytes ((places.zip (bytesOfNat places.length (recordNumber ws))).filterMap
    (fun (x : Option Nat × Byte) => x.1.map (fun pa => (pa, x.2)))))
  { s with ring := (places.filterMap id).foldl (fun m pa => Store.set 0 m pa 1) s.ring }

/-- The words copied out of a slot: those that entered it, or undefined ones where the ring has been written since
(R376). -/
def State.readSlot (s : State) (slot : Nat) (places : List (Option Nat)) (ws : List Word) : List Word :=
  ws.zipIdx.map (fun (w, i) =>
    if ((places.drop (4 * i)).take 4).all (fun p => p.any (fun pa => s.ring.get 0 pa = 1)) then w else Config.freeWord s.tick slot i)

/-- The slots of a ring that hold records: of those in the bin, and of released ones that are not yet copied. -/
def State.slotsHeld (s : State) (n : Node) (die : Nat) : List Nat :=
  (n.bin die).recs.map (·.slot)
    ++ (s.choruses.filter (fun c => c.launch = n.launch)).flatMap (fun c =>
      (c.slots.filter (fun x => x.1 = die)).map (fun x => x.2.1))

/-- The slots that the next records take: in ring order, past those that hold records. -/
def State.nextSlots (s : State) (n : Node) (die count : Nat) : List Nat :=
  let held := s.slotsHeld n die
  (((List.range (count + held.length)).map (fun i => ((n.bin die).head + i) % n.capacity)).filter
    (fun k => !held.contains k)).take count

/-- The records of a chorus are copied from their slots, which are then free (R376, R382). -/
def State.copyRecords (s : State) (c : Chorus) : Chorus × State :=
  if c.slots.isEmpty then (c, s)
  else
    let records := (c.records.zip c.slots).map (fun x => s.readSlot x.2.2.1 x.2.2.2 x.1)
    let pas := c.slots.flatMap (fun x => x.2.2.filterMap id)
    ({ c with records, slots := [] }, { s with ring := s.ring.filter (fun x => !pas.contains x.1) }.bump)

/-! ### Release (R381, R382) -/

/-- The choruses of a node on a die that are released and not retired. -/
def State.nodeLive (s : State) (n : Node) (die : Nat) : Nat :=
  s.choruses.countP (fun c => c.launch = n.launch && c.die = die)

/-- A bin may release a chorus now. -/
def State.binReady (s : State) (n : Node) (die : Nat) : Bool :=
  let b := n.bin die
  let index := (4 * b.released + die) % 2 ^ 32
  n.open_ && s.nodeLive n die < 256
    && !s.choruses.any (fun c => c.launch = n.launch && c.index % 2 ^ 24 = index % 2 ^ 24)
    && match b.recs with
      | [] => false
      | r :: _ => n.count ≤ b.recs.length || (n.timer ≠ 0 && r.entered + n.timer * microsecond ≤ s.now)

/-- One release: the oldest records are bound to a new chorus, which joins the die's candidates. -/
def State.releaseOne (s : State) (ctx : Nat) (n : Node) (die : Nat) : State :=
  let b := n.bin die
  let k := min n.count b.recs.length
  let recs := b.recs.take k
  let c : Chorus :=
    { uid := s.fresh, launch := n.launch, index := (4 * b.released + die) % 2 ^ 32, die, status := .released
      since := s.now, records := recs.map (·.words), slots := recs.map (fun r => (die, r.slot, r.places)) }
  let s := s.modNode ctx n.num (fun n => n.modBin die (fun b =>
    { b with recs := b.recs.drop k, released := b.released + 1 }))
  { s with fresh := s.fresh + 1, choruses := s.choruses ++ [c] }

/-- Every release that is due. -/
def releaseLoop (ctx num die : Nat) : Nat → State → State
  | 0, s => s
  | fuel + 1, s =>
    match s.node? ctx num with
    | none => s
    | some n => if s.binReady n die then releaseLoop ctx num die fuel (s.releaseOne ctx n die) else s

def State.releaseBin (s : State) (ctx num die : Nat) : State :=
  match s.node? ctx num with
  | none => s
  | some n => releaseLoop ctx num die ((n.bin die).recs.length) s

/-- BIN_TIMER (R381). -/
def execBinTimer (ctx node die : Nat) (s : State) : Out := .next (s.releaseBin ctx node die)

/-! ### NREC (R378, R379) -/

/-- The node takes records on a die. -/
def State.nodeOn (s : State) (n : Node) (die : Nat) : Bool :=
  match s.launch? n.launch with
  | some l => n.open_ && l.dies.contains die
  | none => false

/-- The status of an NREC: 0 PLACED, 1 FULL, 2 BADNODE, 3 CLOSED; with whether its records enter. -/
def State.nrecStatus (s : State) (ctx die k n lanes : Nat) (tag : DWord) : Nat × Bool :=
  match s.node? ctx k with
  | none => (2, false)
  | some nd =>
    if (s.context ctx).nnodes ≤ k then (2, false)
    else if nd.closed then (3, false)
    else if !s.nodeOn nd die then (2, false)
    else if n ≠ nd.words then (2, false)
    else if (nd.bin die).held.contains tag then (0, false)
    else if nd.capacity - (s.slotsHeld nd die).length < lanes then (1, false)
    else (0, true)

/-- The records of an instruction enter a bin as one group, oldest slot first, and its tag is held. -/
def State.appendRecords (s : State) (ctx die k : Nat) (tag : DWord) (records : List (List Word)) : State :=
  let s := records.foldl (fun s ws =>
    match s.node? ctx k with
    | none => s
    | some nd =>
      let slot := (s.nextSlots nd die 1).headD 0
      let places := s.slotPlaces ctx die nd slot true
      (s.writeSlot places ws).modNode ctx k (fun n => n.modBin die (fun b =>
        { b with head := (slot + 1) % nd.capacity, recs := b.recs ++ [{ words := ws, entered := s.now, slot, places }] }))) s
  (s.modNode ctx k (fun n => n.modBin die (fun b => { b with held := b.held ++ [tag] }))).releaseBin ctx k die

/-- The places that an NREC's records take. -/
def State.recordPlaces (s : State) (ctx die k count : Nat) : List Nat :=
  match s.node? ctx k with
  | none => []
  | some nd => (s.nextSlots nd die count).flatMap (fun slot => (s.slotPlaces ctx die nd slot true).filterMap id)

/-- The addresses of the slots that a number of records take on a die. -/
def State.ringSpan (s : State) (ctx die k count : Nat) : List (Nat × Nat) :=
  match s.node? ctx k with
  | none => []
  | some nd => (s.nextSlots nd die count).map (fun slot => (nd.slotVa die slot, 4 * nd.words))

/-- NREC: a release at die scope (R347), a long-latency producer, which takes an OPC. -/
def execNrec (f : Fields) (s : State) : Out :=
  issue 0xE0 f s fun e =>
    let n := f.mod.toNat % 8 + 1
    let wide : Bool := f.len = .w96
    let lanes := lanesIn e.mask
    if (!wide && e.poisonIn { reg := f.a.toNat } [e.low]) || (List.range n).any (fun i => e.poisonIn { reg := f.b.toNat + i } lanes) then
      poisonEnd s e ((List.range n).foldl (fun m i => m ||| e.poisonAmong { reg := f.b.toNat + i } lanes)
        (if wide then 0 else e.poisonAmong { reg := f.a.toNat } [e.low]))
    else if !s.drained e then .next s
    else
      let k := if wide then f.imm.toNat else e.lowWord s f.a.toNat
      let records := lanes.map (fun l => (List.range n).map (fun i => e.read s (f.b.toNat + i) l))
      let (status, enter) := s.nrecStatus e.l.ctx e.ch.die k n lanes.length e.tag
      match (if enter then s.bringSpans e.ch.die e.l.ctx (s.ringSpan e.l.ctx e.ch.die k lanes.length) else some s) with
      | none => .next s
      | some s =>
      match (if enter then s.recall (s.recordPlaces e.l.ctx e.ch.die k lanes.length) else none) with
      | some s' => .next s'
      | none =>
        let s' := if enter then s.appendRecords e.l.ctx e.ch.die k e.tag records else s
        produceWord (s'.modClutch e.who (fun c => { c with opc := c.opc + 1 })) e f.d.toNat f.len.bytes (BitVec.ofNat 32 status)

end Sys2Proof.Machine
end

