-- ==== Sys2Proof/Machine/Collective.lean ====
section
/-! DEFINITION. The collective queue and its sequencer: COLL (R385 to R388), steps (R389, R390), completion, failure
and loss (R391, R392). -/

namespace Sys2Proof.Machine

/-! ### Parameters (R386) -/

/-- Bytes of an element. -/
def dtypeBytes (t : Nat) : Nat := [4, 4, 8, 8, 4, 2, 2, 8].getD t 4
def dtypeFloat (t : Nat) : Bool := 4 ≤ t
/-- The format of a floating DTYPE. -/
def dtypeFmt (t : Nat) : Fmt := Fmt.ofTag ([2, 3, 4, 1].getD (t - 4) 2)

end Sys2Proof.Machine

namespace Sys2Proof

open Machine

/-- The operation forms a reduction: not ALLGATHER, not BROADCAST. -/
def CollParams.reduces (p : CollParams) : Bool := p.op ≠ 2 && p.op ≠ 3
/-- A floating SUM travels in 320-bit accumulators (R389). -/
def CollParams.wide (p : CollParams) : Bool := p.reduces && p.rop = 0 && dtypeFloat p.dtype
/-- The lowest weight of its accumulators. -/
def CollParams.weight (p : CollParams) : Int := if p.dtype = 7 then p.lw else -149

/-- The elements a member of a rank contributes, of `m` members. -/
def CollParams.srcCount (p : CollParams) (m rank : Nat) : Nat :=
  match p.op with
  | 1 => m * p.count
  | 3 => if rank = p.root then p.count else 0
  | _ => p.count

/-- The elements of a member's result. -/
def CollParams.dstCount (p : CollParams) (m rank : Nat) : Nat :=
  match p.op with
  | 2 => m * p.count
  | 4 => if rank = p.root then p.count else 0
  | _ => p.count

/-- Two elements of a reduction (R389). -/
def CollParams.combine (p : CollParams) (x y : Nat) : Nat :=
  let w := 8 * dtypeBytes p.dtype
  let isMax : Bool := p.rop = 2
  if p.rop = 0 then (if dtypeFloat p.dtype then (x + y) % 2 ^ 320 else (x + y) % 2 ^ 64)
  else if p.rop = 3 then x ||| y
  else if dtypeFloat p.dtype then ((dtypeFmt p.dtype).minMax {} isMax x y).bits
  else
    let less (a b : Nat) : Bool := if p.dtype % 2 = 0 then signedOf w a < signedOf w b else a < b
    if (if isMax then less x y else less y x) then y else x

/-- The reduction of one position over the members, and the flags of its rounding. -/
def CollParams.reduce (p : CollParams) (xs : List Nat) : Nat × Word :=
  let r := match xs with
    | [] => 0
    | x :: rest => rest.foldl p.combine x
  if p.wide then
    let y := (dtypeFmt p.dtype).fromWide .rne r p.weight
    (y.bits, y.flags)
  else (r % 2 ^ (8 * dtypeBytes p.dtype), 0)

end Sys2Proof

namespace Sys2Proof.Machine

/-- A parameter block of 128 bytes, read as a number. -/
structure CollBlock where
  params : CollParams
  alg : Nat
  set : Nat
  src : Nat
  dst : Nat
  report : Nat
  /-- every byte marked zero is zero -/
  zeros : Bool
deriving DecidableEq, Repr

def CollBlock.ofNumber (w : Nat) : CollBlock :=
  let at_ (byte n : Nat) : Nat := w / 2 ^ (8 * byte) % 2 ^ (8 * n)
  { params := {
      op := at_ 0 1, rop := at_ 1 1, dtype := at_ 2 1, count := at_ 24 4, root := at_ 6 2, lw := signedOf 16 (at_ 32 2) }
    alg := at_ 3 1, set := at_ 4 2, src := at_ 8 8, dst := at_ 16 8, report := at_ 36 4
    zeros := at_ 28 4 = 0 && at_ 34 2 = 0 && at_ 40 88 = 0 }

/-- The values that R386 admits, for a set of `m` members. -/
def CollBlock.valid (b : CollBlock) (m : Nat) : Bool :=
  let p := b.params
  let fp64Sum : Bool := p.reduces && p.rop = 0 && p.dtype = 7
  b.zeros && p.op ≤ 4 && p.rop ≤ 3 && (p.reduces || p.rop = 0) && p.dtype ≤ 7 && b.alg ≤ 3 && b.set < 4096
    && (if p.op = 3 || p.op = 4 then p.root < m else p.root = 0) && 1 ≤ p.count
    && (if fp64Sum then -1074 ≤ p.lw && p.lw ≤ 1023 else p.lw = 0)
    && b.report % 64 = 0 && !(p.rop = 3 && dtypeFloat p.dtype)

/-! ### COLL (R385, R387, R388) -/

/-- Collectives in the queue that have not completed. -/
def Crucible.collsOpen (c : Crucible) : List Collective := c.colls.filter (fun x => x.outcome.isNone)

/-- The entry of a collective is changed. -/
def State.modColl (s : State) (c : Collective) (g : Collective → Collective) : State :=
  s.modCrucible (fun k => { k with colls := updateFirst (fun x => x.tag = c.tag && x.ctx = c.ctx) g k.colls })

/-- Physical places of `n` bytes that the sequencer reaches (R280, R391). -/
def State.collPlaces (s : State) (c : Collective) (va n : Nat) (write : Bool) : List (Option Nat) :=
  (vaRange va n).map (fun a =>
    match s.engineByte (dieSide c.die) c.ctx a write with
    | .here pa => some pa
    | _ => none)

def Collective.dstBytes (c : Collective) : Nat := c.params.dstCount c.members.length c.rank * dtypeBytes c.params.dtype

/-- The bytes of a member's result buffer, where it translates. -/
def State.dstBytesOf (s : State) (c : Collective) (bytes : List Byte) : Store Byte :=
  gatherBytes (((s.collPlaces c c.dst bytes.length true).zip bytes).filterMap
    (fun (x : Option Nat × Byte) => x.1.map (fun pa => (pa, x.2))))

/-- A member's result bytes become undefined (R390, R392; log 16). -/
def State.undefineDst (s : State) (c : Collective) : State :=
  (s.writeBytes (s.dstBytesOf c ((List.range c.dstBytes).map (Config.freeByte s.tick)))).bump

/-- The source and result buffers overlap in a way that leaves the result undefined (R386). -/
def Collective.overlaps (c : Collective) : Bool :=
  let n := c.params.srcCount c.members.length c.rank * dtypeBytes c.params.dtype
  0 < n && 0 < c.dstBytes && c.src < c.dst + c.dstBytes && c.dst < c.src + n
    && !(c.src = c.dst && (c.params.op = 0 || c.params.op = 3))

/-- Futures of collectives complete, and the chorus of each receives the flags of its saturations (R389, R391). -/
def State.completeAll (s : State) (futures : List (Nat × Nat)) (flags : Word) (st : FutureState) (v : DWord) : State :=
  futures.foldl (fun s f =>
    (s.flag ((s.die f.1).futures.get {} f.2).owner flags).completeFuture f.1 f.2 st v) s

/-- The translations that a member's sequencer needs (R224, R391). -/
def State.bringColl (s : State) (c : Collective) : Option State :=
  s.bringSpans c.die c.ctx [(c.src, c.params.srcCount c.members.length c.rank * dtypeBytes c.params.dtype), (c.dst, c.dstBytes)]

/-- Futures of a collective that is DONE complete once its gathered result is performed (R338, R391); one that has run holds
back the next of its set until then (R388). -/
def State.oweResult (s : State) (c : Collective) (futures : List (Nat × Nat)) (v : DWord) (ran : Bool) : State :=
  let job := s.fresh
  let bytes := s.dstBytesOf c (c.result.flatMap (bytesOfNat (dtypeBytes c.params.dtype)))
  let s := { s with fresh := s.fresh + 1 }.gather { rank := 2, order := 0, who := none, launch := some c.launch, job := some job } bytes
  if s.jobOpen job then
    let set := if ran then some (c.ctx, c.set) else none
    { s with owed := s.owed ++ [{ job, launch := c.launch, chorus := c.who.chorus, flags := c.flags, futures, value := v, set }] }
  else s.completeAll futures c.flags .done v

/-- The result of a collective has been performed: the futures that wait for it complete. -/
def State.payOwed (s : State) (job : Nat) : State :=
  match s.owed.find? (fun o => o.job = job) with
  | none => s
  | some o =>
    if s.jobOpen job then s
    else { s with owed := s.owed.erase o }.completeAll o.futures o.flags .done o.value

/-- A chorus has gone and its tags are released: nothing is kept for one that issues again (R306, R388). -/
def State.tagReleased (s : State) (chorus : Nat) : Bool :=
  (s.chorus? chorus).isNone && s.crucible.releases.all (fun p => p.chorus ≠ chorus)

/-- A collective completes, and its outcome is kept for its tag (R388, R391). -/
def State.completeColl (s : State) (c : Collective) (st : FutureState) (v : DWord) : State :=
  let s := if s.tagReleased c.who.chorus then
      s.modCrucible (fun k => { k with colls := k.colls.filter (fun x => !(x.tag = c.tag && x.ctx = c.ctx)) })
    else s.modColl c (fun _ => { c with outcome := some (st, v) })
  let futures := (c.die, c.future) :: c.others
  if st = .done then s.oweResult c futures v true else s.completeAll futures c.flags st v

/-- A collective fails on this member (R391). -/
def State.failColl (s : State) (c : Collective) (reason rank : Nat) : State := s.completeColl c .failed (failValue reason rank)

/-- COLL: a release at die scope; it acts once, and waits while the queue or the future table is full. -/
def execColl (f : Fields) (s : State) : Out :=
  issue 0xE1 f s fun e => withLow s e [f.a.toNat] <|
    let addr := e.lowWord s f.a.toNat
    if !s.drained e then .next s
    else if addr % 128 ≠ 0 then fatal s e .align e.mask
    else match e.localKey 1 addr 128 with
      | none => fatal s e .bounds e.mask
      | some key =>
        if e.ch.scratchBad [key, key + 64] then poisonEnd s e e.mask else
        let b := CollBlock.ofNumber (e.ch.number key 128)
        match e.localKey 1 b.report 64 with
        | none => fatal s e .bounds e.mask
        | some report =>
          let tag := e.tag
          let ctx := e.l.ctx
          let g := s.crucible.groups.get {} (b.set % 4096)
          let held := s.crucible.colls.find? (fun x => x.tag = tag && x.ctx = ctx)
          if held.isNone ∧ 64 ≤ s.crucible.collsOpen.length then .next s
          else
            let s₀ := s
            match s.allocFuture e.ch.die ctx .collective e.who.chorus with
            | none => .next s
            | some (i, s) =>
              let h := handleWord ((s.die e.ch.die).futures.get {} i).gen i
              let done (s : State) : Out :=
                .next ((writeResult s e f.d.toNat 8 h).modClutch e.who (fun c => { c with opc := c.opc + 1 }))
              let rank? := if groupValid g ctx then g.members.idxOf? s.crucible.devnum else none
              match held, rank? with
              | some c, _ =>
                match c.outcome with
                | some (.done, v) =>
                  match s.bringColl c with
                  | none => .next s₀
                  | some s =>
                  match s.recall ((s.collPlaces c c.dst c.dstBytes true).filterMap id) with
                  | some _ => .next ((s₀.recall ((s.collPlaces c c.dst c.dstBytes true).filterMap id)).getD s₀)
                  | none => done (s.oweResult c [(e.ch.die, i)] v false)
                | some (st, v) => done (s.completeAll [(e.ch.die, i)] c.flags st v)
                | none => done (s.modColl c (fun x => { x with others := x.others ++ [(e.ch.die, i)] }))
              | none, none => done (s.completeFuture e.ch.die i .failed (failValue 1 0))
              | none, some rank =>
                if !b.valid g.members.length then done (s.completeFuture e.ch.die i .failed (failValue 1 0))
                else
                  let seq := s.crucible.collSeq.get 0 (4096 * ctx + b.set)
                  let c : Collective :=
                    { die := e.ch.die, future := i, who := e.who, launch := e.l.uid, ctx, set := b.set, gen := g.gen
                      keyidx := g.keyidx, seq, tag, members := g.members, rank, params := b.params
                      src := b.src, dst := b.dst, report, pc := e.cl.pc, lanes := e.mask, inHandler := e.cl.inHandler }
                  let s := s.modCrucible (fun k => { k with
                    colls := k.colls ++ [c], collSeq := k.collSeq.set 0 (4096 * ctx + b.set) (seq + 1) })
                  done (s.send (.coll {
                    fromDev := s.crucible.devnum, toDev := s.crucible.devnum, keyidx := g.keyidx
                    key := (s.srcKey ctx g.keyidx).key, set := b.set, seq, body := .begin_ }))

/-! ### Contributions (R389, R390) -/

/-- Why a sequencer halts. -/
inductive CollHalt where
  | miss | poison | nonfinite
deriving DecidableEq, Repr

/-- Element `i` of a member's source, as it travels; with the flags of its conversion. -/
def State.collElem (s : State) (c : Collective) (i : Nat) : Except CollHalt (Nat × Word) :=
  let p := c.params
  let n := dtypeBytes p.dtype
  let bytes := (vaRange (c.src + n * i) n).map (fun a => s.engineByte (dieSide c.die) c.ctx a false)
  if bytes.any (· = .miss) then .error .miss
  else if bytes.any (· = .poison) then .error .poison
  else
    let x := numberOf (bytes.map (fun b => match b with
      | .here pa => Memory.read s.mem pa
      | _ => 0))
    if !p.reduces then .ok (x, 0)
    else if dtypeFloat p.dtype then
      match (dtypeFmt p.dtype).decode x with
      | .fin s m e =>
        if p.rop = 0 then let r := toWide (.fin s m e) p.weight; .ok (r.bits, r.flags) else .ok (x, 0)
      | _ => .error .nonfinite
    else if p.rop = 0 then
      .ok (if p.dtype % 2 = 0 then intBits 64 (signedOf (8 * n) x) else x, 0)
    else .ok (x, 0)

/-- A member's contribution, its source read in ascending index. -/
def State.collSource (s : State) (c : Collective) : Except CollHalt (List (Nat × Word)) :=
  (List.range (c.params.srcCount c.members.length c.rank)).mapM (s.collElem c)

/-- The elements of a rank. -/
def Collective.of (c : Collective) (rank : Nat) : List Nat := ((c.got.find? (fun x => x.1 = rank)).map (·.2)).getD []

/-- This member's result and its flags. -/
def Collective.outcomeElems (c : Collective) : List Nat × Word :=
  let p := c.params
  let m := c.members.length
  let across (i : Nat) : Nat × Word := p.reduce ((List.range m).map (fun r => (c.of r).getD i 0))
  let reduced (first : Nat) : List Nat × Word :=
    let rs := (List.range p.count).map (fun i => across (first + i))
    (rs.map (·.1), rs.foldl (fun a r => a ||| r.2) 0)
  match p.op with
  | 0 => reduced 0
  | 1 => reduced (c.rank * p.count)
  | 2 => ((List.range m).flatMap c.of, 0)
  | 3 => (c.of p.root, 0)
  | _ => if c.rank = p.root then reduced 0 else ([], 0)

/-- A message to every other member of a collective. -/
def State.tellMembers (s : State) (c : Collective) (body : CollBody) : State :=
  (c.members.filter (· ≠ s.crucible.devnum)).foldl (fun s d =>
    s.send (.coll { fromDev := s.crucible.devnum, toDev := d, keyidx := c.keyidx, key := (s.srcKey c.ctx c.keyidx).key
                    set := c.set, seq := c.seq, body })) s

/-- A SRC or DST byte without translation halts this member's sequencer (R391). -/
def State.missColl (s : State) (c : Collective) : State :=
  ((s.tellMembers c (.halted 5)).undefineDst c).failColl c 5 c.rank

/-- What every member has said that the collective is, this one included: the parameters that must agree (R388). -/
def Collective.claims (c : Collective) : List (Nat × Nat × CollParams) := (c.rank, c.gen, c.params) :: c.said

/-- A member has said otherwise than this one. -/
def Collective.mismatched (c : Collective) : Bool := c.said.any (fun x => x.2 ≠ (c.gen, c.params))

/-- The member that a MISMATCH names: the one that differs from all others, where these agree, and else any (R391, log 37). -/
def Collective.odd (c : Collective) (tick : Nat) : Nat :=
  let alone (x : Nat × Nat × CollParams) : Bool :=
    let rest := c.claims.filter (fun y => y.1 ≠ x.1)
    rest.all (fun y => y.2 ≠ x.2) && (rest.map (·.2)).eraseDups.length ≤ 1
  match c.claims.filter alone with
  | [x] => x.1
  | _ => Config.freeNat tick % c.members.length

/-- The elements of a result that an overlap leaves undefined (R386). -/
def Collective.freeElems (c : Collective) (tick : Nat) : List Nat :=
  let n := dtypeBytes c.params.dtype
  (List.range (c.params.dstCount c.members.length c.rank)).map (fun i =>
    numberOf ((List.range n).map (fun k => Config.freeByte tick (n * i + k))))

/-- Every contribution has come: where the members agree, the result is performed and the future completes DONE with COUNT. -/
def State.finishColl (s : State) (c : Collective) : State :=
  if c.got.length < c.members.length then s
  else if c.mismatched then (s.failColl c 2 (c.odd s.tick)).bump
  else if (s.collPlaces c c.dst c.dstBytes true).any (·.isNone) then s.missColl c
  else
    let (elems, flags) := c.outcomeElems
    let c := { c with result := if c.overlaps then c.freeElems s.tick else elems, flags := c.flags ||| (flags &&& flagOvf) }
    (s.completeColl c .done (BitVec.ofNat 64 c.params.count)).bump

/-- A contribution is kept, and the collective may finish. -/
def State.contribute (s : State) (c : Collective) (rank : Nat) (elems : List Nat) : State :=
  let c' := { c with got := c.got ++ [(rank, elems)] }
  (s.modColl c (fun _ => c')).finishColl c'

/-- The places of a member's result, which no lease may cover when it is performed. -/
def State.dstPlaces (s : State) (c : Collective) : List Nat := (s.collPlaces c c.dst c.dstBytes true).filterMap id

/-- The report of a COLL (R390, R205); a fault of one entered inside the handler is DOUBLE, a machine error is not (R198,
R208). -/
def State.collFault (s : State) (c : Collective) (code : Code) : State :=
  let double : Bool := c.inHandler && code ≠ .poison
  let num := if double then Code.double.num else code.num
  let inner := if double then code.num else 0
  match s.anyEnv? c.who with
  | some e => s.endWith e ({ e with cl := { e.cl with pc := c.pc } }.report num inner c.lanes)
  | none => s.launchFault c.launch { code := num, inner, pc := c.pc, clutch := c.who.clutch, mask := c.lanes }

/-- A collective is gone: its futures are settled (R396). -/
def State.dropColl (s : State) (c : Collective) (reason : Nat) : State :=
  (s.modCrucible (fun k => { k with colls := k.colls.filter (· ≠ c) })).completeAll ((c.die, c.future) :: c.others) 0 .failed
    (failValue reason c.rank)

/-- A collective leaves the queue with its launch: the other members treat this one as withdrawn (R392). -/
def State.withdrawColl (s : State) (c : Collective) : State := (s.tellMembers c (.halted 6)).dropColl c 6

/-- The collectives of a launch that have not completed withdraw. -/
def State.withdrawAll (s : State) (launch : Nat) : State :=
  (s.crucible.collsOpen.filter (fun c => c.launch = launch)).foldl State.withdrawColl s

/-- This member's own sequencer takes its turn: collectives of one set run in sequence order. -/
def State.beginColl (s : State) (c : Collective) : Option State :=
  if s.crucible.collsOpen.any (fun x => x.ctx = c.ctx && x.set = c.set && x.seq < c.seq) ∨ s.owed.any (fun o => o.set = some (c.ctx, c.set)) then none
  else
    let places := (s.collPlaces c c.src (c.params.srcCount c.members.length c.rank * dtypeBytes c.params.dtype) false)
      ++ s.collPlaces c c.dst c.dstBytes true
    match s.recall (places.filterMap id) with
    | some _ => none
    | none =>
      let c := { c with begun := some s.now }
      let s := s.modColl c (fun _ => c)
      some (
        if c.mismatched then (s.tellMembers c (.contribution c.gen c.params [])).contribute c c.rank []
        else match s.collSource c with
        | .error .miss => s.missColl c
        | .error .poison => s.collFault c .poison
        | .error .nonfinite =>
          (((s.tellMembers c (.halted 3)).undefineDst c).collFault c .nonfinite).dropColl c 3
        | .ok xs =>
          if (s.collPlaces c c.dst c.dstBytes true).any (·.isNone) then s.missColl c
          else
            let elems := xs.map (·.1)
            let s := s.readsThrough (dieSide c.die) c.ctx [(c.src, c.params.srcCount c.members.length c.rank * dtypeBytes c.params.dtype)]
            let c := if xs.any (fun x => x.2 ≠ 0) then { c with flags := c.flags ||| flagOvf } else c
            (s.tellMembers c (.contribution c.gen c.params elems)).contribute c c.rank elems)

/-! ### Loss (R392) -/

/-- A step that a rank owes has not come for 10 ms. -/
def Collective.overdue (c : Collective) (now rank : Nat) : Bool :=
  !c.got.any (fun x => x.1 = rank) && c.begun.any (fun t => t + tenMs ≤ now)

/-- The other ranks of a collective that are lost by now: of lost devices, and of members whose step is overdue. -/
def State.lostRanks (s : State) (c : Collective) : List (Nat × Bool) :=
  (c.members.zipIdx.filter (fun (d, r) =>
    d ≠ s.crucible.devnum && (s.crucible.lostPeers.contains d || c.overdue s.now r))).map (fun x => (x.2, false))

/-- Members are lost: the report block, then the futures FAILED with LOST, or WITHDRAWN when all of them withdrew. -/
def State.loseMembers (s : State) (c : Collective) (ranks : List (Nat × Bool)) : State :=
  let lost := c.lost ++ ranks ++ (s.lostRanks c).filter (fun x => !ranks.any (fun y => y.1 = x.1))
  let word := lost.foldl (fun acc x => acc ||| 2 ^ x.1) 0
  let lowest := lost.foldl (fun a (x : Nat × Bool) => min a x.1) 511
  let s := (s.undefineDst c).writeLocal c.who.chorus (bytesAt c.report 64 word)
  s.failColl { c with lost } (if lost.all (·.2) then 6 else 4) lowest

/-- The collective of a set and sequence that is under way, for a device that is a member of it. -/
def State.collOf (s : State) (set seq dev : Nat) : Option (Collective × Nat) :=
  match s.crucible.collsOpen.find? (fun c => c.set = set && c.seq = seq && c.members.contains dev) with
  | some c => (c.members.idxOf? dev).map (fun r => (c, r))
  | none => none

/-- COLLSTEP. A step for a collective that this member has not entered waits for it, and one for a collective that has
completed here is dropped. -/
def execCollstep (m : CollStep) (s : State) : Out :=
  match s.receive m.fromDev m.toDev (.coll m) with
  | none => .next s
  | some t =>
    let k := t.rcvKey m.keyidx
    if !k.accepts m.key then
      .next (if m.fromDev = t.crucible.devnum then
          match t.collOf m.set m.seq m.fromDev with
          | some (c, _) => t.freeze c.ctx .key
          | none => t
        else t)
    else match t.collOf m.set m.seq m.fromDev with
      | none =>
        let entered : Bool := m.seq < t.crucible.collSeq.get 0 (4096 * k.ctx + m.set)
        .next (if m.fromDev = t.crucible.devnum || entered then t else s)
      | some (c, rank) =>
        if c.ctx ≠ k.ctx ∨ (t.context c.ctx).frozen.isSome then .next s
        else match m.body with
          | .begin_ =>
            if m.fromDev ≠ t.crucible.devnum ∨ c.got.any (fun x => x.1 = rank) then .next t
            else match t.bringColl c with
            | none => .next s
            | some t => .next ((t.beginColl c).getD
              ((s.recall ((s.collPlaces c c.src (c.params.srcCount c.members.length c.rank * dtypeBytes c.params.dtype) false
                ++ s.collPlaces c c.dst c.dstBytes true).filterMap id)).getD s))
          | .contribution gen params elems =>
            if m.fromDev = t.crucible.devnum ∨ c.got.any (fun x => x.1 = rank) then .next t
            else match (if c.members.length ≤ c.got.length + 1 then t.bringColl c else some t) with
            | none => .next s
            | some t => match (if c.members.length ≤ c.got.length + 1 then s.recall (t.dstPlaces c) else none) with
              | some s' => .next s'
              | none => .next (t.contribute { c with said := c.said ++ [(rank, gen, params)] } rank elems)
          | .halted reason =>
            if m.fromDev = t.crucible.devnum then .next t
            else if reason = 6 then .next (t.loseMembers c [(rank, true)])
            else if reason = 3 ∨ reason = 5 then .next ((t.undefineDst c).failColl c reason rank)
            else .next t

/-- COLL_MEMBER_LOST: a member withdraws, or its device is lost, or a step it owes has not come for 10 ms. -/
def execCollMemberLost (set seq dev : Nat) (withdrew : Bool) (s : State) : Out :=
  match s.collOf set seq dev with
  | none => .next s
  | some (c, rank) =>
    if dev ≠ s.crucible.devnum && (withdrew || s.crucible.lostPeers.contains dev || c.overdue s.now rank) then
      .next (s.loseMembers c [(rank, withdrew)])
    else .next s

/-- Every collective that a lost device is a member of (R392, R436). -/
def State.losePeerColls (s : State) (dev : Nat) : State :=
  s.crucible.collsOpen.foldl (fun s c =>
    match c.members.idxOf? dev with
    | some r => s.loseMembers c [(r, false)]
    | none => s) s

end Sys2Proof.Machine
end

