-- ==== Sys2Proof/Machine/Control.lean ====
section
/-! DEFINITION. Opcodes 0x70 to 0x7D and RDCLK: branches, the rejoin stack, exits, traps (R173 to R198). -/

namespace Sys2Proof.Machine

/-- Run a control instruction (R181): an all-zero mask passes it over, unless it acts on the path. -/
def control (op : Nat) (f : Fields) (pathLevel : Bool) (s : State) (k : Env → Out) : Out :=
  withClutch s fun e =>
    if e.mask = 0 ∧ !(pathLevel && e.cl.path ≠ 0) then passOver s e f.len.bytes
    else match e.cl.ready (readsOf op f) (writesOf op f) with
      | .trap => .next (s.clutchStop e .empty)
      | .wait => .next s
      | .go => k e

/-- The control words that act on a path whose lanes are all inactive (R181). -/
def actsOnPath (op : Nat) (f : Fields) : Bool :=
  op = 0x70 || op = 0x72 || op = 0x75 || op = 0x76 || op = 0x7B || op = 0x7D
    || ((op = 0x73 || op = 0x74) && f.mod = 1) || (op = 0x77 && f.mod = 0)

/-- A uniform operand read once (R181); poison is met with at least one active lane (R94). -/
def withUniform (s : State) (e : Env) (reg : Nat) (k : Word → Out) : Out :=
  if e.mask ≠ 0 ∧ e.poisonAt reg 0 then poisonEnd s e e.mask else k (e.read s reg 0)

/-- A predicate read in every active lane: the active lanes in which it is true (R110, R181). -/
def withPredicate (s : State) (e : Env) (reg : Nat) (k : Mask → Out) : Out :=
  if e.poisonIn { reg } (lanesIn e.mask) then poisonEnd s e (e.poisonAmong { reg } (lanesIn e.mask))
  else k (maskOf (fun l => inMask e.mask l && e.read s reg l ≠ 0))

/-- The clutch goes on with new contents. -/
def become (s : State) (e : Env) (c : Clutch) : Out := .next (s.bump.modClutch e.who (fun _ => c))

/-- BRA (R182). -/
def execBra (f : Fields) (s : State) : Out :=
  control 0x70 f true s fun e =>
    if f.mod = 0 then become s e { e.cl with pc := e.cl.pc + f.imm }
    else withUniform s e f.a.toNat fun w =>
      let taken : Bool := (w ≠ 0) != f.mod.getLsbD 1
      become s e { e.cl with pc := e.cl.pc + (if taken then f.imm else 12) }

/-- BRX (R183). -/
def execBrx (f : Fields) (s : State) : Out :=
  control 0x7D f true s fun e => withUniform s e f.a.toNat fun w => become s e { e.cl with pc := w }

/-- A stack with no room for another entry (R178). -/
def Clutch.full (c : Clutch) : Bool := 16 ≤ c.stack.length

/-- BRC (R184): divide the running path; the not-taken path runs first. -/
def execBrc (f : Fields) (s : State) : Out :=
  control 0x71 f false s fun e =>
    let c := e.cl
    if c.full then fatal s e .rstack e.mask
    else withPredicate s e f.a.toNat fun t =>
      let n := c.path &&& ~~~t
      let index := c.stack.length
      let c' := c.push (fun seq =>
        { kind := .branch, aw := c.path, ppc := c.pc + f.imm, pm := if n = 0 then 0 else t, seq })
      let c' := if n ≠ 0 then { c' with path := n, mask := c.mask &&& ~~~t, pc := c.pc + 12 }
        else { c' with path := t, mask := t, pc := c.pc + f.imm }
      become s e (c'.put e.hdr.uniform e.mask f.d.toNat 0 (fun _ => token .branch index c.seq))

/-- BRC.loop (R184): open a loop. -/
def execBrcLoop (f : Fields) (s : State) : Out :=
  control 0x71 f false s fun e =>
    let c := e.cl
    if c.full then fatal s e .rstack e.mask
    else
      let c' := c.push (fun seq =>
        { kind := .loop, aw := c.path, rpc := some (c.pc + f.imm), ppc := c.pc + 12, seq })
      become s e ((c'.put e.hdr.uniform e.mask f.d.toNat 0 (fun _ => token .loop c.stack.length c.seq)).advance 12)

/-- JOIN (R185). -/
def execJoin (f : Fields) (s : State) : Out :=
  control 0x72 f true s fun e => withUniform s e f.a.toNat fun t =>
    let c := e.cl
    match c.tokenIndex t .branch, c.stack.getLast? with
    | some i, some x =>
      if i + 1 = c.stack.length then
        let x' := { x with rpc := some (x.rpc.getD (c.pc + 8)), ar := x.ar ||| c.path }
        settleClutch s.bump e { c with stack := c.stack.dropLast ++ [x'], path := 0 }
      else fatal s e .token e.mask
    | _, _ => fatal s e .token e.mask

/-- BRK and CONT after their lanes S are known (R186). -/
def leaveLoop (s : State) (e : Env) (i : Nat) (m : Mask) (brk : Bool) : Out :=
  let c := e.cl
  let stack := c.stack.zipIdx.map (fun (x, j) =>
    if j < i then x
    else if i < j then { x with aw := x.aw &&& ~~~m }
    else if brk then { x with ar := x.ar ||| m }
    else { x with ct := x.ct ||| m })
  settleClutch s.bump e { c with stack, path := c.path &&& ~~~m, mask := c.mask &&& ~~~m, pc := c.pc + 8 }

/-- BRK and CONT (R186): with ALL the whole path leaves. -/
def loopExit (op : Nat) (f : Fields) (brk : Bool) (s : State) : Out :=
  control op f (f.mod = 1) s fun e => withUniform s e f.a.toNat fun t =>
    match e.cl.tokenIndex t .loop with
    | none => fatal s e .token e.mask
    | some i =>
      if f.mod = 1 then leaveLoop s e i e.cl.path brk
      else withPredicate s e f.b.toNat fun m => leaveLoop s e i m brk

def execBrk (f : Fields) (s : State) : Out := loopExit 0x73 f true s
def execCont (f : Fields) (s : State) : Out := loopExit 0x74 f false s

/-- CALL (R187). -/
def execCall (f : Fields) (s : State) : Out :=
  control 0x75 f true s fun e =>
    let c := e.cl
    if c.full then fatal s e .rstack e.mask
    else
      let c' := c.push (fun seq => { kind := .call, aw := c.path, rpc := some (c.pc + 12), seq })
      become s e { c' with pc := c.pc + f.imm }

/-- The index of the nearest CALL entry, when no HANDLER entry lies above it (R187). -/
def Clutch.callIndex (c : Clutch) : Option Nat :=
  match c.stack.reverse.find? (fun x => x.kind = .call || x.kind = .handler) with
  | some x =>
    if x.kind = .call then
      some (c.stack.length - 1 - (c.stack.reverse.findIdx (fun x => x.kind = .call || x.kind = .handler)))
    else none
  | none => none

/-- RET (R187). -/
def execRet (f : Fields) (s : State) : Out :=
  control 0x76 f true s fun e =>
    let c := e.cl
    match c.callIndex with
    | none => fatal s e .token e.mask
    | some i =>
      let stack := c.stack.zipIdx.map (fun (x, j) =>
        if j < i then x
        else if i < j then { x with aw := x.aw &&& ~~~c.path }
        else { x with ar := x.ar ||| c.path })
      settleClutch s.bump e { c with stack, path := 0 }

/-- EXIT (R188). -/
def execExit (f : Fields) (s : State) : Out :=
  control 0x77 f (f.mod = 0) s fun e =>
    let go (m : Mask) : Out := settleClutch s.bump e { e.cl.delete m with pc := e.cl.pc + 8 }
    if f.mod = 0 then go (if e.mask = 0 then e.cl.path else e.mask)
    else withPredicate s e f.a.toNat go

/-- KILL (R189). -/
def execKill (f : Fields) (s : State) : Out :=
  control 0x78 f false s fun e =>
    if [0, 1, 2].any (fun i => e.poisonAt (f.a.toNat + i) 0) then poisonEnd s e e.mask
    else
      let m := BitVec.ofNat 96 ((List.range 3).foldl (fun acc j => acc + (e.read s (f.a.toNat + j) 0).toNat * 2 ^ (32 * j)) 0)
      let bound := match e.cl.stack.reverse.find? (fun x => x.kind = .handler) with
        | some x => x.aw
        | none => BitVec.allOnes 96
      settleClutch s.bump e { e.cl.delete (m &&& bound) with pc := e.cl.pc + 8 }

/-- YIELD (R191): no architectural state but the PC; its ready stamp is set by the issue stage. -/
def execYield (f : Fields) (s : State) : Out := control 0x79 f false s fun e => passOver s e 8

/-- TRAP (R192): the handler with CAUSE 7 and the code in emimm. -/
def execTrap (f : Fields) (s : State) : Out :=
  withClutch s fun e => emulationTrap s e 7 12 0x7A f false false

/-- EMRET (R197). -/
def execEmret (f : Fields) (s : State) : Out :=
  control 0x7B f true s fun e => emulationReturn s e (f.mod.getLsbD 0)

/-- BKPT (R193). -/
def execBkpt (f : Fields) (s : State) : Out :=
  control 0x7C f false s fun e =>
    if (s.core e.core).bken then .next (s.clutchStop e .break_) else passOver s e 8

/-- RDCLK (R194). -/
def execRdclk (f : Fields) (s : State) : Out :=
  control 0x83 f false s fun e =>
    let t := (s.die e.ch.die).cycle
    let n := e.hdr.uniform
    become s e (((e.cl.put n e.mask f.d.toNat 0 (fun _ => t.setWidth 32)).put n e.mask (f.d.toNat + 1) 0
      (fun _ => (t >>> 32).setWidth 32)).advance 8)

end Sys2Proof.Machine
end

