-- ==== Sys2Proof/Machine/Groups.lean ====
section
/-! DEFINITION. Membership sets: GRP.JOIN and GRP.LEAVE, the owner's changes, installs, time limits and lost members
(R406 to R409). -/

namespace Sys2Proof

/-- An entry without some members. The lowest-numbered remaining member owns it when its owner has gone; with no
member left it is invalid. -/
def Group.without (g : Group) (devs : List Nat) : Group :=
  let members := g.members.filter (fun d => !devs.contains d)
  match members with
  | [] => {}
  | first :: _ => { g with members, gen := (g.gen + 1) % 2 ^ 32, owner := if devs.contains g.owner then first else g.owner }

/-- Whether a message answers a request. -/
def GroupMsg.answers (m : GroupMsg) : Bool :=
  match m.body with
  | .answer _ => true
  | _ => false

end Sys2Proof

namespace Sys2Proof.Machine

/-- The entry of a set in this device's table (R406). -/
def State.group (s : State) (set : Nat) : Group := s.crucible.groups.get {} set

def State.setGroup (s : State) (set : Nat) (g : Group) : State :=
  s.modCrucible (fun c => { c with groups := c.groups.set {} set (if g.valid then g else {}) })

/-- A GROUP message of this device under a key index. -/
def State.sendGroup (s : State) (ctx dst set keyidx : Nat) (body : GroupBody) : State :=
  s.send (.group { fromDev := s.crucible.devnum, toDev := dst, set, keyidx, key := (s.srcKey ctx keyidx).key, body })

/-- The owner's answer to a request, under its own key of the request's key index: that of the context which holds the index
here, or of the requesting context where the request is this device's own (R309, R408). -/
def State.answerGroup (s : State) (r : GroupReq) (status : Nat) : State :=
  let ctx := if r.fromDev = s.crucible.devnum then r.ctx else (s.rcvKey r.keyidx).ctx
  s.send (.group { fromDev := s.crucible.devnum, toDev := r.fromDev, set := r.set, keyidx := r.keyidx
                   key := (s.srcKey ctx r.keyidx).key, body := .answer status, ask := r.ask })

/-! ### GRP.JOIN, GRP.LEAVE (R407, R408) -/

/-- A request goes to the owner, and D waits for the answer. -/
def grpForm (f : Fields) (leave : Bool) (s : State) : Out :=
  issue 0xE5 f s fun e => withLow s e [f.a.toNat] <|
    let w := e.lowWord s f.a.toNat
    let keyidx := w / 2 ^ 21 % 256
    if w / 2 ^ 29 ≠ 0 then produceWord s e f.d.toNat 8 6
    else if !(s.srcKey e.l.ctx keyidx).valid then .next (s.freeze e.l.ctx .key)
    else
      let req : GroupReq :=
        { fromDev := s.crucible.devnum, owner := w / 2 ^ 12 % 512, set := w % 4096, keyidx
          key := (s.srcKey e.l.ctx keyidx).key, leave, ctx := e.l.ctx, ask := s.fresh }
      let id := s.fresh
      let s := s.produce { id := 0, who := e.who, dst := .ordinary f.d.toNat 1, mask := e.mask, awaited := e.mask }
      let s := s.modCrucible (fun c => { c with groupAsks := c.groupAsks ++ [{ req, landing := id, since := s.now }] })
      .next ((s.send (.groupReq req)).bump.modClutch e.who (·.advance 8))

def execGrpJoin (f : Fields) (s : State) : Out := grpForm f false s
def execGrpLeave (f : Fields) (s : State) : Out := grpForm f true s

/-- Whether a request of this device still lies on the fabric, is being served here, or has its answer on the way back. -/
def State.askUnderWay (s : State) (r : GroupReq) : Bool :=
  s.outbox.contains (.groupReq r)
    || s.crucible.groupWork.any (fun w => w.req.any (fun q => q.fromDev = r.fromDev && q.ask = r.ask))
    || s.outbox.any (fun m => match m with
      | .group g => decide (g.toDev = r.fromDev ∧ g.fromDev = r.owner ∧ g.ask = r.ask ∧ g.answers)
      | _ => false)

/-- A request that has not been answered is sent again, under the key that its entry holds now (R408). -/
def State.askAgain (s : State) (landing : Nat) : State :=
  match s.crucible.groupAsks.find? (fun a => a.landing = landing) with
  | some a =>
    if s.askUnderWay a.req then s
    else
      let a := { a with req := { a.req with key := (s.srcKey a.req.ctx a.req.keyidx).key } }
      let s := s.modCrucible (fun c => { c with groupAsks := updateFirst (fun b => b.landing = landing) (fun _ => a) c.groupAsks })
      s.send (.groupReq a.req)
  | none => s

/-- The status of a request lands in D of its GRP; copies of the request still on the fabric are gone (log 12). -/
def State.answerAsk (s : State) (a : GroupAsk) (status : Nat) : State :=
  let s := s.modCrucible (fun c => { c with groupAsks := c.groupAsks.filter (fun b => b.landing ≠ a.landing) })
  let s := { s with outbox := s.outbox.filter (fun (m : Msg) => m ≠ Msg.groupReq a.req) }
  match s.landings.find? (fun p => p.id = a.landing) with
  | none => s
  | some p => s.landLanes a.landing p.mask [lanesOf fun _ => BitVec.ofNat 32 status] 0

/-! ### The owner (R408) -/

/-- What the owner answers at once, or the changed entry. -/
def State.judge (s : State) (r : GroupReq) : Except Nat Group :=
  let g := s.group r.set
  let ctx := (s.rcvKey r.keyidx).ctx
  if !g.valid then
    if !r.leave ∧ r.fromDev = s.crucible.devnum then
      .ok { valid := true, ctx, keyidx := r.keyidx, owner := r.owner, gen := 0, members := [r.fromDev] }
    else .error 3
  else if g.ctx ≠ ctx ∨ g.keyidx ≠ r.keyidx then .error 2
  else if g.owner ≠ s.crucible.devnum then .error 3
  else if g.members.contains r.fromDev ≠ r.leave then .error 1
  else if r.leave then .ok (g.without [r.fromDev])
  else .ok { g with members := setInsert g.members r.fromDev, gen := (g.gen + 1) % 2 ^ 32 }

/-- The entry that a device is sent: one that has lost it, or lost its last member, is invalid there. -/
def entryFor (g : Group) (dev : Nat) : Group := if g.members.contains dev then g else { g with valid := false }

/-- Every acknowledgement has come: the change stands, or nothing has changed where a member refused it. -/
def State.finishGroup (s : State) (w : GroupWork) : State :=
  let s := s.modCrucible (fun c => { c with groupWork := c.groupWork.filter (fun x => x.set ≠ w.set) })
  let self := s.crucible.devnum
  let entry := if w.full then w.old else w.entry
  let s := if w.full then
      (w.entry.members.filter (fun d => d ≠ self)).foldl (fun s d =>
        s.sendGroup w.entry.ctx d w.set w.entry.keyidx (.install (entryFor w.old d))) s
    else s
  let s := s.setGroup w.set (entryFor entry self)
  match w.req with
  | none => s
  | some r => s.answerGroup r (if w.full then 5 else 0)

/-- The owner begins a change: the new entry goes to every old and new member. -/
def State.startGroup (s : State) (set : Nat) (req : Option GroupReq) (old entry : Group) (gone : List Nat) : State :=
  let waiting := ((old.members ++ entry.members).foldl setInsert []).filter (fun d => d ≠ s.crucible.devnum && !gone.contains d)
  let w : GroupWork := { set, req, entry, old, waiting, since := s.now }
  let ctx := if entry.valid then entry.ctx else old.ctx
  let keyidx := if entry.valid then entry.keyidx else old.keyidx
  if waiting.isEmpty then s.finishGroup w
  else
    let s := s.modCrucible (fun c => { c with groupWork := c.groupWork ++ [w] })
    waiting.foldl (fun s d => s.sendGroup ctx d set keyidx (.install (entryFor entry d))) s

/-- GROUP_REQUEST: the owner serves requests one at a time for each set. -/
def execGroupRequest (r : GroupReq) (s : State) : Out :=
  match s.receive r.fromDev r.owner (.groupReq r) with
  | none => .next s
  | some t =>
    if !(t.rcvKey r.keyidx).accepts r.key then
      .next (if r.fromDev = t.crucible.devnum then t.freeze r.ctx .key else t)
    else if t.crucible.groupWork.any (fun w => w.set = r.set) then .next s
    else match t.judge r with
      | .error status => .next (t.answerGroup r status)
      | .ok entry => .next (t.startGroup r.set (some r) (t.group r.set) entry [])

/-! ### Installs, answers and acknowledgements (R408) -/

/-- Whether a member's table takes an entry: a set of the same number under another key index fills its place. -/
def State.takesGroup (s : State) (set keyidx : Nat) : Bool :=
  let g := s.group set
  !g.valid || g.keyidx = keyidx

/-- An acknowledgement reaches the owner. -/
def State.groupAcked (s : State) (set dev : Nat) (full : Bool) : State :=
  match s.crucible.groupWork.find? (fun w => w.set = set) with
  | none => s
  | some w =>
    if !w.waiting.contains dev then s
    else
      let w := { w with waiting := setErase w.waiting dev, full := w.full || full }
      if w.waiting.isEmpty then s.finishGroup w
      else s.modCrucible (fun c => { c with groupWork := updateFirst (fun x => x.set = set) (fun _ => w) c.groupWork })

/-- Devices that are lost leave the sets in which no change is under way: the owner removes them, and where it is lost itself
the lowest surviving member takes over and does. -/
def State.purgeGroups (s : State) : State :=
  let self := s.crucible.devnum
  let lost := s.crucible.lostPeers
  s.crucible.groups.foldl (fun s x =>
    let g := x.2
    if !g.valid || !g.members.any lost.contains || s.crucible.groupWork.any (fun w => w.set = x.1) then s
    else
      let entry := g.without lost
      if g.owner = self ∨ (lost.contains g.owner ∧ entry.owner = self) then s.startGroup x.1 none g entry lost else s) s

/-- GROUP_INSTALL: a member installs an entry and acknowledges it; an answer ends a GRP; an acknowledgement reaches
the owner. -/
def execGroupInstall (m : GroupMsg) (s : State) : Out :=
  match s.receive m.fromDev m.toDev (.group m) with
  | none => .next s
  | some s =>
    let k := s.rcvKey m.keyidx
    if !k.accepts m.key then
      .next (if m.fromDev = s.crucible.devnum then s.freeze k.ctx .key else s)
    else match m.body with
      | .install entry =>
        if s.takesGroup m.set m.keyidx then
          .next ((s.setGroup m.set { entry with ctx := k.ctx, keyidx := m.keyidx }).sendGroup k.ctx m.fromDev m.set m.keyidx (.installed false))
        else .next (s.sendGroup k.ctx m.fromDev m.set m.keyidx (.installed true))
      | .answer status =>
        match s.crucible.groupAsks.find? (fun a => a.req.ask = m.ask && a.req.set = m.set && a.req.owner = m.fromDev) with
        | none => .next s
        | some a => .next (s.answerAsk a status)
      | .installed full => .next (s.groupAcked m.set m.fromDev full).purgeGroups

/-! ### Time limits and lost members (R408) -/

/-- Members of a change that have not acknowledged are removed as lost, with a further GEN, from the entry that stands. -/
def State.dropMembers (s : State) (w : GroupWork) (gone : List Nat) : State :=
  let s := s.modCrucible (fun c => { c with groupWork := c.groupWork.filter (fun x => x.set ≠ w.set) })
  if !w.full then s.startGroup w.set w.req w.old (w.entry.without gone) gone
  else if w.old.valid && w.old.members.any gone.contains then
    (s.finishGroup w).startGroup w.set none w.old (w.old.without gone) gone
  else s.finishGroup w

/-- GROUP_TIMEOUT: 10 ms have passed without an acknowledgement, or without an answer of the owner. -/
def execGroupTimeout (set : Nat) (s : State) : Out :=
  match s.crucible.groupWork.find? (fun w => w.set = set && w.since + tenMs ≤ s.now) with
  | some w => .next (s.dropMembers w w.waiting).purgeGroups
  | none =>
    match s.crucible.groupAsks.find? (fun a => a.req.set = set && a.since + tenMs ≤ s.now) with
    | some a => .next (s.answerAsk a 4)
    | none => .next s

/-- The fabric reports a device lost: changes that wait for it go on without it, and sets lose it. -/
def State.losePeerGroups (s : State) (dev : Nat) : State :=
  ((s.crucible.groupWork.filter (fun w => w.waiting.contains dev)).foldl (fun s w => s.dropMembers w [dev]) s).purgeGroups

/-- DEACTIVATE leaves every set that a context holds here: each LEAVE is sent again until it is answered, as one of GRP is. -/
def State.leaveGroups (s : State) (ctx : Nat) : State :=
  s.crucible.groups.foldl (fun s x =>
    let g := x.2
    if g.valid ∧ g.ctx = ctx ∧ g.members.contains s.crucible.devnum then
      let req : GroupReq :=
        { fromDev := s.crucible.devnum, owner := g.owner, set := x.1, keyidx := g.keyidx
          key := (s.srcKey ctx g.keyidx).key, leave := true, ctx, ask := s.fresh }
      let s := s.modCrucible (fun c => { c with groupAsks := c.groupAsks ++ [{ req, landing := s.fresh, since := s.now }] })
      { s with fresh := s.fresh + 1 }.send (.groupReq req)
    else s) s

end Sys2Proof.Machine
end

