-- ==== Sys2Proof/Machine/Readiness.lean ====
section
/-! DEFINITION. Readiness levels (R372, R435). -/

namespace Sys2Proof.Machine

/-- The wake time of a level (R372). -/
def wakeTime (level : Nat) : Nat :=
  match level with
  | 0 => 0
  | 1 => 2 * microsecond
  | 2 => 200 * microsecond
  | _ => 5000 * microsecond

/-- The deepest level that a tolerance in microseconds admits. -/
def deepest (lattol : Nat) : Nat := if 5000 ≤ lattol then 3 else if 200 ≤ lattol then 2 else if 2 ≤ lattol then 1 else 0

/-- The whole device rests. -/
def State.asleep (s : State) : Bool := 2 ≤ s.crucible.level

/-- Some core of a serving die rests at L1. -/
def State.coresRest (s : State) : Bool := s.dies.any (fun d => d.2.cores.any (fun c => c.2.resting))

/-- A wake begins, if the device or a core rests and none is in progress. -/
def State.startWake (s : State) : State :=
  let level := if s.asleep then s.crucible.level else if s.coresRest then 1 else 0
  if level = 0 ∨ s.crucible.wakeAt.isSome then s
  else s.modCrucible (fun c => { c with wakeAt := some (s.now + wakeTime level) })

/-- The device has been active now. -/
def State.active (s : State) : State := s.modCrucible (fun c => { c with idleSince := s.now })

/-- A core has no resident clutch that has not ended, no sequencer work and no copy. -/
def State.coreIdle (s : State) (c : CoreId) : Bool :=
  (s.onCore c).all (fun x => x.1.status ≠ .reserved && x.1.clutches.all (fun cl => cl.pos ≠ x.2.2 || cl.ended)
      && x.1.seqs.all (fun q => q.pos ≠ x.2.2 || (q.ended && q.jobs.isEmpty)))
    && (s.copiesOn c).isEmpty

/-- While time passes, the cores that are not idle have been idle since no earlier than its end (R372). -/
def State.noteCores (s : State) : State :=
  (s.choruses.filter (fun (c : Chorus) => c.holds)).foldl (fun s c => c.cores.foldl (fun s k =>
    let id : CoreId := { die := c.die, core := k }
    if s.coreIdle id then s else s.modCore id (fun x => { x with idleSince := s.now })) s) s

/-- ENTER_L1: after 10 µs. -/
def execEnterL1 (c : CoreId) (s : State) : Out :=
  let k := s.core c
  .next (if s.dieLive c.die && c.core < 48 && s.coreIdle c && 1 ≤ deepest s.crucible.lattol.toNat
      && s.crucible.wakeAt.isNone && k.idleSince + 10 * microsecond ≤ s.now then
    s.modCore c (fun k => { k with resting := true })
  else s)

/-- Every anvil die is at L1 on all cores, every queue is empty, and nothing remote is pending. -/
def State.deviceIdle (s : State) : Bool :=
  (List.range 4).all (fun d => !s.dieLive d || (List.range 48).all (fun k => ((s.die d).core k).resting))
    && s.crucible.queues.all (fun q => q.2.head = q.2.tail)
    && s.dies.all (fun d => d.2.windows.isEmpty && d.2.cores.all (fun k => k.2.queue.isEmpty)) && s.owed.isEmpty
    && s.crucible.unsettled.isEmpty && s.crucible.asked.isEmpty && s.crucible.collsOpen.isEmpty && s.crucible.mcasts.isEmpty

/-- The same for the device, whose time at rest begins when all that it needs holds (R372). -/
def State.noteBusy (s : State) : State :=
  let s := s.noteCores
  if s.deviceIdle then s else s.active

/-- When the device became idle. -/
def State.idleFrom (s : State) : Nat :=
  s.dies.foldl (fun a d => d.2.cores.foldl (fun a c => max a c.2.idleSince) a) s.crucible.idleSince

/-- The device goes to a level; the die caches are written back first. -/
def enterLevel (level wait : Nat) (s : State) : Out :=
  .next (if s.crucible.ready && s.deviceIdle && level ≤ deepest s.crucible.lattol.toNat && s.crucible.level < level
      && s.crucible.wakeAt.isNone && s.idleFrom + wait ≤ s.now then
    { s.modCrucible (fun c => { c with level }) with
      dies := s.dies.map (fun d => (d.1, { d.2 with cache := d.2.cache.map (fun x => { x with dirty := [] }) })) }
  else s)

/-- ENTER_L2: after 1 ms. -/
def execEnterL2 (s : State) : Out := enterLevel 2 (1000 * microsecond) s
/-- ENTER_L3: after 10 ms. -/
def execEnterL3 (s : State) : Out := enterLevel 3 (10000 * microsecond) s

/-- WAKE. -/
def execWake (s : State) : Out := .next s.startWake

/-- The state once a wake is complete: every core and the device are at L0, a tolerance that was written meanwhile
applies, and the host events that were held come next. -/
def State.awake (s : State) : State :=
  let held := s.crucible.heldEvents
  let rouse (k : Core) : Core := if k.resting then { k with resting := false, idleSince := s.now } else k
  let s := (s.modCrucible (fun c => { c with
    level := 0, wakeAt := none, heldEvents := [], lattol := c.heldLattol.getD c.lattol, heldLattol := none })).active
  { s with
    dies := s.dies.map (fun d => (d.1, { d.2 with cores := d.2.cores.map (fun c => (c.1, rouse c.2)) }))
    agenda := held.map Turn.event ++ s.agenda }

/-- WAKE_COMPLETE: the device is at L0, and what it held goes on. -/
def execWakeComplete (s : State) : Out :=
  match s.crucible.wakeAt with
  | none => .next s
  | some t => .next (if s.now < t then s else s.awake)

/-- LATTOL_WRITE: the device wakes first, and the new tolerance then applies (R435). -/
def execLattolWrite (value : Word) (s : State) : Out :=
  .next (
    if !s.crucible.ready then s
    else
      let s := s.startWake
      if s.crucible.wakeAt.isSome then s.modCrucible (fun c => { c with heldLattol := some value })
      else (s.modCrucible (fun c => { c with lattol := value })).active)

/-- Host accesses and commands wait for the wake; a message stays unacknowledged and comes again. -/
def heldByWake (i : Instr) : Option Bool :=
  match i with
  | .qdoor .. | .hostWrite .. | .hostRead .. | .activate .. | .polite .. | .forced .. | .deactivate .. | .ctxResume .. =>
    some true
  | .registerWrite .crucible off .. | .registerWrite .bar0 off .. => if off = 0x100 ∨ (0x1000 ≤ off ∧ off < 0x1200) then some true else none
  | .elem .. | .ack .. | .rreq .. | .rreply .. | .demand .. | .grant .. | .placeReserve .. | .placeReserved ..
  | .placeNoroom .. | .placeCommit .. | .placeAbort .. | .placeAbandon .. | .placeRetired .. | .placeAttached ..
  | .placeDetached .. | .placeDepart .. | .groupRequest .. | .groupInstall .. | .collstep .. | .leaseGrant ..
  | .leaseForward .. | .leaseRecall .. | .leaseReturn .. | .release .. | .unknownMessage .. => some false
  | _ => none

/-- What the crucible does with an event while the device or a core rests; none for an event that takes its course. -/
def State.wakeFor (s : State) (i : Instr) : Option State :=
  match heldByWake i with
  | none => none
  | some true =>
    if s.asleep || s.coresRest then
      some (s.startWake.modCrucible (fun c => { c with heldEvents := c.heldEvents ++ [i] }))
    else none
  | some false => if s.asleep || s.coresRest then some s.startWake else none

end Sys2Proof.Machine
end

