-- ==== Sys2Proof/Machine/Leaving.lean ====
section
/-! DEFINITION. What follows when choruses leave their cores: clusters pass on (R356), a context's commands complete
(R355), launches are stopped (R204, R374), status records are written (R373), and linked choruses are abandoned as a
whole (R313). -/

namespace Sys2Proof.Machine

/-! ### The candidates of a die (R363) -/

/-- The chorus that a grant names, as it stands before its placement: a new one, or one that a lost die has held (R24). -/
def State.chorusOf (s : State) (g : GrantRec) (l : Launch) : Chorus :=
  match g.uid.bind s.chorus? with
  | some c => { c with die := g.die, since := g.since, aged := g.aged, starved := g.starved }
  | none =>
    { uid := s.fresh, launch := l.uid, index := g.index, section_ := l.section_, die := g.die, status := .released
      since := g.since, aged := g.aged, starved := g.starved }

/-- The dispatchers place choruses of the context at all. -/
def Context.places (c : Context) : Bool := c.active && !c.held && !c.deactivating && c.frozen.isNone

/-- The lowest granted index of a launch on a die that is not yet placed. -/
def Launch.lowestGrant (l : Launch) (die : Nat) : Option GrantRec :=
  (l.grants.filter (fun (g : GrantRec) => g.die = die)).foldl (fun a g =>
    match a with
    | none => some g
    | some b => some (if g.index < b.index then g else b)) none

/-- The choruses that wait on a die: lowest grants, and those that bins have released or that have left their cores.
The sections of a linked launch are placed by its coordinator (R311). -/
def State.waitingOn (s : State) (die : Nat) : List (Launch × Chorus) :=
  (s.launches.filter (fun (l : Launch) => l.ending.isNone && !l.linked && (s.context l.ctx).places)).flatMap (fun l =>
    (match l.lowestGrant die with
      | some g => [(l, s.chorusOf g l)]
      | none => [])
    ++ (s.choruses.filter (fun (c : Chorus) => c.launch = l.uid && c.die = die
        && (c.status = .released || c.status = .abandoned || c.status = .saved))).map (fun c => (l, c)))

/-- The cores of a chorus are its context's own (R12, R363). -/
def State.ownsCores (s : State) (l : Launch) (c : Chorus) : Bool := (s.holder c.die (c.cores.headD 0 / 4)).ctx = some l.ctx

/-- The candidates of a die: of the choruses that wait, a saved one only while its cores are its own again (R363). -/
def State.candidates (s : State) (die : Nat) : List (Launch × Chorus) :=
  (s.waitingOn die).filter (fun x => x.2.status ≠ .saved || s.ownsCores x.1 x.2)

/-! ### Clusters in rotation (R356) -/

/-- A chorus of a context holds resources on a cluster. -/
def State.residentOn (s : State) (ctx die cluster : Nat) : Bool :=
  s.choruses.any (fun c => c.holds && c.die = die && c.cores.any (fun k => k / 4 = cluster)
    && (s.launch? c.launch).any (fun l => l.ctx = ctx))

/-- A cluster has usable cores for a chorus of a launch: all four for a cluster chorus, one for a core chorus. -/
def State.shapeFits (s : State) (l : Launch) (die cluster : Nat) : Bool :=
  (coreGroups l.hdr).any (fun g => g.headD 0 / 4 = cluster && g.all (s.usable l die))

/-- A waiting chorus could use a cluster: a saved one only its own. -/
def State.couldUse (s : State) (l : Launch) (c : Chorus) (die cluster : Nat) : Bool :=
  if c.status = .saved then c.cores.any (fun k => k / 4 = cluster) else s.shapeFits l die cluster

/-- A context has a chorus waiting for a cluster: one that the die's dispatcher would place, or a section that a reserve has
asked for in vain. -/
def State.wants (s : State) (ctx die cluster : Nat) : Bool :=
  (s.waitingOn die).any (fun x => x.1.ctx = ctx && s.couldUse x.1 x.2 die cluster)
    || s.launches.any (fun l => l.ctx = ctx && l.linked && l.ending.isNone && !l.waits.isEmpty && (s.context ctx).places
        && l.dies.contains die && s.shapeFits l die cluster)

/-- A polite pre-emption is in progress there. -/
def Context.draining (c : Context) (bit : Nat) : Bool := c.drains.any (fun x => x.2 = none || x.2 = some bit)

/-- The active contexts that list a cluster. -/
def State.listing (s : State) (die cluster : Nat) : List Nat :=
  (List.range 16).filter (fun n => (s.context n).active && (s.context n).lists die cluster)

/-- The context that a cluster passes to: the next one in increasing number, wrapping, that has a waiting chorus. -/
def State.nextHolder (s : State) (die cluster : Nat) (cur : Option Nat) : Option Nat :=
  let listing := s.listing die cluster
  let order := match cur with
    | some n => listing.filter (n < ·) ++ listing.filter (· ≤ n)
    | none => listing
  match order.find? (fun n => s.wants n die cluster) with
  | some n => some n
  | none => match cur with
    | some n => if listing.contains n then some n else listing.head?
    | none => listing.head?

/-- The stop that a freeze has put on a core ends when the core passes to another context, which goes on (R207). -/
def State.unfreezeCore (s : State) (c : CoreId) : State :=
  let k := s.core c
  if k.stopped && (k.code = Code.key.num || k.code = Code.share.num) then s.resumeCore c else s

/-- A cluster passes on when its holder has nothing there and nothing waiting for it, or has given it up. -/
def State.passCluster (s : State) (die cluster : Nat) : State :=
  let h := s.holder die cluster
  let bit := clusterBit die cluster
  let stays : Bool := match h.ctx with
    | none => false
    | some n => s.residentOn n die cluster
        || ((s.listing die cluster).contains n && s.wants n die cluster && !(s.context n).draining bit)
  if stays then s
  else
    let next := s.nextHolder die cluster h.ctx
    let s := match h.ctx with
      | some n => s.modContext n (fun c => { c with drains := c.drains.filter (fun x => x.2 ≠ some bit) })
      | none => s
    if next = h.ctx then s
    else
      let s := s.modDie die (fun d => { d with holders := d.holders.set {} cluster { ctx := next } })
      (List.range 4).foldl (fun s k => (s.invalidateL1 { die, core := 4 * cluster + k }).unfreezeCore { die, core := 4 * cluster + k }) s

def State.passClusters (s : State) (die : Nat) : State := (List.range 12).foldl (fun s k => s.passCluster die k) s

/-- Every die's clusters. -/
def State.passAll (s : State) : State := (List.range 4).foldl State.passClusters s

/-! ### The status record (R373) -/

def LaunchEnd.code : LaunchEnd → Nat
  | .done => 0
  | .badHeader => 1
  | .noVariant => 2
  | .faulted => 3
  | .aborted => 4
  | .badImage => 5

/-- The 32 bytes of a fault report (R205), as a number. -/
def Report.number (r : Report) (more : Nat) : Nat :=
  r.code + 2 ^ 8 * r.inner + 2 ^ 16 * (r.coreid % 256) + 2 ^ 32 * r.pc.toNat + 2 ^ 64 * (r.clutch % 256)
    + 2 ^ 72 * (r.section_ % 256) + 2 ^ 80 * (r.slot % 256) + 2 ^ 96 * (r.chorus % 2 ^ 32) + 2 ^ 128 * r.mask.toNat
    + 2 ^ 224 * (more % 2 ^ 32)

/-- The 128 bytes of a launch's status record, as a number. -/
def Launch.statusNumber (l : Launch) (st : LaunchEnd) (finish : Nat) : Nat :=
  let fault : Nat := match st, l.report with
    | .faulted, some r => r.number l.more
    | _, _ => 0
  let first : Nat := match l.first with
    | some r => 2 ^ 416 * r.reason.num + 2 ^ 424 * r.lane + 2 ^ 432 * (r.dev % 2 ^ 16) + 2 ^ 448 * r.tag.toNat
        + 2 ^ 512 * r.addr.toNat
    | none => 0
  128 + st.code + 2 ^ 16 * (l.lid % 2 ^ 16) + 2 ^ 64 * l.retired + 2 ^ 128 * fault + 2 ^ 384 * l.refusals + first
    + 2 ^ 576 * l.start + 2 ^ 640 * finish

/-- The places of some bytes that an engine may write, none when one is missing. -/
def State.engineSpan (s : State) (die ctx va n : Nat) : Option (List Nat) :=
  let places := (vaRange va n).map (fun a => match s.engineByte (dieSide die) ctx a true with
    | .here pa => some pa
    | _ => none)
  if places.all (·.isSome) then some (places.filterMap id) else none

/-- Bytes at some places. -/
def placeBytes (places : List Nat) (value : Nat) : Store Byte :=
  gatherBytes (places.zip (bytesOfNat places.length value))

/-- A status record and its completion word are written: bytes 8 to 127, then 0 to 7, then the word, through the
leader's view of the context's page table. A record that cannot be written is dropped and logged. Nothing is written
while a lease covers a byte: it is recalled first (R308), which is the left outcome. -/
def State.writeStatus (s : State) (die ctx va done number : Nat) : State ⊕ State :=
  let record := s.engineSpan die ctx va 128
  let word := if done = 0 then none else s.engineSpan die ctx done 8
  match s.recall (record.getD [] ++ word.getD []) with
  | some s' => .inl s'
  | none =>
    let s := match record with
      | some places =>
        (s.writeBytes (placeBytes (places.drop 8) (number / 2 ^ 64))).writeBytes (placeBytes (places.take 8) (number % 2 ^ 64))
      | none => s.logEvent .droppedStatus die ctx 0 va
    .inr (match word with
      | some places =>
        let old := numberOf (places.map (Memory.read s.mem))
        s.writeBytes (placeBytes places ((old + 1) % 2 ^ 64))
      | none => s)

/-! ### Launches that end -/

/-- A linked launch's section departs: its peers are told (R321). -/
def State.sendDepart (s : State) (l : Launch) (index : Nat) (bad : Bool) : State :=
  if l.linked then
    (l.members.filter (· ≠ s.crucible.devnum)).foldl (fun s m =>
      s.send (.depart { s.placeTo l m index with bad })) s
  else s

/-- Node bins of a launch that stands for a node drop their records, and the node closes (R383, R384). -/
def State.closeNode (s : State) (l : Launch) : State :=
  match l.node with
  | none => s
  | some n => s.modNode l.ctx n (fun x => { x with
      open_ := false, closed := true, bins := x.bins.map (fun b => (b.1, { b.2 with recs := [] })) })

/-- The peers of a linked launch learn that it ends here, unless it is done or they said so first (R321). -/
def State.tellPeers (s : State) (l : Launch) (index : Nat) : State :=
  match l.ending with
  | some .done => s
  | some .badHeader => s.sendDepart l index true
  | _ => if l.departed.isSome then s else s.sendDepart l index false

/-- Every chorus of a launch is discarded, its collectives withdraw, and nothing more of it is placed (R204). -/
def State.killLaunch (s : State) (l : Launch) : State :=
  let mine := s.choruses.filter (fun (c : Chorus) => c.launch = l.uid)
  let s := s.tellPeers l ((mine.map (·.index)).headD 0)
  let s := mine.foldl (fun s c => ((if c.status = .resident then s.discard c else s.discardFutures c.die c.uid).freeSave l c).bury l c) s
  let s := ((s.withdrawAll l.uid).dropHeld l).closeNode l
  s.modLaunch l.uid (fun l => { l with stopped := true, grants := [], again := [], links := [], waits := [], live := [] })

/-! ### Contexts (R355) -/

/-- The launches of a context. -/
def State.launchesOf (s : State) (ctx : Nat) : List Launch := s.launches.filter (fun (l : Launch) => l.ctx = ctx)

/-- A chorus of a context is resident. -/
def State.anyResident (s : State) (ctx : Nat) : Bool :=
  (s.launchesOf ctx).any (fun l => s.choruses.any (fun c => c.holds && c.launch = l.uid))

/-- A command completes. -/
def State.commandDone (s : State) (result : Nat) : State :=
  s.modCrucible (fun c => { c with ctxBusy := none, ctxResult := result })

/-- A bin of a node holds records. -/
def Node.pending (n : Node) : Bool := n.bins.any (fun b => !b.2.recs.isEmpty)

/-- How a launch ends when DEACTIVATE has emptied its context: with every index retired it is DONE, a node whose bins
were empty is DONE, anything else is ABORTED (R374, R384). -/
def State.deactivatedEnd (s : State) (l : Launch) : LaunchEnd :=
  match s.nodeOf l with
  | some n => if n.pending || s.choruses.any (fun c => c.launch = l.uid) then .aborted else .done
  | none => if l.retired = l.total then .done else .aborted

/-- The report of a launch none of whose clutches met the departure of a peer (R321). -/
def departedReport (l : Launch) (index : Nat) : Report :=
  { code := Code.departed.num, section_ := l.section_, chorus := index }

/-- A launch that has learned of a departure, and that nothing else has ended, ends with DEPARTED (R321). -/
def State.endDeparted (s : State) (l : Launch) : State :=
  match l.ending, l.departed with
  | none, some j => s.launchFault l.uid (departedReport l j)
  | _, _ => s

/-- The launches of a context that is being deactivated end, now that none of its choruses is resident. -/
def State.endAll (s : State) (ctx : Nat) : State :=
  (s.launchesOf ctx).foldl (fun s l =>
    if l.stopped then s
    else
      let s := s.endDeparted l
      let l := (s.launch? l.uid).getD l
      let l := { l with ending := some (l.ending.getD (s.deactivatedEnd l)) }
      (s.modLaunch l.uid (fun _ => l)).killLaunch l) s

/-- The context is inactive: its descriptor, its clusters and its save area are given up (R355). -/
def State.closeContext (s : State) (ctx : Nat) : State :=
  let s := { s with contexts := s.contexts.set {} ctx {} }
  let off (d : Die) : Die := { d with steps := d.steps.filter (fun x => x.1 ≠ ctx) }
  let s := { s with dies := s.dies.map (fun (d : Nat × Die) => (d.1, off d.2)) }
  (if s.crucible.ctxBusy = some (4, ctx) then s.commandDone 0 else s).passAll

/-- What completes when a chorus or a launch of a context has gone. -/
def State.settleContext (s : State) (ctx : Nat) : State :=
  let c := s.context ctx
  if !c.active || c.frozen.isSome || s.anyResident ctx then s
  else if c.deactivating then
    let s := s.endAll ctx
    if (s.launchesOf ctx).isEmpty then s.closeContext ctx else s
  else
    let s := s.modContext ctx (fun c => { c with drains := c.drains.filter (fun x => x.2 ≠ none) })
    if s.crucible.ctxBusy = some (2, ctx) ∨ s.crucible.ctxBusy = some (3, ctx) then s.commandDone 0 else s

/-- A chorus of a launch has left its cores. -/
def State.left (s : State) (l : Launch) (die : Nat) : State := (s.passClusters die).settleContext l.ctx

/-! ### Linked choruses (R313) -/

/-- The device that coordinates a linked launch. -/
def Launch.coordinator (l : Launch) : Nat := l.members.getD 0 0

/-- Forced pre-emption of a chorus; a section tells the coordinator, and the chorus is abandoned as a whole. -/
def State.abandonAny (s : State) (l : Launch) (c : Chorus) : State :=
  let s := s.abandon l c
  let s := if l.linked then
      s.send (.abandon { s.placeTo l l.coordinator c.index with epoch := c.epoch })
    else s
  s.left l c.die

/-- Forced pre-emption reaches resident choruses; a reservation is the coordinator's. -/
def Chorus.running (c : Chorus) : Bool := decide (c.status = .resident) || decide (c.status = .exitHeld)

end Sys2Proof.Machine
end

