-- ==== Sys2Proof/Machine/Endings.lean ====
section
/-! DEFINITION. Retirement of a chorus (R16, R320), the stop of a launch that ends by a fault (R204), and the end of a
launch (R348, R373, R374). -/

namespace Sys2Proof.Machine

/-! ### CHORUS_RETIRE -/

/-- Every section of a linked chorus is DETACHED, as far as this member knows (R319, R320). -/
def Chorus.allDetached (c : Chorus) (sections : Nat) : Bool :=
  c.detached && (List.range sections).all (fun i => i = c.section_ || (c.peers.get {} i).detached)

/-- A chorus has plain writes in an open window, or an access that has not been performed. -/
def State.writesOpen (s : State) (uid : Nat) : Bool :=
  s.dies.any (fun d => d.2.windows.any (fun w => w.who.any (fun who => who.chorus = uid)))

def State.accessOpen (s : State) (uid : Nat) : Bool :=
  s.writesOpen uid || s.landings.any (fun p => p.who.chorus = uid && p.access.isSome)

/-- The last clutch has ended, and every copy has finished that does not wait at step 1 of R285 (R289). A launch that has learned
of a departure ends with DEPARTED instead (R321). -/
def State.mayRetire (s : State) (l : Launch) (c : Chorus) : Bool :=
  c.running && c.clutches.all (·.ended) && l.ending.isNone && l.departed.isNone && (s.context l.ctx).frozen.isNone
    && !s.accessOpen c.uid && (s.copiesOf c.uid).all c.holdsCopy

/-- The coordinators that were answered NOROOM learn of a retirement (R311). -/
def State.payNotices (s : State) : State :=
  let owed := s.crucible.owedNotices
  owed.foldl (fun s p => s.send (.retired p)) (s.modCrucible (fun c => { c with owedNotices := [] }))

/-- A chorus retires: what it holds is freed, and what waits for that goes on. -/
def State.retire (s : State) (l : Launch) (c : Chorus) : State :=
  let s := (s.copiesOf c.uid).foldl State.cancelCopy s
  let s := (s.dropLandings (fun p => p.who.chorus = c.uid)).dropWatches c.die c.uid
  let s := (((s.retireFutures c.die c.uid).markIdle c).bury l c).modLaunch l.uid (fun l => { l with
    retired := l.retired + 1, live := l.live.filter (fun x => x.1 ≠ c.index)
    links := l.links.filter (fun x => x.index ≠ c.index) })
  let s := match l.node with
    | some n => s.releaseBin l.ctx n c.die
    | none => s
  (s.payNotices).left l c.die

/-- CHORUS_RETIRE. A section whose peers are not all DETACHED holds its exit. -/
def execChorusRetire (uid : Nat) (s : State) : Out :=
  match s.chorus? uid with
  | none => .next s
  | some c =>
    match s.launch? c.launch with
    | none => .next s
    | some l =>
      .next (
        if !s.mayRetire l c then s
        else if l.linked && !c.allDetached l.hdr.sections then s.modChorus uid (fun c => { c with status := .exitHeld })
        else s.retire l c)

/-! ### LAUNCH_FATAL_END -/

/-- LAUNCH_FATAL_END: within 50 µs every core has stopped the launch's clutches, and their resources are freed. Writes
already gathered are performed first. A frozen context's launches wait for the end of the freeze. -/
def execLaunchFatalEnd (launch : Nat) (s : State) : Out :=
  match s.launch? launch with
  | none => .next s
  | some l =>
    if l.stopped ∨ (s.context l.ctx).frozen.isSome
        ∨ s.choruses.any (fun c => c.launch = launch && s.writesOpen c.uid) then .next s
    else
      let s := s.endDeparted l
      match s.launch? launch with
      | none => .next s
      | some l =>
        .next (if l.ending.isNone then s else ((s.killLaunch l).passAll).settleContext l.ctx)

/-! ### LAUNCH_COMPLETE -/

/-- Elements, requests, copies and collectives of a launch are settled, and its writes performed (R348). -/
def State.quiet (s : State) (l : Launch) : Bool :=
  s.dies.all (fun d => d.2.windows.all (fun w => w.launch ≠ some l.uid)) && s.owed.all (fun o => o.launch ≠ l.uid) && s.crucible.unsettled.all (fun u => u.launch ≠ l.uid) && s.crucible.asked.all (fun a => a.launch ≠ l.uid)
    && s.crucible.collsOpen.all (fun c => c.launch ≠ l.uid)
    && s.dies.all (fun d => d.2.cores.all (fun k => k.2.queue.all (fun q => q.launch ≠ l.uid)))
    && s.choruses.all (fun c => c.launch ≠ l.uid)

/-- How a launch ends, if it may end now. -/
def State.endOf (s : State) (l : Launch) : Option LaunchEnd :=
  if !s.quiet l ∨ (s.context l.ctx).frozen.isSome then none
  else match l.ending with
    | some st => if l.stopped then some st else none
    | none => if l.node.isNone && l.departed.isNone && l.retired = l.total then some .done else none

/-- LAUNCH_COMPLETE: the status record and the completion word are written, and the queue goes on. -/
def execLaunchComplete (launch : Nat) (s : State) : Out :=
  match s.launch? launch with
  | none => .next s
  | some l =>
    match s.endOf l with
    | none => .next s
    | some st =>
      match s.bringSpans l.leader l.ctx [(l.statusVa, 128), (l.doneVa, if l.doneVa = 0 then 0 else 8)] with
      | none => .next s
      | some s =>
      match s.writeStatus l.leader l.ctx l.statusVa l.doneVa (l.statusNumber st (s.die l.leader).cycle.toNat) with
      | .inl s => .next s
      | .inr s =>
        let s := { s with launches := s.launches.filter (fun (x : Launch) => x.uid ≠ launch) }
        let s := match l.queue with
          | some q => s.modCrucible (fun c => { c with queues := c.queues.modify {} q (fun x =>
              if x.running = some launch then { x with running := none } else x) })
          | none => s
        .next ((s.dropHeld l).active.settleContext l.ctx)

end Sys2Proof.Machine
end

