-- ==== Sys2Proof/Machine/Placement.lean ====
section
/-! DEFINITION. Placement by a die's dispatcher (R363 to R366). -/

namespace Sys2Proof.Machine

/-! ### Waiting times (R363, R365) -/

/-- Multiples of 2 ms that a wait has passed, as far as they lower a class. -/
def agedBy (wait : Nat) : Nat := min 3 (wait / agingStep)

/-- A waiting chorus of a die. -/
def Chorus.waitsOn (c : Chorus) (die : Nat) : Bool :=
  c.die = die && (c.status = .released || c.status = .abandoned || c.status = .saved)

/-- Bring the waiting times of a die's candidates up to date. -/
def State.ageAll (s : State) (die : Nat) : State :=
  { s with
    choruses := s.choruses.map (fun (c : Chorus) =>
      if c.waitsOn die then { c with aged := max c.aged (agedBy (s.now - c.since)) } else c)
    launches := s.launches.map (fun (l : Launch) => { l with
      grants := l.grants.map (fun (g : GrantRec) =>
        if g.die = die then { g with aged := max g.aged (agedBy (s.now - g.since)) } else g) }) }

/-- Mark the candidates of a die whose waiting time has reached 6 ms. -/
def State.starveAll (s : State) (die : Nat) : State :=
  { s with
    choruses := s.choruses.map (fun (c : Chorus) =>
      if c.waitsOn die then { c with starved := c.starved || c.since + starvation ≤ s.now } else c)
    launches := s.launches.map (fun (l : Launch) => { l with
      grants := l.grants.map (fun (g : GrantRec) =>
        if g.die = die then { g with starved := g.starved || g.since + starvation ≤ s.now } else g) }) }

/-- ENERGY_CLASS_AGING: effective classes follow the waiting times (R363). -/
def execEnergyClassAging (die : Nat) (s : State) : Out := .next (s.ageAll die)

/-- CANDIDATE_STARVED: a waiting time has reached 6 ms (R365). -/
def execCandidateStarved (die : Nat) (s : State) : Out := .next (s.starveAll die)

/-- The effective class of a candidate (R363). -/
def effectiveClass (h : Header) (aged : Nat) : Nat := h.energy - aged

/-! ### DISPATCHER_PLACEMENT (R365) -/

/-- The scan order: PRIO, then the longer wait, then the lower index. -/
def scansBefore (x y : Launch × Chorus) : Bool :=
  x.1.prio < y.1.prio || (x.1.prio = y.1.prio && (x.2.since < y.2.since
    || (x.2.since = y.2.since && x.2.index ≤ y.2.index)))

/-- While a starved candidate waits, only it, or one starved longer, may be placed. -/
def allowedBy (starved : List Nat) (c : Chorus) : Bool := starved.all (fun t => c.starved && c.since ≤ t)

/-- Room for a candidate on some cores: a saved chorus only where it was. -/
def State.candidateRoom (s : State) (l : Launch) (c : Chorus) (cores : List Nat) : Option Room :=
  if c.status = .saved then
    if cores = c.cores && s.mayPlaceOn l.ctx c.die (cores.headD 0 / 4) then s.roomBack c l.hdr else none
  else s.fitsOn l c.die cores

/-- The cores a candidate is placed on: the dispatcher's choice where it fits, else the first that fit. -/
def State.chooseCores (s : State) (l : Launch) (c : Chorus) (at_ : Nat) : Option (List Nat × Room) :=
  let groups := if c.status = .saved then [c.cores] else coreGroups l.hdr
  let order := groups.filter (fun g => g.headD 0 = at_) ++ groups
  order.findSome? (fun g => (s.candidateRoom l c g).map (fun r => (g, r)))

/-- The first candidate that fits, with its cores. -/
def State.firstFitting (s : State) (die at_ : Nat) : Option (Launch × Chorus × List Nat × Room) :=
  let cands := s.candidates die
  let starved := (cands.filter (fun x => x.2.starved)).map (fun x => x.2.since)
  let fits := cands.filterMap (fun (l, c) =>
    if allowedBy starved c && s.energyFits die l.hdr (effectiveClass l.hdr c.aged) then
      (s.chooseCores l c at_).map (fun (g, r) => (l, c, g, r))
    else none)
  fits.foldl (fun a x => match a with
    | none => some x
    | some b => some (if scansBefore (b.1, b.2.1) (x.1, x.2.1) then b else x)) none

/-- A saved chorus takes up its cores, its registers and its energy charge again (R369); its volatile registers are
undefined (R95). -/
def State.restore (s : State) (l : Launch) (c : Chorus) (r : Room) : State :=
  let s := s.takeCores c.die c.cores l.hdr
  let back (cl : Clutch) : Clutch := if l.hdr.volCount = 0 then cl else cl.loseVolatile s.tick l.hdr
  (s.freeSave l c).bump.putChorus { c with
    status := .resident, clutches := c.clutches.map back, scratchBase := r.base, accStarts := r.rows
    charge := (s.die c.die).chargeOf l.hdr, saveBytes := 0, aged := 0, starved := false }

/-- A candidate is placed in one step (R16). A node chorus acquires what its records' writers released (R347). -/
def State.place (s : State) (l : Launch) (c : Chorus) (cores : List Nat) (r : Room) : State :=
  let known := (s.chorus? c.uid).isSome
  let (c, s) := s.copyRecords c
  let s := if known then s else { s with fresh := s.fresh + 1 }
  let s := s.modLaunch l.uid (fun l => { l with
    grants := l.grants.filter (fun (g : GrantRec) => !(g.die = c.die && g.index = c.index)) })
  let s := if c.status = .saved then s.restore l c r else s.install l c cores r .resident
  let s := if l.node.isSome then cores.foldl (fun s k => s.invalidateL1 { die := c.die, core := k }) s else s
  s.started l c.uid

/-- DISPATCHER_PLACEMENT: one placement, of the first candidate that fits. Cores that rest are woken first (R372). -/
def execDispatcherPlacement (die at_ : Nat) (s : State) : Out :=
  if !s.crucible.ready ∨ !s.dieLive die then .next s
  else
    let s := (((s.ageAll die).starveAll die).passClusters die)
    match s.firstFitting die at_ with
    | none => .next s
    | some (l, c, cores, r) =>
      .next (if s.asleep || cores.any (fun k => (s.core { die, core := k }).resting) then s.startWake
        else s.place l c cores r)

end Sys2Proof.Machine
end

