-- ==== Sys2Proof/Machine/Linked.lean ====
section
/-! DEFINITION. The placement of linked choruses: reserve, commit and abort, abandonment, attach and detach notices, and
departures (R311 to R321). -/

namespace Sys2Proof.Machine

/-! ### What the messages name -/

/-- The header as a reserve carries it, for the comparison of R362. -/
def Header.fields (h : Header) : List Nat :=
  [if h.cluster then 1 else 0, h.clutches, h.regs, h.uniform, h.volFirst, h.volCount, h.moments, h.barriers, h.accRows,
    h.scratch, if h.restartable then 1 else 0, h.energy, h.sections, h.nvar, h.dataOff, h.dataLen]
    ++ h.vars

/-- The linked launch here that a message of another member names, of the tenant whose key it carries. -/
def State.linkedLaunch (s : State) (p : Place) : Option Launch :=
  s.launches.find? (fun l => l.linked && l.lid = p.lid && l.ctx = (s.rcvKey p.keyidx).ctx && l.members.contains p.srcDev
    && l.ending.isNone)

/-- The linked launch here whose section a reserve asks for. -/
def State.reservedLaunch (s : State) (p : Place) : Option Launch :=
  s.launches.find? (fun l => l.linked && l.lid = p.lid && l.ctx = (s.rcvKey p.keyidx).ctx && l.section_ = p.section_
    && l.ending.isNone)

/-- The section of a launch's index on this device. -/
def State.sectionOf (s : State) (l : Launch) (index : Nat) : Option Chorus :=
  s.choruses.find? (fun c => c.launch = l.uid && c.index = index)

def State.modLink (s : State) (launch index : Nat) (g : LinkRec → LinkRec) : State :=
  s.modLaunch launch (fun l => { l with links := updateFirst (fun x => x.index = index) g l.links })

/-- A message to every member of a launch, this device among them. -/
def State.toMembers (s : State) (l : Launch) (msg : Nat → Nat → Msg) : State :=
  l.members.zipIdx.foldl (fun s (m, i) => s.send (msg m i)) s

/-- The same for a message that is sent again until it is acknowledged (R311). -/
def State.toMembersOwed (s : State) (l : Launch) (msg : Nat → Nat → Msg) : State :=
  l.members.zipIdx.foldl (fun s (m, i) => s.sendOwed (msg m i)) s

/-- A placement message arrives; the port drops one whose key it does not accept (R309). -/
def State.withPlace (s : State) (p : Place) (m : Msg) (k : State → Out) : Out :=
  match s.receive p.srcDev p.dstDev m with
  | none => .next s
  | some t => if (t.rcvKey p.keyidx).accepts p.key then k t else .next (t.dropPacket p.srcDev p.keyidx)

/-- The placement message that a message of the fabric is, if it must be acknowledged. -/
def owedPlace (m : Msg) : Option Place :=
  match m with
  | .commit p | .abort p | .attached p | .detached p => some p
  | _ => none

/-- A placement message that has not been acknowledged is sent again (R311, R318). -/
def State.resendPlace (s : State) (m : Msg) : Out :=
  .next (if s.crucible.placeOwed.contains m then s.send m else s)

/-- The acknowledgement of a placement message arrives; one of this device's own must be under way. -/
def State.placeAcked (s : State) (m : Msg) : Out :=
  let settled (s : State) : State := s.modCrucible (fun c => { c with placeOwed := c.placeOwed.erase m })
  match owedPlace m with
  | none => .next s
  | some p =>
    match s.receive p.dstDev p.srcDev (.acked m) with
    | none => .next s
    | some t => .next (settled t)

/-! ### The coordinator (R311) -/

/-- Reserves for an index go out to every member, with the epoch of its next placement. -/
def State.askPlace (s : State) (l : Launch) (k : LinkRec) : State :=
  let s := s.modLink l.uid k.index (fun x => { x with
    attempt := k.attempt + 1, answered := [], asking := true, committed := false, since := s.now, refuser := none })
  s.toMembers l (fun m i => .reserve { s.placeTo l m k.index with
    epoch := k.epoch, section_ := i, attempt := k.attempt + 1, hdr := l.hdr.fields, members := l.members })

/-- A granted index of a linked launch begins its placement. -/
def State.openLink (s : State) (launch index : Nat) : State :=
  let s := s.modLaunch launch (fun l => { l with links := l.links ++ [{ index }] })
  match s.launch? launch with
  | some l => s.askPlace l { index }
  | none => s

/-- The attempt fails: every reservation for the index is released. -/
def State.abortPlace (s : State) (l : Launch) (k : LinkRec) (refuser : Option Nat) : State :=
  let s := s.modLink l.uid k.index (fun x => { x with asking := false, since := s.now, refuser })
  s.toMembersOwed l (fun m i => .abort { s.placeTo l m k.index with
    epoch := k.epoch, section_ := i, attempt := k.attempt })

/-- Every member has answered RESERVED: the placement stands. -/
def State.commitPlace (s : State) (l : Launch) (k : LinkRec) : State :=
  let s := s.modLink l.uid k.index (fun x => { x with
    asking := false, committed := true, epoch := (k.epoch + 1) % 2 ^ 16, since := s.now })
  s.toMembersOwed l (fun m i => .commit { s.placeTo l m k.index with
    epoch := k.epoch, section_ := i, attempt := k.attempt })

/-- The coordinator's record of the index that an answer is about. -/
def Launch.link (l : Launch) (index : Nat) : Option LinkRec :=
  if l.section_ = 0 then l.links.find? (fun x => x.index = index) else none

/-- PLACE_RESERVED. An answer to an attempt that has failed releases the reservation again. -/
def execPlaceReserved (p : Place) (s : State) : Out :=
  s.withPlace p (.reserved p) fun s =>
    match s.linkedLaunch p with
    | none => .next s
    | some l =>
      match l.link p.index with
      | none => .next s
      | some k =>
        if k.asking ∧ p.attempt = k.attempt ∧ l.members.getD p.section_ 512 = p.srcDev then
          let answered := setInsert k.answered p.section_
          let k := { k with answered }
          .next (if (List.range l.members.length).all (answered.contains ·) then s.commitPlace l k
            else s.modLink l.uid k.index (fun _ => k))
        else if p.attempt < k.attempt ∨ !k.committed then
          .next (s.sendOwed (.abort { s.placeTo l p.srcDev k.index with section_ := p.section_, attempt := p.attempt }))
        else .next s

/-- A launch ends with BAD_HEADER on every member (R362). -/
def State.badLaunch (s : State) (l : Launch) : State :=
  s.modLaunch l.uid (fun l => { l with ending := some (l.ending.getD .badHeader) })

/-- PLACE_NOROOM: the attempt fails; a mismatch ends the launch. -/
def execPlaceNoroom (p : Place) (s : State) : Out :=
  s.withPlace p (.noroom p) fun s =>
    match s.linkedLaunch p with
    | none => .next s
    | some l =>
      if p.bad then .next (s.badLaunch l)
      else match l.link p.index with
        | none => .next s
        | some k => .next (if k.asking && p.attempt = k.attempt then s.abortPlace l k (some p.srcDev) else s)

/-- RESERVE_TIMEOUT: some member has not answered within 100 µs. -/
def execReserveTimeout (launch index : Nat) (s : State) : Out :=
  match s.launch? launch with
  | none => .next s
  | some l =>
    match l.link index with
    | none => .next s
    | some k =>
      let silent := (l.members.zipIdx.find? (fun x => !k.answered.contains x.2)).map (·.1)
      .next (if k.asking && l.ending.isNone && k.since + 100 * microsecond ≤ s.now then s.abortPlace l k silent else s)

/-- An index waits for another attempt. -/
def State.mayAsk (s : State) (l : Launch) (k : LinkRec) : Bool :=
  !k.asking && !k.committed && l.ending.isNone && (s.context l.ctx).places

/-- PLACE_RETRY: 1 ms after the last attempt. -/
def execPlaceRetry (launch index : Nat) (s : State) : Out :=
  match s.launch? launch with
  | none => .next s
  | some l =>
    match l.link index with
    | none => .next s
    | some k => .next (if s.mayAsk l k && k.since + 1000 * microsecond ≤ s.now then s.askPlace l k else s)

/-- PLACE_RETIRED: the device that refused last has retired a chorus. -/
def execPlaceRetired (p : Place) (s : State) : Out :=
  s.withPlace p (.retired p) fun s =>
    match s.linkedLaunch p with
    | none => .next s
    | some l =>
      match l.link p.index with
      | none => .next s
      | some k => .next (if s.mayAsk l k && k.refuser = some p.srcDev then s.askPlace l k else s)

/-! ### The members (R311, R312) -/

/-- A reserve is refused, and the coordinator will hear of the next retirement here. -/
def State.noroom (s : State) (p : Place) (bad : Bool) : State :=
  let back : Place := { p with srcDev := p.dstDev, dstDev := p.srcDev, hdr := [], members := [], bad }
  let s := s.send (.noroom back)
  if bad ∨ s.crucible.owedNotices.contains { back with attempt := 0 } then s
  else s.modCrucible (fun c => { c with owedNotices := c.owedNotices ++ [{ back with attempt := 0 }] })

/-- Cores for a section: the first die and group of cores with room, by the conditions of a placement (R365). -/
def State.sectionRoom (s : State) (l : Launch) (c : Chorus) (wait : Nat) : Option (Nat × List Nat × Room) :=
  l.dies.findSome? (fun die =>
    let starved := ((s.candidates die).filter (fun x => x.2.starved)).map (fun x => x.2.since)
    let c := { c with die, since := s.now - wait, starved := decide (starvation ≤ wait) }
    if s.dieLive die && (s.context l.ctx).places && allowedBy starved c
        && s.energyFits die l.hdr (effectiveClass l.hdr (agedBy wait)) then
      (s.chooseCores l c 48).map (fun (g, r) => (die, g, r))
    else none)

/-- A member answers a reserve. -/
def State.answerReserve (s : State) (p : Place) : State :=
  match s.reservedLaunch p with
  | none => s.noroom p false
  | some l =>
    if l.hdr.fields ≠ p.hdr ∨ l.members ≠ p.members then (s.badLaunch l).noroom p true
    else
      let reply : Msg := .reserved { p with srcDev := p.dstDev, dstDev := p.srcDev, hdr := [], members := [] }
      let old := s.sectionOf l p.index
      if old.any (fun c => c.status = .reserved) then
        (s.modChorus ((old.map (·.uid)).getD 0) (fun c => { c with attempt := max c.attempt p.attempt })).send reply
      else if old.any Chorus.running then s.noroom p false
      else
        let s := s.passAll.modLaunch l.uid (fun l => { l with
          waits := l.waits.modify 0 p.index (fun w => if w = 0 then 1 + s.now else w) })
        let began := match s.launch? l.uid with
          | some l => l.waits.get 0 p.index - 1
          | none => s.now
        let c : Chorus := old.getD { uid := s.fresh, launch := l.uid, index := p.index, section_ := l.section_, die := 0 }
        match s.sectionRoom l c (s.now - began) with
        | none => s.noroom p false
        | some (die, cores, r) =>
          let s := { s with fresh := s.fresh + 1 }
          ((s.install l { c with die, epoch := p.epoch } cores r .reserved).modChorus c.uid
            (fun c => { c with attempt := p.attempt })).modDie die (fun d => { d with placedAt := s.now + 1 })
            |>.send reply

/-- PLACE_RESERVE. -/
def execPlaceReserve (p : Place) (s : State) : Out :=
  s.withPlace p (.reserve p) fun s => .next (s.answerReserve p)

/-- Held window elements of an index meet its placement (R312). -/
def State.admitHeld (s : State) (l : Launch) (index : Nat) : State :=
  let mine (x : Element) : Bool := x.ctx = l.ctx && x.win.any (fun w => w.lid = l.lid && w.section_ = l.section_ && w.index = index)
  let held := s.windowHeld.filter mine
  held.foldl (fun s x => match x.win with
    | some w => s.windowElement x l.ctx w
    | none => s) { s with windowHeld := s.windowHeld.filter (fun x => !mine x) }

/-- A reserved section is placed under an epoch. -/
def State.commitSection (s : State) (l : Launch) (c : Chorus) (epoch : Nat) : State :=
  let s := s.modChorus c.uid (fun c => { c with status := .resident, epoch })
  let s := s.modLaunch l.uid (fun l => { l with
    epochs := l.epochs.set 0 c.index (epoch + 1), waits := l.waits.set 0 c.index 0 })
  (s.started l c.uid).admitHeld l c.index

/-- PLACE_COMMIT. A section whose reservation went with a lost die is abandoned at once. -/
def execPlaceCommit (p : Place) (s : State) : Out :=
  s.withPlace p (.commit p) fun s =>
    let s := s.send (.acked (.commit p))
    match s.reservedLaunch p with
    | none => .next s
    | some l =>
      match s.sectionOf l p.index with
      | none => .next s
      | some c =>
        if c.status = .reserved ∧ c.attempt = p.attempt then .next (s.commitSection l c p.epoch)
        else if c.status = .abandoned ∧ c.attempt = p.attempt then
          .next (s.send (.abandon { s.placeTo l l.coordinator p.index with epoch := p.epoch }))
        else .next s

/-- A reservation is given back, with its charge: a chorus that was placed before goes on waiting. -/
def State.giveUpReservation (s : State) (l : Launch) (c : Chorus) : State :=
  let s := if l.epochs.get 0 c.index = 0 then { s with choruses := s.choruses.filter (fun (x : Chorus) => x.uid ≠ c.uid) }
    else s.modChorus c.uid (fun c => { c.bare .abandoned with since := s.now })
  (s.markIdle c).left l c.die

/-- PLACE_ABORT. -/
def execPlaceAbort (p : Place) (s : State) : Out :=
  s.withPlace p (.abort p) fun s =>
    let s := s.send (.acked (.abort p))
    match s.reservedLaunch p with
    | none => .next s
    | some l =>
      match s.sectionOf l p.index with
      | none => .next s
      | some c => .next (if c.status = .reserved && c.attempt ≤ p.attempt then s.giveUpReservation l c else s)

/-! ### Abandonment (R313) -/

/-- The own section of a placement is abandoned. -/
def State.abandonSection (s : State) (l : Launch) (index epoch : Nat) : State :=
  match s.sectionOf l index with
  | none => s
  | some c => if c.running && c.epoch = epoch then (s.abandon l c).left l c.die else s

/-- The coordinator abandons a committed placement on every member, and reserves anew. -/
def State.relayAbandon (s : State) (l : Launch) (k : LinkRec) (epoch : Nat) : State :=
  let self := s.crucible.devnum
  let s := (l.members.filter (· ≠ self)).foldl (fun s m =>
    s.send (.abandon { s.placeTo l m k.index with epoch })) s
  let s := (s.abandonSection l k.index epoch).modLink l.uid k.index (fun x => { x with committed := false, since := s.now })
  if (s.context l.ctx).places then s.askPlace l { k with committed := false } else s

/-- PLACE_ABANDON: the coordinator relays it, a member obeys the coordinator. One that comes before the commit of its
epoch waits for it. -/
def execPlaceAbandon (p : Place) (s : State) : Out :=
  s.withPlace p (.abandon p) fun t =>
    match t.linkedLaunch p with
    | none => .next t
    | some l =>
      match l.link p.index with
      | some k =>
        .next (if k.committed && (p.epoch + 1) % 2 ^ 16 = k.epoch then t.relayAbandon l k p.epoch else t)
      | none =>
        if p.srcDev ≠ l.coordinator then .next t
        else match t.sectionOf l p.index with
          | some c => if c.status = .reserved then .next s else .next (t.abandonSection l p.index p.epoch)
          | none => .next t

/-! ### Notices (R318 to R321) -/

/-- What a member learns of a peer section, once its own section of that placement is here. -/
def State.noticePeer (s t : State) (p : Place) (g : Peer → Peer) : State :=
  match t.linkedLaunch p with
  | none => t
  | some l =>
    match t.sectionOf l p.index with
    | none => if l.epochs.get 0 p.index = 0 then s else t
    | some c =>
      match epochOf c.epoch p.epoch with
      | .older => t
      | .newer => s
      | .current =>
        if c.running then
          t.modChorus c.uid (fun c => { c with peers := c.peers.modify {} p.section_ g }.settleAttach l.hdr.sections)
        else if c.status = .reserved then s else t

/-- PLACE_ATTACHED. -/
def execPlaceAttached (p : Place) (s : State) : Out :=
  s.withPlace p (.attached p) fun t => .next (s.noticePeer (t.send (.acked (.attached p))) p (fun x => { x with attached := true }))

/-- PLACE_DETACHED. -/
def execPlaceDetached (p : Place) (s : State) : Out :=
  s.withPlace p (.detached p) fun t => .next (s.noticePeer (t.send (.acked (.detached p))) p (fun x => { x with detached := true }))

/-- A launch learns that a peer section has departed: it will end here too (R321). -/
def State.noteDeparture (s : State) (l : Launch) (index : Nat) : State :=
  let s := s.modLaunch l.uid (fun l => { l with departed := some (l.departed.getD index) })
  { s with choruses := s.choruses.map (fun (c : Chorus) => if c.launch = l.uid then { c with departed := true }.settleAttach l.hdr.sections else c) }

/-- PLACE_DEPART. -/
def execPlaceDepart (p : Place) (s : State) : Out :=
  s.withPlace p (.depart p) fun s =>
    match s.linkedLaunch p with
    | none => .next s
    | some l => .next (if p.bad then s.badLaunch l else s.noteDeparture l p.index)

/-! ### Lost devices (R311, R321) -/

/-- A linked launch loses a member device. The coordinator acts for the others; without it, every member releases its
reservations. A restartable launch abandons its choruses, any other departs. -/
def State.launchLosesPeer (s : State) (l : Launch) (dev : Nat) : State :=
  let lead : Bool := l.section_ = 0
  if !lead ∧ l.coordinator ≠ dev then s
  else
    let s := if lead then s else
      (s.choruses.filter (fun (c : Chorus) => c.launch = l.uid && c.status = .reserved)).foldl
        (fun s c => s.giveUpReservation l c) s
    if l.hdr.restartable then
      if lead then
        (l.links.filter (fun k => k.committed)).foldl (fun s k =>
          s.relayAbandon l k ((k.epoch + 2 ^ 16 - 1) % 2 ^ 16)) s
      else (s.choruses.filter (fun (c : Chorus) => c.launch = l.uid && c.running)).foldl
        (fun s c => (s.abandon l c).left l c.die) s
    else
      let s := s.noteDeparture l 0
      if lead then s.sendDepart l 0 false else s

/-- Every linked launch that a lost device is a member of. -/
def State.losePeerLinked (s : State) (dev : Nat) : State :=
  (s.launches.filter (fun (l : Launch) => l.linked && l.ending.isNone && dev ≠ s.crucible.devnum && l.members.contains dev)).foldl
    (fun s l => s.launchLosesPeer l dev) s

end Sys2Proof.Machine
end

