-- ==== Sys2Proof/Machine/Grants.lean ====
section
/-! DEFINITION. The grant of chorus indices (R22, R23), heartbeats and lost dies (R23, R24). -/

namespace Sys2Proof.Machine

/-! ### CHORUS_INDEX_GRANT (R22, R23) -/

/-- Granted indices that a die has not yet placed. -/
def Launch.unplaced (l : Launch) (die : Nat) : Nat := l.grants.countP (fun g => g.die = die) + l.links.countP (fun x => !x.committed)

/-- The indices of a grant: none at or above 2^24 while the chorus of the index 2^24 lower is live (R292). -/
def Launch.grantable (l : Launch) (n : Nat) : List Nat :=
  let run := (List.range (min n (l.total - l.next))).map (l.next + ·)
  run.takeWhile (fun j => !(2 ^ 24 ≤ j && l.live.any (fun x => x.1 = j - 2 ^ 24)))

/-- The oldest indices of a lost die are granted again, to another die (R24). -/
def State.grantAgain (s : State) (launch die n : Nat) : State :=
  s.modLaunch launch (fun l =>
    let run := l.again.take n
    { l with
      again := l.again.drop n
      grants := l.grants ++ run.map (fun x => { die, index := x.1, since := s.now, uid := x.2 })
      live := l.live.map (fun x => if run.any (fun y => y.1 = x.1) then (x.1, die) else x) })

/-- CHORUS_INDEX_GRANT: the leader grants up to 32 consecutive indices to a participating die that holds fewer than 8,
and every mirror takes the grant in the same step; those of a lost die come first. The coordinator reserves each index of a
linked launch at once (R311). -/
def execChorusIndexGrant (launch die n : Nat) (s : State) : Out :=
  match s.launch? launch with
  | none => .next s
  | some l =>
    if l.node.isSome ∨ l.ending.isSome ∨ !l.dies.contains die ∨ !s.dieLive die ∨ !(s.context l.ctx).active
        ∨ (s.context l.ctx).frozen.isSome ∨ (s.context l.ctx).deactivating ∨ 32 < n ∨ 8 ≤ l.unplaced die
        ∨ (l.linked ∧ (l.section_ ≠ 0 ∨ die ≠ l.leader ∨ !(s.context l.ctx).places)) then .next s
    else if !l.again.isEmpty then .next (s.grantAgain launch die n)
    else
      let run := l.grantable n
      let live := l.live ++ run.map (fun j => (j, die))
      let s := s.modLaunch launch (fun l => { l with next := l.next + run.length, live })
      .next (if l.linked then run.foldl (fun s j => s.openLink launch j) s
        else s.modLaunch launch (fun l => { l with
          grants := l.grants ++ run.map (fun j => { die, index := j, since := s.now }) }))

/-! ### Heartbeats and lost dies (R23, R24) -/

/-- HEARTBEAT, every 10 µs: each serving die answers or misses. One that has missed four is lost, and answers no more. -/
def execHeartbeat (s : State) : Out :=
  if s.now < s.crucible.beatAt + 10 * microsecond then .next s else
  let s := s.modCrucible (fun c => { c with beatAt := s.now })
  let beat (d : Nat) (x : Die) : Die :=
    if !x.serving ∨ x.lost then x
    else if x.missed < 4 ∧ Config.freePick s.tick d = true then { x with missed := 0 } else { x with missed := x.missed + 1 }
  .next { s with dies := s.dies.map (fun (d : Nat × Die) => (d.1, beat d.1 d.2)) }.bump

/-- The number that stands for no die: of a chorus whose index has not been granted again. -/
def noDie : Nat := 4

/-- Insert an index in rising order. -/
def insertIndex (x : Nat × Option Nat) : List (Nat × Option Nat) → List (Nat × Option Nat)
  | [] => [x]
  | y :: rest => if y.1 < x.1 then y :: insertIndex x rest else x :: y :: rest

/-- A launch loses a participating die. The indices that it held and that have not retired are granted again to the dies that
ask, and their choruses start afresh with the same tags; the choruses of a node, and the sections of a linked launch, go to
the leader (log 51). Without a surviving die, or a restartable kernel, the launch ends. -/
def State.launchLosesDie (s : State) (l : Launch) (die : Nat) : State :=
  let dies := l.dies.filter (· ≠ die)
  let leader := dies.foldl min (dies.headD l.leader)
  let s := s.modLaunch l.uid (fun l => { l with dies, leader })
  if !l.hdr.restartable ∨ dies.isEmpty then s.launchFault l.uid { code := Code.dieLost.num, section_ := l.section_ }
  else
    let mine := s.choruses.filter (fun (c : Chorus) => c.launch = l.uid && c.die = die)
    let regrant : Bool := l.node.isNone && !l.linked
    let s := mine.foldl (fun s c =>
      let s := if c.holds && c.status ≠ .reserved then s.abandonAny l c else s.freeSave l c
      s.modChorus c.uid (fun x => { x.bare (if x.status = .released then .released else .abandoned) with
        die := if regrant then noDie else leader, since := s.now, attempt := x.attempt, forced := false })) s
    if regrant then
      s.modLaunch l.uid (fun l =>
        let held := (l.grants.filter (fun (g : GrantRec) => g.die = die)).map (fun g => (g.index, g.uid))
        let all := held ++ mine.map (fun c => (c.index, some c.uid))
        { l with
          grants := l.grants.filter (fun (g : GrantRec) => g.die ≠ die)
          again := all.foldl (fun xs x => insertIndex x xs) l.again })
    else s.modLaunch l.uid (fun l => { l with live := l.live.map (fun x => if x.2 = die then (x.1, leader) else x) })

/-- DIE_LOST: after four missed heartbeats. -/
def execDieLost (die : Nat) (s : State) : Out :=
  let d := s.die die
  if !d.serving ∨ d.lost ∨ d.missed < 4 then .next s
  else
    let s := s.modDie die (fun d => { d with lost := true, serving := false })
    let s := (s.logEvent .lostDie die 0 0 die).interrupt 4
    .next ((s.launches.filter (fun (l : Launch) => l.dies.contains die && l.ending.isNone)).foldl
      (fun s l => s.launchLosesDie l die) s)

end Sys2Proof.Machine
end

