-- ==== Sys2Proof/Machine/Launches.lean ====
section
/-! DEFINITION. Kernel headers and variants (R83 to R85), the checks of a launch (R361), doorbells (R357, R358) and the
taking of launch records (R359, R360). -/

namespace Sys2Proof.Machine

/-- Bytes `i` to `i + n - 1` of a little-endian record. -/
def recField (w i n : Nat) : Nat := w / 256 ^ i % 256 ^ n

/-! ### The kernel header (R82 to R84) -/

/-- The header that 64 bytes describe. -/
def Header.ofNumber (w : Nat) : Header :=
  { cluster := recField w 6 1 = 1, clutches := recField w 7 1, regs := recField w 8 1, uniform := recField w 9 1
    volFirst := recField w 10 1, volCount := recField w 11 1, moments := recField w 12 1, barriers := recField w 13 1
    accRows := recField w 14 2, scratch := recField w 16 4, restartable := (recField w 20 1).testBit 0
    energy := recField w 21 1, sections := recField w 22 1, nvar := recField w 23 1
    dataOff := recField w 24 4, dataLen := recField w 28 4 }

/-- The fixed fields of the header bytes (R84). DEDUCED (log 75): that a wrong MAGIC or VERSION ends the launch with
BAD_HEADER. -/
def headerFixed (w : Nat) : Bool :=
  recField w 0 4 = 0x4B395646 && recField w 4 2 = 1 && recField w 6 1 < 2 && recField w 20 1 < 2 && recField w 32 32 = 0

/-- The limits of R17, R30 and R82. -/
def Header.withinLimits (h : Header) : Bool :=
  (if h.cluster then 4 ≤ h.clutches && h.clutches ≤ 96 && h.clutches % 4 = 0 else 1 ≤ h.clutches && h.clutches ≤ 24)
    && 8 ≤ h.regs && h.regs ≤ 248 && h.regs % 8 = 0
    && 3 ≤ h.uniform && h.uniform ≤ 64 && h.regs + h.uniform ≤ 256
    && h.volFirst + h.volCount ≤ h.regs && h.moments ≤ 64 && h.barriers ≤ 96
    && h.accRows ≤ 512 && h.accRows % 64 = 0 && h.scratch ≤ 524288 && h.scratch % 256 = 0
    && h.energy ≤ 3 && h.sections ≤ 8 && h.sections ≠ 1 && 1 ≤ h.nvar && h.nvar ≤ 16
    && 64 + 32 * h.nvar ≤ h.extent && h.perCore * h.clutchBlocks ≤ 384

/-- A variant entry's fields, within an image. -/
def variantOk (w extent : Nat) : Bool :=
  let entry := recField w 8 4
  let stream := recField w 12 4
  entry % 32 = 0 && stream % 32 = 0 && entry < extent && stream < extent && recField w 22 10 = 0

/-! ### Reading an image through a context's page table -/

/-- The bytes at a virtual address, as a number; none when one does not translate. -/
def State.readVa (s : State) (die ctx va n : Nat) : Option Nat :=
  let places := (vaRange va n).map (fun a => match s.engineByte (dieSide die) ctx a false with
    | .here pa => some pa
    | _ => none)
  if places.all (·.isSome) then some (numberOf ((places.filterMap id).map (Memory.read s.mem))) else none

/-- The translations of an image's pages, which the dispatcher of a die needs (R224, R361). -/
def State.bringImage (s : State) (die ctx image : Nat) : Option State :=
  (s.bringSpans die ctx [(image, 64)]).bind (fun s =>
    match s.readVa die ctx image 64 with
    | none => some s
    | some w => s.bring (dieSide die) ctx ((List.range ((image + (Header.ofNumber w).extent + 65535) / 65536 - image / 65536)).map
        (fun i => max image ((image / 65536 + i) * 65536))))

/-- Where an image lies when its launch is accepted, unit by unit of 64 KiB (R173). -/
def State.imageCode (s : State) (die ctx image n : Nat) : List (Nat × Nat × Nat) :=
  (List.range ((image + n + 65535) / 65536 - image / 65536)).filterMap (fun i =>
    let a := max image ((image / 65536 + i) * 65536)
    match s.engineByte (dieSide die) ctx a false with
    | .here pa => some (a, min (image + n) ((a / 65536 + 1) * 65536) - a, pa)
    | _ => none)

/-- Every page of some bytes satisfies a condition on its entry. -/
def State.pagesAll (s : State) (die ctx va n : Nat) (p : Nat → Bool) : Bool :=
  n = 0 || ((List.range ((va + n - 1) / 65536 - va / 65536 + 1)).all (fun i =>
    let a := max va ((va / 65536 + i) * 65536)
    a < 2 ^ 57 && match s.translate (dieSide die) ctx a with
      | .page _ _ pte => p pte
      | _ => false))

/-- Steps 2 and 3 of R361 for an image: its header, or the status that the launch ends with. -/
def State.imageHeader (s : State) (die ctx image : Nat) : Except LaunchEnd (Header × List Nat) :=
  match s.readVa die ctx image 64 with
  | none => .error .badImage
  | some w =>
    let h := Header.ofNumber w
    if !s.pagesAll die ctx image h.extent (fun _ => true) then .error .badImage
    else if !(headerFixed w && h.withinLimits) then .error .badHeader
    else
      let vs := (List.range h.nvar).map (fun i => s.readVa die ctx (image + 64 + 32 * i) 32)
      if vs.any (·.isNone) then .error .badImage
      else
        let vs := vs.filterMap id
        if vs.all (variantOk · h.extent) then .ok ({ h with vars := vs }, vs) else .error .badHeader

/-! ### Variants (R85) -/

/-- The signature of a die: its defect map's low half (R414). -/
def Die.signature (d : Die) : Nat := 2 ^ 56 + d.defCores.toNat

/-- The variant a die chooses. -/
def Die.variant (d : Die) (vs : List Nat) : Option Variant :=
  let pick (sig : Nat) : Option Nat := vs.find? (fun v => recField v 0 8 = sig)
  ((pick d.signature).orElse (fun _ => pick 0)).map (fun v =>
    { entry := recField v 8 4, stream := recField v 12 4, cores := recField v 16 6 })

/-- A variant leaves some of a context's clusters on a die usable for the chorus shape. -/
def State.variantUsable (s : State) (c : Context) (h : Header) (die : Nat) (v : Variant) : Bool :=
  (coreGroups h).any (fun g => c.lists die (g.headD 0 / 4)
    && g.all (fun k => v.cores.testBit k && (s.die die).defCores.getLsbD k))

/-- The participating dies of a context's launches (R22). -/
def State.participating (s : State) (c : Context) : List Nat :=
  (List.range 4).filter (fun d => s.dieLive d && (List.range 12).any (fun k => c.lists d k))

/-- The variants of the participating dies, none when one finds none. -/
def State.chooseVariants (s : State) (c : Context) (h : Header) (vs : List Nat) (dies : List Nat) : Option (Store Variant) :=
  let picks := dies.map (fun d => match (s.die d).variant vs with
    | some v => if s.variantUsable c h d v then some (d, v) else none
    | none => none)
  if picks.all (·.isSome) then some (picks.filterMap id) else none

/-- An unfinished launch or an open node of the context has the LID (R292, R377); a node that has failed its checks is closed,
and only its status record is still to be written. -/
def State.lidTaken (s : State) (ctx lid : Nat) : Bool :=
  s.launches.any (fun l => l.ctx = ctx && l.lid = lid && (l.queue.isSome || l.node.isSome))

/-! ### The launch record (R360, R361) -/

/-- The number of choruses in a record's range, 0 outside the limits of R21. -/
def rangeOf (w : Nat) : Nat :=
  let x := recField w 32 4
  let y := recField w 36 2
  let z := recField w 38 2
  if (recField w 42 1).testBit 0 then (if x ≤ 65535 ∧ x * y * z < 2 ^ 32 then x * y * z else 0)
  else if y = 0 ∧ z = 0 then x else 0

/-- Check 1: zero bytes, FLAGS, range, alignment of IMAGE. -/
def launchRecordOk (w : Nat) : Bool :=
  recField w 45 3 = 0 && recField w 64 64 = 0 && recField w 42 1 < 8 && recField w 40 2 < 4096
    && rangeOf w ≠ 0 && recField w 0 8 % 256 = 0

/-- MEMBERS of a record. -/
def recordMembers (w n : Nat) : List Nat := (List.range n).map (fun i => recField w (48 + 2 * i) 2)

/-- The part of check 3 that concerns linked launches. -/
def linkedOk (w : Nat) (h : Header) (dev : Nat) : Bool :=
  let linked := (recField w 42 1).testBit 2
  let sec := recField w 43 1
  linked = decide (h.sections ≠ 0) && recField w (48 + 2 * h.sections) (16 - 2 * h.sections) = 0
    && (if linked then
          sec < h.sections && (recordMembers w h.sections).all (fun d => d < 512 && (d = dev || Config.podHas d)) && (recordMembers w h.sections).getD sec 512 = dev
        else sec = 0)

/-- A launch as its record gives it. -/
def Launch.ofRecord (uid q ctx prio w : Nat) : Launch :=
  { uid, ctx, queue := some q, prio, image := recField w 0 8, args := BitVec.ofNat 64 (recField w 8 8)
    statusVa := recField w 16 8, doneVa := recField w 24 8, total := rangeOf w, lid := recField w 40 2
    linked := (recField w 42 1).testBit 2, section_ := recField w 43 1, keyidx := recField w 44 1 }

/-- The checks of R361, in order: the launch as it begins, or how it ends. -/
def State.checkRecord (s : State) (l : Launch) (w : Nat) : Except LaunchEnd Launch :=
  let c := s.context l.ctx
  let dies := s.participating c
  if !launchRecordOk w then .error .badHeader
  else match s.imageHeader (dies.headD 0) l.ctx l.image with
    | .error e => .error e
    | .ok (h, vs) =>
      if s.lidTaken l.ctx l.lid || !linkedOk w h s.crucible.devnum then .error .badHeader
      else match s.chooseVariants c h vs dies with
        | none => .error .noVariant
        | some variants =>
          if dies.isEmpty then .error .noVariant
          else .ok { l with hdr := h, code := s.imageCode (dies.headD 0) l.ctx l.image h.extent, codeMark := s.imagePast.length, variants, dies, leader := dies.headD 0, members := recordMembers w h.sections }

/-! ### QDOOR (R357, R358) -/

/-- The address of a queue's descriptor. -/
def State.queueAddr (s : State) (q : Nat) : Nat := s.crucible.qtbase.toNat / 4096 * 4096 + 32 * q

def State.queue (s : State) (q : Nat) : Queue := s.crucible.queues.get {} q
def State.setQueue (s : State) (q : Nat) (x : Queue) : State :=
  s.modCrucible (fun c => { c with queues := c.queues.set {} q x })

/-- The descriptor of an empty queue, read again; its head stays the device's own. -/
def State.readQueue (s : State) (q : Nat) : Queue :=
  let w := s.number (s.queueAddr q) 32
  let old := s.queue q
  let logsize := recField w 8 1
  let enabled : Bool := recField w 20 12 = 0 && recField w 11 1 = 1 && 4 ≤ logsize && logsize ≤ 16 && recField w 10 1 ≤ 3
    && (s.context (recField w 9 1)).active
  let head := old.head % 2 ^ logsize
  { old with ring := recField w 0 8 / 256 * 256, logsize, ctx := recField w 9 1, prio := recField w 10 1, enabled, head, tail := head }

/-- QDOOR. -/
def execQdoor (q value : Nat) (s : State) : Out :=
  if !s.crucible.ready ∨ 64 ≤ q then .next s
  else
    let x := if (s.queue q).head = (s.queue q).tail then s.readQueue q else s.queue q
    let s := (s.setQueue q x).active
    if x.enabled ∧ value < 2 ^ x.logsize then
      .next ((s.setQueue q { x with tail := value }).writeBytes (bytesAt (s.queueAddr q + 16) 4 value))
    else .next (s.modCrucible (fun c => { c with qerr := c.qerr ||| BitVec.ofNat 64 (2 ^ q) }))

/-! ### LAUNCH_TAKE (R359) -/

/-- Every index of a launch is granted; a member that does not coordinate counts those placed here. -/
def Launch.grantedAll (l : Launch) : Bool :=
  if l.linked && l.section_ ≠ 0 then l.epochs.length = l.total else l.next = l.total

/-- The address of a queue's next record. -/
def Queue.slot (x : Queue) : Nat := x.ring + 128 * x.head

/-- A queue's next record may be taken. -/
def State.mayTakeRecord (s : State) (q : Nat) : Bool :=
  let x := s.queue q
  let c := s.context x.ctx
  x.enabled && x.head ≠ x.tail && c.active && c.frozen.isNone && !c.deactivating
    && s.launches.countP (fun l => l.queue.isSome) < 64
    && match x.running with
      | none => true
      | some r => (s.number (x.slot + 42) 1).testBit 1 && (s.launch? r).any Launch.grantedAll

/-- Queues are served in increasing PRIO, then in increasing number. -/
def State.servedFirst (s : State) (q : Nat) : Bool :=
  (List.range 64).all (fun k => k = q || !s.mayTakeRecord k || (s.queue q).prio < (s.queue k).prio
    || ((s.queue q).prio = (s.queue k).prio && q < k))

/-- What a launch's first choruses see: the host's writes before its submission (R348). -/
def State.acquireFor (s : State) (l : Launch) : State :=
  l.dies.foldl (fun s d => (List.range 48).foldl (fun s k =>
    if (s.context l.ctx).lists d (k / 4) then s.invalidateL1 { die := d, core := k } else s) s) s

/-- LAUNCH_TAKE: the record is copied, HEAD moves on, and the launch begins or ends by R361. -/
def execLaunchTake (q : Nat) (s : State) : Out :=
  let x := s.queue q
  if !s.crucible.ready ∨ 64 ≤ q ∨ !s.mayTakeRecord q ∨ !s.servedFirst q then .next s
  else match s.recall ((List.range 128).map (x.slot + ·)) with
    | some s => .next s
    | none =>
      let w := s.number x.slot 128
      let leader := (s.participating (s.context x.ctx)).headD 0
      match (if launchRecordOk w then s.bringImage leader x.ctx (recField w 0 8) else some s) with
      | none => .next s
      | some s =>
      let head := (x.head + 1) % 2 ^ x.logsize
      let l := Launch.ofRecord s.fresh q x.ctx x.prio w
      let l := match s.checkRecord l w with
        | .ok l => l
        | .error st => { l with ending := some st, stopped := true, leader }
      let s := { s with fresh := s.fresh + 1, launches := s.launches ++ [l] }
      let s := s.setQueue q { x with head, running := some l.uid }
      .next ((s.writeBytes (bytesAt (s.queueAddr q + 12) 4 head)).acquireFor l)

end Sys2Proof.Machine
end

