-- ==== Sys2Proof/Machine/Pair.lean ====
section
/-! DEFINITION. Words that are no single instruction: pair words (R68 to R70) and reserved encodings (R74 to
R76). -/

namespace Sys2Proof.Machine

/-- The register effect of a pairable opcode (R69). -/
def pairAlu (x : PairOp) : State → Env → Alu :=
  match x.op.toNat with
  | 0x00 => aluNop x.f
  | 0x01 => aluMov x.f
  | 0x02 => aluSel x.f
  | 0x03 => aluIadd x.f
  | 0x04 => aluIsub x.f
  | 0x05 => aluImul x.f
  | 0x06 => aluImulh x.f
  | 0x07 => aluImad x.f
  | 0x08 => aluImadw x.f
  | 0x09 => aluIdiv x.f
  | 0x0A => aluIrem x.f
  | 0x0B => aluIabs x.f
  | 0x0C => aluImin x.f
  | 0x0D => aluImax x.f
  | 0x0E => aluIaddc x.f
  | 0x0F => aluIadds x.f
  | 0x10 => aluIcmp x.f
  | 0x11 => aluAnd x.f
  | 0x12 => aluOr x.f
  | 0x13 => aluXor x.f
  | 0x14 => aluAndn x.f
  | 0x15 => aluShl x.f
  | 0x16 => aluShr x.f
  | 0x17 => aluSar x.f
  | 0x18 => aluRot x.f
  | 0x19 => aluBfe x.f
  | 0x1A => aluBfi x.f
  | 0x1B => aluPopc x.f
  | 0x1C => aluClz x.f
  | 0x1D => aluBrev x.f
  | 0x1E => aluFfs x.f
  | 0x1F => aluLea x.f
  | 0x20 => aluAdd64 x.f
  | 0x21 => aluCmp64 x.f
  | 0x22 => aluCvti x.f
  | 0x23 => aluBymix x.f
  | 0x30 => aluFadd x.f
  | 0x31 => aluFsub x.f
  | 0x32 => aluFmul x.f
  | 0x33 => aluFfma x.f
  | 0x34 => aluFmin x.f
  | 0x35 => aluFmax x.f
  | 0x36 => aluFcmp x.f
  | 0x37 => aluFclass x.f
  | 0x38 => aluPkadd x.f
  | 0x39 => aluPkmul x.f
  | 0x3A => aluPkfma x.f
  | 0x3B => aluPkmin x.f
  | 0x3C => aluPkmax x.f
  | 0x3D => aluPkcmp x.f
  | 0x3E => aluFdiv x.f
  | 0x3F => aluFsqrt x.f
  | 0x40 => aluCvtf x.f
  | 0x41 => aluCvtfi x.f
  | 0x42 => aluCvtif x.f
  | 0x43 => aluFpack x.f
  | 0x44 => aluFunpack x.f
  | 0x45 => aluBlkq x.f
  | 0x46 => aluBlkdq x.f
  | 0x47 => aluBlkex x.f
  | 0x48 => aluFrcp x.f
  | 0x49 => aluFrsq x.f
  | 0x4A => aluFexp2 x.f
  | 0x4B => aluFlog2 x.f
  | 0x4C => aluFsin x.f
  | 0x4D => aluFcos x.f
  | 0x4E => aluFtanh x.f
  | 0x4F => aluFsigm x.f
  | 0x50 => aluFerf x.f
  | 0x54 => aluFrnd x.f
  | 0x55 => aluFscl x.f
  | 0x56 => aluFdot4 x.f
  | _ => aluNop x.f

/-- A pair word (R70). -/
def execPairWord (x y : PairOp) (s : State) : Out := runPair x y (pairAlu x) (pairAlu y) s

/-- A reserved encoding met by a clutch enters the emulation handler (R75). -/
def execReservedEncoding (cause bytes : Nat) (op : BitVec 8) (f : Fields) (pair second : Bool) (s : State) : Out :=
  withClutch s fun e => emulationTrap s e cause bytes op.toNat f pair second

end Sys2Proof.Machine
end

