-- ==== Sys2Proof/Machine/Preempt.lean ====
section
/-! DEFINITION. Pre-emption and the context switch (R367 to R371), and the context commands (R355, R377). -/

namespace Sys2Proof.Machine

/-! ### Saving a chorus (R369) -/

/-- Save-area bytes of a chorus of a shape. -/
def Header.saveBytes (h : Header) : Nat :=
  Config.saveBytes [h.clutches, h.regs, h.moments, h.accRows, h.scratch, h.volCount]

/-- The save area has room for a chorus. -/
def Context.hasRoom (c : Context) (h : Header) : Bool := c.saveUsed + h.saveBytes ≤ c.saveSize

/-- Step 1 of R369 is done: producers have landed but for pending FREADs, the stream's jobs and the copies are
complete, writes and remote instructions have left the core, and arrivals are performed but for those after such an FREAD. -/
def State.quietFor (s : State) (c : Chorus) : Bool :=
  s.landings.all (fun p => p.who.chorus ≠ c.uid || s.waitsOnFuture p.id)
    && c.seqs.all (fun q => q.jobs.isEmpty)
    && (s.copiesOf c.uid).all (fun j => !j.admitted)
    && !s.writesOpen c.uid
    && c.arriving.all (fun a => s.landings.any (fun p => p.who = { chorus := c.uid, clutch := a.clutch } && p.id < a.before))
    && c.cores.all (fun k => (s.core { die := c.die, core := k }).queue.all (fun q => q.who.chorus ≠ c.uid))

/-- A withdrawn FREAD: its destination is full with what it held, and the clutch stands at it again (R92). -/
def Clutch.withdraw (c : Clutch) (p : Landing) : Clutch :=
  let c := match p.dst with
    | .ordinary first n =>
      let mine (r : Nat) : Bool := first ≤ r && r < first + n
      { c with empty := c.empty.filter (fun r => !mine r), loans := c.loans.withdraw mine }
    | .moment reg => { c with mempty := setErase c.mempty reg, loans := c.loans.withdraw (· = 256 + reg) }
  { c with pc := p.pc }

/-- A clutch that is saved where it waits: it issues its ARRWAIT or its claim again on resume (R108, R423). -/
def Clutch.reissue (c : Clutch) : Clutch :=
  if c.progress = .watching ∨ c.progress = .claiming then { c with progress := .none } else c

/-- Pending FREADs are withdrawn, the youngest first, with the arrivals that follow them, watches are freed and claims leave the queue (R92, R108, R398,
R423). -/
def State.withdrawWaits (s : State) (c : Chorus) : State :=
  let mine := s.landings.filter (fun (p : Landing) => p.who.chorus = c.uid)
  let s := mine.foldr (fun p s => s.modClutch p.who (fun cl => cl.withdraw p)) s
  let s := ((s.die c.die).watches.filter (fun w => w.who.chorus = c.uid)).foldl (fun s w => s.modClutch w.who (·.unwatch w.dst)) s
  let s := (s.dropLandings (fun p => p.who.chorus = c.uid)).dropWatches c.die c.uid
  s.modChorus c.uid (fun c => { c with clutches := c.clutches.map Clutch.reissue, claims := [], deadlocked := [], arriving := [] })

/-- A poisoned word that a save meets, outside the volatile range (R94); the save reads scratchpad and rows too (R219). A clutch
that has ended holds no registers. -/
def Clutch.savePoison (c : Clutch) (h : Header) : Bool :=
  !c.ended && (!c.mpoison.isEmpty || c.poison.any (fun k => !(h.volFirst ≤ k / 96 && k / 96 < h.volFirst + h.volCount)))

/-- Where a chorus's bytes go in the save area of its context: the first gap between those of the saved choruses. -/
def State.savePlace (s : State) (l : Launch) : Option Nat :=
  firstFit 1 (s.context l.ctx).saveSize l.hdr.saveBytes
    ((s.choruses.filter (fun c => c.status = .saved && (s.launch? c.launch).any (fun x => x.ctx = l.ctx))).map
      (fun c => (c.saveAt, c.saveBytes)))

/-- The bytes of the save area that a chorus takes. -/
def State.saveSpan (s : State) (l : Launch) : List Nat :=
  let base := (s.context l.ctx).saveBase + (s.savePlace l).getD 0
  ((List.range l.hdr.saveBytes).map (base + ·)).filter (fun pa => mapped pa 1)

/-- Step 2 of R369: the core's state is written to the save area. The manual does not give its layout, so what the bytes there
hold is free (log 42). -/
def State.writeSave (s : State) (l : Launch) : State :=
  (s.writeBytes ((s.saveSpan l).map (fun pa => (pa, Config.freeByte s.tick pa)))).bump

/-- The core's state is in the save area and the chorus has left its cores, whose L1 is invalidated. -/
def State.save (s : State) (l : Launch) (c : Chorus) : State :=
  let s := (s.copiesOf c.uid).foldl State.cancelCopy s
  let s := s.withdrawWaits c
  match s.chorus? c.uid with
  | none => s
  | some c =>
    let bad : Bool := !c.scratchPoison.isEmpty || !c.accPoison.isEmpty
    match c.clutches.find? (fun cl => bad || cl.savePoison l.hdr) with
    | some cl =>
      s.launchFault l.uid (({ who := { chorus := c.uid, clutch := cl.id }, l, ch := c, cl } : Env).report Code.poison.num 0 0)
    | none =>
      let clear (cl : Clutch) : Clutch := { cl with poison := [] }
      let at_ := (s.savePlace l).getD 0
      let s := s.writeSave l
      let s := s.modChorus c.uid (fun c => { c with
        status := .saved, stopping := false, saveBytes := l.hdr.saveBytes, saveAt := at_, since := s.now, aged := 0, starved := false
        clutches := c.clutches.map clear })
      let s := s.modContext l.ctx (fun x => { x with saveUsed := x.saveUsed + l.hdr.saveBytes })
      let s := c.cores.foldl (fun s k => s.invalidateL1 { die := c.die, core := k }) s
      (s.markIdle c).left l c.die

/-- A linked chorus is resident on a core of a chorus, so the core is not switched (R313). -/
def State.besideSection (s : State) (c : Chorus) : Bool :=
  s.choruses.any (fun x => x.uid ≠ c.uid && x.holds && x.die = c.die && x.cores.any (fun k => c.cores.contains k)
    && (s.launch? x.launch).any (fun l => l.linked))

/-- A core of a chorus stands in a core stop. -/
def State.stoppedCore (s : State) (c : Chorus) : Bool := c.cores.any (fun k => (s.core { die := c.die, core := k }).stopped)

/-- The switch of one chorus when DRAIN has ended: a restartable section is abandoned and any other left alone; a
chorus for which the save area lacks room is abandoned if restartable, and otherwise runs on; any other stops issuing
and is saved as soon as step 1 is done. A stopped core is switched when its stop has ended. -/
def State.switchOut (s : State) (l : Launch) (c : Chorus) : State :=
  if l.ending.isSome then s
  else if l.linked then (if l.hdr.restartable then s.abandonAny l c else s)
  else if !(s.context l.ctx).hasRoom l.hdr || (s.savePlace l).isNone then
    (if l.hdr.restartable then s.abandonAny l c else s.modChorus c.uid (fun c => { c with stopping := false }))
  else if s.besideSection c || s.stoppedCore c then s
  else
    let s := s.modChorus c.uid (fun c => { c with stopping := true })
    if s.quietFor c then (s.recall (s.saveSpan l)).getD (s.save l c) else s

/-! ### DRAIN_EXPIRY, QUANTUM_EXPIRY (R356, R367, R370) -/

/-- A polite pre-emption covers a chorus. -/
def drainCovers (scope : Option Nat) (c : Chorus) : Bool :=
  match scope with
  | none => true
  | some bit => c.cores.any (fun k => clusterBit c.die (k / 4) = bit)

/-- The running choruses of a context, by number. -/
def State.runningOf (s : State) (ctx : Nat) : List Nat :=
  (s.choruses.filter (fun (c : Chorus) => c.running && (s.launch? c.launch).any (fun l => l.ctx = ctx))).map (·.uid)

/-- Something done with a chorus that is still running, and its launch. -/
def State.withRunning (s : State) (uid : Nat) (g : State → Launch → Chorus → State) : State :=
  match s.chorus? uid with
  | none => s
  | some c =>
    match s.launch? c.launch with
    | some l => if c.running then g s l c else s
    | none => s

/-- DRAIN_EXPIRY: the choruses that the pre-emptions whose grace has ended cover are switched out, as far as they are
ready for it. -/
def execDrainExpiry (ctx : Nat) (s : State) : Out :=
  let c := s.context ctx
  let due := c.drains.filter (fun x => x.1 + c.drain * microsecond ≤ s.now)
  if c.frozen.isSome ∨ due.isEmpty then .next s
  else .next ((s.runningOf ctx).foldl (fun s uid =>
    s.withRunning uid (fun s l c => if due.any (fun x => drainCovers x.2 c) then s.switchOut l c else s)) s)

/-- QUANTUM_EXPIRY: the holder has had its time slice on a cluster that another context waits for. -/
def execQuantumExpiry (die cluster : Nat) (s : State) : Out :=
  let h := s.holder die cluster
  match h.ctx, h.since with
  | some n, some t =>
    let c := s.context n
    let bit := clusterBit die cluster
    let awaited := (s.listing die cluster).any (fun m => m ≠ n && s.wants m die cluster)
    .next (if c.active && c.frozen.isNone && c.quantum ≠ 0 && t + c.quantum * microsecond ≤ s.now && awaited
        && !c.draining bit then
      (s.modContext n (fun c => { c with drains := c.drains ++ [(s.now, some bit)] })).passClusters die
    else s)
  | _, _ => .next s

/-! ### A budget that has fallen (R371) -/

/-- The restartable chorus that is pre-empted next on a die: the highest true class, then the latest placed. A frozen context's
keep their state (R207). -/
def State.nextVictim (s : State) (die : Nat) : Option (Launch × Chorus) :=
  let cands := (s.choruses.filter (fun (c : Chorus) => c.running && c.die = die)).filterMap (fun c =>
    match s.launch? c.launch with
    | some l => if l.hdr.restartable && l.ending.isNone && (s.context l.ctx).frozen.isNone then some (l, c) else none
    | none => none)
  cands.foldl (fun a x => match a with
    | none => some x
    | some b =>
      if b.1.hdr.energy < x.1.hdr.energy ∨ (b.1.hdr.energy = x.1.hdr.energy ∧ b.2.placed < x.2.placed) then some x
      else some b) none

/-- Pre-empt until the headroom is no longer negative. -/
def shedLoop (die : Nat) : Nat → State → State
  | 0, s => s
  | fuel + 1, s =>
    if 0 ≤ s.headroom die then s
    else match s.nextVictim die with
      | some (l, c) => shedLoop die fuel (s.abandonAny l c)
      | none => s

/-- The budget of a die becomes a value (R430), and R371 follows. -/
def State.setBudget (s : State) (die : Nat) (mw : Word) : State :=
  let s := s.modDie die (fun d => { d with pwrbud := mw })
  shedLoop die s.choruses.length s

/-! ### The context commands (R355) -/

/-- A command is taken up: not before boot, nor while another is busy. A frozen context accepts only DEACTIVATE. -/
def contextCommand (ctx : Nat) (onFrozen : Bool) (s : State) (k : State → State) : Out :=
  .next (
    if !s.crucible.ready ∨ 16 ≤ ctx ∨ s.crucible.ctxBusy.isSome then s
    else
      let s := s.active
      if (s.context ctx).frozen.isSome && !onFrozen then s.commandDone 5 else k s)

/-- Forced pre-emption of the restartable choruses of a context, and polite pre-emption of the rest (R367, R368). -/
def State.forceOut (s : State) (ctx : Nat) : State :=
  let s := s.modContext ctx (fun c => { c with drains := c.drains ++ [(s.now, none)] })
  (s.runningOf ctx).foldl (fun s uid =>
    s.withRunning uid (fun s l c => if l.hdr.restartable && l.ending.isNone then s.abandonAny l c else s)) s

/-- POLITE: the context is held, and its choruses may run on for DRAIN. -/
def execPolite (ctx : Nat) (s : State) : Out :=
  contextCommand ctx false s fun s =>
    if !(s.context ctx).active then s.commandDone 4
    else
      let s := s.modContext ctx (fun c => { c with held := true, drains := c.drains ++ [(s.now, none)] })
      (s.modCrucible (fun c => { c with ctxBusy := some (2, ctx) })).settleContext ctx

/-- FORCED: restartable choruses are abandoned at once. -/
def execForced (ctx : Nat) (s : State) : Out :=
  contextCommand ctx false s fun s =>
    if !(s.context ctx).active then s.commandDone 4
    else
      let s := (s.modContext ctx (fun c => { c with held := true })).modCrucible (fun c => { c with ctxBusy := some (3, ctx) })
      (s.forceOut ctx).settleContext ctx

/-- DEACTIVATE: its sets are left (R408), and its choruses go. On a frozen context that waits for the freeze's end. -/
def execDeactivate (ctx : Nat) (s : State) : Out :=
  contextCommand ctx true s fun s =>
    if !(s.context ctx).active then s.commandDone 4
    else
      let s := (s.modContext ctx (fun c => { c with deactivating := true })).modCrucible
        (fun c => { c with ctxBusy := some (4, ctx) })
      let s := s.leaveGroups ctx
      if (s.context ctx).frozen.isSome then s else (s.forceOut ctx).settleContext ctx

/-- RESUME lifts a hold. -/
def execCtxResume (ctx : Nat) (s : State) : Out :=
  contextCommand ctx false s fun s =>
    if !(s.context ctx).active then s.commandDone 4
    else (s.modContext ctx (fun c => { c with held := false })).commandDone 0

/-! ### ACTIVATE (R354, R355, R377) -/

/-- A context descriptor that ACTIVATE accepts. -/
def descriptorOk (w : Nat) : Bool :=
  recField w 0 8 % 4096 = 0 && recField w 0 8 < 2 ^ 41 && recField w 14 1 = 1 && recField w 15 1 = 0
    && recField w 24 8 % 256 = 0 && recField w 40 24 = 0

/-- The context that a descriptor describes. -/
def Context.ofNumber (w nnodes : Nat) : Context :=
  { active := true, ptroot := recField w 0 8, clusters := recField w 8 6, quantum := recField w 16 4
    drain := recField w 20 4, saveBase := recField w 24 8, saveSize := recField w 32 8, nnodes }

/-- A cluster that would be listed by five active contexts. -/
def State.overShared (s : State) (ctx clusters : Nat) : Bool :=
  (List.range 48).any (fun b => clusters.testBit b
    && 4 ≤ (List.range 16).countP (fun n => n ≠ ctx && (s.context n).active && (s.context n).clusters.testBit b))

/-- Check 1 of R377: reserved bytes, limits and LID of a node descriptor. -/
def nodeFieldsOk (w : Nat) : Bool :=
  recField w 43 1 = 0 && recField w 56 8 = 0 && recField w 42 1 = 1 && recField w 32 2 < 4096
    && 1 ≤ recField w 34 1 && recField w 34 1 ≤ 96 && recField w 35 1 ≤ 3 && recField w 36 4 ≤ 1000000
    && 6 ≤ recField w 40 1 && recField w 40 1 ≤ 16 && 1 ≤ recField w 41 1 && recField w 41 1 ≤ 8
    && recField w 44 4 % 16 = 0 && recField w 0 8 % 256 = 0 && recField w 24 8 % 128 = 0

/-- The node that a descriptor describes. -/
def Node.ofNumber (num launch w : Nat) : Node :=
  { num, launch, binBase := recField w 16 8, count := recField w 34 1, timer := recField w 36 4
    logcap := recField w 40 1, words := recField w 41 1, recoff := recField w 44 4 }

/-- Every page of the ring of a die translates with W, KIND plain and HOME on the die. -/
def State.ringOk (s : State) (ctx : Nat) (n : Node) (die : Nat) : Bool :=
  let bytes := n.capacity * 4 * n.words
  s.pagesAll die ctx (n.binBase + die * bytes) bytes (fun pte => pteW pte && pteKind pte = 0 && pteHome pte = die)

/-- The launch that stands for a node. -/
def Launch.ofNode (uid ctx num w : Nat) : Launch :=
  { uid, ctx, node := some num, prio := recField w 35 1, image := recField w 0 8, args := BitVec.ofNat 64 (recField w 8 8)
    statusVa := recField w 24 8, doneVa := recField w 48 8, total := 0, lid := recField w 32 2 }

/-- Check 5 of R377, die by die: the variant of each, then its ring. -/
def State.checkDies (s : State) (c : Context) (h : Header) (vs : List Nat) (ctx : Nat) (n : Node) (dies : List Nat) :
    Except LaunchEnd (Store Variant) :=
  dies.foldl (fun r d => r.bind (fun done =>
    match s.chooseVariants c h vs [d] with
    | none => .error .noVariant
    | some v => if s.ringOk ctx n d then .ok (done ++ v) else .error .badImage)) (.ok [])

/-- The checks of R377, in order. -/
def State.checkNode (s : State) (l : Launch) (n : Node) (w : Nat) : Except LaunchEnd Launch :=
  let c := s.context l.ctx
  let dies := s.participating c
  if !nodeFieldsOk w ∨ s.lidTaken l.ctx l.lid then .error .badHeader
  else match s.imageHeader (dies.headD 0) l.ctx l.image with
    | .error e => .error e
    | .ok (h, vs) =>
      if h.sections ≠ 0 ∨ h.scratch < n.recoff + 16 + 4 * n.words * n.count then .error .badHeader
      else match s.checkDies c h vs l.ctx n dies with
        | .error e => .error e
        | .ok variants => .ok { l with hdr := h, code := s.imageCode (dies.headD 0) l.ctx l.image h.extent, codeMark := s.imagePast.length, variants, dies, leader := dies.headD 0 }

/-- One node descriptor at ACTIVATE: an open node with its launch, or a closed one, whose status record is then
written as that of a launch which has ended. -/
def State.openNode (s : State) (ctx i : Nat) (w : Nat) : Option State :=
  if !(recField w 42 1).testBit 0 then some s
  else
    let leader := (s.participating (s.context ctx)).headD 0
    (if nodeFieldsOk w then s.bringImage leader ctx (recField w 0 8) else some s).map fun s =>
    let l := Launch.ofNode s.fresh ctx i w
    let n := Node.ofNumber i s.fresh w
    let put (s : State) (l : Launch) : State := { s with fresh := s.fresh + 1, launches := s.launches ++ [l] }
    match s.checkNode l n w with
    | .ok l => put (s.modContext ctx (fun c => { c with nodes := c.nodes ++ [{ n with open_ := true }] })) l
    | .error st =>
      put s { l with node := none, ending := some st, stopped := true, leader }

/-- The number of descriptors that NTBASE gives. -/
def nodeCount (w : DWord) : Nat := min (w.toNat % 512) 256
/-- Their address. -/
def nodeTable (w : DWord) : Nat := w.toNat / 2 ^ 14 % 2 ^ 27 * 2 ^ 14

/-- ACTIVATE: the descriptor is read and checked, the nodes with it, and clusters that nobody holds pass to it. It waits while
a walk that a node's image needs cannot run. -/
def execActivate (ctx : Nat) (s : State) : Out :=
  contextCommand ctx false s fun s =>
    let idle := s
    let w := s.number (s.crucible.ctxbase.toNat / 64 * 64 + 64 * ctx) 64
    if !descriptorOk w then s.commandDone 1
    else if s.overShared ctx (recField w 8 6) then s.commandDone 2
    else if (s.context ctx).active then s.commandDone 3
    else
      let nt := s.crucible.ntbase.get 0 ctx
      let s := { s with contexts := s.contexts.set {} ctx (Context.ofNumber w (nodeCount nt)) }
      match (List.range (nodeCount nt)).foldlM (fun s i => State.openNode s ctx i (s.number (nodeTable nt + 64 * i) 64)) s with
      | none => idle
      | some s => (s.passAll).commandDone 0

end Sys2Proof.Machine
end

