-- ==== Sys2Proof/Machine/Translation.lean ====
section
/-! DEFINITION. Events of translation (R225 to R228) and of the home slices' arbitration windows (R338). -/

namespace Sys2Proof.Machine

/-- What one waiter of a failed walk meets (R226, R219). -/
def State.walkFails (s : State) (poison : Bool) (w : ClutchId × Nat × Nat) : State :=
  match s.env? w.1 with
  | none => s
  | some e =>
    if poison then s.endWith e (e.report Code.poison.num 0 e.mask) else s.missStop e w.2.1 w.2.2

/-- PAGE_WALK_COMPLETE: a walk that runs finishes. The page it finds enters the TLBs of the die and of the waiting cores, and
satisfies every miss it covers (R225, R228); one that finds none stops the waiting cores with MISS, or ends their launches
with POISON (R226, R219). -/
def execPageWalkComplete (die ctx page : Nat) (s : State) : Out :=
  let d := s.die die
  match d.walks.find? (fun w => w.ctx = ctx && w.page = page) with
  | none => .next s
  | some w =>
    let drop := s.modDie die (fun d => d.finishWalks ctx (· = page))
    if !d.walkRuns ctx page then .next s
    else match s.walk ctx (page * 2 ^ 16) with
      | .page va size pte => .next ((s.walked ctx (page * 2 ^ 16)).walkFound die ctx page va size pte)
      | .none => .next (w.waiters.foldl (State.walkFails · false) drop)
      | .poison => .next (w.waiters.foldl (State.walkFails · true) drop)

/-- What reads of the host have returned, newest first (log 6). -/
def State.answer (s : State) (v : Nat) : State := { s with hostOut := v :: s.hostOut }

/-- A miss record as MISSREC shows it (R227). -/
def MissRec.word (m : MissRec) : Nat :=
  2 ^ 127 + 2 ^ 123 * m.ctx + 2 ^ 120 * m.access + 2 ^ 115 * m.slot + 2 ^ 107 * m.coreid + m.va

/-- MISSREC_READ: the oldest record is popped; an empty queue reads zero (R227). -/
def execMissrecRead (die : Nat) (s : State) : Out :=
  match (s.die die).missRecs with
  | [] => .next (s.answer 0)
  | m :: rest => .next ((s.modDie die (fun d => { d with missRecs := rest })).answer m.word)

/-- A write of TLBINV: a ninth pending one is dropped; the walks in flight are noted (R228). -/
def State.tlbinv (s : State) (die : Nat) (i : TlbInv) : State :=
  s.modDie die (fun d =>
    if 8 ≤ d.tlbPend.length then { d with tlbDrop := true }
    else { d with tlbPend := d.tlbPend ++ [{ i with walks := d.walks.map (fun w => (w.ctx, w.page)) }] })

def execTlbinvAll (die : Nat) (s : State) : Out := .next (s.tlbinv die { scope := 0, ctx := 0, page := 0 })
def execTlbinvContext (die ctx : Nat) (s : State) : Out := .next (s.tlbinv die { scope := 1, ctx, page := 0 })
def execTlbinvPage (die ctx page : Nat) (s : State) : Out := .next (s.tlbinv die { scope := 2, ctx, page })

/-- An invalidation matches accesses of a context (R227). -/
def TlbInv.meets (i : TlbInv) (ctx : Nat) : Bool := i.scope = 0 || i.ctx = ctx

/-- An access that goes to memory through a translation: one in the global space, or a STEP.STORE. -/
def Access.reachesMemory (a : Access) : Bool :=
  a.space = .global || match a.op with
    | .stepStore .. => true
    | _ => false

/-- Accesses translated on a die for the contexts of an invalidation that have not completed at their homes
(R228): loads and atomics on their way, gathered writes, and elements and requests translated at their source, whose chorus
may have gone. -/
def State.inFlight (s : State) (die : Nat) (i : TlbInv) : Bool :=
  let hit (uid : Nat) : Bool :=
    match s.chorus? uid with
    | some c => c.die = die && (match s.launch? c.launch with
      | some l => i.meets l.ctx
      | none => i.scope = 0)
    | none => false
  let elem (x : Element) : Bool := x.pa.isSome && x.srcDie = die && i.meets x.ctx
  let asked (a : Asked) : Bool := a.req.pa.isSome && a.req.srcDie = die && i.meets a.req.ctx
  s.landings.any (fun p => hit p.who.chorus && p.access.any Access.reachesMemory)
    || (List.range 4).any (fun d => (s.die d).windows.any (fun w => (w.rank = 2 || w.order / 64 = die) && w.launch.any (fun uid =>
        match s.launch? uid with
        | some l => i.meets l.ctx
        | none => i.scope = 0)))
    || s.crucible.unsettled.any (fun u => elem u.elem) || s.crucible.asked.any asked
    || (List.range 48).any (fun k => ((s.die die).core k).queue.any (fun q => q.elems.any elem || q.reqs.any asked))

/-- TLBINV_COMPLETE: the oldest pending invalidation completes once every walk that was in flight when it was written has
finished and no access through a matching entry is in flight; leases on the die's regions are recalled first (R228, R308). -/
def execTlbinvComplete (die : Nat) (s : State) : Out :=
  match (s.die die).tlbPend with
  | [] => .next s
  | i :: rest =>
    match s.recall ((s.die die).contention.map (fun x => x.region * 65536)) with
    | some s' => .next s'
    | none =>
      if !i.walks.isEmpty || s.inFlight die i then .next s
      else
        let keep (e : TlbEntry) : Bool := !i.covers e.ctx e.va e.size
        .next (s.modDie die (fun d => { d with
          tlbPend := rest, tlb := d.tlb.filter keep
          cores := d.cores.map (fun x => (x.1, { x.2 with tlb := x.2.tlb.filter keep })) }))

/-! ### Arbitration windows (R338) -/

/-- Whether two gathered writes come from one party. -/
def PlainWrite.sameParty (a b : PlainWrite) : Bool := a.rank = b.rank && a.order = b.order && a.who = b.who

/-- Whether a write must follow another into no earlier window: a clutch's to a common byte (R247), a host
port's always (R433). -/
def PlainWrite.follows (a b : PlainWrite) : Bool :=
  a.sameParty b && (a.rank = 3 || a.bytes.any (fun x => b.bytes.any (fun y => x.1 = y.1)))

/-- A host write whose port's earlier writes lie gathered elsewhere waits for them (R433). -/
def State.portHeld (s : State) (die slice : Nat) (w : PlainWrite) : Bool :=
  w.rank = 3 && (List.range 4).any (fun d => (s.die d).windows.any (fun x =>
    x.sameParty w && x.seq < w.seq && (d ≠ die || x.slice ≠ slice)))

/-- Divide gathered writes into those that have reached a window and those that have not: the positions in
`late`, those that `held` holds or that were gathered when the window had closed, and whatever must follow one of them. -/
def splitWindow (late : List Nat) (held : PlainWrite → Bool) (window : Nat) :
    Nat → List PlainWrite → List PlainWrite → List PlainWrite × List PlainWrite
  | _, _, [] => ([], [])
  | i, after, w :: rest =>
    if late.contains i || held w || window < w.window || after.any (fun x => w.follows x) then
      let r := splitWindow late held window (i + 1) (after ++ [w]) rest
      (r.1, w :: r.2)
    else
      let r := splitWindow late held window (i + 1) after rest
      (w :: r.1, r.2)

/-- A gathered write is performed, at its home and in the L1 of the core that made it (R331). -/
def State.performWrite (s : State) (w : PlainWrite) : State :=
  let pa := (w.bytes.headD (0, 0)).1
  let mark := (w.seq, pa / 64)
  let before := s
  let s := s.writeSector w.bytes
  let s :=
    if (s.die (homeOf pa)).uncached.contains mark then
      (s.uncache before [pa / 64]).modDie (homeOf pa) (fun d => { d with uncached := d.uncached.filter (· ≠ mark) })
    else s
  if w.rank = 0 then s.updateL1 { die := w.order / 64, core := w.order % 64 } w.bytes else s

/-- Insert a write in the order of R338, after its equals. -/
def insertWrite (w : PlainWrite) : List PlainWrite → List PlainWrite
  | [] => [w]
  | x :: rest =>
    if x.rank < w.rank ∨ (x.rank = w.rank ∧ x.order ≤ w.order) then x :: insertWrite w rest else w :: x :: rest

/-- ARBITRATION_WINDOW_CLOSE: the die's latest window whose last cycle has passed closes at a slice, once, and the slice
applies its writes in the order of R338; a lease on a region they reach is recalled first (R308). -/
def execArbitrationWindowClose (die slice : Nat) (late : List Nat) (s : State) : Out :=
  let open_ := (s.die die).window
  if open_ ≤ (s.die die).closed.get 0 slice then .next s
  else
  let (mine, others) := (s.die die).windows.partition (fun w => w.slice = slice)
  let (now, later) := splitWindow late (s.portHeld die slice) (open_ - 1) 0 [] mine
  match s.recall (now.flatMap (fun w => w.bytes.map (·.1))) with
  | some s' => .next s'
  | none =>
    let s := s.modDie die (fun d => { d with windows := others ++ later, closed := d.closed.set 0 slice open_ })
    .next ((now.foldl (fun acc w => insertWrite w acc) []).foldl State.performWrite s)

end Sys2Proof.Machine
end

