-- ==== Sys2Proof/Machine/Registers.lean ====
section
/-! DEFINITION. The registers of the control blocks: what they read as, and writes by their access types (R2, R3, R203,
R227, R355, R358, R364, R375, R429 to R431, R434, R438). -/

namespace Sys2Proof.Machine

/-! ### What they read as -/

/-- The readiness level in force: 1 when every core of the serving dies rests (R372, R434). -/
def State.levelShown (s : State) : Nat :=
  if 2 ≤ s.crucible.level then s.crucible.level
  else if (List.range 4).all (fun d => !s.dieLive d || (List.range 48).all (fun k => ((s.die d).core k).resting)) then 1
  else 0

/-- DEVSTAT (R434). -/
def State.devstat (s : State) : Nat :=
  let c := s.crucible
  let dies := ((List.range 4).map (fun d => if s.dieLive d then 2 ^ (12 + d) else 0)).sum
  2 ^ 24 * c.bootErr +
    (if c.ready then dies + 2 ^ 10 * s.levelShown + 2 * (c.devnum % 512) + 1 else 0)

/-- CTXSTAT (R355). -/
def State.ctxstat (s : State) : Nat :=
  (if s.crucible.ctxBusy.isSome then 2 ^ 31 else 0) + 2 ^ 16 * s.crucible.ctxResult
    + ((List.range 16).map (fun n => if (s.context n).active then 2 ^ n else 0)).sum

/-- A register of the crucible control block, by its offset, as its own width. Write-only fields and what lies between
registers read zero; before READY only DEVSTAT shows anything (R442). -/
def State.readCrucible (s : State) (off : Nat) : Nat :=
  let c := s.crucible
  if off = 0 then s.devstat
  else if !c.ready then 0
  else if off = 0x8 then c.lattol.toNat
  else if off = 0x10 then c.intcause.toNat
  else if off = 0x104 then s.ctxstat
  else if off = 0x110 then c.qerr.toNat
  else if off = 0x120 then c.qtbase.toNat
  else if off = 0x128 then c.ctxbase.toNat
  else if off = 0x180 then c.rfcmd.toNat
  else if off = 0x188 then c.rfarg.toNat
  else if 0x200 ≤ off ∧ off < 0x280 ∧ off % 8 = 0 then (c.ntbase.get 0 ((off - 0x200) / 8)).toNat
  else 0

/-- HEADROOM: H, saturated to 32 bits (R430). -/
def State.headroomWord (s : State) (die : Nat) : Word :=
  BitVec.ofInt 32 (max (-(2 ^ 31)) (min (2 ^ 31 - 1) (s.headroom die)))

/-- DEFMAP (R414). -/
def Die.defmap (d : Die) : Nat := 2 ^ 64 * d.defSlices.toNat + d.signature

/-- A register of a die control block, by its offset, as its own width. MISSREC and the event counters, which a read
changes, are read by MISSREC_READ and EVENT_COUNTER_READ. -/
def State.readDie (s : State) (die off : Nat) : Nat :=
  let d := s.die die
  if !s.crucible.ready then 0
  else if off = 0x408 then (if d.tlbPend.isEmpty then 0 else 1) + (if d.tlbDrop then 2 else 0)
  else if 0x600 ≤ off ∧ off < 0x610 then (d.enth.get 0 ((off - 0x600) / 4)).toNat
  else if 0x610 ≤ off ∧ off < 0x620 then (d.enchg.get 0 ((off - 0x610) / 4)).toNat
  else if off = 0x620 then (s.headroomWord die).toNat
  else if off = 0x624 then d.pwrbud.toNat
  else if off = 0x700 then d.defmap
  else if 0x1000 ≤ off ∧ off < 0x1C00 then
    let k := d.core ((off - 0x1000) / 0x40)
    let o := (off - 0x1000) % 0x40
    if o < 0x10 then (k.pmsel.get 0 (o / 4)).toNat else if o < 0x30 then (k.pmcnt.get 0 ((o - 0x10) / 8)).toNat else 0
  else 0

/-! ### Writes -/

/-- A 64-bit register at an offset after a write of 4 or 8 bytes at another: the bytes written are replaced. -/
def merge64 (old : DWord) (base off width value : Nat) : DWord :=
  if width = 8 ∧ off = base then BitVec.ofNat 64 value
  else if off = base then BitVec.ofNat 64 (old.toNat / 2 ^ 32 * 2 ^ 32 + value % 2 ^ 32)
  else BitVec.ofNat 64 (old.toNat % 2 ^ 32 + 2 ^ 32 * (value % 2 ^ 32))

/-- The bits that a write of 4 or 8 bytes at an offset gives a 64-bit register at another, the rest zero. -/
def given64 (base off width value : Nat) : DWord := merge64 0 base off width value

/-- A write to RFCMD: OP and GO are set as written. GO starts a command unless one runs, which gives BUSY; an OP that is no
command ends at once with BADARG (R438). -/
def State.writeRfcmd (s : State) (w : Word) : State :=
  let c := s.crucible
  let go := w.getLsbD 31
  let op := w.toNat % 256
  let put (status : Nat) (go : Bool) (run : Option Nat) : State :=
    s.modCrucible (fun c => { c with
      rfcmd := BitVec.ofNat 32 ((if go then 2 ^ 31 else 0) + 2 ^ 24 * status + op), rfRun := run })
  let status := c.rfcmd.toNat / 2 ^ 24 % 128
  if c.rfRun.isSome then put (if go then 4 else status) go c.rfRun
  else if !go then put status false none
  else if 1 ≤ op ∧ op ≤ 8 then put status true (some op)
  else (put 1 false none).interrupt 8

/-- CTXCMD: the command its OP names (R355). -/
def writeCtxcmd (w : Word) (s : State) : Out :=
  let ctx := w.toNat % 16
  match w.toNat / 2 ^ 29 with
  | 1 => execActivate ctx s
  | 2 => execPolite ctx s
  | 3 => execForced ctx s
  | 4 => execDeactivate ctx s
  | 5 => execCtxResume ctx s
  | _ => .next s

/-- A write to the crucible control block. -/
def writeCrucible (off width value : Nat) (s : State) : Out :=
  let w : Word := BitVec.ofNat 32 value
  let set (g : Crucible → Crucible) : Out := .next (s.modCrucible g)
  if !s.crucible.ready then .next s
  else if off = 0x8 then execLattolWrite w s
  else if off = 0x10 then set (fun c => { c with intcause := c.intcause &&& ~~~w })
  else if off = 0x100 then writeCtxcmd w s
  else if off = 0x110 ∨ off = 0x114 then set (fun c => { c with qerr := c.qerr &&& ~~~(given64 0x110 off width value) })
  else if off = 0x120 ∨ off = 0x124 then set (fun c => { c with qtbase := merge64 c.qtbase 0x120 off width value })
  else if off = 0x128 ∨ off = 0x12C then set (fun c => { c with ctxbase := merge64 c.ctxbase 0x128 off width value })
  else if off = 0x180 then .next (s.writeRfcmd w)
  else if off = 0x188 ∨ off = 0x18C then set (fun c => { c with rfarg := merge64 c.rfarg 0x188 off width value })
  else if 0x200 ≤ off ∧ off < 0x280 then
    let n := (off - 0x200) / 8
    let keep : DWord := BitVec.ofNat 64 ((2 ^ 27 - 1) * 2 ^ 14 + 511)
    set (fun c => { c with ntbase := c.ntbase.modify 0 n (fun old => merge64 old (0x200 + 8 * n) off width value &&& keep) })
  else if 0x1000 ≤ off ∧ off < 0x1200 ∧ off % 8 = 0 then execQdoor ((off - 0x1000) / 8) w.toNat s
  else .next s

/-- What a performance counter held before the events of this cycle (R431). -/
def Core.pmHeld (k : Core) (now i : Nat) : DWord :=
  let b := k.pmBefore.get (0, 0) i
  if b.1 = now + 1 then b.2 else k.pmcnt.get 0 i

/-- A write of PMCNT: COUNT is set, and a 1 in OVF clears it (R431). -/
def writePmcnt (old : DWord) (base off width value : Nat) : DWord :=
  let new := merge64 old base off width value
  let ovf := old.getLsbD 63 && !(given64 base off width value).getLsbD 63
  BitVec.ofNat 64 (new.toNat % 2 ^ 48 + if ovf then 2 ^ 63 else 0)

/-- A write to a die control block. TLBINV is written as one 64-bit access; one of 8 bytes over two 32-bit registers is
split before it comes here (log 66). -/
def writeDie (die off width value : Nat) (s : State) : Out :=
  let w : Word := BitVec.ofNat 32 value
  let set (g : Die → Die) : Out := .next (s.modDie die g)
  if !s.crucible.ready ∨ 4 ≤ die then .next s
  else if off = 0x400 ∧ width = 8 then
    let ctx := value / 2 ^ 58 % 16
    let page := value / 2 ^ 16 % 2 ^ 41
    match value / 2 ^ 62 % 4 with
    | 0 => execTlbinvAll die s
    | 1 => execTlbinvContext die ctx s
    | 2 => execTlbinvPage die ctx page s
    | _ => .next s
  else if off = 0x408 then set (fun d => { d with tlbDrop := d.tlbDrop && !w.getLsbD 1 })
  else if 0x600 ≤ off ∧ off < 0x610 ∧ off % 4 = 0 then set (fun d => { d with enth := d.enth.set 0 ((off - 0x600) / 4) w })
  else if 0x610 ≤ off ∧ off < 0x620 ∧ off % 4 = 0 then set (fun d => { d with enchg := d.enchg.set 0 ((off - 0x610) / 4) w })
  else if 0x1000 ≤ off ∧ off < 0x1C00 then
    let c : CoreId := { die, core := (off - 0x1000) / 0x40 }
    let o := (off - 0x1000) % 0x40
    if o < 0x10 then
      let keep : Word := 0xFC0000FF
      .next (s.modCore c (fun k => { k with pmsel := k.pmsel.set 0 (o / 4) (w &&& keep) }))
    else if o < 0x30 then
      let i := (o - 0x10) / 8
      .next (s.modCore c (fun k => { k with
        pmcnt := k.pmcnt.set 0 i (writePmcnt (k.pmHeld s.now i) (0x10 + 8 * i) o width value)
        pmWritten := k.pmWritten.set 0 i (s.now + 1) }))
    else .next s
  else .next s

/-! ### Accesses -/

/-- The control block that BAR0 holds at an offset, and the offset within it (R432). -/
def bar0Block (off : Nat) : Option (Block × Nat) :=
  if off < 0x10000 then some (.crucible, off)
  else if off < 0x50000 then some (.die (off / 0x10000 - 1), off % 0x10000)
  else none

/-- The block and offset that an access names. -/
def placeOf (b : Block) (off : Nat) : Option (Block × Nat) :=
  match b with
  | .bar0 => bar0Block off
  | b => some (b, off)

/-- Where a 64-bit register of a block begins at an offset. -/
def wideRegister (b : Block) (off : Nat) : Bool :=
  match b with
  | .crucible => off = 0x110 || off = 0x120 || off = 0x128 || off = 0x188 || (0x200 ≤ off && off < 0x280 && off % 8 = 0)
  | .die _ => off = 0x400 || off = 0x700 || off = 0x708 || (0x1000 ≤ off && off < 0x1C00 && 0x10 ≤ off % 0x40 && off % 0x40 < 0x30 && off % 8 = 0)
  | _ => false

/-- A write of one register of a block. -/
def writeBlock (b : Block) (off width value : Nat) (s : State) : Out :=
  match b with
  | .crucible => writeCrucible off width value s
  | .die d => writeDie d off width value s
  | .debug c => .next (s.debugWord c off (BitVec.ofNat 32 value))
  | .bar0 => .next s

/-- A write of 4 or 8 bytes: one of 8 bytes that names no 64-bit register writes two 32-bit registers, the lower one first
(DESIGN CHOICE, log 66: no rule gives the width of a register access). -/
def writeWidth (b : Block) (off width value : Nat) (s : State) : Out :=
  if width = 4 ∨ wideRegister b off then writeBlock b off width value s
  else match writeBlock b off 4 (value % 2 ^ 32) s with
    | .next s => writeBlock b (off + 4) 4 (value / 2 ^ 32) s
    | o => o

/-- Registers that port 1 has written in this cycle. -/
def State.portOneWrote (s : State) : List (Block × Nat) :=
  if s.crucible.portOne.1 = s.now + 1 then s.crucible.portOne.2 else []

/-- A write that the host has made to memory through a port has not been performed (R433). -/
def State.portBusy (s : State) (port : Nat) : Bool :=
  (List.range 4).any (fun d => (s.die d).windows.any (fun w => w.rank = 3 && w.order = port))

/-- REGISTER_WRITE: 4 or 8 bytes, aligned, to registers of a block, by their access types (R2, R3). A write of port 0 does not
reach a register in a cycle in which port 1 has already written it, since port 0 comes first in a cycle, and no write goes
before an earlier one of its port (R433). -/
def execRegisterWrite (block : Block) (offset width value port : Nat) (s : State) : Out :=
  if (width ≠ 4 ∧ width ≠ 8) ∨ offset % width ≠ 0 ∨ 2 ≤ port then .next s
  else match placeOf block offset with
    | none => .next s
    | some (b, off) =>
      let words := if width = 4 then [(b, off)] else [(b, off), (b, off + 4)]
      if s.portBusy port ∨ (port = 0 ∧ words.any s.portOneWrote.contains) then .next s
      else match writeWidth b off width value s with
        | .next t =>
          .next (if port = 1 then t.modCrucible (fun c => { c with portOne := (s.now + 1, s.portOneWrote ++ words) }) else t)
        | o => o

/-- What a read of STEPHIT, STEPMISS or CONFLICT of a context on a die leaves and returns: it clears the counter, and
increments of the same cycle come after it (R429). -/
def State.takeCounter (s : State) (die ctx which : Nat) : State × Nat :=
  let d := s.die die
  let key := 16 * which + ctx
  let read (w : Word) (put : Die → Word → Die) : State × Nat :=
    let (v, n) := d.counterBefore s.now key w
    (s.modDie die (fun d => { put d (BitVec.ofNat 32 n) with
      counted := if n = 0 then d.counted else d.counted.set (0, 0, 0) key (s.now + 1, 0, n) }), v)
  if !s.crucible.ready then (s, 0)
  else match which with
    | 0 => read (d.stepHit.get 0 ctx) (fun d w => { d with stepHit := d.stepHit.set 0 ctx w })
    | 1 => read (d.stepMiss.get 0 ctx) (fun d w => { d with stepMiss := d.stepMiss.set 0 ctx w })
    | 2 => read (d.conflict.get 0 ctx) (fun d w => { d with conflict := d.conflict.set 0 ctx w })
    | _ => (s, 0)

/-- EVENT_COUNTER_READ (R429). -/
def execEventCounterRead (die ctx which : Nat) (s : State) : Out :=
  let (s, v) := s.takeCounter die ctx which
  .next (s.answer v)

/-- A 32-bit read of a block: its effect, and the word it returns (R2, R3). -/
def State.readWord (s : State) (b : Block) (off : Nat) : State × Nat :=
  let base := off / 8 * 8
  let half (w : Nat) : Nat := w / 2 ^ (8 * (off - base)) % 2 ^ 32
  match b with
  | .crucible => (s, if wideRegister b base then half (s.readCrucible base) else s.readCrucible off)
  | .die d =>
    if 0x700 ≤ off ∧ off < 0x710 then (s, s.readDie d 0x700 / 2 ^ (8 * (off - 0x700)) % 2 ^ 32)
    else if 0x800 ≤ off ∧ off < 0x900 then s.takeCounter d ((off - 0x800) / 16) (off % 16 / 4)
    else (s, if wideRegister b base then half (s.readDie d base) else s.readDie d off)
  | .debug c => (s, (s.readDebug c off).toNat)
  | .bar0 => (s, 0)

/-- A read of registers of a block: 4 or 8 bytes, aligned, the lower word first, and MISSREC as one access of 16 (R2, R3, R227,
R429). What it returns is recorded as the answer to the host or to the control processor (log 6). -/
def registerRead (block : Block) (offset width : Nat) (s : State) : Out :=
  match placeOf block offset with
  | none => .next (s.answer 0)
  | some (.die d, 0x410) =>
    if width = 16 then execMissrecRead d s else .next (s.answer 0)
  | some (b, off) =>
    let (s', v) := s.readWord b off
    if width = 4 ∧ offset % 4 = 0 then .next (s'.answer v)
    else if width = 8 ∧ offset % 8 = 0 then
      let (s', w) := s'.readWord b (off + 4)
      .next (s'.answer (v + 2 ^ 32 * w))
    else .next s

end Sys2Proof.Machine
end

