-- ==== Sys2Proof/Machine/Rifold.lean ====
section
/-! DEFINITION. The Rifold controller: its commands (R438 to R441) and boot (R442). -/

namespace Sys2Proof.Machine

/-! ### Commands (R438) -/

/-- Statuses of a command. -/
inductive RifoldStatus where
  | ok | badArg | signature | rollback
deriving DecidableEq, Repr

def RifoldStatus.num : RifoldStatus → Nat
  | .ok => 0
  | .badArg => 1
  | .signature => 2
  | .rollback => 3

/-- The command that runs is this one. -/
def State.started? (s : State) (op : Nat) : Bool := s.crucible.rfRun = some op

/-- A command ends: its status, GO clear, and the interrupt cause. -/
def State.rifoldDone (s : State) (st : RifoldStatus) : State :=
  (s.modCrucible (fun c => { c with
    rfcmd := BitVec.ofNat 32 (2 ^ 24 * st.num + c.rfcmd.toNat % 256), rfRun := none })).interrupt 8

/-- Run a started command on its argument block. Bytes that the command does not name must be zero. -/
def rifold (op : Nat) (named : List Nat) (s : State) (k : Nat → Out) : Out :=
  if !s.started? op then .next s
  else
    let a := s.crucible.rfarg.toNat / 64 * 64
    let w := s.number a 64
    if !mapped a 64 ∨ (List.range 64).any (fun i => !named.contains i && recField w i 1 ≠ 0) then
      .next (s.rifoldDone .badArg)
    else k w

/-- Bytes `i` to `i + n - 1` as a list of positions. -/
def byteSpan (i n : Nat) : List Nat := (List.range n).map (i + ·)

/-- The controller writes a buffer of plain memory, a leased region having been recalled first. -/
def State.writeBuffer (s : State) (pa n value : Nat) : Out :=
  match s.recall (byteSpan pa n) with
  | some s => .next s
  | none => .next ((s.writeBytes (bytesAt pa n value)).rifoldDone .ok)

/-- KEYSRC: an entry of a context's source key table (R410). -/
def execKeysrc (s : State) : Out :=
  rifold 1 ([0, 1, 2] ++ byteSpan 8 8) s fun w =>
    if 16 ≤ recField w 0 1 ∨ 2 ≤ recField w 2 1 then .next (s.rifoldDone .badArg)
    else
      let entry : SourceKey := { valid := recField w 2 1 = 1, key := BitVec.ofNat 64 (recField w 8 8) }
      .next ((s.modCrucible (fun c => { c with
        srcKeys := c.srcKeys.set {} (256 * recField w 0 1 + recField w 1 1) entry, keyGen := c.keyGen + 1
        keyGens := c.keyGens.modify 0 (recField w 0 1) (· + 1) })).rifoldDone .ok)

/-- A receive entry with new contents: a key that changes leaves the old one valid for a time, whatever VALID was (R410). -/
def ReceiveKey.renew (k : ReceiveKey) (valid : Bool) (ctx quota now : Nat) (key : DWord) : ReceiveKey :=
  if k.key ≠ key then { valid, ctx, key, prev := some k.key, changed := now, quota }
  else { k with valid, ctx, key, quota }

/-- KEYRCV: an entry of the receive table. -/
def execKeyrcv (s : State) : Out :=
  rifold 2 ([0, 1, 2, 4, 5] ++ byteSpan 8 8) s fun w =>
    if 2 ≤ recField w 1 1 ∨ 16 ≤ recField w 2 1 ∨ 4096 ≤ recField w 4 2 then .next (s.rifoldDone .badArg)
    else
      let renew (k : ReceiveKey) : ReceiveKey :=
        k.renew (recField w 1 1 = 1) (recField w 2 1) (recField w 4 2) s.now (BitVec.ofNat 64 (recField w 8 8))
      .next ((s.modCrucible (fun c => { c with
        rcvKeys := c.rcvKeys.modify {} (recField w 0 1) renew, keyGen := c.keyGen + 1
        keyGens := c.keyGens.modify 0 16 (· + 1) })).rifoldDone .ok)

/-- KEY_PREV_EXPIRY: 10 ms after the change (R410). -/
def execKeyPrevExpiry (index : Nat) (s : State) : Out :=
  let k := s.rcvKey index
  .next (if k.prev.isSome && k.changed + tenMs ≤ s.now then
    s.modCrucible (fun c => { c with rcvKeys := c.rcvKeys.modify {} index (fun k => { k with prev := none }) })
  else s)

/-- A change of BUDGET comes before a placement of its cycle (R430): once one has been made, it waits for the next cycle. -/
def State.afterPlacement (s : State) (i : Instr) : Bool :=
  match i with
  | .budget => s.dies.any (fun d => d.2.placedAt = s.now + 1)
  | _ => false

/-- BUDGET: PWRBUD of a die (R430), and R371 follows. -/
def execBudget (s : State) : Out :=
  rifold 3 (0 :: byteSpan 4 4) s fun w =>
    if 4 ≤ recField w 0 1 then .next (s.rifoldDone .badArg)
    else .next ((s.setBudget (recField w 0 1) (BitVec.ofNat 32 (recField w 4 4))).rifoldDone .ok)

/-- The cores that a freeze has stopped go on (R439). -/
def State.thaw (s : State) (ctx : Nat) : State :=
  let cores : List CoreId := (List.range 4).flatMap (fun d => (List.range 48).map (fun k => { die := d, core := k }))
  let mine := cores.filter (fun c => s.holderOf c = some ctx && (s.core c).stopped
    && ((s.core c).code = Code.key.num || (s.core c).code = Code.share.num))
  mine.foldl State.resumeCore (s.modContext ctx (fun c => { c with frozen := none }))

/-- What the end of a freeze sets going: the filter releases that it held back, and a DEACTIVATE (R306, R355). -/
def State.afterThaw (s : State) (ctx : Nat) : State :=
  let s := s.flushReleases
  if (s.context ctx).deactivating then (s.forceOut ctx).settleContext ctx else s.settleContext ctx

/-- UNFREEZE (R439). -/
def execUnfreeze (s : State) : Out :=
  rifold 4 [0, 1] s fun w =>
    let ctx := recField w 0 1
    if 16 ≤ ctx ∨ 2 ≤ recField w 1 1 ∨ (s.context ctx).frozen.isNone then .next (s.rifoldDone .badArg)
    else
      let s := s.thaw ctx
      let s := if recField w 1 1 = 0 then s else
        (s.launchesOf ctx).foldl (fun s l => if l.node.isSome then s
          else s.modLaunch l.uid (fun l => { l with ending := some (l.ending.getD .aborted) })) s
      .next ((s.afterThaw ctx).rifoldDone .ok)

/-- SENSORS: 64 readings; those from 12 on are zero. -/
def execSensors (s : State) : Out :=
  rifold 5 (byteSpan 0 8) s fun w =>
    let pa := recField w 0 8
    if pa % 64 ≠ 0 ∨ !mapped pa 256 then .next (s.rifoldDone .badArg)
    else
      let value := ((List.range 12).map (fun i => 2 ^ (32 * i) * (Config.sensor i s.tick).toNat)).sum
      s.bump.writeBuffer pa 256 value

/-- A log entry's 32 bytes, as a number (R440). -/
def LogEntry.number (x : LogEntry) : Nat :=
  x.cycle % 2 ^ 64 + 2 ^ 64 * (x.code % 2 ^ 16) + 2 ^ 80 * (x.die % 256) + 2 ^ 88 * (x.ctx % 256)
    + 2 ^ 96 * (x.coreid % 256) + 2 ^ 128 * (x.detail % 2 ^ 128)

/-- LOGREAD: entry 0, then the oldest entries, which leave the ring. -/
def execLogread (s : State) : Out :=
  rifold 6 (byteSpan 0 12) s fun w =>
    let pa := recField w 0 8
    let count := recField w 8 4
    if pa % 32 ≠ 0 ∨ count < 1 ∨ 4096 < count ∨ !mapped pa (32 * (count + 1)) then .next (s.rifoldDone .badArg)
    else
      let taken := s.crucible.log.take count
      let n := taken.length
      let value := s.crucible.overwritten % 2 ^ 64 + 2 ^ 64 * n
        + (taken.zipIdx.map (fun (x, i) => 2 ^ (256 * (i + 1)) * x.number)).sum
      match s.recall (byteSpan pa (32 * (n + 1))) with
      | some s => .next s
      | none =>
        (s.modCrucible (fun c => { c with log := c.log.drop n, overwritten := 0 })).writeBuffer pa (32 * (n + 1)) value

/-- UPDATE: a signed image goes to the inactive slot and takes effect at the next reset (R441). -/
def execUpdate (s : State) : Out :=
  rifold 7 (byteSpan 0 16) s fun w =>
    let pa := recField w 0 8
    let n := recField w 8 8
    if n = 0 ∨ !mapped pa n then .next (s.rifoldDone .badArg)
    else
      let image := bytesOfNat n (s.number pa n)
      if !Config.imageVerifies image then .next (s.rifoldDone .signature)
      else if Config.imageVersion image < s.crucible.rollback then .next (s.rifoldDone .rollback)
      else .next ((s.modCrucible (fun c => { c with
        fwVersions := c.fwVersions.set 0 (1 - c.fwSlot) (Config.imageVersion image)
        fwImages := c.fwImages.set [] (1 - c.fwSlot) image, fwPending := true })).rifoldDone .ok)

/-- The image in a slot: the last that UPDATE wrote there, or the one it came with (R441). An image written
to the slot that does not run takes effect at the next reset. -/
def Crucible.image (c : Crucible) (slot : Nat) : List Byte :=
  match c.fwImages.get [] slot with
  | [] => Config.firmware slot
  | image => image

/-- The image that runs. -/
def Crucible.runningImage (c : Crucible) : List Byte := c.image c.fwSlot

/-- The digests that ATTEST returns: of the running firmware, of the four DEFMAP values in die order, and of the generation
counts of the key tables, each value little-endian (R438, R441; log 9). -/
def State.digests (s : State) : List (BitVec 256) :=
  [Config.digest s.crucible.runningImage,
    Config.digest ((List.range 4).flatMap (fun d => bytesOfNat 16 (s.die d).defmap)),
    Config.digest ((List.range 17).flatMap (fun t => bytesOfNat 8 (s.crucible.keyGens.get 0 t)))]

/-- ATTEST: the nonce, three digests and the signature over them (R441). -/
def execAttest (s : State) : Out :=
  rifold 8 (byteSpan 0 40) s fun w =>
    let pa := recField w 32 8
    if pa % 64 ≠ 0 ∨ !mapped pa 4096 then .next (s.rifoldDone .badArg)
    else
      let head := bytesOfNat 32 (recField w 0 32) ++ s.digests.flatMap (fun x => bytesOfNat 32 x.toNat)
      let sign := (List.range 2420).map (fun i => Config.signature head s.tick i)
      s.bump.writeBuffer pa 2548 (numberOf (head ++ sign))

/-! ### Boot (R442) -/

/-- Whether a slot verifies by R441: its image is signed and its version is not below the rollback counter. -/
def Crucible.slotValid (c : Crucible) (slot : Nat) : Bool :=
  !c.fwInvalid && Config.imageVerifies (c.image slot) && c.rollback ≤ Config.imageVersion (c.image slot)

/-- The slot that boot verifies first: the one that an UPDATE has written, or the one that ran (log 9). -/
def Crucible.firstSlot (c : Crucible) : Nat := if c.fwPending then 1 - c.fwSlot else c.fwSlot

/-- The first valid slot runs, and with neither valid boot fails (R442). -/
def Crucible.bootSlot (c : Crucible) : Option Nat := [c.firstSlot, 1 - c.firstSlot].find? c.slotValid

/-- The step of boot that fails, if one does: 1 no valid firmware slot, 2 DRAM training, 3 link training, 4 fuse data. -/
def State.bootError (s : State) : Nat :=
  if s.crucible.bootSlot.isNone then 1
  else match Config.freeNat s.tick % 4 with
    | 0 => 0
    | k => k + 1

/-- A die after boot. Its cycle count has run since the die left reset, which each die does at its own time (R194). -/
def bootedDie (tick d : Nat) : Die :=
  { serving := true, cycle := Config.bootCycles tick d, pwrbud := 600000, defCores := Config.fusedCores d, defSlices := Config.fusedSlices d }

/-- RESET: every field at its reset value, then boot. What firmware slots hold stays. -/
def execReset (s : State) : Out :=
  let c := s.crucible
  let slot := c.bootSlot.getD c.firstSlot
  let err := s.bootError
  let crucible : Crucible := {
    fwSlot := slot, fwVersions := c.fwVersions, fwImages := c.fwImages, rollback := c.rollback, fwInvalid := c.fwInvalid, bootErr := err }
  let base : State := { crucible, tick := s.tick + 1, agenda := s.agenda, hostOut := s.hostOut }
  .next (if err ≠ 0 then base
    else { base with
      dies := (List.range 4).map (fun d => (d, bootedDie s.tick d))
      crucible := { crucible with ready := true, devnum := Config.deviceNumber % 512 } })

end Sys2Proof.Machine
end

