-- ==== Sys2Proof/Machine/Ports.lean ====
section
/-! DEFINITION. Host accesses through BAR2 (R433), and what the fabric ports report (R436). -/

namespace Sys2Proof.Machine

/-! ### BAR2 -/

/-- A host access reaches memory: the device has booted, and the bytes lie in one mapped range. -/
def State.hostReaches (s : State) (pa n : Nat) : Bool := s.crucible.ready && mapped pa n

/-- HOST_WRITE: a plain write that its home's arbitration window orders after the device's own; one outside the mapped
ranges is dropped and logged. -/
def execHostWrite (pa port : Nat) (data : List Byte) (s : State) : Out :=
  if 2 ≤ port ∨ data.isEmpty ∨ 512 < data.length then .next s
  else
    let s := s.active
    .next (if s.hostReaches pa data.length then s.gather { rank := 3, order := port, who := none } (bytesAt pa data.length (numberOf data))
      else s.logEvent .droppedAccess (homeOf pa) 0 0 pa)

/-- What the host sees of a read: the value, or one more than any value for a poisoned completion. -/
def State.hostSees (s : State) (pa n : Nat) : Nat :=
  if (byteSpan pa n).any s.poisonedAt then 2 ^ (8 * n) else s.number pa n

/-- HOST_READ: a leased region is recalled first (R308); an unmapped range reads all ones and is logged. -/
def execHostRead (pa n port : Nat) (s : State) : Out :=
  if 2 ≤ port ∨ n = 0 ∨ 4096 < n then .next s
  else
    let s := s.active
    if s.hostReaches pa n then
      match s.recall (byteSpan pa n) with
      | some s => .next s
      | none => .next ((s.readsAt (byteSpan pa n)).answer (s.hostSees pa n))
    else .next ((s.answer (2 ^ (8 * n) - 1)).logEvent .droppedAccess (homeOf pa) 0 0 pa)

/-! ### The fabric -/

/-- UNKNOWN_MESSAGE: a code that R436 does not list is discarded and logged. -/
def execUnknownMessage (code : Nat) (s : State) : Out :=
  .next (if 1 ≤ code ∧ code ≤ 0x0B then s else s.logEvent .unknownMessage 0 0 0 code)

/-- The time of a link's loss, which a later report does not move. -/
def noteDown (downs : Store Nat) (key now : Nat) : Store Nat :=
  if downs.get 0 key = 0 then downs.set 0 key (now + 1) else downs

/-- LINK_DOWN: a port leaves use; what was under way on it is sent again on other planes (R296). -/
def execLinkDown (port : Nat) (s : State) : Out :=
  .next (if port < 32 then s.modCrucible (fun c => { c with
      portsDown := setInsert c.portsDown port, portDownAt := noteDown c.portDownAt port s.now })
    else s)

/-- A switch plane shows that the port of another device into it is down. -/
def State.peerPortDown (s : State) (dev port : Nat) : State :=
  if 512 ≤ dev ∨ 32 ≤ port then s
  else s.modCrucible (fun c => { c with peerDownAt := noteDown c.peerDownAt (32 * dev + port) s.now })

/-- A device has had no path to a peer on the fabric for 10 ms: on every plane its own port, or the peer's, is down (the pod of R8,
R436). -/
def State.cutOff (s : State) (dev : Nat) : Bool :=
  let since (t : Nat) : Bool := t ≠ 0 && t - 1 + tenMs ≤ s.now
  s.crucible.routes.get 0 dev = 0 && (List.range 32).all (fun p => since (s.crucible.portDownAt.get 0 p) || since (s.crucible.peerDownAt.get 0 (32 * dev + p)))

/-! ### Routes (R437) -/

/-- What waits to be sent for the first time to a device that has lost its route is refused (R290). -/
def State.refuseWaiting (s : State) (dev : Nat) : State :=
  if s.routed dev then s
  else
    let s := (s.crucible.unsettled.filter (fun u => u.elem.dstDev = dev && !u.sent)).foldl (fun s u => s.settle u (some .unreach)) s
    (s.crucible.asked.filter (fun a => a.req.dstDev = dev && !a.sent)).foldl (fun s a => s.refuseAsked a .unreach) s

/-- System software changes an entry of the route table. -/
def State.setRoute (s : State) (dev route index : Nat) : State :=
  if 512 ≤ dev ∨ 3 ≤ route then s
  else (s.modCrucible (fun c => { c with
    routes := c.routes.set 0 dev route, routeIndex := c.routeIndex.set 0 dev (BitVec.ofNat 16 index) })).refuseWaiting dev

/-- System software changes the table of remote IPv6 addresses. -/
def State.setRemoteAddress (s : State) (index : Nat) (addr : BitVec 128) : State :=
  if 2 ^ 16 ≤ index then s
  else s.modCrucible (fun c => { c with remoteAddrs := c.remoteAddrs.set 0 index addr })

/-! ### Lost devices -/

/-- The regions that a lost lessee held are poisoned and their leases end, and leases from a lost home are void
(R308). -/
def State.losePeerLeases (s : State) (dev : Nat) : State :=
  let s := s.modCrucible (fun c => { c with leases := c.leases.filter (fun h => h.lease.homeDev ≠ dev) })
  (List.range 4).foldl (fun s d =>
    ((s.die d).contention.filter (fun x => x.lease.any (fun l => l.lessee = dev))).foldl (fun s x =>
      let s := { s with poisoned := (List.range 1024).foldl (fun ps i => setInsert ps (x.region * 1024 + i)) s.poisoned }
      let s := s.modDie d (fun y => { y with
        contention := updateFirst (· = x) (fun z => { z with lease := none, recalled := false }) y.contention })
      s.logEvent .lease d 0 0 (65536 * x.region)) s) s

/-- PEER_LOST: a device to which no path has been up for 10 ms is reported lost. -/
def execPeerLost (dev : Nat) (s : State) : Out :=
  if 512 ≤ dev ∨ dev = s.crucible.devnum ∨ s.crucible.lostPeers.contains dev ∨ !s.cutOff dev then .next s
  else
    let s := (s.modCrucible (fun c => { c with lostPeers := c.lostPeers ++ [dev] })).logEvent .lostDevice 0 0 0 dev
    .next ((((s.losePeerLeases dev).losePeerColls dev).losePeerGroups dev).losePeerLinked dev)

end Sys2Proof.Machine
end

