-- ==== Sys2Proof/Machine/StepCache.lean ====
section
/-! DEFINITION. The step replay cache, opcode 0xDB (R323 to R327). -/

namespace Sys2Proof.Machine

/-- A STEP instruction of a context on a die has not completed. -/
def State.stepStoring (s : State) (die ctx : Nat) : Bool :=
  s.landings.any (fun p => p.step = some ctx && (s.chorus? p.who.chorus).any (fun ch => ch.die = die))

/-- The pages that a region touches. -/
def stepPages (base bytes : Nat) : List Nat :=
  base :: ((List.range ((base + bytes - 1) / 2 ^ 16 - base / 2 ^ 16)).map (fun i => (base / 2 ^ 16 + 1 + i) * 2 ^ 16))

/-- A STEP instruction that answers a status, which completes when it lands. -/
def stepWord (s : State) (e : Env) (d : Nat) (w : Word) : Out :=
  .next ((s.produce { id := 0, who := e.who, dst := .ordinary d 1, mask := e.mask, words := [lanesOf fun _ => w]
                      step := some e.l.ctx }).bump.modClutch e.who (·.advance 16))

/-- The translations of a slot's pages, to read or to write them, and where those pages lie (R226, R325); the word waits for
the clutch's earlier accesses to the slot's bytes (R332). -/
def withSlot (s : State) (e : Env) (write : Bool) (base bytes : Nat) (k : State → List (Nat × Nat) → Out) : Out :=
  let vas := stepPages base bytes
  let access := if write then 1 else 0
  match s.xlate e.core e.l.ctx write vas with
  | .walk va => .next (s.miss e access va)
  | .bad va => .next (s.missStop e access va)
  | .ok =>
    let pages := vas.map (fun va => (va / 65536, s.paOf e.core e.l.ctx (va / 65536 * 65536)))
    let places := stepPlaces pages base bytes
    if s.accessPending e.who .global places || s.writePending e.who places then .next s
    else k (s.touchTlb e.core e.l.ctx vas) pages

/-- Entries of the tag array in use on a die. -/
def Die.stepUsed (d : Die) : Nat := (d.steps.map (fun x => x.2.n)).sum

/-- Release a context's entries on a die. -/
def State.stepRelease (s : State) (die ctx : Nat) : State :=
  s.modDie die (fun d => { d with steps := d.steps.filter (fun x => x.1 ≠ ctx) })

/-- STEP.CFG's size word (R324): TB and n, none when it is not valid. -/
def stepSize (w : Nat) : Option (Nat × Nat) :=
  let n := w / 2 ^ 4 % 2 ^ 14
  if w / 2 ^ 18 = 0 ∧ w % 16 ≤ 8 ∧ (List.range 14).any (fun k => n = 2 ^ k) then some (256 * 2 ^ (w % 16), n) else none

/-- STEP.CFG (R324). A miss leaves the context's entries as they are. -/
def execStepCfg (f : Fields) (s : State) : Out :=
  issue 0xDB f s fun e => withLow s e [f.a.toNat, f.a.toNat + 1, f.b.toNat] <|
    let ctx := e.l.ctx
    let die := e.ch.die
    let base := e.lowPair s f.a.toNat
    let w := e.lowWord s f.b.toNat
    if s.stepStoring die ctx then .next s
    else
      let t := s.stepRelease die ctx
      if w / 2 ^ 4 % 2 ^ 14 = 0 then stepWord t e f.d.toNat 0
      else match stepSize w with
        | none => stepWord t e f.d.toNat 3
        | some (tb, n) =>
          let pages := stepPages base (2 * tb * n)
          if base % (2 * tb) ≠ 0 then stepWord t e f.d.toNat 2
          else match s.xlate e.core ctx false pages with
            | .walk va => .next (s.miss e 1 va)
            | .bad va => .next (s.missStop e 1 va)
            | .ok =>
              let good (va : Nat) : Bool :=
                let pa := s.paOf e.core ctx va
                pteW (s.leafOf e.core ctx va) && homeOf pa = die && pa % 2 ^ 39 < 2 ^ 36
              if !pages.all good then stepWord t e f.d.toNat 2
              else if 8192 < (t.die die).stepUsed + n then stepWord t e f.d.toNat 1
              else
                let t := t.modDie die (fun d => { d with steps := d.steps ++ [(ctx, { n, base, tb, tags := [] })] })
                stepWord t e f.d.toNat 0

/-- The words of a scratchpad tile. -/
def Chorus.tileWords (c : Chorus) (key bytes : Nat) : List Nat :=
  (List.range (bytes / 4)).map (fun i => c.number (key + 4 * i) 4)

/-- The distance of two tiles, every step rounded RNE to FP32 (R325). -/
def stepDistance (l2 : Bool) (xs ys : List Nat) : Nat :=
  let ds := (xs.zip ys).map (fun p =>
    (fp32.sumProducts .rne false [[fp32.decode p.1], [(fp32.decode p.2).neg]]).bits)
  let fma (acc d : Nat) : Nat :=
    (fp32.sumProducts .rne false [[fp32.decode d, fp32.decode d], [fp32.decode acc]]).bits
  if l2 then
    let sd := ds.foldl fma 0
    let sy := ys.foldl fma 0
    if fp32.decode sd |>.isZero then 0
    else if fp32.decode sy |>.isZero then fp32.maxBits
    else
      let root (x : Nat) : FVal := fp32.decode (fp32.sqrt .rne (fp32.decode x)).bits
      (fp32.div .rne (root sd) (root sy)).bits
  else
    ds.foldl (fun m d =>
      let a := d % 2 ^ 31
      if (fp32.decode m).isNan || (fp32.decode a).isNan then fp32.nan
      else if FVal.lt0 (fp32.decode m) (fp32.decode a) then a else m) 0

/-- Count a probe (R325, R429): a hit, or one of the statuses 1 to 4. -/
def State.countProbe (s : State) (die ctx : Nat) (hit : Bool) : State :=
  s.modDie die (fun d =>
    if hit then { d.noteCount s.now ctx (d.stepHit.get 0 ctx) with stepHit := d.stepHit.modify 0 ctx upOne }
    else { d.noteCount s.now (16 + ctx) (d.stepMiss.get 0 ctx) with stepMiss := d.stepMiss.modify 0 ctx upOne })

/-- Both tiles of a STEP word inside the scratchpad (R215, R325). -/
def Env.stepTiles (e : Env) (s : State) (f : Fields) (tb : Nat) : Option (Nat × Nat) :=
  match e.localKey 1 (e.lowWord s f.a.toNat) tb, e.localKey 1 (e.lowWord s f.e.toNat) tb with
  | some i, some o => some (i, o)
  | _, _ => none

/-- STEP.PROBE (R325). It waits for the clutch's earlier scratchpad writes, for its earlier accesses to the output tile and
to the slot, and for the return of a lease on the slot (R308). -/
def execStepProbe (f : Fields) (s : State) : Out :=
  issue 0xDB f s fun e =>
    let threshold : Src := { reg := f.f.toNat, tag := some 2 }
    if e.srcFails threshold then fatal s e .format e.mask
    else withLow s e [f.a.toNat, f.b.toNat, f.c.toNat, f.e.toNat, f.f.toNat] <|
    let ctx := e.l.ctx
    let die := e.ch.die
    let flagged (s : State) : State := s.flag e.who.chorus (fmtFlag (e.srcFmt threshold))
    match (s.die die).stepRegion ctx with
    | none => stepWord (flagged s) e f.d.toNat 5
    | some r =>
      match e.stepTiles s f r.tb with
      | none => fatal s e .bounds e.mask
      | some (input, output) =>
        let k := e.read s f.b.toNat e.low
        let st := e.read s f.c.toNat e.low
        let slot := k.toNat % r.n
        let x := r.tags.get {} slot
        let answer (s : State) (status : Word) : Out :=
          stepWord ((flagged s).countProbe die ctx (status = 0)) e f.d.toNat status
        let inKeys := (List.range r.tb).map (input + ·)
        let outKeys := (List.range r.tb).map (output + ·)
        if s.scratchPending e.who || s.accessPending e.who .scratch outKeys then .next s
        else if !x.valid || x.busy || x.key ≠ k then answer s 1
        else if st = 0 ∨ x.step ≠ st - 1 then answer s 2
        else
          let base := r.base + 2 * r.tb * slot
          withSlot s e false base (2 * r.tb) fun s pages =>
          let ins := stepPlaces pages base r.tb
          let outs := stepPlaces pages (base + r.tb) r.tb
          match s.recall (ins ++ outs) with
          | some s' => .next s'
          | none =>
          if ((ins ++ outs).any s.poisonedAt && !s.poisoned.isEmpty) || e.ch.scratchBad inKeys then poisonEnd s e e.mask
          else
            let xs := e.ch.tileWords input r.tb
            let ys := (List.range (r.tb / 4)).map (fun i =>
              numberOf (((ins.drop (4 * i)).take 4).map (fun pa => Memory.read s.mem pa)))
            let t := e.lowWord s f.f.toNat
            let nan (w : Nat) : Bool := (fp32.decode w).isNan
            if nan t || xs.any nan || ys.any nan then answer s 4
            else
              let m := fp32.decode (stepDistance (f.mod.getLsbD 3) xs ys)
              let hit : Bool := !m.isNan && (FVal.cmp m (fp32.decode t) ≠ .gt)
              if !hit then answer s 3
              else
                let bytes := outs.zipIdx.map (fun y => (output + y.2, Memory.read s.mem y.1))
                let s := (s.storeAll e .scratch bytes).modDie die
                  (fun d => d.modTag ctx slot (fun x => { x with step := st }))
                answer s 0

/-- STEP.STORE: the slot is BUSY until both tiles are written, which the landing does (R326). -/
def execStepStore (f : Fields) (s : State) : Out :=
  issue 0xDB f s fun e =>
    withLow s e [f.a.toNat, f.b.toNat, f.c.toNat, f.e.toNat] <|
    let ctx := e.l.ctx
    let die := e.ch.die
    match (s.die die).stepRegion ctx with
    | none => stepWord s e f.d.toNat 5
    | some r =>
      match e.stepTiles s f r.tb with
      | none => fatal s e .bounds e.mask
      | some (input, output) =>
        let k := e.read s f.b.toNat e.low
        let slot := k.toNat % r.n
        let base := r.base + 2 * r.tb * slot
        if s.scratchPending e.who then .next s
        else withSlot s e true base (2 * r.tb) fun s pages =>
        let s := s.modDie die (fun d => d.modTag ctx slot (fun x => { x with busy := true }))
        .next ((s.produce
          { id := 0, who := e.who, dst := .ordinary f.d.toNat 1, mask := e.mask, words := [lanesOf fun _ => 0], step := some ctx
            access := some {
              op := .stepStore ctx slot k (e.read s f.c.toNat e.low) input output r.tb base pages, space := .scratch
              places := [(e.low, (List.range r.tb).map (input + ·) ++ (List.range r.tb).map (output + ·))]
              pc := e.cl.pc } }).bump.modClutch e.who (·.advance 16))

end Sys2Proof.Machine
end

