-- ==== Sys2Proof/Machine/Dispatch.lean ====
section
/-! DEFINITION. The meaning of every operation and event, one arm for each constructor. -/

namespace Sys2Proof.Machine

/-- What an operation or event does in a state. -/
def exec (i : Instr) (s : State) : Host.Outcome State Fault Refusal :=
  match i with
  | .nop f => Sys2Proof.Machine.execNop f s
  | .mov f => Sys2Proof.Machine.execMov f s
  | .sel f => Sys2Proof.Machine.execSel f s
  | .iadd f => Sys2Proof.Machine.execIadd f s
  | .isub f => Sys2Proof.Machine.execIsub f s
  | .imul f => Sys2Proof.Machine.execImul f s
  | .imulh f => Sys2Proof.Machine.execImulh f s
  | .imad f => Sys2Proof.Machine.execImad f s
  | .imadw f => Sys2Proof.Machine.execImadw f s
  | .idiv f => Sys2Proof.Machine.execIdiv f s
  | .irem f => Sys2Proof.Machine.execIrem f s
  | .iabs f => Sys2Proof.Machine.execIabs f s
  | .imin f => Sys2Proof.Machine.execImin f s
  | .imax f => Sys2Proof.Machine.execImax f s
  | .iaddc f => Sys2Proof.Machine.execIaddc f s
  | .iadds f => Sys2Proof.Machine.execIadds f s
  | .icmp f => Sys2Proof.Machine.execIcmp f s
  | .and f => Sys2Proof.Machine.execAnd f s
  | .or f => Sys2Proof.Machine.execOr f s
  | .xor f => Sys2Proof.Machine.execXor f s
  | .andn f => Sys2Proof.Machine.execAndn f s
  | .shl f => Sys2Proof.Machine.execShl f s
  | .shr f => Sys2Proof.Machine.execShr f s
  | .sar f => Sys2Proof.Machine.execSar f s
  | .rot f => Sys2Proof.Machine.execRot f s
  | .bfe f => Sys2Proof.Machine.execBfe f s
  | .bfi f => Sys2Proof.Machine.execBfi f s
  | .popc f => Sys2Proof.Machine.execPopc f s
  | .clz f => Sys2Proof.Machine.execClz f s
  | .brev f => Sys2Proof.Machine.execBrev f s
  | .ffs f => Sys2Proof.Machine.execFfs f s
  | .lea f => Sys2Proof.Machine.execLea f s
  | .add64 f => Sys2Proof.Machine.execAdd64 f s
  | .cmp64 f => Sys2Proof.Machine.execCmp64 f s
  | .cvti f => Sys2Proof.Machine.execCvti f s
  | .bymix f => Sys2Proof.Machine.execBymix f s
  | .vote f => Sys2Proof.Machine.execVote f s
  | .ballot f => Sys2Proof.Machine.execBallot f s
  | .match_ f => Sys2Proof.Machine.execMatch f s
  | .redi f => Sys2Proof.Machine.execRedi f s
  | .scani f => Sys2Proof.Machine.execScani f s
  | .shfl f => Sys2Proof.Machine.execShfl f s
  | .bcast f => Sys2Proof.Machine.execBcast f s
  | .isect f => Sys2Proof.Machine.execIsect f s
  | .rdcr f => Sys2Proof.Machine.execRdcr f s
  | .wrcr f => Sys2Proof.Machine.execWrcr f s
  | .fadd f => Sys2Proof.Machine.execFadd f s
  | .fsub f => Sys2Proof.Machine.execFsub f s
  | .fmul f => Sys2Proof.Machine.execFmul f s
  | .ffma f => Sys2Proof.Machine.execFfma f s
  | .fmin f => Sys2Proof.Machine.execFmin f s
  | .fmax f => Sys2Proof.Machine.execFmax f s
  | .fcmp f => Sys2Proof.Machine.execFcmp f s
  | .fclass f => Sys2Proof.Machine.execFclass f s
  | .pkadd f => Sys2Proof.Machine.execPkadd f s
  | .pkmul f => Sys2Proof.Machine.execPkmul f s
  | .pkfma f => Sys2Proof.Machine.execPkfma f s
  | .pkmin f => Sys2Proof.Machine.execPkmin f s
  | .pkmax f => Sys2Proof.Machine.execPkmax f s
  | .pkcmp f => Sys2Proof.Machine.execPkcmp f s
  | .fdiv f => Sys2Proof.Machine.execFdiv f s
  | .fsqrt f => Sys2Proof.Machine.execFsqrt f s
  | .cvtf f => Sys2Proof.Machine.execCvtf f s
  | .cvtfi f => Sys2Proof.Machine.execCvtfi f s
  | .cvtif f => Sys2Proof.Machine.execCvtif f s
  | .fpack f => Sys2Proof.Machine.execFpack f s
  | .funpack f => Sys2Proof.Machine.execFunpack f s
  | .blkq f => Sys2Proof.Machine.execBlkq f s
  | .blkdq f => Sys2Proof.Machine.execBlkdq f s
  | .blkex f => Sys2Proof.Machine.execBlkex f s
  | .frcp f => Sys2Proof.Machine.execFrcp f s
  | .frsq f => Sys2Proof.Machine.execFrsq f s
  | .fexp2 f => Sys2Proof.Machine.execFexp2 f s
  | .flog2 f => Sys2Proof.Machine.execFlog2 f s
  | .fsin f => Sys2Proof.Machine.execFsin f s
  | .fcos f => Sys2Proof.Machine.execFcos f s
  | .ftanh f => Sys2Proof.Machine.execFtanh f s
  | .fsigm f => Sys2Proof.Machine.execFsigm f s
  | .ferf f => Sys2Proof.Machine.execFerf f s
  | .freda f => Sys2Proof.Machine.execFreda f s
  | .fredm f => Sys2Proof.Machine.execFredm f s
  | .fscan f => Sys2Proof.Machine.execFscan f s
  | .frnd f => Sys2Proof.Machine.execFrnd f s
  | .fscl f => Sys2Proof.Machine.execFscl f s
  | .fdot4 f => Sys2Proof.Machine.execFdot4 f s
  | .madd f => Sys2Proof.Machine.execMadd f s
  | .msub f => Sys2Proof.Machine.execMsub f s
  | .mscl f => Sys2Proof.Machine.execMscl f s
  | .mmul f => Sys2Proof.Machine.execMmul f s
  | .mfma f => Sys2Proof.Machine.execMfma f s
  | .mrelu f => Sys2Proof.Machine.execMrelu f s
  | .msigm f => Sys2Proof.Machine.execMsigm f s
  | .mexp f => Sys2Proof.Machine.execMexp f s
  | .mset f => Sys2Proof.Machine.execMset f s
  | .mcoll f => Sys2Proof.Machine.execMcoll f s
  | .mld f => Sys2Proof.Machine.execMld f s
  | .mst f => Sys2Proof.Machine.execMst f s
  | .mmov f => Sys2Proof.Machine.execMmov f s
  | .mcvt f => Sys2Proof.Machine.execMcvt f s
  | .bra f => Sys2Proof.Machine.execBra f s
  | .brc f => Sys2Proof.Machine.execBrc f s
  | .brcLoop f => Sys2Proof.Machine.execBrcLoop f s
  | .join f => Sys2Proof.Machine.execJoin f s
  | .brk f => Sys2Proof.Machine.execBrk f s
  | .cont f => Sys2Proof.Machine.execCont f s
  | .call f => Sys2Proof.Machine.execCall f s
  | .ret f => Sys2Proof.Machine.execRet f s
  | .exit f => Sys2Proof.Machine.execExit f s
  | .kill f => Sys2Proof.Machine.execKill f s
  | .yield f => Sys2Proof.Machine.execYield f s
  | .trap f => Sys2Proof.Machine.execTrap f s
  | .emret f => Sys2Proof.Machine.execEmret f s
  | .bkpt f => Sys2Proof.Machine.execBkpt f s
  | .brx f => Sys2Proof.Machine.execBrx f s
  | .rdclk f => Sys2Proof.Machine.execRdclk f s
  | .barArrive f => Sys2Proof.Machine.execBarArrive f s
  | .barWait f => Sys2Proof.Machine.execBarWait f s
  | .barSync f => Sys2Proof.Machine.execBarSync f s
  | .fence f => Sys2Proof.Machine.execFence f s
  | .fenceOpr f => Sys2Proof.Machine.execFenceOpr f s
  | .fenceQ f => Sys2Proof.Machine.execFenceQ f s
  | .promote f => Sys2Proof.Machine.execPromote f s
  | .ld f => Sys2Proof.Machine.execLd f s
  | .st f => Sys2Proof.Machine.execSt f s
  | .lds f => Sys2Proof.Machine.execLds f s
  | .sts f => Sys2Proof.Machine.execSts f s
  | .ldc f => Sys2Proof.Machine.execLdc f s
  | .stc f => Sys2Proof.Machine.execStc f s
  | .gath f => Sys2Proof.Machine.execGath f s
  | .scat f => Sys2Proof.Machine.execScat f s
  | .gaths f => Sys2Proof.Machine.execGaths f s
  | .scats f => Sys2Proof.Machine.execScats f s
  | .ldacc f => Sys2Proof.Machine.execLdacc f s
  | .stacc f => Sys2Proof.Machine.execStacc f s
  | .atom f => Sys2Proof.Machine.execAtom f s
  | .atoms f => Sys2Proof.Machine.execAtoms f s
  | .atomc f => Sys2Proof.Machine.execAtomc f s
  | .cas f => Sys2Proof.Machine.execCas f s
  | .cass f => Sys2Proof.Machine.execCass f s
  | .casc f => Sys2Proof.Machine.execCasc f s
  | .pref f => Sys2Proof.Machine.execPref f s
  | .lineop f => Sys2Proof.Machine.execLineop f s
  | .mma f => Sys2Proof.Machine.execMma f s
  | .mmaBc f => Sys2Proof.Machine.execMmaBc f s
  | .mmaS f => Sys2Proof.Machine.execMmaS f s
  | .mmaM f => Sys2Proof.Machine.execMmaM f s
  | .mwait f => Sys2Proof.Machine.execMwait f s
  | .marrive f => Sys2Proof.Machine.execMarrive f s
  | .mzero f => Sys2Proof.Machine.execMzero f s
  | .qmov f => Sys2Proof.Machine.execQmov f s
  | .qadd f => Sys2Proof.Machine.execQadd f s
  | .qbra f => Sys2Proof.Machine.execQbra f s
  | .mend f => Sys2Proof.Machine.execMend f s
  | .tcpKick f => Sys2Proof.Machine.execTcpKick f s
  | .tcpCancel f => Sys2Proof.Machine.execTcpCancel f s
  | .tiledef f => Sys2Proof.Machine.execTiledef f s
  | .tilerel f => Sys2Proof.Machine.execTilerel f s
  | .tilest f => Sys2Proof.Machine.execTilest f s
  | .tiledrn f => Sys2Proof.Machine.execTiledrn f s
  | .radd f => Sys2Proof.Machine.execRadd f s
  | .raddFx f => Sys2Proof.Machine.execRaddFx f s
  | .rmin f => Sys2Proof.Machine.execRmin f s
  | .rmax f => Sys2Proof.Machine.execRmax f s
  | .ror f => Sys2Proof.Machine.execRor f s
  | .rput1 f => Sys2Proof.Machine.execRput1 f s
  | .rarr f => Sys2Proof.Machine.execRarr f s
  | .rget f => Sys2Proof.Machine.execRget f s
  | .mcast1 f => Sys2Proof.Machine.execMcast1 f s
  | .raccCvt f => Sys2Proof.Machine.execRaccCvt f s
  | .arrwait f => Sys2Proof.Machine.execArrwait f s
  | .arrset f => Sys2Proof.Machine.execArrset f s
  | .arrtest f => Sys2Proof.Machine.execArrtest f s
  | .cwinAttach f => Sys2Proof.Machine.execCwinAttach f s
  | .cwinDetach f => Sys2Proof.Machine.execCwinDetach f s
  | .cwinAdd f => Sys2Proof.Machine.execCwinAdd f s
  | .cwinMin f => Sys2Proof.Machine.execCwinMin f s
  | .cwinMax f => Sys2Proof.Machine.execCwinMax f s
  | .cwinOr f => Sys2Proof.Machine.execCwinOr f s
  | .cwinPut1 f => Sys2Proof.Machine.execCwinPut1 f s
  | .cwinArr f => Sys2Proof.Machine.execCwinArr f s
  | .cwld f => Sys2Proof.Machine.execCwld f s
  | .cwst f => Sys2Proof.Machine.execCwst f s
  | .stepCfg f => Sys2Proof.Machine.execStepCfg f s
  | .stepProbe f => Sys2Proof.Machine.execStepProbe f s
  | .stepStore f => Sys2Proof.Machine.execStepStore f s
  | .nrec f => Sys2Proof.Machine.execNrec f s
  | .coll f => Sys2Proof.Machine.execColl f s
  | .ftest f => Sys2Proof.Machine.execFtest f s
  | .fcancel f => Sys2Proof.Machine.execFcancel f s
  | .fread f => Sys2Proof.Machine.execFread f s
  | .grpJoin f => Sys2Proof.Machine.execGrpJoin f s
  | .grpLeave f => Sys2Proof.Machine.execGrpLeave f s
  | .regclaim f => Sys2Proof.Machine.execRegclaim f s
  | .regsurr f => Sys2Proof.Machine.execRegsurr f s
  | .pairWord first second => Sys2Proof.Machine.execPairWord first second s
  | .reservedEncoding cause bytes op f pair second => Sys2Proof.Machine.execReservedEncoding cause bytes op f pair second s
  | .longLatencyLanding id => Sys2Proof.Machine.execLongLatencyLanding id s
  | .fenceComplete who => Sys2Proof.Machine.execFenceComplete who s
  | .regclaimGrant chorus pos => Sys2Proof.Machine.execRegclaimGrant chorus pos s
  | .regclaimDeadlock chorus pos => Sys2Proof.Machine.execRegclaimDeadlock chorus pos s
  | .resume core => Sys2Proof.Machine.execResume core s
  | .escalate core => Sys2Proof.Machine.execEscalate core s
  | .halt core => Sys2Proof.Machine.execHalt core s
  | .stoptime core => Sys2Proof.Machine.execStoptime core s
  | .launchFatalEnd launch => Sys2Proof.Machine.execLaunchFatalEnd launch s
  | .uncorrectableError site => Sys2Proof.Machine.execUncorrectableError site s
  | .chorusIndexGrant launch die n => Sys2Proof.Machine.execChorusIndexGrant launch die n s
  | .heartbeat => Sys2Proof.Machine.execHeartbeat s
  | .dieLost die => Sys2Proof.Machine.execDieLost die s
  | .pageWalkComplete die ctx page => Sys2Proof.Machine.execPageWalkComplete die ctx page s
  | .missrecRead die => Sys2Proof.Machine.execMissrecRead die s
  | .tlbinvAll die => Sys2Proof.Machine.execTlbinvAll die s
  | .tlbinvContext die ctx => Sys2Proof.Machine.execTlbinvContext die ctx s
  | .tlbinvPage die ctx page => Sys2Proof.Machine.execTlbinvPage die ctx page s
  | .tlbinvComplete die => Sys2Proof.Machine.execTlbinvComplete die s
  | .arbitrationWindowClose die slice late => Sys2Proof.Machine.execArbitrationWindowClose die slice late s
  | .mmaComplete chorus pos job => Sys2Proof.Machine.execMmaComplete chorus pos job s
  | .copyComplete id => Sys2Proof.Machine.execCopyComplete id s
  | .copyFail id => Sys2Proof.Machine.execCopyFail id s
  | .copyAdmit id => Sys2Proof.Machine.execCopyAdmit id s
  | .remoteSend core => Sys2Proof.Machine.execRemoteSend core s
  | .retransmit keyidx tag lane dstDev => Sys2Proof.Machine.execRetransmit keyidx tag lane dstDev s
  | .unreachDeadline keyidx tag lane dstDev => Sys2Proof.Machine.execUnreachDeadline keyidx tag lane dstDev s
  | .elem e => Sys2Proof.Machine.execElem e s
  | .ack a => Sys2Proof.Machine.execAck a s
  | .rreq r => Sys2Proof.Machine.execRreq r s
  | .rreply r => Sys2Proof.Machine.execRreply r s
  | .demand p => Sys2Proof.Machine.execDemand p s
  | .grant p => Sys2Proof.Machine.execGrant p s
  | .placeReserve p => Sys2Proof.Machine.execPlaceReserve p s
  | .placeReserved p => Sys2Proof.Machine.execPlaceReserved p s
  | .placeNoroom p => Sys2Proof.Machine.execPlaceNoroom p s
  | .placeCommit p => Sys2Proof.Machine.execPlaceCommit p s
  | .placeAbort p => Sys2Proof.Machine.execPlaceAbort p s
  | .placeAbandon p => Sys2Proof.Machine.execPlaceAbandon p s
  | .placeRetired p => Sys2Proof.Machine.execPlaceRetired p s
  | .placeAttached p => Sys2Proof.Machine.execPlaceAttached p s
  | .placeDetached p => Sys2Proof.Machine.execPlaceDetached p s
  | .placeDepart p => Sys2Proof.Machine.execPlaceDepart p s
  | .reserveTimeout launch index => Sys2Proof.Machine.execReserveTimeout launch index s
  | .placeRetry launch index => Sys2Proof.Machine.execPlaceRetry launch index s
  | .groupRequest g => Sys2Proof.Machine.execGroupRequest g s
  | .groupInstall g => Sys2Proof.Machine.execGroupInstall g s
  | .groupTimeout set => Sys2Proof.Machine.execGroupTimeout set s
  | .collstep c => Sys2Proof.Machine.execCollstep c s
  | .collMemberLost set seq dev withdrew => Sys2Proof.Machine.execCollMemberLost set seq dev withdrew s
  | .leaseGrant l => Sys2Proof.Machine.execLeaseGrant l s
  | .leaseForward l e => Sys2Proof.Machine.execLeaseForward l e s
  | .leaseRecall l => Sys2Proof.Machine.execLeaseRecall l s
  | .leaseReturn l deltas entries => Sys2Proof.Machine.execLeaseReturn l deltas entries s
  | .leaseExpiry l => Sys2Proof.Machine.execLeaseExpiry l s
  | .contentionWindow die => Sys2Proof.Machine.execContentionWindow die s
  | .release die keyidx pre win => Sys2Proof.Machine.execRelease die keyidx pre win s
  | .unknownMessage code => Sys2Proof.Machine.execUnknownMessage code s
  | .linkDown port => Sys2Proof.Machine.execLinkDown port s
  | .peerLost dev => Sys2Proof.Machine.execPeerLost dev s
  | .keyPrevExpiry index => Sys2Proof.Machine.execKeyPrevExpiry index s
  | .qdoor q value => Sys2Proof.Machine.execQdoor q value s
  | .launchTake q => Sys2Proof.Machine.execLaunchTake q s
  | .dispatcherPlacement die at_ => Sys2Proof.Machine.execDispatcherPlacement die at_ s
  | .candidateStarved die => Sys2Proof.Machine.execCandidateStarved die s
  | .chorusRetire chorus => Sys2Proof.Machine.execChorusRetire chorus s
  | .binTimer ctx node die => Sys2Proof.Machine.execBinTimer ctx node die s
  | .quantumExpiry die cluster => Sys2Proof.Machine.execQuantumExpiry die cluster s
  | .drainExpiry ctx => Sys2Proof.Machine.execDrainExpiry ctx s
  | .activate ctx => Sys2Proof.Machine.execActivate ctx s
  | .polite ctx => Sys2Proof.Machine.execPolite ctx s
  | .forced ctx => Sys2Proof.Machine.execForced ctx s
  | .deactivate ctx => Sys2Proof.Machine.execDeactivate ctx s
  | .ctxResume ctx => Sys2Proof.Machine.execCtxResume ctx s
  | .launchComplete launch => Sys2Proof.Machine.execLaunchComplete launch s
  | .enterL1 core => Sys2Proof.Machine.execEnterL1 core s
  | .enterL2 => Sys2Proof.Machine.execEnterL2 s
  | .enterL3 => Sys2Proof.Machine.execEnterL3 s
  | .wake => Sys2Proof.Machine.execWake s
  | .lattolWrite value => Sys2Proof.Machine.execLattolWrite value s
  | .hostWrite pa port data => Sys2Proof.Machine.execHostWrite pa port data s
  | .hostRead pa n port => Sys2Proof.Machine.execHostRead pa n port s
  | .eventCounterRead die ctx which => Sys2Proof.Machine.execEventCounterRead die ctx which s
  | .keysrc => Sys2Proof.Machine.execKeysrc s
  | .keyrcv => Sys2Proof.Machine.execKeyrcv s
  | .budget => Sys2Proof.Machine.execBudget s
  | .unfreeze => Sys2Proof.Machine.execUnfreeze s
  | .sensors => Sys2Proof.Machine.execSensors s
  | .logread => Sys2Proof.Machine.execLogread s
  | .update => Sys2Proof.Machine.execUpdate s
  | .attest => Sys2Proof.Machine.execAttest s
  | .reset => Sys2Proof.Machine.execReset s
  | .registerWrite block offset width value port => Sys2Proof.Machine.execRegisterWrite block offset width value port s
  | .energyClassAging die => Sys2Proof.Machine.execEnergyClassAging die s
  | .wakeComplete => Sys2Proof.Machine.execWakeComplete s

end Sys2Proof.Machine
end

