-- ==== Sys2Proof/Machine/Issue.lean ====
section
/-! DEFINITION. Fetch (R59, R173, R200), the issue of a clutch's word by its sub-core (R26, R27), the words of a
matrix sequencer (R255), the events, and the passing of time. -/

namespace Sys2Proof.Machine

/-! ### Fetch -/

/-- What a fetch finds. -/
inductive Fetched where
  | instr (i : Instr)
  /-- outside the image, no valid entry, or no permission -/
  | miss
  /-- no TLB holds this address: the walk tracker takes the miss (R224) -/
  | walk (va : Nat)
  | align
  | poison
  /-- no word of a matrix stream (R256) -/
  | streamOp
deriving DecidableEq, Repr

/-- A byte of an image as a fetch finds it: what stands there, or anything that has stood there since the launch was accepted
(R173, log 31). -/
def State.codeByte (s : State) (l : Launch) (pa pc : Nat) : Byte :=
  let now := Memory.read s.mem pa
  match (s.imagePast.drop l.codeMark).filterMap (fun bytes => (bytes.find? (fun x => x.1 = pa)).map (·.2)) with
  | [] => now
  | past => (now :: past).getD (Config.freeNat (s.tick + pc) % (past.length + 1)) now

/-- The translation of a code address is not what it was when the launch was accepted: a fetch may then find old bytes, new
bytes or a mix (R173, log 31). -/
def Launch.codeMoved (l : Launch) (va : Nat) (now : Option Nat) : Bool :=
  match l.code.find? (fun x => x.1 ≤ va && va < x.1 + x.2.1) with
  | some x => now ≠ some (x.2.2 + (va - x.1))
  | none => false

/-- The physical place of a code address, when a page table entry lets it be fetched. -/
def codePlace (va base pte : Nat) : Option Nat := if pteX pte then some (pteAddr pte + (va - base)) else none

/-- The word at a code address whose bytes a fetch finds as given (R58, R59). -/
def wordAt (extent pc : Nat) (byte : Nat → Byte) : Fetched ⊕ List Byte :=
  let n := lengthOf (byte 0).toNat
  if 32 < pc % 32 + n then .inl .align
  else if extent < pc + n then .inl .miss
  else .inr ((List.range n).map byte)

/-- The bytes of the word at a code address of a launch, as a core fetches them (R58, R59, R173). -/
def State.fetchBytes (s : State) (c : CoreId) (l : Launch) (pc : Nat) : Fetched ⊕ List Byte :=
  let va := l.image + pc
  let free (now : Option Nat) : Bool := l.codeMoved va now && Config.freePick s.tick pc
  let anything := wordAt l.hdr.extent pc (fun i => Config.freeByte s.tick (pc + i))
  if pc % 4 ≠ 0 then .inl .align
  else if l.hdr.extent ≤ pc ∨ 2 ^ 57 ≤ va then .inl .miss
  else match s.lookup c l.ctx va with
    | none =>
      let now := match s.walk l.ctx va with
        | .page base _ pte => codePlace va base pte
        | _ => none
      if free now then anything else .inl (.walk va)
    | some e =>
      if free (codePlace va e.va e.pte.toNat) then anything
      else if !pteX e.pte.toNat then .inl .miss
      else
        let pa := e.pa va
        if s.poisonedAt pa then .inl .poison else wordAt l.hdr.extent pc (fun i => s.codeByte l (pa + i) (pc + i))

/-- The instruction at a clutch's PC. -/
def State.fetch (s : State) (e : Env) : Fetched :=
  match s.fetchBytes e.core e.l e.cl.pc.toNat with
  | .inl x => x
  | .inr bs =>
    match decodeBytes e.ranges bs with
    | .ok (i, _) => .instr i
    | .error _ => .miss

/-- The word at a sequencer's PC. -/
def State.fetchStream (s : State) (e : SeqEnv) : Fetched :=
  let hdr := e.l.hdr
  match s.fetchBytes (e.ch.coreAt e.q.pos) e.l e.q.pc.toNat with
  | .inl x => x
  | .inr bs =>
    match decodeStreamBytes { h := hdr.regs, n := hdr.uniform, moments := hdr.moments, barriers := hdr.barriers } bs with
    | .ok (i, _) => .instr i
    | .error _ => .streamOp

/-! ### One clutch's word -/

/-- The operations of a word: two of a pair word, none of a reserved encoding. -/
def wordOps : Instr → List (Nat × Fields)
  | .pairWord x y => [(x.op.toNat, x.f), (y.op.toNat, y.f)]
  | i => (opOf i).toList

/-- Operations that complete as soon as their registers are full. -/
def neverHeldOp (op : Nat) : Bool := op < 0x80 && op ≠ 0x2C && op ≠ 0x6A && op ≠ 0x6B

/-- Words that complete as soon as their registers are full; a reserved encoding traps at once. -/
def neverHeld (i : Instr) : Bool := (wordOps i).all (fun x => neverHeldOp x.1)

/-- Special-function operations (R134, R160). IDIV and IREM, which R69 and R112 class with them and R113 gives 3 cycles, occupy
no special-function unit: R134 gives the units to the operations of its own table (DEDUCED, log 76). -/
def usesSfu (op : Nat) : Bool := op = 0x3E || op = 0x3F || (0x48 ≤ op && op ≤ 0x50) || (0x65 ≤ op && op ≤ 0x67)

/-- Operations on the core's crossbar (R113). -/
def usesCrossbar (op : Nat) : Bool := op = 0x29 || op = 0x2B

/-- The cycles an operation holds the issue stage (R113, R134, R160, R253). -/
def opCycles (op : Nat) : Nat :=
  if usesCrossbar op then 12
  else if usesSfu op || (0x26 ≤ op && op ≤ 0x28) || op = 0x51 || op = 0x52 || op = 0x53 || op = 0x63 || op = 0x64
      || op = 0x69 then 6
  else 3

/-- The cycles a word holds the issue stage: a pair word issues both operations in one slot, which the slower one
holds (R26, R134). -/
def issueCycles (i : Instr) : Nat := (wordOps i).foldl (fun n x => max n (opCycles x.1)) 3

/-- The operations of a word that do any work: none under an all-zero mask, which passes the word over (R15). -/
def Env.workOf (e : Env) (i : Instr) : List Nat := if e.mask = 0 then [] else (wordOps i).map (·.1)

/-- The cycles a special-function word holds its unit (R134, R160). -/
def sfuCycles (op : Nat) : Nat := if 0x65 ≤ op && op ≤ 0x67 then 12 else 6

/-- Run a clutch's next word. -/
def State.runWord (s : State) (who : ClutchId) (i : Instr) : Out := exec i { s with cur := .clutch who }

/-- Check 1 of R200 where a fetch finds no word. -/
def State.fetchFails (s : State) (e : Env) : Fetched → Out
  | .instr _ | .streamOp => .next s
  | .miss => .next (s.missStop e 2 (e.l.image + e.cl.pc.toNat))
  | .walk va => .next (s.miss e 2 va)
  | .align => fatal s e .align e.mask
  | .poison => poisonEnd s e e.mask

/-- The outcome of a clutch's turn once it may issue: check 1 of R200, then its word. An ARRWAIT that a watch holds has issued
and is fetched no more (R419). -/
def State.runClutch (s : State) (e : Env) : Out :=
  match s.fetch e with
  | .instr i => s.runWord e.who i
  | x => if e.cl.progress = .watching then .next s else s.fetchFails e x

/-- What shows that a clutch's turn has done something. -/
def State.signs (s : State) (who : ClutchId) : List Nat :=
  let walks := (List.range 4).map (fun d => ((s.die d).walks.map (fun w => w.waiters.length + 1)).sum)
  [s.tick, s.fresh, s.landings.length, s.outbox.length, (s.launches.map (·.more)).sum, walks.sum]
    ++ match s.anyEnv? who with
      | none => []
      | some e =>
        [e.cl.pc.toNat, e.cl.stack.length, if e.cl.ended then 1 else 0, if e.cl.faulted then 1 else 0,
          if e.cl.progress = .none then 0 else 1, if e.cl.fence.isSome then 1 else 0,
          if (s.core e.core).stopped then 1 else 0, s.crucible.colls.length]

/-- A word waits for an empty register that one of its operations reads or writes (R61, R70, R92); the correlation
register of a moment instruction is one it reads (R161). A word that is passed over waits for none (R15). -/
def Env.waits (e : Env) (i : Instr) : Bool :=
  let pathLevel : Bool := e.cl.path ≠ 0 && (wordOps i).all (fun x => actsOnPath x.1 x.2)
  (e.mask ≠ 0 || pathLevel)
    && e.cl.ready ((wordOps i).flatMap (fun x => readsOf x.1 x.2 ++ e.rhoReads x.1 x.2))
        ((wordOps i).flatMap (fun x => writesOf x.1 x.2)) = .wait

/-- The words that go through a clutch's memory queue (R160, R253). -/
def queuesMemory (op : Nat) : Bool :=
  op = 0x6A || op = 0x6B || op = 0x81 || op = 0x82 || (0x88 ≤ op && op ≤ 0x9B)

/-- A clutch's accesses that have not been performed: on their way, or in an open arbitration window. -/
def State.queuedAccesses (s : State) (who : ClutchId) : Nat :=
  s.landings.countP (fun p => p.who = who && p.access.isSome)
    + (s.dies.map (fun d => d.2.windows.countP (·.who = some who))).sum

/-- A full memory queue of the clutch holds a memory word, a fence or a PROMOTE (R253). -/
def State.queueHolds (s : State) (e : Env) (i : Instr) : Bool :=
  (e.workOf i).any queuesMemory && Config.memoryQueue < s.queuedAccesses e.who

/-- The clutch's memory queue has room for its word (R253). -/
def State.queueFree (s : State) (e : Env) : Bool :=
  match s.fetch e with
  | .instr i => !s.queueHolds e i
  | _ => true

/-- Whether running a clutch's next word now does anything: its registers are full and no structural hazard
holds it (R27). -/
def State.isReady (s : State) (e : Env) : Bool :=
  s.queueFree e && match s.runClutch e with
  | .next s' => s'.signs e.who ≠ s.signs e.who ||
      (match s.fetch e with
        | .instr i => neverHeld i && !e.waits i
        | _ => false)
  | _ => false

/-- A launch issues until the cycle in which its first fault has ended it: what else faults in that cycle is reported beside that
fault (R204, R206). -/
def Launch.runsAt (l : Launch) (now : Nat) : Bool :=
  l.ending.isNone || (l.ending = some .faulted && l.reportAt.2 = now + 1)

/-- A clutch may issue at all: its core runs, its launch has not begun to end (R201, R204, R207). -/
def State.mayIssue (s : State) (e : Env) : Bool :=
  !(s.core e.core).stopped && !s.coreFrozen e.core && !e.cl.faulted && e.l.runsAt s.now && !e.ch.stopping && !(s.die e.ch.die).lost

/-- The other resident clutches of the core in some sub-cores. -/
def State.othersIn (s : State) (e : Env) (sub : Nat → Bool) : List Env :=
  s.choruses.flatMap (fun ch =>
    if ch.die ≠ e.ch.die then [] else
    (ch.clutches.filter (fun c =>
      sub c.sub && ch.coreAt c.pos = e.core && !(ch.uid = e.ch.uid && c.id = e.cl.id))).filterMap
      (fun c => s.env? { chorus := ch.uid, clutch := c.id }))

/-- The other resident clutches of the same sub-core. -/
def State.rivals (s : State) (e : Env) : List Env := s.othersIn e (· = e.cl.sub)

/-- The ready stamp of a clutch that is ready now (R27). -/
def State.stampOf (s : State) (e : Env) : Nat := if e.cl.wasReady then e.cl.stamp else max s.now e.cl.notBefore

/-- A clutch goes before another: the smaller stamp, then the first at or after the pointer (R27). -/
def State.goesBefore (s : State) (pointer : Nat) (a b : Env) : Bool :=
  let turn (e : Env) : Nat := (e.cl.resPos + 6 - pointer % 6) % 6
  s.stampOf a < s.stampOf b || (s.stampOf a = s.stampOf b && turn a ≤ turn b)

/-- The issue slot would be this clutch's: its stage is free, and it goes before every other ready clutch (R26, R27). -/
def State.mayHaveSlot (s : State) (e : Env) : Bool :=
  s.mayIssue e && (s.core e.core).units.get 0 e.cl.sub ≤ s.now && s.queueFree e &&
    match s.rivals e with
    | [] => true
    | rs => s.isReady e && rs.all (fun r =>
        !s.mayIssue r || !s.isReady r || s.goesBefore ((s.core e.core).pointers.get 0 e.cl.sub) e r)

/-- Whether a clutch's word needs a shared unit of a kind. -/
def State.needs (s : State) (e : Env) (kind : Nat → Bool) : Bool :=
  match s.fetch e with
  | .instr i => (e.workOf i).any kind
  | _ => false

/-- The clutches of the core's other sub-cores that have their issue slots, need a shared unit of a kind, and became ready
earlier, or in the same cycle on a lower sub-core. -/
def State.aheadFor (s : State) (e : Env) (kind : Nat → Bool) : Nat :=
  (s.othersIn e (· ≠ e.cl.sub)).countP (fun r =>
    s.needs r kind && (s.stampOf r < s.stampOf e || (s.stampOf r = s.stampOf e && r.cl.sub < e.cl.sub))
      && s.mayHaveSlot r && s.isReady r)

/-- The shared units that a clutch's word needs are free for it: a special-function unit, the crossbar (R113, R134). They go to
the sub-cores in the order in which their clutches became ready, so that a clutch gives way once at most to each of the others of
its core, 23 of them (R28). -/
def State.sharedFree (s : State) (e : Env) : Bool :=
  let free (unit : Nat) : Bool := (s.core e.core).units.get 0 unit ≤ s.now
  let has (kind : Nat → Bool) (units : List Nat) : Bool :=
    !s.needs e kind || (units.any free && s.aheadFor e kind < units.countP free)
  has usesSfu [4, 5] && has usesCrossbar [6]

/-- The sub-core's issue slot is this clutch's, and the shared units its word needs are free. -/
def State.mayTake (s : State) (e : Env) : Bool := s.mayHaveSlot e && s.sharedFree e

/-- A slot lost to a shared unit is counted once a cycle (R431). -/
def State.countLost (s : State) (e : Env) : State :=
  if !s.counting || !s.mayHaveSlot e || !s.isReady e || s.sharedFree e || s.now < (s.core e.core).units.get 0 (8 + e.cl.sub) then s
  else (s.count e.core 2 (some e.l.ctx) 1).modCore e.core (fun k => { k with units := k.units.set 0 (8 + e.cl.sub) (s.now + 1) })

/-- The marks that an issue leaves: the stage and units are busy, the pointer moves on, and the clutch's next
ready stamp is not before the word's last cycle, or the next one for a YIELD that is not passed over (R27, R181, R191). -/
def State.markIssue (s : State) (e : Env) (i : Instr) : State :=
  let ops := e.workOf i
  let n := issueCycles i
  let busy (k : Core) : Core :=
    let k := { k with
      units := k.units.set 0 e.cl.sub (s.now + n)
      pointers := k.pointers.set 0 e.cl.sub ((e.cl.resPos + 1) % 6) }
    if ops.any usesCrossbar then { k with units := k.units.set 0 6 (s.now + n) }
    else match ops.find? usesSfu with
      | some op => { k with units := k.units.set 0 (if k.units.get 0 4 ≤ s.now then 4 else 5) (s.now + sfuCycles op) }
      | none => k
  (s.modCore e.core busy).modClutch e.who (fun c => { c with
    wasReady := false, notBefore := s.now + n - (if ops.contains 0x79 then 0 else 1) })

/-- STEP: the clutch has issued its one instruction, and the core stops (R203). -/
def State.afterStep (s : State) (e : Env) (moved : Bool) : State :=
  if moved ∧ (s.core e.core).stepping = some e.who then s.clutchStop e .step else s

/-- What a turn adds around a word: a word that has waited leaves nothing behind; any other leaves the marks of its
issue, a stop under STEP, and its count (R27, R203, R431). An ARRWAIT that takes a watch and a REGCLAIM that enters the queue
have issued: they are counted then. A word that faults or stops the core has no effect and is not counted (log 76). -/
def State.finishWord (s s' : State) (e : Env) (i : Instr) : State :=
  if s'.signs e.who = s.signs e.who ∧ (!neverHeld i ∨ e.waits i) then s'
  else
    let moved := match s'.anyEnv? e.who with
      | some e' => e'.cl.pc ≠ e.cl.pc || e'.cl.ended || (neverHeld i && !e'.cl.faulted && !(s'.core e.core).stopped)
      | none => true
    let holds := match s'.anyEnv? e.who with
      | some e' => e'.cl.progress ≠ e.cl.progress && (e'.cl.progress = .watching || e'.cl.progress = .claiming)
      | none => false
    let words : Nat := match i with
      | .pairWord .. => 2
      | _ => 1
    ((s'.markIssue e i).afterStep e moved).count e.core 1 (some e.l.ctx)
      (if (moved || holds) && s.counting then words else 0)

/-- A clutch's turn. A clutch that may not issue, or whose word waits, leaves the state as it is. -/
def State.clutchTurn (s : State) (who : ClutchId) : Out :=
  match s.env? who with
  | none => .next s
  | some e =>
    if !s.mayTake e then .next (s.countLost e)
    else
      match s.runClutch e, s.fetch e with
      | .next s', .instr i => .next (s.finishWord s' e i)
      | o, _ => o

/-! ### Sequencers, events, time -/

/-- A sequencer's fetch takes a walk, which completes within the turn once it can run (R224, R225). -/
def State.seqWalk (s : State) (e : SeqEnv) (va : Nat) : State :=
  match s.bring (e.ch.coreAt e.q.pos) e.l.ctx [va] with
  | none => s
  | some s' =>
    match s.walk e.l.ctx va with
    | .page .. => s'
    | .none => s.seqFault e .streamop
    | .poison => s.seqFault e .poison

/-- A sequencer's turn (R255, R256). -/
def State.seqTurn (s : State) (uid pos : Nat) : Out :=
  match s.seqEnv? uid pos with
  | none => .next s
  | some e =>
    if !e.l.runsAt s.now || e.ch.stopping || (s.die e.ch.die).lost then .next s
    else match s.fetchStream e with
      | .instr i =>
        match exec i { s with cur := .sequencer uid pos } with
        | .next s' => .next (if s.counting then s.countStream s' uid pos i else s')
        | o => o
      | .miss => .next (s.seqFault e .streamop)
      | .walk va => .next (s.seqWalk e va)
      | .align => .next (s.seqFault e .align)
      | .poison => .next (s.seqFault e .poison)
      | .streamOp => .next (s.seqFault e .streamop)

/-- Whether an element of Instr is an event, and no word. -/
def isEvent (i : Instr) : Bool :=
  match i with
  | .pairWord .. | .reservedEncoding .. => false
  | i => (opOf i).isNone

/-- The ready stamps of the clutches that have become ready or ceased to be (R27). -/
def State.restamp (s : State) : State :=
  (s.choruses.flatMap (fun ch => ch.clutches.map (fun c => ({ chorus := ch.uid, clutch := c.id } : ClutchId)))).foldl
    (fun t who =>
      match s.env? who with
      | none => t
      | some e =>
        let r := s.isReady e
        t.modClutch who (fun c => { c with wasReady := r, stamp := if r then s.stampOf e else c.stamp })) s

/-- A ready clutch has its sub-core's issue slot, which no cycle passes unused (R26, R27). -/
def State.slotWaits (s : State) : Bool :=
  s.choruses.any (fun ch => ch.clutches.any (fun c =>
    match s.env? { chorus := ch.uid, clutch := c.id } with
    | some e => s.mayTake e && s.isReady e
    | none => false))

/-- How many of `n` cycles may pass before a busy unit is free again: none while an issue slot waits for its clutch, so
that a ready clutch is passed over only while others issue (R27, R28). -/
def State.passable (s : State) (n : Nat) : Nat :=
  if s.slotWaits then 0
  else s.dies.foldl (fun n d => d.2.cores.foldl (fun n c => c.2.units.foldl
    (fun n u => if s.now < u.2 then min n (u.2 - s.now) else n) n) n) n

/-- Time passes with no activity: the cycle counts of the powered dies advance, at L0 only (R194). -/
def State.elapse (s : State) (n : Nat) : State :=
  let n := s.passable n
  let s := s.restamp
  let s := if s.counting then s.countCycles n else s
  let on : Bool := s.crucible.level = 0
  State.noteBusy { s with
    now := s.now + n
    dies := if on then
        s.dies.map (fun d => (d.1, if d.2.serving then { d.2 with cycle := d.2.cycle + BitVec.ofNat 64 n } else d.2))
      else s.dies }

/-- One turn. -/
def State.turn (s : State) (t : Turn) : Out :=
  match t with
  | .clutch who => s.clutchTurn who
  | .sequencer uid pos => s.seqTurn uid pos
  | .event i =>
    if isEvent i then
      if s.afterPlacement i then .next s
      else match s.wakeFor i with
      | some s' => .next s'
      | none =>
        match exec i { s with cur := .none } with
        | .next s' => .next (if s.counting then s.countEvent s' i else s')
        | o => o
    else .next s
  | .read b off width => registerRead b off width s
  | .resend m => s.resendPlace m
  | .placeAcked m => if s.asleep || s.coresRest then .next s.startWake else s.placeAcked m
  | .peerPortDown dev port => .next (s.peerPortDown dev port)
  | .route dev to_ index => .next (s.setRoute dev to_ index)
  | .remoteAddress index addr => .next (s.setRemoteAddress index addr)
  | .askAgain landing => .next (s.askAgain landing)
  | .arrives who => .next (s.arriveNow who)
  | .performed job => .next (s.payOwed job)
  | .corrected die ctx coreid detail => .next (s.logEvent .corrected die ctx coreid detail)
  | .elapse n => .next (s.elapse n)

/-- The next turn: the agenda's first, or any turn whatever when it is empty (log 1). -/
def State.takeTurn (s : State) : Turn × State :=
  match s.agenda with
  | t :: rest => (t, { s with agenda := rest })
  | [] => (Config.nextTurn s.tick, s.bump)

end Sys2Proof.Machine
end

