-- ==== Sys2Proof/Machine/Step.lean ====
section
/-! DEFINITION. One step of the machine, and the state in which a given word is the next to execute. -/

namespace Sys2Proof.Machine

/-- One step: the next turn is taken. -/
def step (s : State) : Host.Outcome State Fault Refusal :=
  let (t, s) := s.takeTurn
  s.turn t

/-- The launch that `withFetchWord` places: an image of one 32-byte block at address 0, the widest registers. -/
def fetchLaunch (uid mark : Nat) : Launch :=
  { uid, ctx := 0, total := 1, codeMark := mark, dies := [0], next := 1
    hdr := { clutches := 1, regs := 192, uniform := 64, moments := 64, barriers := 96, accRows := 512,
             scratch := 65536, dataLen := 32 } }

/-- Its one chorus, on core 0 of die 0, with a sequencer. -/
def fetchChorus (uid launch : Nat) : Chorus :=
  { uid, launch, index := 0, die := 0, cores := [0]
    clutches := [{ id := 0, pos := 0, sub := 0, slot := 0, resPos := 0, pc := 0, held := 192, acclim := 512 }]
    seqs := [{ pos := 0, pc := 0 }] }

/-- The translation of address 0: a page at physical address 0 that admits reads, writes and fetch. -/
def fetchEntry : TlbEntry := { ctx := 0, va := 0, size := 65536, pte := 0x1D }

/-- The state with a word placed as the next to execute (log 11): a placed launch whose image holds it, and
the turn of its clutch, or of its sequencer for the opcodes of the matrix stream. -/
def State.withFetchWord (s : State) (nbits w : Nat) : State :=
  let w := w % 2 ^ nbits
  let chorus := s.fresh
  let launch := s.fresh + 1
  let turn : Turn :=
    if 0xA8 ≤ opAt w ∧ opAt w < 0xB0 then .sequencer chorus 0 else .clutch { chorus, clutch := 0 }
  let s := s.modDie 0 (fun d => { d with serving := true, tlb := fetchEntry :: d.tlb })
  let s := s.modContext 0 (fun c => { c with active := true })
  { s with
    fresh := s.fresh + 2
    mem := Memory.writeAll s.mem (bytesAt 0 16 w)
    launches := s.launches ++ [fetchLaunch launch s.imagePast.length]
    choruses := s.choruses ++ [fetchChorus chorus launch]
    agenda := turn :: s.agenda }

end Sys2Proof.Machine
end

