-- ==== Sys2Proof/Safety.lean ====
section
/-! DEFINITION. What a safe run is, the invariants that claims use, and the words in which claims say that an
instruction issues, completes, writes a register and leaves everything else alone. -/

namespace Sys2Proof.Safety

open Sys2Proof.Machine

/-! ### Runs -/

/-- A step goes on: it neither faults nor refuses. -/
def goesOn (s : State) : Prop := ∃ t, step s = .next t

/-- The states that a number of steps from a state pass through. -/
def reaches (s : State) : Nat → State → Prop
  | 0, t => t = s
  | n + 1, t => ∃ u, step s = .next u ∧ reaches u n t

/-- A run of a number of steps is safe: every step of it goes on. -/
def safeFor (s : State) (n : Nat) : Prop := ∀ m t, m < n → reaches s m t → goesOn t

/-! ### Invariants -/

/-- The masks of a clutch are in order (R174): no active lane lies outside the path, and no lane of the path has
exited. -/
def maskOrder (c : Clutch) : Prop := c.mask &&& ~~~c.path = 0 ∧ c.path &&& c.exited = 0

/-- The depth of a rejoin stack (R175). -/
def stackBounded (c : Clutch) : Prop := c.stack.length ≤ 16

/-- The memory list has its canonical form (log 2). -/
def memoryCanonical (s : State) : Prop := Memory.wf s.mem = true

/-! ### Issue -/

/-- The clutch whose word executes, and what it sees. -/
def runs (s : State) (e : Env) : Prop := s.cur = .clutch e.who ∧ s.env? e.who = some e

/-- The clutch has an active lane, nothing holds its word back, and every register the word reads or writes is
full (R15, R61, R92, R248, R249). -/
def mayIssue (s : State) (e : Env) (op : Nat) (f : Fields) : Prop :=
  runs s e ∧ e.mask ≠ 0 ∧ s.heldBack e op = false ∧ e.cl.ready (readsOf op f) (writesOf op f) = .go

/-- The sequencer whose stream word executes, and what it sees. -/
def streams (s : State) (e : SeqEnv) : Prop :=
  s.cur = .sequencer e.ch.uid e.q.pos ∧ s.seqEnv? e.ch.uid e.q.pos = some e

/-! ### What an instruction leaves alone -/

/-- Two states differ at most in their choruses, in what is on its way, and in the two counters of the model: all
memory, the dies, the crucible, the contexts and the launches are as before. -/
def sameDevice (s t : State) : Prop :=
  t.mem = s.mem ∧ t.written = s.written ∧ t.poisoned = s.poisoned ∧ t.dies = s.dies ∧ t.crucible = s.crucible
    ∧ t.contexts = s.contexts ∧ t.launches = s.launches ∧ t.copies = s.copies ∧ t.outbox = s.outbox
    ∧ t.windowHeld = s.windowHeld ∧ t.now = s.now ∧ t.agenda = s.agenda ∧ t.hostOut = s.hostOut

/-- Every chorus but one, and every clutch of that one but one, is as before; of that chorus only its sticky
register may have changed beside the clutch. -/
def sameElsewhere (s t : State) (who : ClutchId) : Prop :=
  (∀ k, k ≠ who.chorus → t.chorus? k = s.chorus? k)
    ∧ ∀ c, s.chorus? who.chorus = some c →
        ∃ d, t.chorus? who.chorus = some d ∧ { d with clutches := c.clutches, sticky := c.sticky, stickyNow := c.stickyNow } = c
          ∧ ∀ k, k ≠ who.clutch → d.clutch? k = c.clutch? k

/-- Of a clutch only the registers, the mask, the moment registers, the sets of empty and poisoned registers and
the program counter may have changed. -/
def sameControl (c d : Clutch) : Prop :=
  { d with pc := c.pc, mask := c.mask, regs := c.regs, uni := c.uni, tags := c.tags, empty := c.empty,
           poison := c.poison, mregs := c.mregs, mtags := c.mtags, mempty := c.mempty, mpoison := c.mpoison, loans := c.loans } = c

/-- Of a clutch only the program counter has changed: it has moved past a word. -/
def movedOn (c d : Clutch) (bytes : Nat) : Prop := d = { c with pc := c.pc + BitVec.ofNat 32 bytes }

/-- The registers from `first` on hold new words in the lanes a mask names, and every other word is as before; a
uniform register holds the word of the lowest lane (R89). The mask triple is not spoken of. -/
def wrote (n : Nat) (mask : Mask) (first count : Nat) (v : Nat → Nat → Word) (c d : Clutch) : Prop :=
  ∀ reg l, reg < 253 → l < laneCount →
    d.word n reg l =
      if first ≤ reg ∧ reg < first + count ∧ (isUniform n reg = true ∨ inMask mask l = true) then
        v (reg - first) (if isUniform n reg then lowest mask else l)
      else c.word n reg l

/-- The tags from `first` on are new, and every other tag is as before. -/
def tagged (first count : Nat) (tag : Nat → Nat) (c d : Clutch) : Prop :=
  ∀ reg, reg < 253 → d.tag reg = if first ≤ reg ∧ reg < first + count then tag (reg - first) % 32 else c.tag reg

/-- The sticky register of a chorus has received some flags. -/
def flagged (s t : State) (uid : Nat) (flags : Word) : Prop :=
  ∀ c d, s.chorus? uid = some c → t.chorus? uid = some d → d.sticky = c.sticky ||| flags

end Sys2Proof.Safety
end

