-- ==== Sys2Proof/Certificates/Slice0/Obligations.lean ====
section
/-! DEFINITION. The statements about the model, one for each obligation, and the terms they share. -/

namespace Sys2Proof.Claims

open Sys2Proof.Machine Sys2Proof.Safety

/-- The instructions that only change registers and sticky flags (opcodes 0x00 to 0x56 but RDCR and WRCR): opcode,
fields, and what they read and compute. -/
def registerForm : Instr → Option (Nat × Fields × (State → Env → Alu))
  | .nop f => some (0x00, f, aluNop f)
  | .mov f => some (0x01, f, aluMov f)
  | .sel f => some (0x02, f, aluSel f)
  | .iadd f => some (0x03, f, aluIadd f)
  | .isub f => some (0x04, f, aluIsub f)
  | .imul f => some (0x05, f, aluImul f)
  | .imulh f => some (0x06, f, aluImulh f)
  | .imad f => some (0x07, f, aluImad f)
  | .imadw f => some (0x08, f, aluImadw f)
  | .idiv f => some (0x09, f, aluIdiv f)
  | .irem f => some (0x0A, f, aluIrem f)
  | .iabs f => some (0x0B, f, aluIabs f)
  | .imin f => some (0x0C, f, aluImin f)
  | .imax f => some (0x0D, f, aluImax f)
  | .iaddc f => some (0x0E, f, aluIaddc f)
  | .iadds f => some (0x0F, f, aluIadds f)
  | .icmp f => some (0x10, f, aluIcmp f)
  | .and f => some (0x11, f, aluAnd f)
  | .or f => some (0x12, f, aluOr f)
  | .xor f => some (0x13, f, aluXor f)
  | .andn f => some (0x14, f, aluAndn f)
  | .shl f => some (0x15, f, aluShl f)
  | .shr f => some (0x16, f, aluShr f)
  | .sar f => some (0x17, f, aluSar f)
  | .rot f => some (0x18, f, aluRot f)
  | .bfe f => some (0x19, f, aluBfe f)
  | .bfi f => some (0x1A, f, aluBfi f)
  | .popc f => some (0x1B, f, aluPopc f)
  | .clz f => some (0x1C, f, aluClz f)
  | .brev f => some (0x1D, f, aluBrev f)
  | .ffs f => some (0x1E, f, aluFfs f)
  | .lea f => some (0x1F, f, aluLea f)
  | .add64 f => some (0x20, f, aluAdd64 f)
  | .cmp64 f => some (0x21, f, aluCmp64 f)
  | .cvti f => some (0x22, f, aluCvti f)
  | .bymix f => some (0x23, f, aluBymix f)
  | .vote f => some (0x24, f, aluVote f)
  | .ballot f => some (0x25, f, aluBallot f)
  | .match_ f => some (0x26, f, aluMatch f)
  | .redi f => some (0x27, f, aluRedi f)
  | .scani f => some (0x28, f, aluScani f)
  | .shfl f => some (0x29, f, aluShfl f)
  | .bcast f => some (0x2A, f, aluBcast f)
  | .isect f => some (0x2B, f, aluIsect f)
  | .fadd f => some (0x30, f, aluFadd f)
  | .fsub f => some (0x31, f, aluFsub f)
  | .fmul f => some (0x32, f, aluFmul f)
  | .ffma f => some (0x33, f, aluFfma f)
  | .fmin f => some (0x34, f, aluFmin f)
  | .fmax f => some (0x35, f, aluFmax f)
  | .fcmp f => some (0x36, f, aluFcmp f)
  | .fclass f => some (0x37, f, aluFclass f)
  | .pkadd f => some (0x38, f, aluPkadd f)
  | .pkmul f => some (0x39, f, aluPkmul f)
  | .pkfma f => some (0x3A, f, aluPkfma f)
  | .pkmin f => some (0x3B, f, aluPkmin f)
  | .pkmax f => some (0x3C, f, aluPkmax f)
  | .pkcmp f => some (0x3D, f, aluPkcmp f)
  | .fdiv f => some (0x3E, f, aluFdiv f)
  | .fsqrt f => some (0x3F, f, aluFsqrt f)
  | .cvtf f => some (0x40, f, aluCvtf f)
  | .cvtfi f => some (0x41, f, aluCvtfi f)
  | .cvtif f => some (0x42, f, aluCvtif f)
  | .fpack f => some (0x43, f, aluFpack f)
  | .funpack f => some (0x44, f, aluFunpack f)
  | .blkq f => some (0x45, f, aluBlkq f)
  | .blkdq f => some (0x46, f, aluBlkdq f)
  | .blkex f => some (0x47, f, aluBlkex f)
  | .frcp f => some (0x48, f, aluFrcp f)
  | .frsq f => some (0x49, f, aluFrsq f)
  | .fexp2 f => some (0x4A, f, aluFexp2 f)
  | .flog2 f => some (0x4B, f, aluFlog2 f)
  | .fsin f => some (0x4C, f, aluFsin f)
  | .fcos f => some (0x4D, f, aluFcos f)
  | .ftanh f => some (0x4E, f, aluFtanh f)
  | .fsigm f => some (0x4F, f, aluFsigm f)
  | .ferf f => some (0x50, f, aluFerf f)
  | .freda f => some (0x51, f, aluFreda f)
  | .fredm f => some (0x52, f, aluFredm f)
  | .fscan f => some (0x53, f, aluFscan f)
  | .frnd f => some (0x54, f, aluFrnd f)
  | .fscl f => some (0x55, f, aluFscl f)
  | .fdot4 f => some (0x56, f, aluFdot4 f)
  | _ => none

/-- The word of a source field in a lane: the register's word, a neighbour's, or the immediate that takes the place
of source `pos` (R62, R66, R111). -/
def word (s : State) (e : Env) (f : Fields) (pos i l : Nat) : Word := BitVec.ofNat 32 (e.source s (intSrc f pos i 1) l)

/-- The 64-bit value of a source field in a lane. -/
def dword (s : State) (e : Env) (f : Fields) (pos i l : Nat) : DWord := BitVec.ofNat 64 (e.source s (intSrc f pos i 2) l)

/-- The instruction answers a next state in which the clutch has moved past its word and holds new words in `count`
registers from the destination on, in the active lanes; every other register word is as before, and the sticky
register has received `flags`. -/
def results (i : Instr) (s : State) (e : Env) (f : Fields) (count : Nat) (v : Nat → Nat → Word) (flags : Word := 0) :
    Prop :=
  ∃ t c, exec i s = .next t ∧ t.at? e.who = some c ∧ c.pc = e.cl.pc + BitVec.ofNat 32 f.len.bytes
    ∧ wrote e.hdr.uniform e.mask f.d.toNat count v e.cl c ∧ flagged s t e.who.chorus flags

/-- The instruction answers a next state in which its result is on its way to the destination: the words that will
land in the active lanes, with their flags. -/
def promises (i : Instr) (s : State) (e : Env) (f : Fields) (v : Nat → Word) (flags : Word) : Prop :=
  ∃ t p, exec i s = .next t ∧ t.landings = s.landings ++ [p] ∧ p.who = e.who ∧ p.dst = .ordinary f.d.toNat 1
    ∧ p.mask = e.mask ∧ p.tag = 0 ∧ p.flags = flags
    ∧ ∀ l, inMask e.mask l = true → lane (p.words.getD 0 []) l = v l

/-- Element `i` of a word of elements of `w` bits, lowest first (R36). -/
def elem (w : Nat) (x : Word) (i : Nat) : BitVec w := (x >>> (w * i)).setWidth w

/-- The word with the given elements of 16 bits, or of 8 bits. -/
def join2 (x : Nat → BitVec 16) : Word := x 1 ++ x 0
def join4 (x : Nat → BitVec 8) : Word := x 3 ++ x 2 ++ x 1 ++ x 0

/-- The word that a packed or full-word operation gives, by the type that MOD names (R36, R65). -/
def byType (f : Fields) (g : (w : Nat) → BitVec w → BitVec w → BitVec w) (a b : Word) : Word :=
  match f.mod.toNat % 8 with
  | 4 | 5 => join2 fun i => g 16 (elem 16 a i) (elem 16 b i)
  | 6 | 7 => join4 fun i => g 8 (elem 8 a i) (elem 8 b i)
  | _ => g 32 a b

/-- Some element meets a test, by the type that MOD names. -/
def anyElement (f : Fields) (g : (w : Nat) → BitVec w → BitVec w → Bool) (a b : Word) : Bool :=
  match f.mod.toNat % 8 with
  | 4 | 5 => [0, 1].any fun i => g 16 (elem 16 a i) (elem 16 b i)
  | 6 | 7 => [0, 1, 2, 3].any fun i => g 8 (elem 8 a i) (elem 8 b i)
  | _ => g 32 a b

/-- The type that MOD names is signed (R65). -/
def signed (f : Fields) : Bool := f.mod.toNat % 2 = 0

/-- The exact value of a word of a type. -/
def valueOf (sg : Bool) {w : Nat} (x : BitVec w) : Int := if sg then x.toInt else x.toNat

/-- A value lies outside the range of a type (R46). -/
def outside (sg : Bool) (w : Nat) (x : Int) : Bool :=
  if sg then x < -2 ^ (w - 1) || 2 ^ (w - 1) - 1 < x else x < 0 || 2 ^ w - 1 < x

/-- A value brought into the range of a type (R46). -/
def saturated (sg : Bool) (w : Nat) (x : Int) : BitVec w :=
  if sg then BitVec.ofInt w (max (-2 ^ (w - 1)) (min (2 ^ (w - 1) - 1) x)) else BitVec.ofInt w (max 0 (min (2 ^ w - 1) x))

/-- OVF, when some active lane meets a test. -/
def ovfIf (e : Env) (p : Nat → Bool) : Word := if (lanesIn e.mask).any p then flagOvf else 0

/-- Two values in one of the six relations (R117). -/
def related (c : Nat) (a b : Int) : Bool :=
  match c with
  | 0 => a = b
  | 1 => a ≠ b
  | 2 => a < b
  | 3 => a ≤ b
  | 4 => b < a
  | _ => b ≤ a

/-- Quotient, remainder and flag of a division (R116). -/
def divided (sg : Bool) (a b : Word) : Word × Word × Word :=
  if b = 0 then (if !sg then 0xFFFFFFFF else if a.msb then 0x80000000 else 0x7FFFFFFF, a, flagDz)
  else if sg && a = 0x80000000 && b = 0xFFFFFFFF then (0x7FFFFFFF, 0, flagOvf)
  else if sg then (a.sdiv b, a.srem b, 0) else (a / b, a % b, 0)

/-- The flags that the active lanes raise together. -/
def raised (e : Env) (g : Nat → Word) : Word := (lanesIn e.mask).foldl (fun acc l => acc ||| g l) 0

/-- The width of a type of R65. -/
def typeWidth (ty : Nat) : Nat := match ty with
  | 0 | 1 => 32
  | 2 | 3 => 64
  | 4 | 5 => 16
  | _ => 8

/-- The active lanes of beat `j` that meet a test, as a word (R123). -/
def beat (e : Env) (j : Nat) (p : Nat → Bool) : Word :=
  ((maskOf fun k => inMask e.mask k && p k) >>> (32 * j)).setWidth 32

/-- Bit `l` of the 96 bits of three uniform registers (R126). -/
def member (e : Env) (reg l : Nat) : Bool := (e.cl.word e.hdr.uniform (reg + l / 32) 0).getLsbD (l % 32)

/-- A well-formed register instruction may issue and reads no poisoned word in an active lane (R94, R200). -/
def issues (i : Instr) (s : State) (e : Env) : Prop :=
  ∃ op f mk, registerForm i = some (op, f, mk) ∧ WellFormed e.ranges i = true ∧ mayIssue s e op f
    ∧ (mk s e).fails e = false ∧ (mk s e).poisoned e = false

/-- A moment instruction's opcode, fields, whether it takes the correlation of mcr, the tag its moment sources are checked
against, the tag of its result, its destination and its ordinary sources (R156 to R170). -/
structure MomentForm where
  op : Nat
  f : Fields
  rho : Bool := false
  srcTag : Option Nat := none
  tag : Nat
  dst : MDst
  srcs : List Src := []

/-- The moment instructions but MMOV, whose result carries its source's tag. -/
def momentForm : Instr → Option MomentForm
  | .madd f => some (arith 0x60 f)
  | .msub f => some (arith 0x61 f)
  | .mmul f => some (arith 0x63 f)
  | .mfma f => some (arith 0x64 f)
  | .mscl f => some { op := 0x62, f, srcTag := some (momentTag f), tag := momentTag f, dst := .moment f.d.toNat,
                      srcs := [floatSrc f 2 2 2] }
  | .mset f => some { op := 0x68, f, tag := momentTag f, dst := .moment f.d.toNat,
                      srcs := [floatSrc f 2 1 2, floatSrc f 2 2 2] }
  | .mrelu f => some (late 0x65 f)
  | .msigm f => some (late 0x66 f)
  | .mexp f => some (late 0x67 f)
  | .mcoll f => some { op := 0x69, f, srcTag := some (momentTag f), tag := 2, dst := .ordinary f.d.toNat,
                       srcs := if f.mod.toNat / 8 = 3 ∨ f.mod.toNat / 8 = 4 then [floatSrc f 2 2 2] else [] }
  | .mcvt f => some { op := 0x6D, f, srcTag := some (if momentTag f = 16 then 15 else 16), tag := momentTag f,
                      dst := .moment f.d.toNat }
  | _ => none
where
  arith (op : Nat) (f : Fields) : MomentForm :=
    { op, f, rho := true, srcTag := some (momentTag f), tag := momentTag f, dst := .moment f.d.toNat }
  late (op : Nat) (f : Fields) : MomentForm :=
    { op, f, srcTag := some (momentTag f), tag := momentTag f, dst := .late f.d.toNat }

/-- A moment instruction may issue: the correlation register it takes exists, all it reads and writes is full, its
sources pass their tag checks and hold no poisoned word in an active lane (R94, R99, R156, R157, R172). -/
def momentReady (s : State) (e : Env) (m : MomentForm) : Prop :=
  runs s e ∧ e.mask ≠ 0 ∧ s.heldBack e m.op = false
    ∧ (m.rho = true → e.cl.cov = 3 → e.ranges.ordinary e.cl.rho = true)
    ∧ e.cl.ready (readsOf m.op m.f ++ (if m.rho = true ∧ e.cl.cov = 3 then
        [{ moment := false, reg := e.cl.rho, fe := m.f.fe.getLsbD 2 }] else [])) (writesOf m.op m.f) = .go
    ∧ (∀ t, m.srcTag = some t → ∀ reg ∈ momentReads m.op m.f, e.cl.momentTag reg = t)
    ∧ (∀ reg ∈ momentReads m.op m.f, e.momentPoison reg = false)
    ∧ ∀ x ∈ m.srcs ++ (if m.rho = true ∧ e.cl.cov = 3 then [{ reg := e.cl.rho, tag := some 2 }] else []),
        e.srcFails x = false ∧ e.poisonIn x (e.readLanes x) = false

/-- What a completed moment instruction has done to its clutch and to the rest: new pairs in the active lanes of one
moment register, or new words in those of an ordinary register, and nothing else; or a landing that will bring them. -/
def momentDone (s t : State) (e : Env) (m : MomentForm) (c : Clutch) : Prop :=
  c.pc = e.cl.pc + BitVec.ofNat 32 m.f.len.bytes ∧ sameDevice s t ∧ sameElsewhere s t e.who ∧ sameControl e.cl c
    ∧
    match m.dst with
    | .moment d =>
      c.mask = e.cl.mask ∧ (∀ reg l, l < laneCount → reg ≠ d ∨ inMask e.mask l = false → c.moment reg l = e.cl.moment reg l)
        ∧ (∀ reg, c.momentTag reg = if reg = d then m.tag else e.cl.momentTag reg)
        ∧ (∀ n reg l, c.word n reg l = e.cl.word n reg l) ∧ c.tags = e.cl.tags ∧ t.landings = s.landings
    | .ordinary d =>
      (d < 253 → c.mask = e.cl.mask) ∧ c.mregs = e.cl.mregs ∧ c.mtags = e.cl.mtags ∧ t.landings = s.landings
        ∧ (∃ v, wrote e.hdr.uniform e.mask d 1 v e.cl c) ∧ tagged d 1 (fun _ => m.tag) e.cl c
    | .late d =>
      c.mask = e.cl.mask ∧ (∀ n reg l, c.word n reg l = e.cl.word n reg l) ∧ (∀ reg l, c.moment reg l = e.cl.moment reg l) ∧ d ∈ c.mempty
        ∧ ∃ p, t.landings = s.landings ++ [p] ∧ p.dst = .moment d ∧ p.mask = e.mask ∧ p.tag = BitVec.ofNat 5 m.tag

/-- The instruction answers the state in which its clutch is `c`, and nothing else has changed but the model's count of
free values. -/
def becomes (i : Instr) (s : State) (e : Env) (c : Clutch) : Prop :=
  exec i s = .next (s.bump.modClutch e.who fun _ => c)

/-- The instruction answers the state that Resolve (R179) leaves from a clutch: the path it chooses, or the end of the
clutch. -/
def resolvesFrom (i : Instr) (s : State) (e : Env) (c : Clutch) : Prop :=
  (∀ d, resolve c = .running d → becomes i s e d) ∧ (∀ d, resolve c = .ended d → exec i s = .next (s.bump.endClutch e d))

/-- A control instruction may run: a lane is active, or the instruction acts on a path whose lanes are all inactive, and
the registers it reads and writes are full (R61, R181). -/
def mayControl (s : State) (e : Env) (op : Nat) (f : Fields) (pathLevel : Bool) : Prop :=
  runs s e ∧ (e.mask ≠ 0 ∨ (pathLevel = true ∧ e.cl.path ≠ 0)) ∧ e.cl.ready (readsOf op f) (writesOf op f) = .go

/-- A uniform operand holds no poisoned word, or no lane is active (R94). -/
def uniformClean (e : Env) (reg : Nat) : Prop := e.mask ≠ 0 → e.poisonAt reg 0 = false

/-- A predicate's register holds no poisoned word in an active lane (R94). -/
def predicateClean (e : Env) (reg : Nat) : Prop := e.poisonIn { reg } (lanesIn e.mask) = false

/-- The active lanes in which a predicate is true (R110, R181). -/
def trueLanes (s : State) (e : Env) (reg : Nat) : Mask := maskOf fun l => inMask e.mask l && e.read s reg l ≠ 0

/-- A rejoin stack with its entry `i` replaced, and the lanes of `m` no longer awaited above it. -/
def editStack (c : Clutch) (i : Nat) (m : Mask) (g : Entry → Entry) : List Entry :=
  c.stack.take i ++ (c.stack.drop i).zipIdx.map fun (x, j) => if j = 0 then g x else { x with aw := x.aw &&& ~~~m }

/-- A word that reads memory and answers later: opcode, fields, space, bytes a lane, whether it takes an index (R241),
whether it writes (its pages need W), whether a lane's address must be a multiple of the size, its register sources, its
destination with its tag, and what it does at its home. -/
structure MemoryForm where
  op : Nat
  f : Fields
  space : Nat
  bytes : Nat
  gather : Bool := false
  write : Bool := false
  aligned : Bool := false
  release : Bool := false
  srcs : List Src
  dst : LandDst
  tag : BitVec 5
  access : State → Env → AccessOp

/-- Loads, gathers, MLD, atomics and compare-and-swaps (R171, R236, R241 to R243). -/
def memoryForm : Instr → Option MemoryForm
  | .ld f => some (load 0x88 f 0 false)
  | .lds f => some (load 0x8A f 1 false)
  | .ldc f => some (load 0x8C f 2 false)
  | .gath f => some (load 0x8E f 0 true)
  | .gaths f => some (load 0x90 f f.space true)
  | .mld f => some { op := 0x6A, f, space := f.space, bytes := momentBytes (momentTag f),
                     srcs := [{ reg := f.a.toNat, width := addrWidth f.space }], dst := .moment f.d.toNat,
                     tag := BitVec.ofNat 5 (momentTag f), access := fun _ _ => .moment (momentTag f) }
  | .atom f => some (rmw 0x94 f 0)
  | .atoms f => some (rmw 0x95 f 1)
  | .atomc f => some (rmw 0x96 f 2)
  | .cas f => some (swap 0x97 f 0)
  | .cass f => some (swap 0x98 f 1)
  | .casc f => some (swap 0x99 f 2)
  | _ => none
where
  load (op : Nat) (f : Fields) (space : Nat) (gather : Bool) : MemoryForm :=
    { op, f, space, gather, bytes := szBytes f.sz, dst := .ordinary f.d.toNat (szRegs f.sz), tag := f.tg,
      srcs := { reg := f.a.toNat, width := addrWidth space } :: (if gather then [{ reg := f.b.toNat }] else []),
      access := fun _ _ => .load f.sz }
  words (f : Fields) : Nat := if f.mod.toNat % 8 < 2 then 1 else 2
  rmw (op : Nat) (f : Fields) (space : Nat) : MemoryForm :=
    { op, f, space, bytes := 4 * words f, write := true, aligned := true, release := 2 ≤ f.ord,
      srcs := [{ reg := f.a.toNat, width := addrWidth space },
               { reg := f.b.toNat, width := words f, tag := if f.mod.toNat / 8 = 7 then some 2 else none }],
      dst := .ordinary f.d.toNat (words f), tag := if f.mod.toNat / 8 = 7 then 2 else 0,
      access := fun s e => .rmw (f.mod.toNat / 8) (f.mod.toNat % 8) (lanesOf (e.wideValue s f.b.toNat (words f))) }
  swap (op : Nat) (f : Fields) (space : Nat) : MemoryForm :=
    { op, f, space, bytes := 4 * words f, write := true, aligned := true, release := 2 ≤ f.ord,
      srcs := [{ reg := f.a.toNat, width := addrWidth space }, { reg := f.b.toNat, width := words f },
               { reg := f.c.toNat, width := words f }],
      dst := .ordinary f.d.toNat (words f), tag := 0,
      access := fun s e => .cas (4 * words f) (lanesOf (e.wideValue s f.b.toNat (words f)))
        (lanesOf (e.wideValue s f.c.toNat (words f))) }

/-- The sources of a word pass their tag checks and hold no poisoned word in an active lane (R94, R200). -/
def sourcesPass (e : Env) (srcs : List Src) : Prop :=
  ∀ x ∈ srcs, e.srcFails x = false ∧ e.poisonIn x (e.readLanes x) = false

/-- Every element passes the checks of R235: its pages are held by a TLB, valid, permit the access and have this die as
their home, or its bytes lie in the chorus's allocation. -/
def reachable (s : State) (e : Env) (space : Nat) (write : Bool) (elems : List Elem) : Prop :=
  if space = 0 then s.xlate e.core e.l.ctx write (elems.flatMap Elem.pages) = .ok
    ∧ ∀ x ∈ elems, ∀ va ∈ x.vas, homeOf (s.paOf e.core e.l.ctx va) = e.ch.die
  else ∀ x ∈ elems, (e.localKey space x.addr x.bytes).isSome = true

/-- The places of each lane's bytes, lowest first: physical addresses, or the chorus's scratchpad keys (R214, R224). -/
def placesOf (s : State) (e : Env) (space : Nat) (elems : List Elem) : List (Nat × List Nat) :=
  elems.map fun x => (x.lane, if space = 0 then x.vas.map (s.paOf e.core e.l.ctx) else
    (List.range x.bytes).map (((e.localKey space x.addr x.bytes).getD 0) + ·))

/-- The space that a SPACE code names. -/
def spaceOf (space : Nat) : Space := if space = 0 then .global else .scratch

/-- No earlier access of the clutch to one of the places is outstanding (R247). -/
def inOrder (s : State) (e : Env) (space : Nat) (places : List (Nat × List Nat)) (store : Bool) : Prop :=
  s.accessPending e.who (spaceOf space) (places.flatMap (·.2)) = false
    ∧ (store = false → space = 0 → s.writePending e.who (places.flatMap (·.2)) = false)

/-- A word that stores: opcode, fields, space, bytes a lane, its register sources, and the value of a lane. -/
structure StoreForm where
  op : Nat
  f : Fields
  space : Nat
  bytes : Nat
  gather : Bool := false
  srcs : List Src
  value : State → Env → Nat → Nat

/-- Stores, scatters and MST (R171, R236, R241). -/
def storeForms : Instr → Option StoreForm
  | .st f => some (store 0x89 f 0 false f.b.toNat)
  | .sts f => some (store 0x8B f 1 false f.b.toNat)
  | .stc f => some (store 0x8D f 2 false f.b.toNat)
  | .scat f => some (store 0x8F f 0 true f.c.toNat)
  | .scats f => some (store 0x91 f f.space true f.c.toNat)
  | .mst f => some { op := 0x6B, f, space := f.space, bytes := momentBytes (momentTag f),
                     srcs := [{ reg := f.a.toNat, width := addrWidth f.space }],
                     value := fun _ e l => (e.cl.moment f.b.toNat l).toNat }
  | _ => none
where
  store (op : Nat) (f : Fields) (space : Nat) (gather : Bool) (reg : Nat) : StoreForm :=
    { op, f, space, gather, bytes := szBytes f.sz,
      srcs := { reg := f.a.toNat, width := addrWidth space } :: { reg, width := szRegs f.sz, tag := moveCheck f }
        :: (if gather then [{ reg := f.b.toNat }] else []),
      value := fun s e l => e.wideValue s reg (szRegs f.sz) l }

/-- What the store of some lanes leaves at a place: byte `i` of the value of the highest lane that writes there, and
nothing elsewhere (R238). -/
def leaves (places : List (Nat × List Nat)) (value : Nat → Nat) (old new : Nat → Byte) : Prop :=
  (∀ k, (∀ x ∈ places, k ∉ x.2) → new k = old k)
    ∧ ∀ x ∈ places, ∀ i k, x.2[i]? = some k → (∀ y ∈ places, x.1 < y.1 → k ∉ y.2) →
        new k = BitVec.ofNat 8 (value x.1 / 2 ^ (8 * i))

/-- The landing of a producer. -/
def landsNow (s : State) (p : Landing) (e : Env) : Prop :=
  s.landings.find? (fun q => q.id = p.id) = some p ∧ p.awaited = 0 ∧ s.waitsOnFuture p.id = false
    ∧ s.anyEnv? p.who = some e

/-- A word may issue, and the registers it reads once, in its lowest active lane, hold no poison there (R94). -/
def mayRun (s : State) (e : Env) (op : Nat) (f : Fields) (regs : List Nat) : Prop :=
  mayIssue s e op f ∧ ∀ r ∈ regs, e.poisonIn { reg := r } [e.low] = false

/-- The instruction answers a state in which the clutch has moved on and a word is on its way to register `d`, the same in
every active lane, with tag RAW; the state has the further property. -/
def promisesWord (i : Instr) (s : State) (e : Env) (d bytes : Nat) (w : Word) (more : State → Prop) : Prop :=
  ∃ t c p, exec i s = .next t ∧ t.at? e.who = some c ∧ c.pc = e.cl.pc + BitVec.ofNat 32 bytes ∧ d ∈ c.empty
    ∧ p ∈ t.landings ∧ p.who = e.who ∧ p.dst = .ordinary d 1 ∧ p.mask = e.mask ∧ p.tag = 0 ∧ p.access = none
    ∧ (∀ l, l < laneCount → lane (p.words.getD 0 []) l = w) ∧ more t

/-- The instruction answers a state in which the clutch has moved on and register `d` holds a word in the active lanes, with
tag RAW, and every other register word is as before; the state has the further property. -/
def givesWord (i : Instr) (s : State) (e : Env) (d bytes : Nat) (w : Word) (more : State → Prop) : Prop :=
  ∃ t c, exec i s = .next t ∧ t.at? e.who = some c ∧ c.pc = e.cl.pc + BitVec.ofNat 32 bytes
    ∧ wrote e.hdr.uniform e.mask d 1 (fun _ _ => w) e.cl c ∧ tagged d 1 (fun _ => 0) e.cl c ∧ more t

/-- Nothing of a state but its choruses, what is on its way and the model's counters differs. -/
def sameBeyond (s t : State) : Prop := sameDevice s t

/-- A tile of the clutch's chorus, and the other tiles of the chorus as they were. -/
def tileIs (s : State) (e : Env) (n : Nat) (x : Tile) (t : State) : Prop :=
  sameDevice s t ∧ ∃ d, t.chorus? e.who.chorus = some d ∧ { d.tile n with stamps := x.stamps } = x ∧ ∀ k, k ≠ n → d.tile k = e.ch.tile k

/-- A future entry of a die. -/
def futureAt (s : State) (die i : Nat) : Future := (s.die die).futures.get {} i

/-- A pending future on which no FREAD waits and whose owner has not gone. -/
abbrev livePending (x : Future) : Prop := x.state = .pending ∧ x.waiters = [] ∧ x.orphan = false ∧ x.dropped = false

/-- Copy `j`, of the clutch of `y`, is the one that future `i` of the clutch's die stands for, and it has not stopped. -/
def stoppable (s : State) (e : Env) (i : Nat) (j : CopyJob) (y : Env) : Prop :=
  s.copies.find? (fun x => x.die = e.ch.die && x.future = i) = some j ∧ s.copies.find? (fun x => x.id = j.id) = some j
    ∧ j.result = none ∧ s.jobOpen j.id = false ∧ s.anyEnv? j.who = some y

/-- The copy has stopped: its future is CANCELLED, with 0 for a copy that waited, or is to be once the writes that it has made
are performed. -/
def copyCancelled (s : State) (e : Env) (j : CopyJob) (i : Nat) (t : State) : Prop :=
  t.mem = s.mem ∧ (j.admitted = false → (futureAt t e.ch.die i).value = 0)
    ∧ ((t.copies = s.copies.filter (fun y => y.id ≠ j.id) ∧ (futureAt t e.ch.die i).state = .cancelled)
      ∨ ∃ v, t.copies.find? (fun y => y.id = j.id) = some { j with result := some (.cancelled, v) })

/-- The stream word answers the state in which its sequencer is changed and nothing else is. -/
def sequences (i : Instr) (s : State) (e : SeqEnv) (g : Sequencer → Sequencer) : Prop :=
  exec i s = .next (s.modChorus e.ch.uid fun c =>
    { c with seqs := updateFirst (fun q => q.pos = e.q.pos) g c.seqs })

/-- The operation that a word starts: its id, its row and its fields, and that no copy of accumulator cells has met it. -/
def started (t : State) (e : SeqEnv) (f : Fields) (op row : Nat) (bytes : Nat) (lockstep : Nat) : Prop :=
  ∃ d q j, t.chorus? e.ch.uid = some d ∧ d.seqs.find? (fun q => q.pos = e.q.pos) = some q
    ∧ q.jobs = e.q.jobs ++ [j] ∧ q.pc = e.q.pc + BitVec.ofNat 32 bytes ∧ q.lockstep = e.q.lockstep + lockstep
    ∧ q.waiting = none ∧ j.fields = f ∧ j.op = op ∧ j.row = row ∧ j.pc = e.q.pc

/-- The predicate word (R110). -/
def truth (b : Bool) : Word := if b then 0xFFFFFFFF else 0

/-- Half `i` of a 64-bit value. -/
def half (x : DWord) (i : Nat) : Word := (x >>> (32 * i)).setWidth 32

/-- The remote data words RADD to RARR: opcode, fields, and what each sends (R294, R298, R300). -/
def remoteData : Instr → Option (Nat × Fields × RemoteData)
  | .radd f => some (0xC0, f, intData f .add)
  | .raddFx f => some (0xC0, f, fxData f)
  | .rmin f => some (0xC1, f, intData f fun n => .min n (!f.mod.getLsbD 0))
  | .rmax f => some (0xC2, f, intData f fun n => .max n (!f.mod.getLsbD 0))
  | .ror f => some (0xC3, f, intData f .or)
  | .rput1 f => some (0xC4, f, { size := szBytes f.sz, srcs := wideSrc f.b.toNat (szRegs f.sz) (moveCheck f),
                                 op := fun _ _ => .put1 (szBytes f.sz),
                                 data := fun s e l => e.wideValue s f.b.toNat (szRegs f.sz) l % 2 ^ (8 * szBytes f.sz) })
  | .rarr f => some (0xC5, f, { size := 8, srcs := [{ reg := f.b.toNat }], op := fun _ _ => .arr,
                                data := fun s e l => (e.read s f.b.toNat l).toNat })
  | _ => none

/-- The remote addresses of the active lanes are multiples of the size, their arrival words of 8, and what a SELF word
translates at its source is held by a TLB and valid (R290, R295); the core's remote queue has room. -/
def remoteReady (s : State) (e : Env) (f : Fields) (size : Nat) : Prop :=
  (∀ l ∈ lanesIn e.mask, e.remoteAddr s f l % size = 0 ∧ ∀ w, e.arrival s f l = some w → w.toNat % 8 = 0)
    ∧ (Fields.self f = true → s.xlate e.core e.l.ctx false ((lanesIn e.mask).map (e.remoteAddr s f)) = .ok)
    ∧ (s.core e.core).queue.length < 64

/-- The word has entered the remote queue of its core: one instruction more, of this clutch. -/
def queues (s t : State) (e : Env) (g : Queued → Prop) : Prop :=
  ∃ q, (t.core e.core).queue = (s.core e.core).queue ++ [q] ∧ q.who = e.who ∧ q.launch = e.l.uid ∧ g q

/-- Of the clutch only the program counter and the remote operation count have changed (R292). -/
def sentOn (c d : Clutch) (bytes : Nat) : Prop := d = { c with pc := c.pc + BitVec.ofNat 32 bytes, opc := c.opc + 1 }

/-- The active lanes whose device word is not refused at the source (R290, R437). -/
def sendingLanes (s : State) (e : Env) (f : Fields) : List Nat := (lanesIn e.mask).filter fun l => !(e.target s f l).bad

/-- The place of the word that an arrival instruction names, and its bytes (R417). -/
def arrivalPlace (s : State) (e : Env) (f : Fields) : Nat :=
  if Fields.self f then windowKey (e.arrivalAddr s f) else s.paOf e.core e.l.ctx (e.arrivalAddr s f)
def arrivalByte (s : State) (e : Env) (f : Fields) (k : Nat) : Byte :=
  if Fields.self f then e.ch.scratch.get 0 k else Memory.read s.mem k
def arrivalValue (s : State) (e : Env) (f : Fields) : Nat :=
  numberOf ((List.range 8).map fun i => arrivalByte s e f (arrivalPlace s e f + i))

/-- An arrival instruction passes the checks of R418, and no lease and no earlier access stands in its way. -/
def arrivalReady (s : State) (e : Env) (op : Nat) (f : Fields) (write : Bool) : Prop :=
  let addr := e.arrivalAddr s f
  mayRun s e op f (f.a.toNat :: f.b.toNat :: (f.b.toNat + 1) :: (if Fields.self f then [] else [f.a.toNat + 1]))
    ∧ addr % 8 = 0 ∧ (∀ d, (s.die d).contention = []) ∧ e.cl.progress = .none
    ∧ inOrder s e (if Fields.self f then 1 else 0) [(e.low, (List.range 8).map (arrivalPlace s e f + ·))] false
    ∧ if Fields.self f then e.reachesWindow addr 8 = true ∧ windowSection addr = e.ch.section_
      else s.xlate e.core e.l.ctx write [addr] = .ok ∧ homeOf (arrivalPlace s e f) = e.ch.die
        ∧ s.poisonedAt (arrivalPlace s e f) = false

/-- A pair of words is on its way to D and D + 1, the same in every active lane. -/
def promisesPair (i : Instr) (s : State) (e : Env) (d : Nat) (v : DWord) (more : State → Prop) : Prop :=
  ∃ t c p, exec i s = .next t ∧ t.at? e.who = some c ∧ c.pc = e.cl.pc + 16 ∧ p ∈ t.landings ∧ p.who = e.who
    ∧ p.dst = .ordinary d 2 ∧ p.mask = e.mask ∧ p.access = none
    ∧ (∀ l k, l < laneCount → k < 2 → lane (p.words.getD k []) l = half v k) ∧ more t

/-- The window words CWIN.ADD to CWIN.ARR: fields, element size, sources, operation and data (R316). -/
def windowData : Instr → Option (Fields × Nat × List Src × HomeOp × (State → Env → Nat → Nat))
  | .cwinAdd f => some (int f .add)
  | .cwinMin f => some (int f fun n => .min n (!f.mod.getLsbD 0))
  | .cwinMax f => some (int f fun n => .max n (!f.mod.getLsbD 0))
  | .cwinOr f => some (int f .or)
  | .cwinPut1 f =>
    let sz := f.mod.toNat % 8
    some (f, szBytes sz, wideSrc f.b.toNat (szRegs sz) (moveCheck f), .put1 (szBytes sz),
      fun s e l => e.wideValue s f.b.toNat (szRegs sz) l % 2 ^ (8 * szBytes sz))
  | .cwinArr f => some (f, 8, [{ reg := f.b.toNat }], .arr, fun s e l => (e.read s f.b.toNat l).toNat)
  | _ => none
where
  int (f : Fields) (op : Nat → HomeOp) : Fields × Nat × List Src × HomeOp × (State → Env → Nat → Nat) :=
    let r := intData f op
    (f, r.size, r.srcs, op r.size, r.data)

/-- Only a core of a die may differ, beside the model's count of free values. -/
def onlyCore (s t : State) (c : CoreId) : Prop :=
  { t with dies := s.dies, tick := s.tick } = s ∧ (∀ d, d ≠ c.die → t.die d = s.die d)
    ∧ { t.die c.die with cores := (s.die c.die).cores } = s.die c.die
    ∧ ∀ n, n ≠ c.core → (t.die c.die).core n = (s.die c.die).core n

/-- Only a die may differ. -/
def onlyDie (s t : State) (d : Nat) : Prop := { t with dies := s.dies } = s ∧ ∀ k, k ≠ d → t.die k = s.die k

/-- Only the crucible may differ. -/
def onlyCrucible (s t : State) : Prop := { t with crucible := s.crucible } = s

/-- The event log has a new entry, and its interrupt cause is set (R434, R440). -/
def logged (s t : State) (kind : LogKind) (die ctx coreid detail : Nat) : Prop :=
  t.crucible.log.getLast? = some { cycle := (s.die die).cycle.toNat, code := Config.eventCode kind.index, die, ctx, coreid, detail }
    ∧ t.crucible.intcause.getLsbD 0 = true

/-- No region is leased and no device is counted in a contention table (R308, R413). -/
def noContention (s : State) : Prop := ∀ d, (s.die d).contention = []

/-- Bytes outside a range read as before. -/
def sameOutside (s t : State) (pa n : Nat) : Prop := ∀ q, ¬ (pa ≤ q ∧ q < pa + n) → Memory.read t.mem q = Memory.read s.mem q

/-- A message comes from another device to this one, on some port or plane in use. -/
def fromPeer (s : State) (src dst : Nat) : Prop := dst = s.crucible.devnum ∧ src ≠ s.crucible.devnum ∧ s.hasPath src = true

/-- The smaller or the greater of two words, by the type that MOD names. -/
def extreme (f : Fields) (most : Bool) (x y : Word) : Word :=
  if (if most then valueOf (signed f) x < valueOf (signed f) y else valueOf (signed f) y < valueOf (signed f) x) then y else x

/-- The operations of REDI that do not depend on grouping: ADD, MIN, MAX, AND, OR, XOR (R124). -/
def foldOp (f : Fields) (n : Nat) (x y : Word) : Word :=
  match n with
  | 0 => x + y
  | 1 => extreme f false x y
  | 2 => extreme f true x y
  | 3 => x &&& y
  | 4 => x ||| y
  | _ => x ^^^ y

/-- Combine of ADDS: a saturating addition, with whether any has saturated; an absent lane leaves the other (R57, R124). -/
def joined (f : Fields) (x y : Option Word × Bool) : Option Word × Bool :=
  match x, y with
  | (none, p), (b, q) => (b, p || q)
  | (a, p), (none, q) => (a, p || q)
  | (some a, p), (some b, q) =>
    let sum := valueOf (signed f) a + valueOf (signed f) b
    (some (saturated (signed f) 32 sum), p || q || outside (signed f) 32 sum)

/-- A level of the tree of R57: neighbours combine. -/
def halved (f : Fields) (s : Nat → Option Word × Bool) (i : Nat) : Option Word × Bool := joined f (s (2 * i)) (s (2 * i + 1))

/-- The tree of R57: 96 values pair down to three, and those combine as (s0 + s1) + s2. -/
def treeOf (f : Fields) (s : Nat → Option Word × Bool) : Option Word × Bool :=
  let t := halved f (halved f (halved f (halved f (halved f s))))
  joined f (joined f (t 0) (t 1)) (t 2)

/-- The instruction completes with `count` words in each active lane and some flags: wherever a lane's words are given, as the
bits of one number, they are these, and the flags given with them are among its flags. -/
def yields (i : Instr) (s : State) (e : Env) (f : Fields) (count : Nat) (given : Nat → Option (Nat × Word)) : Prop :=
  ∃ v flags, results i s e f count v flags ∧ ∀ l, l < laneCount → inMask e.mask l = true → ∀ b fl, given l = some (b, fl) →
    (∀ k, k < count → v k l = BitVec.ofNat 32 (b / 2 ^ (32 * k))) ∧ flags &&& fl = fl

/-- The same of an instruction whose words land later. -/
def yieldsLater (i : Instr) (s : State) (e : Env) (count : Nat) (given : Nat → Option (Nat × Word)) : Prop :=
  ∃ t p, exec i s = .next t ∧ t.landings = s.landings ++ [p] ∧ ∀ l, l < laneCount → inMask e.mask l = true →
    ∀ b fl, given l = some (b, fl) →
      (∀ k, k < count → lane (p.words.getD k []) l = BitVec.ofNat 32 (b / 2 ^ (32 * k))) ∧ p.flags &&& fl = fl

/-- The same of the elements of `w` bits of one word. -/
def yieldsElements (i : Instr) (s : State) (e : Env) (f : Fields) (w : Nat) (given : Nat → Nat → Option (Nat × Word)) : Prop :=
  ∃ v flags, results i s e f 1 v flags ∧ ∀ l, l < laneCount → inMask e.mask l = true → ∀ n b fl, w * n < 32 →
    given n l = some (b, fl) → elem w (v 0 l) n = BitVec.ofNat w b ∧ flags &&& fl = fl

/-- An infinity in a format; E4M3 has none and takes its largest finite value with OVF (R47). -/
def infinite (fm : Fmt) (neg : Bool) : Nat × Word :=
  if fm.one7F then (fm.signBit neg + fm.maxBits, flagOvf) else (fm.signBit neg + fm.infBits, 0)

/-- A value that is no finite number but zero, rounded into a format: a NaN, an infinity, a zero (R47). -/
def convertCorner (fm : Fmt) : FVal → Option (Nat × Word)
  | .nan => some (fm.nan, 0)
  | .inf a => some (infinite fm a)
  | .fin a 0 _ => some (fm.signBit a, 0)
  | _ => none

/-- Sums with a NaN, an infinity, two zeros or two terms that cancel (R44, R47). -/
def sumCorner (fm : Fmt) (rdn : Bool) : FVal → FVal → Option (Nat × Word)
  | .nan, _ => some (fm.nan, 0)
  | _, .nan => some (fm.nan, 0)
  | .inf a, .inf b => some (if a = b then infinite fm a else (fm.nan, flagInv))
  | .inf a, _ => some (infinite fm a)
  | _, .inf b => some (infinite fm b)
  | .fin a m x, .fin b n y =>
    if m = 0 ∧ n = 0 then some (fm.signBit (if a = b then a else rdn), 0)
    else if a ≠ b ∧ m = n ∧ x = y then some (fm.signBit rdn, 0)
    else none

/-- Products with a NaN, an infinity or a zero (R44, R47). -/
def productCorner (fm : Fmt) : FVal → FVal → Option (Nat × Word)
  | .nan, _ => some (fm.nan, 0)
  | _, .nan => some (fm.nan, 0)
  | .inf a, .inf b => some (infinite fm (a != b))
  | .inf a, .fin b n _ => some (if n = 0 then (fm.nan, flagInv) else infinite fm (a != b))
  | .fin a m _, .inf b => some (if m = 0 then (fm.nan, flagInv) else infinite fm (a != b))
  | .fin a m _, .fin b n _ => if m = 0 ∨ n = 0 then some (fm.signBit (a != b), 0) else none

/-- Fused products and sums with a NaN or an infinity (R47, R135). -/
def fusedCorner (fm : Fmt) (x y z : FVal) : Option (Nat × Word) :=
  if x.isNan || y.isNan || z.isNan then some (fm.nan, 0)
  else if (x.isInf && y.isZero) || (x.isZero && y.isInf) then some (fm.nan, flagInv)
  else if x.isInf || y.isInf then
    some (if z.isInf && z.sign ≠ (x.sign != y.sign) then (fm.nan, flagInv) else infinite fm (x.sign != y.sign))
  else if z.isInf then some (infinite fm z.sign)
  else none

/-- Quotients with a NaN, an infinity or a zero (R47, R140). -/
def quotientCorner (fm : Fmt) : FVal → FVal → Option (Nat × Word)
  | .nan, _ => some (fm.nan, 0)
  | _, .nan => some (fm.nan, 0)
  | .inf _, .inf _ => some (fm.nan, flagInv)
  | .inf a, .fin b _ _ => some (infinite fm (a != b))
  | .fin a _ _, .inf b => some (fm.signBit (a != b), 0)
  | .fin a m _, .fin b n _ =>
    if n = 0 then some (if m = 0 then (fm.nan, flagInv) else (fm.signBit (a != b) + fm.maxBits, flagDz))
    else if m = 0 then some (fm.signBit (a != b), 0)
    else none

/-- Square roots of a NaN, an infinity, a zero or a negative value (R47, R140). -/
def rootCorner (fm : Fmt) : FVal → Option (Nat × Word)
  | .nan => some (fm.nan, 0)
  | .inf a => some (if a then (fm.nan, flagInv) else infinite fm false)
  | .fin a m _ => if m = 0 then some (fm.signBit a, 0) else if a then some (fm.nan, flagInv) else none

/-- Two values in the condition of FCMP: 6 is unordered, 7 ordered (R137). -/
def holdsOf (c : Nat) (x y : FVal) : Bool :=
  if x.isNan || y.isNan then c = 1 || c = 6
  else match c with
    | 6 => false
    | 7 => true
    | _ => related c (match x.cmp y with | .lt => -1 | .eq => 0 | .gt => 1) 0

/-- The class of an encoding by its fields (R138). -/
def classOf (fm : Fmt) (b : Nat) : Nat :=
  let neg := b.testBit (fm.width - 1)
  let ex := b / 2 ^ fm.fb % 2 ^ fm.eb
  let fr := b % 2 ^ fm.fb
  if ex = 2 ^ fm.eb - 1 ∧ (if fm.one7F then fr = 7 else fr ≠ 0) then 8
  else if ex = 2 ^ fm.eb - 1 ∧ fm.one7F = false then (if neg then 0 else 7)
  else if ex = 0 ∧ fr = 0 then (if neg then 3 else 4)
  else if ex = 0 then (if neg then 2 else 5)
  else if neg then 1 else 6

/-- The integer type of a C code: its width and whether it is signed (R145). -/
def integerOf (c : Nat) : Nat × Bool := ([32, 32, 64, 64, 16, 16, 8, 8, 4, 4].getD c 4, c % 2 = 0)

/-- A value into an integer type: a NaN, an infinity, and a value that is integral already (R46, R47, R145). -/
def integerCorner (w : Nat) (sg : Bool) : FVal → Option (Nat × Word)
  | .nan => some (0, flagInv)
  | .inf a => some ((saturated sg w (if a then -2 ^ w else 2 ^ w)).toNat, flagOvf)
  | .fin a m x =>
    let i : Int := if a then -(m * 2 ^ x.toNat) else m * 2 ^ x.toNat
    if 0 ≤ x then some ((saturated sg w i).toNat, if outside sg w i then flagOvf else 0) else none

/-- The values that the special functions return exactly for zeros, infinities, NaNs and negative numbers (R151). A subnormal
number reads as a zero under flush inputs. -/
def specialValue (op : Nat) (flush : Bool) (x : Word) : Option (Nat × Word) :=
  let neg := x.msb
  let ex := x.toNat / 2 ^ 23 % 256
  let fr := x.toNat % 2 ^ 23
  let signed (w : Nat) : Nat := if neg then 0x80000000 + w else w
  let nan : Nat := 0x7FC00000
  let inf : Nat := 0x7F800000
  let max : Nat := 0x7F7FFFFF
  let one : Nat := 0x3F800000
  if ex = 255 ∧ fr ≠ 0 then some (nan, 0)
  else if ex = 255 then some (match op with
    | 0x48 => (signed 0, 0)
    | 0x49 => if neg then (nan, flagInv) else (0, 0)
    | 0x4A => if neg then (0, 0) else (inf, 0)
    | 0x4B => if neg then (nan, flagInv) else (inf, 0)
    | 0x4C | 0x4D => (nan, flagInv)
    | 0x4F => if neg then (0, 0) else (one, 0)
    | _ => (signed one, 0))
  else if ex = 0 ∧ (fr = 0 ∨ flush = true) then some (match op with
    | 0x48 => (signed max, flagDz)
    | 0x49 => (max, flagDz)
    | 0x4A | 0x4D => (one, 0)
    | 0x4B => (0x80000000 + max, flagDz)
    | 0x4F => (0x3F000000, 0)
    | _ => (signed 0, 0))
  else if neg = true ∧ (op = 0x49 ∨ op = 0x4B) then some (nan, flagInv)
  else none

/-- An FP32 word that is neither an infinity nor a NaN. -/
def finite32 (w : Word) : Prop := w.toNat / 2 ^ 23 % 256 ≠ 255

end Sys2Proof.Claims

open Sys2Proof Sys2Proof.Machine Sys2Proof.Safety Sys2Proof.Claims

/-! ### Encoding -/

/-- Words that the manual writes out byte by byte decode to the instructions they stand for (the worked encodings of
the chapters). -/
def Obligations.DecodedWords : Prop :=
  (∀ r : Ranges, r.h = 208 → r.n = 16 → r.moments = 64 → r.barriers = 96 →
    decodeBytes r [0xCC, 0xA0, 0x09, 0x04, 0x05, 0xC8, 0x8A, 0x01]
        = .ok (.ffma { mod := 0x28, d := 9, a := 4, b := 5, c := 200, fe := 2, na := 1, tg := 3 }, [])
    ∧ decodeBytes r [0xA4, 0x00, 0x0A, 0x03, 0x04, 0xFD, 0x00, 0x00]
        = .ok (.shfl { d := 10, a := 3, b := 4, c := 253 }, [])
    ∧ decodeBytes r [0x80, 0xA1, 0x03, 0x01, 0x02, 0x00, 0x00, 0x08]
        = .ok (.madd { mod := 0x28, d := 3, a := 1, b := 2, tg := 16 }, [])
    ∧ decodeBytes r [0xC5, 0x01, 0xFA, 0x03, 0x00, 0x00, 0x00, 0x00, 0x40, 0x00, 0x00, 0x00]
        = .ok (.brc { len := .w96, d := 250, a := 3, imm := 0x40 }, [])
    ∧ decodeBytes r [0x22, 0x82, 0x08, 0x0A, 0, 0, 0, 0x01, 0x40, 0, 0, 0, 0, 0, 0xC1, 0]
        = .ok (.ld { len := .w128, mod := 0x20, d := 8, a := 10, tg := 2, imm := 0x40, sp := 1, hn := 0xC }, [])
    ∧ decodeStreamBytes r [0xA2, 0x3E, 0x02, 0x04, 0x06, 0, 0x80, 0x02, 0x40, 0, 0, 0, 0, 0, 0x53, 0]
        = .ok (.mma { len := .w128, mod := 0x0F, d := 2, a := 4, b := 6, tg := 5, imm := 0x40, sp := 3, hn := 5 }, [])
    ∧ decodeBytes r [0xE2, 0x02, 0x0C, 0x04, 0, 0, 0, 0, 0, 0x01, 0, 0, 0, 0, 0x01, 0]
        = .ok (.tcpKick { len := .w128, d := 12, a := 4, imm := 0x100, sp := 1 }, [])
    ∧ decodeBytes r [0x02, 0x23, 0, 0x0A, 0x04, 0x0C, 0, 0x01, 0x10, 0, 0, 0, 0x14, 0, 0x10, 0]
        = .ok (.raddFx { len := .w128, mod := 8, a := 10, b := 4, c := 12, tg := 2, imm := 0x10, e := 20, hn := 1 }, [])
    ∧ decodeBytes r [0x62, 0x43, 0, 0x08, 0x04, 0x09, 0, 0, 0, 0, 0, 0, 0, 0, 0x10, 0]
        = .ok (.cwinAdd { len := .w128, mod := 0x10, a := 8, b := 4, c := 9, hn := 1 }, [])
    ∧ decodeBytes r [0x80, 0x07, 0x05, 0xFA, 0x10, 0, 0, 0] = .ok (.nrec { mod := 1, d := 5, a := 250, b := 16 }, [])
    ∧ decodeBytes r [0x01, 0x06, 0, 0, 0, 0, 0, 0, 0x01, 0, 0, 0] = .ok (.barArrive { len := .w96, mod := 1, imm := 1 }, []))

/-- Decoding the bytes of a well-formed word gives the instruction back, whatever bytes follow: a clutch's word, a
pair word included, and a word of a matrix stream. -/
def Obligations.DecodeOfEncode : Prop :=
  (∀ (r : Ranges) (i : Instr) (op : Nat) (f : Fields) (rest : List Byte), WellFormed r i = true → opOf i = some (op, f) →
    (op < 0xA8 ∨ 0xB0 ≤ op) → decodeBytes r (encode i ++ rest) = .ok (i, rest))
  ∧ (∀ (r : Ranges) (i : Instr) (op : Nat) (f : Fields) (rest : List Byte), WellFormed r i = true →
    opOf i = some (op, f) → 0xA8 ≤ op → op < 0xB0 → decodeStreamBytes r (encode i ++ rest) = .ok (i, rest))
  ∧ (∀ (r : Ranges) (x y : PairOp) (rest : List Byte), WellFormed r (.pairWord x y) = true →
    decodeBytes r (encode (.pairWord x y) ++ rest) = .ok (.pairWord x y, rest))

/-- A word that decodes to an instruction is the word of that instruction: no bit of it is ignored. -/
def Sys2Proof.Claims.encodeOfDecode : Prop :=
  ∀ (r : Ranges) (w : Nat), w < 2 ^ (8 * lengthOf w) →
    (∃ cause bytes op f pair second, decodeWord r w = .reservedEncoding cause bytes op f pair second)
      ∨ encodeWord (decodeWord r w) = some w

/-- An opcode that R71 leaves unassigned is a reserved encoding of cause 0, whatever else the word holds; a word that
R71 assigns is none of cause 0 (R74). -/
def Sys2Proof.Claims.unassignedOpcodes : Prop :=
  ∀ (r : Ranges) (w : Nat), w % 4 ≠ 3 →
    ((∃ bytes op f pair second, decodeWord r w = .reservedEncoding 0 bytes op f pair second) ↔
      opAt w ∈ [0x2E, 0x2F, 0x57, 0x58, 0x59, 0x5A, 0x5B, 0x5C, 0x5D, 0x5E, 0x5F, 0x6E, 0x6F, 0x7E, 0x7F] ∨
      (0x84 ≤ opAt w ∧ opAt w < 0x88) ∨ (0x9C ≤ opAt w ∧ opAt w < 0xA8) ∨ (0xB0 ≤ opAt w ∧ opAt w < 0xB8) ∨
      (0xBD ≤ opAt w ∧ opAt w < 0xC0) ∨ (0xCC ≤ opAt w ∧ opAt w < 0xD8) ∨ (0xDC ≤ opAt w ∧ opAt w < 0xE0) ∨
      0xE8 ≤ opAt w)

/-- No bit of a word is ignored, and exactly the unassigned opcodes are reserved encodings of cause 0. -/
def Obligations.EncodingIsExact : Prop :=
  Sys2Proof.Claims.encodeOfDecode ∧ Sys2Proof.Claims.unassignedOpcodes

/-! ### Steps -/

/-- A step runs the decoded word. When it is a clutch's turn, the clutch may take the issue slot, and the bytes at its
program counter decode to an instruction, the step is `exec` of that instruction with the clutch as the agent, and
what the issue itself leaves behind (R27). The same for a matrix sequencer and for an event. Model choices in it: log 1. -/
def Obligations.StepRunsTheWord : Prop :=
  (∀ (s : State) (who : ClutchId) (rest : List Turn) (e : Env) (bs : List Byte) (i : Instr) (left : List Byte) (t : State),
    s.agenda = .clutch who :: rest →
    let s1 := { s with agenda := rest }
    s1.env? who = some e → s1.mayTake e = true → s1.fetchBytes e.core e.l e.cl.pc.toNat = .inr bs →
    decodeBytes e.ranges bs = .ok (i, left) → exec i { s1 with cur := .clutch who } = .next t →
    step s = .next (s1.finishWord t e i))
  ∧ (∀ (s : State) (uid pos : Nat) (rest : List Turn) (e : SeqEnv) (bs : List Byte) (i : Instr) (left : List Byte) (t : State),
    s.agenda = .sequencer uid pos :: rest →
    let s1 := { s with agenda := rest }
    s1.seqEnv? uid pos = some e → e.l.ending = none → e.ch.stopping = false → (s1.die e.ch.die).lost = false →
    s1.fetchBytes (e.ch.coreAt e.q.pos) e.l e.q.pc.toNat = .inr bs →
    decodeStreamBytes { h := e.l.hdr.regs, n := e.l.hdr.uniform, moments := e.l.hdr.moments,
                        barriers := e.l.hdr.barriers } bs = .ok (i, left) →
    exec i { s1 with cur := .sequencer uid pos } = .next t → s1.counting = false → step s = .next t)
  ∧ (∀ (s : State) (i : Instr) (rest : List Turn) (t : State), s.agenda = .event i :: rest → isEvent i = true →
    let s1 := { s with agenda := rest }
    s1.wakeFor i = none → exec i { s1 with cur := .none } = .next t → s1.counting = false → step s = .next t)

/-! ### Reset -/

/-- After reset (R434, R441, R442): the registers of the crucible control block hold the values of R434's reset column,
no die serves, nothing is resident, nothing is on its way and no byte of memory is listed. The clutches, the routes and
the budgets get their values later, at placement and at boot. -/
def Sys2Proof.Claims.resetValues : Prop :=
  let s := State.reset
  s.crucible.ready = false ∧ s.crucible.bootErr = 0 ∧ s.crucible.level = 0 ∧ s.crucible.devnum = 0 ∧ s.crucible.lattol = 0
    ∧ s.crucible.intcause = 0 ∧ s.crucible.qtbase = 0 ∧ s.crucible.ctxbase = 0 ∧ s.crucible.rfcmd = 0 ∧ s.crucible.rfarg = 0
    ∧ (∀ d, (s.die d).serving = false) ∧ s.choruses = [] ∧ s.launches = [] ∧ s.landings = [] ∧ s.outbox = []
    ∧ (∀ pa, Memory.read s.mem pa = 0) ∧ memoryCanonical s

/-- The control registers of a core's debug window after reset hold the values of R203's reset columns: BKEN is 1, no
stop is on, SLOT reads 31 and the others 0. -/
def Sys2Proof.Claims.debugReset : Prop :=
  ∀ c : CoreId, let k := State.reset.core c
    k.stopped = false ∧ k.slot = 31 ∧ k.code = 0 ∧ k.step = false ∧ k.dlstop = false ∧ k.bken = true ∧ k.sel = 0

/-- The state after reset (R203, R434, R441, R442). Model choices in it: log 2, log 3. -/
def Obligations.ResetState : Prop :=
  Sys2Proof.Claims.resetValues ∧ Sys2Proof.Claims.debugReset

/-- Every step keeps the canonical form of memory (log 2): equal memories are equal data. Model choices in it: log 2. -/
def Obligations.StepKeepsMemoryCanonical : Prop :=
  ∀ s t : State, memoryCanonical s → step s = .next t → memoryCanonical t

/-! ### Registers -/

/-- A register instruction whose registers are full, whose sources pass their tag checks and hold no poisoned word
completes. Its results enter its destination registers in the active lanes with their tags, at once or, for a
long-latency producer, through a landing that leaves the destination empty until it lands (R91); its flags enter
sticky; every other register word and tag, and everything outside the clutch, is as before (R87, R89, R90, R93, R109,
R131). Model choices in it: log 58. -/
def Obligations.RegisterInstructionsComplete : Prop :=
  ∀ (s : State) (e : Env) (i : Instr) (op : Nat) (f : Fields) (mk : State → Env → Alu),
    registerForm i = some (op, f, mk) → mayIssue s e op f → (mk s e).fails e = false → (mk s e).poisoned e = false →
    let a := mk s e
    let r := a.result s e
    ∃ t c, exec i s = .next t ∧ t.at? e.who = some c ∧ c.pc = e.cl.pc + BitVec.ofNat 32 f.len.bytes
      ∧ sameDevice s t ∧ sameElsewhere s t e.who ∧ sameControl e.cl c
      ∧ c.mregs = e.cl.mregs ∧ c.mtags = e.cl.mtags ∧ c.mempty = e.cl.mempty ∧ c.mpoison = e.cl.mpoison
      ∧ (a.long = false →
          wrote e.hdr.uniform e.mask a.dst r.1.length (fun k l => lane (r.1.getD k []) l) e.cl c
          ∧ tagged a.dst r.1.length (fun k => a.tags.getD k 0) e.cl c
          ∧ (a.dst + r.1.length ≤ 253 → c.mask = e.cl.mask)
          ∧ (∀ j, j < 3 → a.dst = 253 + j → r.1.length = 1 →
              c.mask = setMaskWord e.cl.mask j (lane (r.1.getD 0 []) (lowest e.mask)) &&& e.cl.path &&& ~~~e.cl.exited)
          ∧ flagged s t e.who.chorus r.2 ∧ c.empty = e.cl.empty ∧ t.landings = s.landings ∧ t.fresh = s.fresh)
      ∧ (a.long = true →
          c.mask = e.cl.mask ∧ (∀ n reg l, c.word n reg l = e.cl.word n reg l) ∧ c.tags = e.cl.tags ∧ flagged s t e.who.chorus 0
          ∧ (∀ k, k < a.n → a.dst + k ∈ c.empty) ∧ t.fresh = s.fresh + 1
          ∧ t.landings = s.landings ++ [{ id := s.fresh, who := e.who, dst := .ordinary a.dst a.n, mask := e.mask, words := r.1, tag := BitVec.ofNat 5 (a.tags.getD 0 0), flags := r.2, canFlag := true }])

/-- The integer arithmetic of R114, element by element where the type is packed, with OVF from any active lane. -/
def Obligations.IntegerArithmetic : Prop :=
  ∀ (s : State) (e : Env) (f : Fields),
    let a := word s e f 2 1
    let b := word s e f 2 2
    let c := word s e f 2 3
    let sg := signed f
    (issues (.iadd f) s e → results (.iadd f) s e f 1 fun _ l => byType f (fun _ x y => x + y) (a l) (b l))
    ∧ (issues (.isub f) s e → results (.isub f) s e f 1 fun _ l => byType f (fun _ x y => x - y) (a l) (b l))
    ∧ (issues (.imul f) s e → results (.imul f) s e f 1 fun _ l => a l * b l)
    ∧ (issues (.imulh f) s e → results (.imulh f) s e f 1 fun _ l =>
        half (BitVec.ofInt 64 (valueOf sg (a l) * valueOf sg (b l))) 1)
    ∧ (issues (.imad f) s e → results (.imad f) s e f 1 fun _ l => a l * b l + c l)
    ∧ (issues (.imadw f) s e → results (.imadw f) s e f 2 fun k l =>
        half (BitVec.ofInt 64 (valueOf sg (a l) * valueOf sg (b l)) + dword s e f 2 3 l) k)
    ∧ (issues (.iabs f) s e → results (.iabs f) s e f 1
        (fun _ l => byType f (fun w x _ => saturated true w x.toInt.natAbs) (word s e f 0 1 l) 0)
        (ovfIf e fun l => anyElement f (fun w x _ => x = BitVec.intMin w) (word s e f 0 1 l) 0))
    ∧ (issues (.imin f) s e → results (.imin f) s e f 1 fun _ l =>
        byType f (fun _ x y => if valueOf sg y < valueOf sg x then y else x) (a l) (b l))
    ∧ (issues (.imax f) s e → results (.imax f) s e f 1 fun _ l =>
        byType f (fun _ x y => if valueOf sg x < valueOf sg y then y else x) (a l) (b l))
    ∧ (issues (.iaddc f) s e → results (.iaddc f) s e f 1 fun _ l =>
        if f.mod.toNat / 8 = 0 then a l + b l + (c l &&& 1)
        else if 2 ^ 32 ≤ (a l).toNat + (b l).toNat + (c l).toNat % 2 then 1 else 0)
    ∧ (issues (.iadds f) s e →
        let sum (w : Nat) (x y : BitVec w) : Int :=
          if f.mod.toNat / 8 = 0 then valueOf sg x + valueOf sg y else valueOf sg x - valueOf sg y
        results (.iadds f) s e f 1 (fun _ l => byType f (fun w x y => saturated sg w (sum w x y)) (a l) (b l))
          (ovfIf e fun l => anyElement f (fun w x y => outside sg w (sum w x y)) (a l) (b l)))

/-- IDIV and IREM promise the quotient and the remainder of R116. -/
def Obligations.Division : Prop :=
  ∀ (s : State) (e : Env) (f : Fields),
    let r (l : Nat) := divided (signed f) (word s e f 2 1 l) (word s e f 2 2 l)
    (issues (.idiv f) s e → promises (.idiv f) s e f (fun l => (r l).1) (raised e fun l => (r l).2.2))
    ∧ (issues (.irem f) s e → promises (.irem f) s e f (fun l => (r l).2.1) (raised e fun l => (r l).2.2))

/-- The logic, shift and bit instructions of R118. -/
def Sys2Proof.Claims.logicAndShifts : Prop :=
  ∀ (s : State) (e : Env) (f : Fields),
    let a := word s e f 2 1
    let b := word s e f 2 2
    let p := word s e f 0 1
    let n (l : Nat) : Nat := (b l).toNat % 256
    let wide : Bool := 2 ≤ f.mod.toNat % 8
    (issues (.and f) s e → results (.and f) s e f 1 fun _ l => a l &&& b l)
    ∧ (issues (.or f) s e → results (.or f) s e f 1 fun _ l => a l ||| b l)
    ∧ (issues (.xor f) s e → results (.xor f) s e f 1 fun _ l => a l ^^^ b l)
    ∧ (issues (.andn f) s e → results (.andn f) s e f 1 fun _ l => a l &&& ~~~(b l))
    ∧ (issues (.shl f) s e → if wide then results (.shl f) s e f 2 fun k l => half (dword s e f 2 1 l <<< n l) k
        else results (.shl f) s e f 1 fun _ l => a l <<< n l)
    ∧ (issues (.shr f) s e → if wide then results (.shr f) s e f 2 fun k l => half (dword s e f 2 1 l >>> n l) k
        else results (.shr f) s e f 1 fun _ l => a l >>> n l)
    ∧ (issues (.sar f) s e → if wide then results (.sar f) s e f 2 fun k l => half ((dword s e f 2 1 l).sshiftRight (n l)) k
        else results (.sar f) s e f 1 fun _ l => (a l).sshiftRight (n l))
    ∧ (issues (.rot f) s e → results (.rot f) s e f 1 fun _ l =>
        if f.mod.toNat / 8 = 0 then (a l).rotateLeft ((b l).toNat % 32) else (a l).rotateRight ((b l).toNat % 32))
    ∧ (issues (.popc f) s e → results (.popc f) s e f 1 fun _ l => (p l).cpop)
    ∧ (issues (.clz f) s e → results (.clz f) s e f 1 fun _ l => (p l).clz)
    ∧ (issues (.brev f) s e → results (.brev f) s e f 1 fun _ l => (p l).reverse)
    ∧ (issues (.ffs f) s e → results (.ffs f) s e f 1 fun _ l => if p l = 0 then 0xFFFFFFFF else (p l).ctz)

/-- ICMP and CMP64 write the predicate word of the relation (R110, R117). -/
def Sys2Proof.Claims.compareResults : Prop :=
  ∀ (s : State) (e : Env) (f : Fields),
    (issues (.icmp f) s e → results (.icmp f) s e f 1 fun _ l =>
      truth (related (f.mod.toNat / 8) (valueOf (signed f) (word s e f 2 1 l)) (valueOf (signed f) (word s e f 2 2 l))))
    ∧ (issues (.cmp64 f) s e → results (.cmp64 f) s e f 1 fun _ l =>
      truth (related (f.mod.toNat / 8) (valueOf (signed f) (dword s e f 2 1 l)) (valueOf (signed f) (dword s e f 2 2 l))))

/-- The logic, shift and bit instructions, and the comparisons (R110, R117, R118). -/
def Obligations.LogicShiftsAndCompares : Prop :=
  Sys2Proof.Claims.logicAndShifts ∧ Sys2Proof.Claims.compareResults

/-- BFE and BFI take and place a bit field (R119); BYMIX chooses bytes (R120). -/
def Sys2Proof.Claims.bitFields : Prop :=
  ∀ (s : State) (e : Env) (f : Fields),
    let a := word s e f 2 1
    let b := word s e f 2 2
    let c := word s e f 2 3
    let pos (l : Nat) : Nat := (b l).toNat % 256
    let len (l : Nat) : Nat := (b l).toNat / 256 % 256
    let n (l : Nat) : Nat := min (len l) (32 - pos l)
    let ones (l : Nat) : Word := BitVec.ofNat 32 (2 ^ n l - 1)
    (issues (.bfe f) s e → results (.bfe f) s e f 1 fun _ l =>
      if len l = 0 ∨ 32 ≤ pos l then 0
      else if f.mod.toNat % 8 = 1 then (a l >>> pos l) &&& ones l
      else ((a l >>> pos l).setWidth (n l)).signExtend 32)
    ∧ (issues (.bfi f) s e → results (.bfi f) s e f 1 fun _ l =>
      if len l = 0 ∨ 32 ≤ pos l then c l
      else (c l &&& ~~~(ones l <<< pos l)) ||| ((a l &&& ones l) <<< pos l))
    ∧ (issues (.bymix f) s e → results (.bymix f) s e f 1 fun _ l => join4 fun i =>
      let sel : BitVec 6 := (word s e f 3 3 l >>> (6 * i)).setWidth 6
      let x : BitVec 8 := ((word s e f 3 2 l ++ word s e f 3 1 l : DWord) >>> (8 * (sel.toNat % 8))).setWidth 8
      let y := if sel.getLsbD 4 then x.reverse else x
      let z := if sel.getLsbD 3 then ~~~y else y
      if sel.getLsbD 5 then 0 else z)

/-- LEA and ADD64 add modulo 2^64 (R121); CVTI saturates an exact value into its type (R122). -/
def Sys2Proof.Claims.addressesAndConversion : Prop :=
  ∀ (s : State) (e : Env) (f : Fields),
    let b := word s e f 2 2
    let src := f.mod.toNat / 8
    let dst := f.mod.toNat % 8
    let x (l : Nat) : Int := valueOf (src % 2 = 0) ((dword s e f 0 1 l).setWidth (typeWidth src))
    let narrow (l : Nat) : Int := valueOf (src % 2 = 0) ((word s e f 0 1 l).setWidth (typeWidth src))
    let v (l : Nat) : Int := if typeWidth src = 64 then x l else narrow l
    (issues (.lea f) s e → results (.lea f) s e f 2 fun k l =>
      half (dword s e f 2 1 l + ((if dst = 2 then (b l).signExtend 64 else (b l).setWidth 64) <<< src)) k)
    ∧ (issues (.add64 f) s e → results (.add64 f) s e f 2 fun k l => half (dword s e f 2 1 l + dword s e f 2 2 l) k)
    ∧ (issues (.cvti f) s e → results (.cvti f) s e f (if typeWidth dst = 64 then 2 else 1)
        (fun k l => half ((saturated (signed f) (typeWidth dst) (v l)).setWidth 64) k)
        (ovfIf e fun l => outside (signed f) (typeWidth dst) (v l)))

/-- Bit fields, byte mixes, addresses and conversions (R119 to R122). -/
def Obligations.FieldsAndAddresses : Prop :=
  Sys2Proof.Claims.bitFields ∧ Sys2Proof.Claims.addressesAndConversion

/-- VOTE, BALLOT and MATCH look at the active lanes alone, and a single active lane makes every VOTE true (R123; log 64: whatever
its value). -/
def Sys2Proof.Claims.votesAndBallots : Prop :=
  ∀ (s : State) (e : Env) (f : Fields),
    let a := word s e f 0 1
    let xm := f.mod.toNat / 8
    let j (l : Nat) : Nat := if xm = 3 then l / 32 else xm
    (issues (.vote f) s e → results (.vote f) s e f 1 fun _ _ => truth ((lanesIn e.mask).length = 1 || match xm with
      | 0 => (lanesIn e.mask).all fun l => a l ≠ 0
      | 1 => (lanesIn e.mask).any fun l => a l ≠ 0
      | _ => (lanesIn e.mask).all fun l => (lanesIn e.mask).all fun k => a l = a k))
    ∧ (issues (.ballot f) s e → results (.ballot f) s e f 1 fun _ l => beat e (j l) fun k => a k ≠ 0)
    ∧ (issues (.match_ f) s e → results (.match_ f) s e f 1 fun _ l => beat e (j l) fun k => a k = a l)

/-- SHFL and BCAST move words between lanes (R126, R127); inside a handler only its lanes are members (R196). -/
def Sys2Proof.Claims.laneMoves : Prop :=
  ∀ (s : State) (e : Env) (f : Fields),
    let a := word s e f 2 1
    let b := word s e f 2 2
    let n (l : Nat) : Nat := (b l).toNat % 128
    let mine (l : Nat) : Bool := !e.cl.inHandler || inMask e.cl.handlerLanes l
    let from_ (l : Nat) : Int := match f.mod.toNat / 8 with
      | 0 => n l
      | 1 => (l ^^^ n l : Nat)
      | 2 => (l : Int) - n l
      | _ => (l : Int) + n l
    (issues (.shfl f) s e → results (.shfl f) s e f 1 fun _ l =>
      if 0 ≤ from_ l ∧ from_ l ≤ 95 ∧ member e f.c.toNat (from_ l).toNat = true ∧ mine (from_ l).toNat = true then a (from_ l).toNat
      else a l)
    ∧ (issues (.bcast f) s e → results (.bcast f) s e f 1 fun _ l => if 96 ≤ n e.low ∨ mine (n e.low) = false then a l else a (n e.low))

/-- REDI combines the active lanes, ADDS in the tree of R57 with OVF where any addition saturates; SCANI combines the active
lanes up to each lane or before it, from the identity where there is none (R124, R125). -/
def Sys2Proof.Claims.foldsAndScans : Prop :=
  ∀ (s : State) (e : Env) (f : Fields),
    let a := word s e f 0 1
    let n := f.mod.toNat / 8
    let sum := treeOf f fun l => (if inMask e.mask l then some (a l) else none, false)
    let scan : Nat := [0, 1, 2, 4].getD (n % 4) 0
    let identity : Word := match n % 4 with
      | 1 => if signed f then 0x7FFFFFFF else 0xFFFFFFFF
      | 2 => if signed f then 0x80000000 else 0
      | _ => 0
    let combined (ls : List Nat) : Word := match ls with
      | [] => identity
      | k :: rest => rest.foldl (fun x j => foldOp f scan x (a j)) (a k)
    (issues (.redi f) s e →
      (n < 6 → results (.redi f) s e f 1 fun _ _ => ((lanesIn e.mask).drop 1).foldl (fun x j => foldOp f n x (a j)) (a e.low))
      ∧ (n = 6 → results (.redi f) s e f 1 (fun _ _ => sum.1.getD 0) (if sum.2 then flagOvf else 0)))
    ∧ (issues (.scani f) s e → results (.scani f) s e f 1 fun _ l =>
        combined ((lanesIn e.mask).filter fun k => if 4 ≤ n then k < l else k ≤ l))

/-- ISECT finds the equal coordinates of two ascending lists and counts the entries that no later window can match (R128). -/
def Sys2Proof.Claims.intersections : Prop :=
  ∀ (s : State) (e : Env) (f : Fields),
    let x (i : Nat) : Nat := (word s e f 0 1 i).toNat
    let y (j : Nat) : Nat := (word s e f 0 2 j).toNat
    let c := (word s e f 0 3 e.low).toNat
    let nx := min (c % 256) 96
    let ny := min (c / 256 % 256) 96
    let hits := (List.range nx).filterMap fun i => ((List.range ny).find? fun j => x i = y j).map fun j => (i, j)
    let lim := min (x (nx - 1)) (y (ny - 1))
    let adv (n : Nat) (z : Nat → Nat) : Nat := if nx = 0 ∨ ny = 0 then 0 else ((List.range n).filter fun i => z i ≤ lim).length
    issues (.isect f) s e → e.cl.inHandler = false → (∀ i, i + 1 < nx → x i < x (i + 1)) → (∀ j, j + 1 < ny → y j < y (j + 1)) →
      results (.isect f) s e f 1 fun _ l =>
        let hit := hits.getD l (127, 127)
        BitVec.ofNat 32 (hit.1 + 2 ^ 7 * hit.2 + 2 ^ 14 * adv nx x + 2 ^ 21 * adv ny y)

/-- Votes, ballots, matches, folds, scans, intersections, shuffles and broadcasts (R123 to R128). Model choice in it: log 64, that VOTE of one active lane
is true although its value is 0. -/
def Obligations.LaneInstructions : Prop :=
  Sys2Proof.Claims.votesAndBallots ∧ Sys2Proof.Claims.laneMoves ∧ Sys2Proof.Claims.foldsAndScans ∧ Sys2Proof.Claims.intersections

/-- A special function's result depends on its source word and the subnormal modes alone: two clutches of two machines
that read the same word under the same modes promise the same word (R152). -/
def Sys2Proof.Claims.specialFunctionsAreFunctions : Prop :=
  ∀ (i : Instr) (op : Nat) (f : Fields) (mk : State → Env → Alu) (s t : State) (e d : Env) (l k : Nat),
    registerForm i = some (op, f, mk) → 0x48 ≤ op → op ≤ 0x50 → issues i s e → issues i t d →
    l < laneCount → k < laneCount → inMask e.mask l = true → inMask d.mask k = true →
    e.source s (intSrc f 0 1 1) l = d.source t (intSrc f 0 1 1) k →
    (e.modes f.mod.toNat).fi = (d.modes f.mod.toNat).fi → (e.modes f.mod.toNat).fo = (d.modes f.mod.toNat).fo →
    ∃ s' t' p q, exec i s = .next s' ∧ s'.landings = s.landings ++ [p] ∧ exec i t = .next t'
      ∧ t'.landings = t.landings ++ [q] ∧ lane (p.words.getD 0 []) l = lane (q.words.getD 0 []) k

/-- The special functions of zeros, infinities, NaNs and negative numbers, with their flags (R151). -/
def Sys2Proof.Claims.specialValues : Prop :=
  ∀ (i : Instr) (op : Nat) (f : Fields) (mk : State → Env → Alu) (s : State) (e : Env),
    registerForm i = some (op, f, mk) → 0x48 ≤ op → op ≤ 0x50 → issues i s e →
    yieldsLater i s e 1 fun l => specialValue op (e.modes f.mod.toNat).fi (word s e f 0 1 l)

/-- The scalar floating instructions where a source is a NaN, an infinity or a zero, or the terms cancel; the minimum, the
maximum, the comparison and the class of any source (R44, R46, R47, R135 to R138, R140 to R142). -/
def Sys2Proof.Claims.floatingCases : Prop :=
  ∀ (s : State) (e : Env) (f : Fields),
    let tag := tagOr f 2
    let fm := Fmt.ofTag tag
    let md := e.modes f.mod.toNat
    let rdn : Bool := md.rm = .rdn
    let n := fmtWords tag
    let bits (i l : Nat) : Nat := e.source s (floatSrc f 2 i tag) l % 2 ^ fm.width
    let x (i l : Nat) : FVal := fm.read md (e.source s (floatSrc f 2 i tag) l)
    let compared (i l : Nat) : FVal := fm.read (e.modes (f.mod.toNat % 8)) (e.source s (floatSrc f 2 i tag) l)
    let chosen (most : Bool) (l : Nat) : Option (Nat × Word) :=
      let first := (x 1 l).cmp (x 2 l) = .lt ∨ ((x 1 l).cmp (x 2 l) = .eq ∧ (x 1 l).sign = true ∧ (x 2 l).sign = false)
      some (if (x 1 l).isNan || (x 2 l).isNan then (fm.nan, 0)
        else (fm.flush md.fo (fm.flush md.fi (bits (if first = (most = false) then 1 else 2) l)), 0))
    (issues (.fadd f) s e → yields (.fadd f) s e f n fun l => sumCorner fm rdn (x 1 l) (x 2 l))
    ∧ (issues (.fsub f) s e → yields (.fsub f) s e f n fun l => sumCorner fm rdn (x 1 l) (x 2 l).neg)
    ∧ (issues (.fmul f) s e → yields (.fmul f) s e f n fun l => productCorner fm (x 1 l) (x 2 l))
    ∧ (issues (.ffma f) s e → yields (.ffma f) s e f n fun l => fusedCorner fm (x 1 l) (x 2 l) (x 3 l))
    ∧ (issues (.fmin f) s e → yields (.fmin f) s e f n (chosen false))
    ∧ (issues (.fmax f) s e → yields (.fmax f) s e f n (chosen true))
    ∧ (issues (.fcmp f) s e → yields (.fcmp f) s e f 1 fun l =>
        some ((truth (holdsOf (f.mod.toNat / 8) (compared 1 l) (compared 2 l))).toNat, 0))
    ∧ (issues (.fclass f) s e → yields (.fclass f) s e f 1 fun l => some (2 ^ classOf fm (bits 1 l), 0))
    ∧ (issues (.fdiv f) s e → yieldsLater (.fdiv f) s e n fun l => quotientCorner fm (x 1 l) (x 2 l))
    ∧ (issues (.fsqrt f) s e → yieldsLater (.fsqrt f) s e n fun l => rootCorner fm (x 1 l))
    ∧ (issues (.frnd f) s e → yields (.frnd f) s e f n fun l => convertCorner fm (x 1 l))
    ∧ (issues (.fscl f) s e → yields (.fscl f) s e f n fun l => convertCorner fm (x 1 l))

/-- The packed floating instructions element by element, and the conversions, where a source is a NaN, an infinity or a zero;
integral values convert to integers exactly, saturated with OVF (R46, R47, R139, R143 to R147). -/
def Sys2Proof.Claims.packedAndConverted : Prop :=
  ∀ (s : State) (e : Env) (f : Fields),
    let md := e.modes f.mod.toNat
    let rdn : Bool := md.rm = .rdn
    let packed := Fmt.ofTag (tagOr f 3)
    let half (w i n l : Nat) : Nat := e.source s (floatSrc f 2 i (tagOr f 3)) l / 2 ^ (w * n) % 2 ^ w
    let y (i n l : Nat) : FVal := packed.read md (half 16 i n l)
    let compared (i n l : Nat) : FVal := packed.read (e.modes (f.mod.toNat % 8)) (half 16 i n l)
    let dest := Fmt.ofTag (tagOr f 2)
    let wide (i l : Nat) : FVal := fp32.read md (e.source s (floatSrc f 0 i 2) l)
    let eighth (i n l : Nat) : FVal := (Fmt.ofTag (tagOr f 5)).read md (e.source s (floatSrc f 0 i (tagOr f 5)) l / 2 ^ (8 * n) % 256)
    (issues (.pkadd f) s e → yieldsElements (.pkadd f) s e f 16 fun n l => sumCorner packed rdn (y 1 n l) (y 2 n l))
    ∧ (issues (.pkmul f) s e → yieldsElements (.pkmul f) s e f 16 fun n l => productCorner packed (y 1 n l) (y 2 n l))
    ∧ (issues (.pkfma f) s e → yieldsElements (.pkfma f) s e f 16 fun n l => fusedCorner packed (y 1 n l) (y 2 n l) (y 3 n l))
    ∧ (issues (.pkcmp f) s e → yieldsElements (.pkcmp f) s e f 16 fun n l =>
        some (if holdsOf (f.mod.toNat / 8) (compared 1 n l) (compared 2 n l) then 0xFFFF else 0, 0))
    ∧ (issues (.cvtf f) s e → yields (.cvtf f) s e f (fmtWords (tagOr f 2)) fun l =>
        convertCorner dest ((Fmt.ofTag f.c.toNat).read md (e.source s (floatSrc f 0 1 f.c.toNat) l)))
    ∧ (issues (.cvtfi f) s e → yields (.cvtfi f) s e f (if (integerOf f.c.toNat).1 = 64 then 2 else 1) fun l =>
        integerCorner (integerOf f.c.toNat).1 (integerOf f.c.toNat).2 (dest.read md (e.source s (floatSrc f 0 1 (tagOr f 2)) l)))
    ∧ (issues (.cvtif f) s e → yields (.cvtif f) s e f (fmtWords (tagOr f 2)) fun l =>
        let ty := integerOf f.c.toNat
        let n := valueOf ty.2 ((if ty.1 = 64 then dword s e f 0 1 l else (word s e f 0 1 l).setWidth 64).setWidth ty.1)
        if n = 0 then some (0, 0) else if n = 1 ∨ n = -1 then some (dest.signBit (n < 0) + dest.bias * 2 ^ dest.fb, 0) else none)
    ∧ (issues (.fpack f) s e →
        (tagOr f 3 ≤ 4 → yieldsElements (.fpack f) s e f 16 fun n l => convertCorner packed (wide (n + 1) l))
        ∧ (5 ≤ tagOr f 3 → yieldsElements (.fpack f) s e f 8 fun n l =>
            if n < 2 then some (half 8 3 (n + 2) l, 0) else convertCorner packed (wide (n - 1) l)))
    ∧ (issues (.funpack f) s e → yields (.funpack f) s e f 1 fun l =>
        let i := (word s e f 2 2 l).toNat % (32 / packed.width)
        convertCorner fp32 (packed.read md (half packed.width 1 i l)))
    ∧ (issues (.fdot4 f) s e → yields (.fdot4 f) s e f 1 fun l =>
        if (wide 3 l).isNan || (List.range 4).any (fun n => (eighth 1 n l).isNan || (eighth 2 n l).isNan) then some (fp32.nan, 0) else none)

/-- The floating sum of all active lanes where one is a NaN or one or two are active, the least and the greatest of any, the scan
where a lane is the first or a NaN comes before it (R153, R154). -/
def Sys2Proof.Claims.reductions : Prop :=
  ∀ (s : State) (e : Env) (f : Fields),
    let fm := Fmt.ofTag (tagOr f 2)
    let bits (md : Modes) (l : Nat) : Nat := fm.flush md.fi (e.source s (floatSrc f 0 1 (tagOr f 2)) l % 2 ^ fm.width)
    let x (md : Modes) (l : Nat) : FVal := fm.decode (bits md l)
    let sum := e.modes f.mod.toNat
    let most := e.modes 0
    let below (a b : FVal) : Bool := a.cmp b = .lt ∨ (a.cmp b = .eq ∧ a.sign = true ∧ b.sign = false)
    let scan := e.modes (f.mod.toNat / 8 * 8)
    let added (l : Nat) : Nat := fp32.flush scan.fi (e.source s (floatSrc f 0 1 2) l)
    (issues (.freda f) s e → yields (.freda f) s e f (fmtWords (tagOr f 2)) fun _ =>
      if (lanesIn e.mask).any (fun l => (x sum l).isNan) then some (fm.nan, 0)
      else match lanesIn e.mask with
        | [k] => some (fm.flush sum.fo (bits sum k), 0)
        | [j, k] => sumCorner fm (sum.rm = .rdn) (x sum j) (x sum k)
        | _ => none)
    ∧ (issues (.fredm f) s e → yields (.fredm f) s e f (fmtWords (tagOr f 2)) fun _ =>
      if (lanesIn e.mask).any (fun l => (x most l).isNan) then some (fm.nan, 0)
      else ((lanesIn e.mask).find? fun k => (lanesIn e.mask).all fun l =>
          if f.mod = 1 then !below (x most k) (x most l) else !below (x most l) (x most k)).map
        fun k => (fm.flush most.fo (bits most k), 0))
    ∧ (issues (.fscan f) s e → yields (.fscan f) s e f 1 fun l =>
      if ((lanesIn e.mask).filter fun k => if f.mod.getLsbD 2 then k < l else k ≤ l).any
          (fun k => (fp32.decode (added k)).isNan) then some (fp32.nan, 0)
      else if l = e.low then some (if f.mod.getLsbD 2 then 0 else fp32.flush scan.fo (added l), 0) else none)

/-- The block forms: an element that is a NaN or zero expands to the canonical NaN or a zero of its sign; a beat whose active
lanes hold zeros, infinities and NaNs alone has the exponents 0, and 255 for its NaN elements, each zero keeping its sign, with
INV for an infinity (R37, R39, R40, R41, R148, R149). -/
def Sys2Proof.Claims.blockCorners : Prop :=
  ∀ (s : State) (e : Env) (f : Fields),
    let k := txK (tagOr f 12)
    let x (l : Nat) : Nat := e.source s (floatSrc f 0 1 2) l
    let special (l : Nat) : Bool := x l / 2 ^ 23 % 256 = 255
    let beat (l : Nat) : List Nat := (lanesIn e.mask).filter fun i => i / 32 = l / 32
    let plain (l : Nat) : Bool := (beat l).all fun i => x i % 2 ^ 31 = 0 || special i
    let pair (l : Nat) : Nat := if (beat l).any special then 255 else 0
    (issues (.blkdq f) s e → yields (.blkdq f) s e f 1 fun l =>
      convertCorner (Fmt.ofTag (if f.c = 0 then 2 else f.c.toNat))
        (txDecode (tagOr f 12) ((word s e f 0 2 l).toNat % 2 ^ 16) (word s e f 0 1 l).toNat))
    ∧ (issues (.blkex f) s e → yields (.blkex f) s e f 1 fun l => if plain l then some (pair l, 0) else none)
    ∧ (issues (.blkq f) s e → yields (.blkq f) s e f 2 fun l =>
      if plain l ∧ special l = false then
        some (2 ^ (k + 1) + x l / 2 ^ 31 * 2 ^ k + 2 ^ 32 * pair l, if (beat l).any (fun i => x i % 2 ^ 31 = 0x7F800000) then flagInv else 0)
      else none)

/-- Floating point: the special functions, the instructions on NaNs, infinities, zeros and integral values, the reductions and
the block forms (R37, R39 to R41, R44 to R47, R135 to R149, R151 to R154). Model choices in it: log 7, log 64. -/
def Obligations.SpecialFunctionsAreFunctions : Prop :=
  Sys2Proof.Claims.specialFunctionsAreFunctions ∧ Sys2Proof.Claims.specialValues ∧ Sys2Proof.Claims.floatingCases
    ∧ Sys2Proof.Claims.packedAndConverted ∧ Sys2Proof.Claims.reductions ∧ Sys2Proof.Claims.blockCorners

/-- A moment instruction that may issue completes under mcr.CLAMP; without it, it completes unless it ends the launch with
NEGVAR in active lanes (R156 to R172). -/
def Sys2Proof.Claims.momentInstructionsComplete : Prop :=
  ∀ (s : State) (e : Env) (i : Instr) (m : MomentForm), momentForm i = some m → WellFormed e.ranges i = true →
    momentReady s e m →
    (e.cl.clamp = true → ∃ t c, exec i s = .next t ∧ t.at? e.who = some c ∧ momentDone s t e m c)
    ∧ ((∃ t c, exec i s = .next t ∧ t.at? e.who = some c ∧ momentDone s t e m c)
        ∨ ∃ lanes : Mask, lanes ≠ 0 ∧ lanes &&& ~~~e.mask = 0 ∧ exec i s = fatal s e .negvar lanes)

/-- MMOV copies both halves of A bit for bit in the active lanes, and A's tag (R170). -/
def Sys2Proof.Claims.momentMove : Prop :=
  ∀ (s : State) (e : Env) (f : Fields), WellFormed e.ranges (.mmov f) = true → mayIssue s e 0x6C f →
    e.momentPoison f.a.toNat = false →
    ∃ t c, exec (.mmov f) s = .next t ∧ t.at? e.who = some c
      ∧ momentDone s t e { op := 0x6C, f, tag := e.cl.momentTag f.a.toNat, dst := .moment f.d.toNat } c
      ∧ ∀ l, l < laneCount → inMask e.mask l = true → c.moment f.d.toNat l = e.cl.moment f.a.toNat l

/-- MSET builds an MP32 pair from finite FP32 words as they stand, and MCOLL gives the mean or the variance of one as it
stands, where no subnormal mode acts and no variance is below zero (R158, R168, R169). -/
def Sys2Proof.Claims.momentWords : Prop :=
  ∀ (s : State) (e : Env) (f : Fields) (m : MomentForm), f.tg ≠ 16 →
    (e.modes f.mod.toNat).fi = false → (e.modes f.mod.toNat).fo = false →
    let w (i l : Nat) : Word := BitVec.ofNat 32 (e.source s (floatSrc f 2 i 2) l)
    let old (l : Nat) : DWord := e.cl.moment f.a.toNat l
    let half (k l : Nat) : Word := ((old l) >>> (32 * k)).setWidth 32
    (momentForm (.mset f) = some m → WellFormed e.ranges (.mset f) = true → momentReady s e m →
      (∀ l, l < laneCount → inMask e.mask l = true → finite32 (w 1 l) ∧ finite32 (w 2 l) ∧ (w 2 l).msb = false) →
      ∃ t c, exec (.mset f) s = .next t ∧ t.at? e.who = some c ∧ momentDone s t e m c
        ∧ ∀ l, l < laneCount → inMask e.mask l = true → c.moment f.d.toNat l = w 2 l ++ w 1 l)
    ∧ (momentForm (.mcoll f) = some m → WellFormed e.ranges (.mcoll f) = true → momentReady s e m → f.mod.toNat / 8 < 2 →
      (e.modes (f.mod.toNat % 8)).fi = false → (e.modes (f.mod.toNat % 8)).fo = false →
      (∀ l, l < laneCount → inMask e.mask l = true → finite32 (half 0 l) ∧ finite32 (half 1 l) ∧ (half 1 l).msb = false) →
      ∃ t c v, exec (.mcoll f) s = .next t ∧ t.at? e.who = some c ∧ momentDone s t e m c
        ∧ wrote e.hdr.uniform e.mask f.d.toNat 1 v e.cl c
        ∧ ∀ l, l < laneCount → inMask e.mask l = true → v 0 l = half (f.mod.toNat / 8) l)

/-- A finite MP32 pair with a mean that is not zero goes unchanged, in every rounding mode, through a sum or a difference with
(+0, +0), a product with (1, +0), alone or fused with (+0, +0), and a scaling by 1; MRELU returns a pair of variance +0 unchanged
or as (+0, +0), by the sign of its mean (R161 to R166). -/
def Sys2Proof.Claims.momentNeutral : Prop :=
  ∀ (s : State) (e : Env) (f : Fields) (i : Instr) (m : MomentForm), momentForm i = some m → WellFormed e.ranges i = true →
    momentReady s e m → f.tg ≠ 16 → (e.modes f.mod.toNat).fi = false → (e.modes f.mod.toNat).fo = false → e.cl.cov ≠ 3 →
    let a (l : Nat) : DWord := e.cl.moment f.a.toNat l
    let mean (l : Nat) : Word := (a l).setWidth 32
    let variance (l : Nat) : Word := ((a l) >>> 32).setWidth 32
    let active (l : Nat) : Prop := l < laneCount ∧ inMask e.mask l = true
    (∀ l, active l → finite32 (mean l) ∧ (mean l).toNat % 2 ^ 31 ≠ 0 ∧ finite32 (variance l) ∧ (variance l).msb = false) →
    let unchanged : Prop := ∃ t c, exec i s = .next t ∧ t.at? e.who = some c ∧ momentDone s t e m c
      ∧ ∀ l, active l → c.moment f.d.toNat l = a l
    ((i = .madd f ∨ i = .msub f) → (∀ l, active l → e.cl.moment f.b.toNat l = 0) → unchanged)
    ∧ (i = .mmul f → (∀ l, active l → e.cl.moment f.b.toNat l = 0x3F800000) → unchanged)
    ∧ (i = .mfma f → (∀ l, active l → e.cl.moment f.b.toNat l = 0x3F800000 ∧ e.cl.moment f.c.toNat l = 0) → unchanged)
    ∧ (i = .mscl f → (∀ l, active l → e.source s (floatSrc f 2 2 2) l = 0x3F800000) → unchanged)
    ∧ (i = .mrelu f → (∀ l, active l → variance l = 0) → ∃ t p, exec i s = .next t ∧ t.landings = s.landings ++ [p]
        ∧ p.dst = .moment f.d.toNat ∧ ∀ l, active l → p.pairs.getD l 0 = if (mean l).msb then 0 else a l)

/-- The moment instructions, MMOV, MSET and MCOLL among them (R156 to R172). -/
def Obligations.MomentInstructions : Prop :=
  Sys2Proof.Claims.momentInstructionsComplete ∧ Sys2Proof.Claims.momentMove ∧ Sys2Proof.Claims.momentWords
    ∧ Sys2Proof.Claims.momentNeutral

/-- RDCR writes the numbered register into D: each lane's own number for laneid, one value for any other (R96, R129). -/
def Sys2Proof.Claims.readControlRegister : Prop :=
  ∀ (s : State) (e : Env) (f : Fields), WellFormed e.ranges (.rdcr f) = true → mayIssue s e 0x2C f →
    (f.mod = 2 → s.flagsPending e.who = false) →
    results (.rdcr f) s e f 1 fun _ l => match f.mod.toNat with
      | 0 => e.cl.fmode
      | 1 => e.cl.mcr
      | 2 => e.ch.sticky
      | 3 => e.cl.accbase
      | 4 => e.cl.acclim
      | 5 => BitVec.ofNat 32 l
      | 6 => BitVec.ofNat 32 e.cl.id
      | 7 => BitVec.ofNat 32 e.ch.index
      | 8 => BitVec.ofNat 32 e.ch.section_
      | 9 => BitVec.ofNat 32 (64 * e.ch.die + e.ch.cores.getD e.cl.pos 0)
      | 10 => e.cl.ehbase
      | 16 => e.cl.em.empc
      | 17 => e.cl.em.emop
      | 18 => e.cl.em.emmod
      | 19 => e.cl.em.emd
      | 20 => e.cl.em.ema
      | 21 => e.cl.em.emb
      | 22 => e.cl.em.emc
      | _ => e.cl.em.emimm

/-- WRCR writes the numbered register from the lowest active lane or from IMM, and nothing else: a write of an identity or
an emulation register is ignored, a flag of sticky clears where a 1 is written unless it is set in the same cycle, the flags
arm as the highest clutchid that writes them in a cycle says, and a write that
would take accbase or acclim out of the allocation or past the other changes neither (R98 to R103, R130). -/
def Sys2Proof.Claims.writeControlRegister : Prop :=
  ∀ (s : State) (e : Env) (f : Fields), WellFormed e.ranges (.wrcr f) = true → mayIssue s e 0x2D f →
    (f.len = .w64 → ∀ l, e.selected (intSrc f 1 1 1) e.low = some l → e.poisonAt f.a.toNat l = false) →
    let w := word s e f 1 1 e.low
    let inside (lo hi : Nat) : Prop := e.accStart ≤ lo ∧ lo ≤ hi ∧ hi ≤ e.accStart + e.hdr.accRows
    ∃ t c d, exec (.wrcr f) s = .next t ∧ t.at? e.who = some c ∧ t.chorus? e.who.chorus = some d ∧ sameDevice s t
      ∧ sameElsewhere s t e.who ∧ t.landings = s.landings
      ∧ { c with pc := e.cl.pc, fmode := e.cl.fmode, mcr := e.cl.mcr, accbase := e.cl.accbase, acclim := e.cl.acclim,
                 ehbase := e.cl.ehbase } = e.cl
      ∧ c.pc = e.cl.pc + BitVec.ofNat 32 f.len.bytes
      ∧ c.fmode = (if f.mod = 0 then w &&& 0xCF else e.cl.fmode)
      ∧ c.mcr = (if f.mod = 1 then w &&& 0xFF07 else e.cl.mcr)
      ∧ (f.mod = 2 → let t := e.ch.stickyNow.at_ s.now
          d.sticky = (e.ch.sticky &&& ~~~w &&& 0x1F) ||| t.set
            ||| ((if e.who.clutch + 1 < t.armer then e.ch.sticky else w) &&& 0x1F0000))
      ∧ (f.mod ≠ 2 → d.sticky = e.ch.sticky)
      ∧ (f.mod = 3 → (inside (w.toNat % 512) e.cl.acclim.toNat → c.accbase = w &&& 0x1FF)
          ∧ (¬ inside (w.toNat % 512) e.cl.acclim.toNat → c.accbase = e.cl.accbase))
      ∧ (f.mod ≠ 3 → c.accbase = e.cl.accbase)
      ∧ (f.mod = 4 → (inside e.cl.accbase.toNat (w.toNat % 1024) → c.acclim = w &&& 0x3FF)
          ∧ (¬ inside e.cl.accbase.toNat (w.toNat % 1024) → c.acclim = e.cl.acclim))
      ∧ (f.mod ≠ 4 → c.acclim = e.cl.acclim)
      ∧ c.ehbase = (if f.mod = 10 then w &&& 0xFFFFFFE0 else e.cl.ehbase)

/-- RDCR and WRCR (R96 to R103, R129, R130). -/
def Obligations.ControlRegisters : Prop :=
  Sys2Proof.Claims.readControlRegister ∧ Sys2Proof.Claims.writeControlRegister

/-! ### Control flow -/

/-- BRA and BRX move the program counter and nothing else (R182, R183). -/
def Obligations.Branches : Prop :=
  ∀ (s : State) (e : Env) (f : Fields),
    (WellFormed e.ranges (.bra f) = true → mayControl s e 0x70 f true → (f.mod ≠ 0 → uniformClean e f.a.toNat) →
      let w := e.read s f.a.toNat 0
      let taken : Prop := f.mod.getLsbD 0 = false ∨ (f.mod.getLsbD 1 = false ∧ w ≠ 0) ∨ (f.mod.getLsbD 1 = true ∧ w = 0)
      (taken → becomes (.bra f) s e { e.cl with pc := e.cl.pc + f.imm })
      ∧ (¬ taken → becomes (.bra f) s e { e.cl with pc := e.cl.pc + 12 }))
    ∧ (mayControl s e 0x7D f true → uniformClean e f.a.toNat →
      becomes (.brx f) s e { e.cl with pc := e.read s f.a.toNat 0 })

/-- BRC divides the running path, the not-taken part first, or goes on with the taken part alone; BRC.loop opens a loop.
The token names the entry that has been pushed (R176, R177, R184). -/
def Obligations.Divergence : Prop :=
  ∀ (s : State) (e : Env) (f : Fields), e.cl.stack.length < 16 → mayControl s e 0x71 f false →
    let c := e.cl
    let index := c.stack.length
    let tok (kind : Nat) : Word := BitVec.ofNat 32 (0xA0000000 + 2 ^ 26 * kind + 2 ^ 20 * index) ||| c.seq.setWidth 32
    let named (c : Clutch) (kind : Nat) : Clutch := c.put e.hdr.uniform e.mask f.d.toNat 0 fun _ => tok kind
    (WellFormed e.ranges (.brc f) = true → predicateClean e f.a.toNat →
      let t := trueLanes s e f.a.toNat
      let n := c.path &&& ~~~t
      let x : Entry := { kind := .branch, aw := c.path, ppc := c.pc + f.imm, pm := t, seq := c.seq }
      (n ≠ 0 → becomes (.brc f) s e (named { c with
        stack := c.stack ++ [x], seq := c.seq + 1, path := n, mask := c.mask &&& ~~~t, pc := c.pc + 12 } 0))
      ∧ (n = 0 → becomes (.brc f) s e (named { c with
        stack := c.stack ++ [{ x with pm := 0 }], seq := c.seq + 1, path := t, mask := t, pc := c.pc + f.imm } 0)))
    ∧ (WellFormed e.ranges (.brcLoop f) = true → becomes (.brcLoop f) s e (named { c with
        stack := c.stack ++ [{ kind := .loop, aw := c.path, rpc := some (c.pc + f.imm), ppc := c.pc + 12, seq := c.seq }],
        seq := c.seq + 1, pc := c.pc + 12 } 1))

/-- Resolve chooses the next path of a clutch whose path is empty: the saved path under a handler entry, the pending lanes
of a branch, the lanes that have all arrived, the lanes that wait for the next turn of a loop; with an empty stack the
clutch ends, and where no lane can complete the top entry it is stuck (R179). -/
def Obligations.ResolveChoosesThePath : Prop :=
  ∀ (c : Clutch) (below : List Entry) (x : Entry),
    (c.path ≠ 0 → resolve c = .running c)
    ∧ (c.path = 0 → c.stack = [] → resolve c = .ended c)
    ∧ (c.path = 0 → c.stack = below ++ [x] →
      (x.kind = .handler →
        resolve c = resolve { c with stack := below, path := x.pm, pc := x.rpc.getD c.pc, mask := x.ar })
      ∧ (x.kind = .branch → x.pm ≠ 0 →
        resolve c = .running { c with stack := below ++ [{ x with pm := 0 }], path := x.pm, pc := x.ppc, mask := x.pm })
      ∧ (x.kind ≠ .handler → ¬ (x.kind = .branch ∧ x.pm ≠ 0) → x.aw &&& ~~~x.ar = 0 →
        resolve c = resolve { c with stack := below, path := x.ar, pc := x.rpc.getD c.pc, mask := x.ar })
      ∧ (x.kind = .loop → x.aw &&& ~~~x.ar ≠ 0 → x.ct ≠ 0 →
        resolve c = .running { c with stack := below ++ [{ x with ct := 0 }], path := x.ct, pc := x.ppc, mask := x.ct })
      ∧ (x.kind ≠ .handler → ¬ (x.kind = .branch ∧ x.pm ≠ 0) → x.aw &&& ~~~x.ar ≠ 0 → ¬ (x.kind = .loop ∧ x.ct ≠ 0) →
        resolve c = .stuck c))

/-- JOIN parks its path at the top BRANCH entry, and BRK and CONT take lanes out of the running path, with a valid token;
then Resolve runs (R177, R185, R186). -/
def Obligations.Rejoin : Prop :=
  ∀ (s : State) (e : Env) (f : Fields) (i : Nat),
    let c := e.cl
    let t := e.read s f.a.toNat 0
    let m : Mask := if f.mod = 1 then c.path else trueLanes s e f.b.toNat
    uniformClean e f.a.toNat →
    (∀ x, mayControl s e 0x72 f true → c.tokenIndex t .branch = some i → i + 1 = c.stack.length → c.stack[i]? = some x →
      resolvesFrom (.join f) s e { c with
        stack := c.stack.take i ++ [{ x with rpc := some (x.rpc.getD (c.pc + 8)), ar := x.ar ||| c.path }], path := 0 })
    ∧ ((f.mod = 0 → predicateClean e f.b.toNat) → c.tokenIndex t .loop = some i →
      (WellFormed e.ranges (.brk f) = true → mayControl s e 0x73 f (f.mod = 1) → resolvesFrom (.brk f) s e { c with
        stack := editStack c i m fun x => { x with ar := x.ar ||| m }, path := c.path &&& ~~~m, mask := c.mask &&& ~~~m,
        pc := c.pc + 8 })
      ∧ (WellFormed e.ranges (.cont f) = true → mayControl s e 0x74 f (f.mod = 1) → resolvesFrom (.cont f) s e { c with
        stack := editStack c i m fun x => { x with ct := x.ct ||| m }, path := c.path &&& ~~~m, mask := c.mask &&& ~~~m,
        pc := c.pc + 8 }))

/-- CALL pushes the return address, and RET sends its path to the nearest CALL entry (R187). -/
def Sys2Proof.Claims.callAndReturn : Prop :=
  ∀ (s : State) (e : Env) (f : Fields),
    let c := e.cl
    (mayControl s e 0x75 f true → c.stack.length < 16 → becomes (.call f) s e { c with
      stack := c.stack ++ [{ kind := .call, aw := c.path, rpc := some (c.pc + 12), seq := c.seq }], seq := c.seq + 1,
      pc := c.pc + f.imm })
    ∧ (∀ (below above : List Entry) (x : Entry), mayControl s e 0x76 f true → c.stack = below ++ x :: above →
      x.kind = .call → (∀ y ∈ above, y.kind ≠ .call ∧ y.kind ≠ .handler) →
      resolvesFrom (.ret f) s e { c with
        stack := below ++ { x with ar := x.ar ||| c.path } :: above.map (fun y => { y with aw := y.aw &&& ~~~c.path }),
        path := 0 })

/-- EXIT and KILL delete lanes from the path, the mask and every entry of the stack; then Resolve runs (R179, R188, R189). -/
def Sys2Proof.Claims.exitAndKill : Prop :=
  ∀ (s : State) (e : Env) (f : Fields),
    let c := e.cl
    let without (m : Mask) : Clutch := { c with
      path := c.path &&& ~~~m, mask := c.mask &&& ~~~m, exited := c.exited ||| m, pc := c.pc + 8,
      stack := c.stack.map fun x => { x with
          aw := x.aw &&& ~~~m, ar := x.ar &&& ~~~m, pm := x.pm &&& ~~~m, ct := x.ct &&& ~~~m } }
    (WellFormed e.ranges (.exit f) = true → mayControl s e 0x77 f (f.mod = 0) →
      (f.mod = 0 → resolvesFrom (.exit f) s e (without (if e.mask = 0 then c.path else c.mask)))
      ∧ (f.mod ≠ 0 → predicateClean e f.a.toNat → resolvesFrom (.exit f) s e (without (trueLanes s e f.a.toNat))))
    ∧ (mayControl s e 0x78 f false → (∀ j, j < 3 → e.poisonAt (f.a.toNat + j) 0 = false) →
      let named : Mask := (e.read s (f.a.toNat + 2) 0 ++ e.read s (f.a.toNat + 1) 0 ++ e.read s f.a.toNat 0 : BitVec 96)
      resolvesFrom (.kill f) s e (without (named &&& c.handlerLanes)))

/-- CALL, RET, EXIT and KILL (R187 to R190). -/
def Obligations.CallsAndEndings : Prop :=
  Sys2Proof.Claims.callAndReturn ∧ Sys2Proof.Claims.exitAndKill

/-- YIELD changes nothing but the program counter; BKPT stops the core with BREAK under DBGCTL.BKEN and is a NOP without it;
RDCLK writes the die's cycle count (R191, R193, R194). -/
def Obligations.YieldBreakAndClock : Prop :=
  ∀ (s : State) (e : Env) (f : Fields),
    (mayControl s e 0x79 f false → exec (.yield f) s = .next (s.modClutch e.who fun c => { c with pc := c.pc + 8 }))
    ∧ (mayControl s e 0x7C f false → (s.core e.core).bken = false →
      exec (.bkpt f) s = .next (s.modClutch e.who fun c => { c with pc := c.pc + 8 }))
    ∧ (mayControl s e 0x7C f false → (s.core e.core).bken = true →
      ∃ t, exec (.bkpt f) s = .next t ∧ t.choruses = s.choruses
        ∧ ((s.core e.core).stopped = false →
          (t.core e.core).stopped = true ∧ (t.core e.core).code = 2 ∧ (t.core e.core).slot = 6 * e.cl.sub + e.cl.resPos))
    ∧ (mayControl s e 0x83 f false → f.d.toNat % 2 = 0 → f.d.toNat < 252 →
      ∃ t c, exec (.rdclk f) s = .next t ∧ t.at? e.who = some c ∧ c.pc = e.cl.pc + 8 ∧ sameDevice s t
        ∧ wrote e.hdr.uniform e.mask f.d.toNat 2 (fun k _ => half (s.die e.ch.die).cycle k) e.cl c
        ∧ tagged f.d.toNat 2 (fun _ => 0) e.cl c)

/-! ### The emulation handler -/

/-- The emulation registers take the trapping word apart (R76). -/
def Sys2Proof.Claims.emulationRegisters : Prop :=
  ∀ (pc : Word) (cause code op : Nat) (f : Fields) (pair second : Bool) (imm : Word),
    cause < 8 → code < 4 → op < 256 →
    let r := emulationRegs pc cause code op f pair second imm
    r.empc = pc ∧ r.emop = (f.f ++ f.e ++ BitVec.ofNat 4 cause ++ BitVec.ofBool second ++ BitVec.ofBool pair
        ++ BitVec.ofNat 2 code ++ BitVec.ofNat 8 op : BitVec 32)
      ∧ r.emmod = (f.hn ++ f.sp ++ f.fx ++ f.top ++ f.tg ++ f.nb ++ f.na ++ f.fe ++ f.mod : BitVec 32)
      ∧ r.emd = f.d.setWidth 32 ∧ r.ema = f.a.setWidth 32 ∧ r.emb = f.b.setWidth 32 ∧ r.emc = f.c.setWidth 32
      ∧ r.emimm = imm

/-- A clutch outside the handler that meets a reserved encoding or executes TRAP, with a handler set and room in the
stack, writes the emulation registers, pushes a HANDLER entry and goes on at ehbase with its active lanes (R75, R76,
R192, R195). -/
def Sys2Proof.Claims.trapEntry : Prop :=
  ∀ (s : State) (e : Env) (cause bytes : Nat) (op : BitVec 8) (f : Fields) (pair second : Bool),
    runs s e → e.mask ≠ 0 → e.cl.inHandler = false → e.cl.ehbase ≠ 0 → e.cl.stack.length < 16 →
    let c := e.cl
    let x (bytes : Nat) : Entry := {
      kind := .handler, aw := c.mask, ar := c.mask, rpc := some (c.pc + BitVec.ofNat 32 bytes), ppc := c.pc,
      pm := c.path, seq := c.seq }
    let entered (bytes : Nat) (em : EmRegs) : Clutch := { c with
      stack := c.stack ++ [x bytes],
      seq := c.seq + 1, path := c.mask, mask := c.mask, pc := c.ehbase, em }
    exec (.reservedEncoding cause bytes op f pair second) s
        = .next (s.modClutch e.who fun _ => entered bytes (emulationRegs c.pc cause (lenCode f.len pair) op.toNat f pair second f.imm))
      ∧ exec (.trap f) s
        = .next (s.modClutch e.who fun _ => entered 12 (emulationRegs c.pc 7 (lenCode f.len false) 0x7A f false false f.imm))

/-- Without a handler a reserved encoding ends the launch with ILLEGAL, without room in the stack with RSTACK, and inside the
handler with DOUBLE (R75, R195, R198). That INNER is 0 for an emulation entry inside the handler is the model's choice
(log 22). -/
def Sys2Proof.Claims.trapWithoutEntry : Prop :=
  ∀ (s : State) (e : Env) (cause bytes : Nat) (op : BitVec 8) (f : Fields) (pair second : Bool), runs s e → e.mask ≠ 0 →
    let out := exec (.reservedEncoding cause bytes op f pair second) s
    (e.cl.inHandler = true → out = .next (s.endWith e (e.report 0x22 0 e.mask)))
    ∧ (e.cl.inHandler = false → e.cl.ehbase = 0 → out = .next (s.endWith e (e.report 0x21 0 e.mask)))
    ∧ (e.cl.inHandler = false → e.cl.ehbase ≠ 0 → 16 ≤ e.cl.stack.length →
        out = .next (s.endWith e (e.report 0x25 0 e.mask)))

/-- The emulation trap: the registers it writes, its entry, and where it cannot enter (R75, R76, R192, R195, R198). Model
choices in it: log 22. -/
def Obligations.TrapEntry : Prop :=
  Sys2Proof.Claims.emulationRegisters ∧ Sys2Proof.Claims.trapEntry ∧ Sys2Proof.Claims.trapWithoutEntry

/-- EMRET at a top HANDLER entry whose lanes have all rejoined returns to the saved path and mask without the exited lanes,
at the trapping word or after it; otherwise it raises TOKEN, and the launch ends with DOUBLE and TOKEN as INNER (R197, R198). -/
def Obligations.EmulationReturn : Prop :=
  ∀ (s : State) (e : Env) (f : Fields), mayControl s e 0x7B f true →
    let c := e.cl
    (∀ (below : List Entry) (x : Entry), c.stack = below ++ [x] → x.kind = .handler → c.path = x.aw →
      let d : Clutch := { c with
        stack := below, path := x.pm &&& ~~~c.exited, mask := x.ar &&& ~~~c.exited,
        pc := if f.mod.getLsbD 0 then x.ppc else x.rpc.getD c.pc }
      (x.pm &&& ~~~c.exited ≠ 0 → exec (.emret f) s = .next (s.modClutch e.who fun _ => d))
      ∧ (∀ r, resolve d = .running r → exec (.emret f) s = .next (s.modClutch e.who fun _ => r))
      ∧ (∀ r, resolve d = .ended r → exec (.emret f) s = .next (s.endClutch e r)))
    ∧ (c.stack = [] → exec (.emret f) s = .next (s.endWith e (e.report 0x22 0x24 c.mask)))
    ∧ (∀ (below : List Entry) (x : Entry), c.stack = below ++ [x] → ¬ (x.kind = .handler ∧ c.path = x.aw) →
      exec (.emret f) s = .next (s.endWith e (e.report 0x22 0x24 c.mask)))

/-- Inside the handler a fault ends the launch with DOUBLE, its own code in INNER; outside it, with its own code (R198,
R204, R206): the clutch issues no more, and the first report stays, which of one die's reports of one cycle is the one with
the smallest coreid and SLOT. -/
def Obligations.LaunchFatalFault : Prop :=
  ∀ (s : State) (e : Env) (code : Code) (mask : Mask), s.env? e.who = some e →
    ∃ t l c, fatal s e code mask = .next t ∧ t.launch? e.l.uid = some l ∧ t.at? e.who = some c
      ∧ c = { e.cl with faulted := true } ∧ t.mem = s.mem
      ∧ (e.l.report = none → e.l.ending = none → l.ending = some .faulted
        ∧ l.report = some (if e.cl.inHandler then e.report 0x22 code.num mask else e.report code.num 0 mask))
      ∧ (∀ r, e.l.report = some r → l.more = min (e.l.more + 1) 0xFFFFFFFF ∧
        let q := if e.cl.inHandler then e.report 0x22 code.num mask else e.report code.num 0 mask
        l.report = some (if e.l.reportAt = (q.coreid / 64, s.now + 1)
          ∧ (q.coreid < r.coreid ∨ (q.coreid = r.coreid ∧ q.slot < r.slot)) then q else r))

/-- With an all-zero mask a clutch passes over every word, and only its program counter changes; the path-level control
words do so where the path is empty too (R15, R181). -/
def Sys2Proof.Claims.zeroMaskPassesOver : Prop :=
  ∀ (s : State) (e : Env) (i : Instr) (op : Nat) (f : Fields), opOf i = some (op, f) → WellFormed e.ranges i = true →
    runs s e → e.mask = 0 → (op < 0xA8 ∨ 0xB0 ≤ op) → (op ∈ [0x70, 0x72, 0x75, 0x76, 0x7B, 0x7D] ∨ (op ∈ [0x73, 0x74] ∧ f.mod = 1) ∨ (op = 0x77 ∧ f.mod = 0) → e.cl.path = 0) →
    exec i s = .next (s.modClutch e.who fun c => { c with pc := c.pc + BitVec.ofNat 32 f.len.bytes })

/-- An empty source whose FE bit is set stops the core with EMPTY and the clutch stays where it is; an empty source without
it, and an empty destination, make the clutch wait (R61, R92). -/
def Sys2Proof.Claims.emptySources : Prop :=
  ∀ (s : State) (e : Env) (i : Instr) (op : Nat) (f : Fields) (mk : State → Env → Alu),
    registerForm i = some (op, f, mk) → runs s e → e.mask ≠ 0 → s.heldBack e op = false →
    ((∃ x ∈ readsOf op f, e.cl.isEmpty x = true ∧ x.fe = true) →
      ∃ t, exec i s = .next t ∧ t.choruses = s.choruses
        ∧ ((s.core e.core).stopped = false → (t.core e.core).stopped = true ∧ (t.core e.core).code = 3))
    ∧ ((∀ x ∈ readsOf op f, e.cl.isEmpty x = true → x.fe = false) →
        (∃ x ∈ readsOf op f ++ writesOf op f, e.cl.isEmpty x = true) → exec i s = .next s)

/-- A source that fails its tag check ends the launch with FORMAT, and the instruction has no effect in any lane
(R32, R131). -/
def Sys2Proof.Claims.formatFault : Prop :=
  ∀ (s : State) (e : Env) (i : Instr) (op : Nat) (f : Fields) (mk : State → Env → Alu),
    registerForm i = some (op, f, mk) → mayIssue s e op f → (mk s e).fails e = true →
    exec i s = fatal s e .format e.mask

/-- What a word meets before it issues: an all-zero mask, an empty source, a failed tag check (R15, R32, R61, R92, R131,
R181). Model choices in it: log 60. -/
def Obligations.ChecksBeforeIssue : Prop :=
  Sys2Proof.Claims.zeroMaskPassesOver ∧ Sys2Proof.Claims.emptySources ∧ Sys2Proof.Claims.formatFault

/-- What a register operation does to the registers of its clutch, from `c` to `d`: its results and their tags enter its
destination in the active lanes at once, or its destination is empty until its landing brings them (R89 to R91, R93). -/
def operated (e : Env) (a : Alu) (ws : List Lanes) (c d : Clutch) : Prop :=
  (a.long = false →
    wrote e.hdr.uniform e.mask a.dst ws.length (fun k l => lane (ws.getD k []) l) c d
    ∧ tagged a.dst ws.length (fun k => a.tags.getD k 0) c d
    ∧ (a.dst + ws.length ≤ 253 → d.mask = c.mask)
    ∧ (∀ j, j < 3 → a.dst = 253 + j → ws.length = 1 →
        d.mask = setMaskWord c.mask j (lane (ws.getD 0 []) (lowest e.mask)) &&& e.cl.path &&& ~~~e.cl.exited)
    ∧ d.empty = c.empty)
  ∧ (a.long = true → d.mask = c.mask ∧ (∀ n reg l, d.word n reg l = c.word n reg l) ∧ d.tags = c.tags
    ∧ ∀ reg, reg ∈ d.empty ↔ reg ∈ c.empty ∨ (a.dst ≤ reg ∧ reg < a.dst + a.n))

/-- The landing of a long-latency operation, which brings its results and flags. -/
def promisedBy (e : Env) (id : Nat) (a : Alu) (r : List Lanes × Word) : List Landing :=
  if a.long then
    [{ id, who := e.who, dst := .ordinary a.dst a.n, mask := e.mask, words := r.1, tag := BitVec.ofNat 5 (a.tags.getD 0 0),
       flags := r.2, canFlag := true }]
  else []

/-- A pair word runs its two operations under one mask: both make their checks before either has an effect, both compute from
the state before the word, the first operation's results enter the registers and then the second's, the flags of both
combine, and the clutch moves past 16 bytes (R68 to R70). -/
def Obligations.PairWords : Prop :=
  ∀ (s : State) (e : Env) (x y : PairOp), WellFormed e.ranges (.pairWord x y) = true → runs s e → e.mask ≠ 0 →
    e.cl.ready (readsOf x.op.toNat x.f ++ readsOf y.op.toNat y.f) (writesOf x.op.toNat x.f ++ writesOf y.op.toNat y.f) = .go →
    let a := pairAlu x s e
    let b := pairAlu y s e
    ((a.fails e || b.fails e) = true → exec (.pairWord x y) s = fatal s e .format e.mask)
    ∧ ((a.fails e || b.fails e) = false → (a.poisoned e || b.poisoned e) = false →
      let p := a.result s e
      let q := b.result s e
      let next := if a.long then s.fresh + 1 else s.fresh
      ∃ t c d, exec (.pairWord x y) s = .next t ∧ t.at? e.who = some c ∧ c.pc = e.cl.pc + 16 ∧ sameDevice s t
        ∧ sameElsewhere s t e.who ∧ sameControl e.cl c ∧ operated e a p.1 e.cl d ∧ operated e b q.1 d c
        ∧ c.mregs = e.cl.mregs ∧ c.mtags = e.cl.mtags ∧ c.mempty = e.cl.mempty ∧ c.mpoison = e.cl.mpoison
        ∧ flagged s t e.who.chorus ((if a.long then 0 else p.2) ||| (if b.long then 0 else q.2))
        ∧ t.landings = s.landings ++ promisedBy e s.fresh a p ++ promisedBy e next b q)

/-! ### Memory -/

/-- A load, gather, MLD, atomic or compare-and-swap whose sources, addresses and order pass their checks issues: its
destination is empty until it lands, its access is on its way to the places of the active lanes, the clutch goes on, and
no byte of memory and no register word has changed (R91, R171, R235 to R237, R241 to R243, R247). Model choices in it:
log 17. -/
def Obligations.LoadsAndAtomicsIssue : Prop :=
  ∀ (s : State) (e : Env) (i : Instr) (m : MemoryForm), memoryForm i = some m → WellFormed e.ranges i = true →
    mayIssue s e m.op m.f → sourcesPass e m.srcs → (m.release = true → s.drained e = true) →
    let elems := e.elems s m.f m.space m.bytes m.gather
    (m.aligned = true → ∀ x ∈ elems, x.addr % x.bytes = 0) → reachable s e m.space m.write elems →
    inOrder s e m.space (placesOf s e m.space elems) false →
    ∃ t c p a, exec i s = .next t ∧ t.at? e.who = some c ∧ c.pc = e.cl.pc + 16 ∧ t.mem = s.mem ∧ t.written = s.written
      ∧ t.poisoned = s.poisoned ∧ sameElsewhere s t e.who ∧ sameControl e.cl c
      ∧ (∀ n reg l, c.word n reg l = e.cl.word n reg l) ∧ (∀ reg l, c.moment reg l = e.cl.moment reg l)
      ∧ t.landings = s.landings ++ [p] ∧ p.who = e.who ∧ p.dst = m.dst ∧ p.mask = e.mask ∧ p.tag = m.tag
      ∧ p.access = some a ∧ a.op = m.access s e ∧ a.space = spaceOf m.space ∧ a.places = placesOf s e m.space elems
      ∧ a.acquire = (if m.f.ord % 2 = 1 then some m.f.scope else none)
      ∧ match m.dst with
        | .ordinary first n => ∀ k, k < n → first + k ∈ c.empty
        | .moment reg => reg ∈ c.mempty

/-- A store, scatter or MST whose sources, addresses and order pass their checks completes. A scratchpad store changes the
stored bytes of the chorus's scratchpads and no other. A global store changes no byte of memory yet: its bytes enter the
open windows of their homes, in sectors (R236, R238, R241, R338). Model choices in it: log 72. -/
def Obligations.StoresComplete : Prop :=
  ∀ (s : State) (e : Env) (i : Instr) (m : StoreForm), storeForms i = some m → WellFormed e.ranges i = true →
    mayIssue s e m.op m.f → sourcesPass e m.srcs → (m.f.ord = 2 → s.drained e = true) → e.cl.progress = .none →
    (m.op = 0x6B → e.cl.momentTag m.f.b.toNat = momentTag m.f ∧ e.momentPoison m.f.b.toNat = false) →
    let elems := e.elems s m.f m.space m.bytes m.gather
    let places := placesOf s e m.space elems
    reachable s e m.space true elems → inOrder s e m.space places true → (∀ x ∈ places, x.2.Nodup) →
    ∃ t c, exec i s = .next t ∧ t.at? e.who = some c ∧ movedOn e.cl c 16 ∧ t.mem = s.mem ∧ t.landings = s.landings
      ∧ (m.space ≠ 0 → ∃ d, t.chorus? e.who.chorus = some d
          ∧ leaves places (m.value s e) (e.ch.scratch.get 0) (d.scratch.get 0))
      ∧ (m.space = 0 → sameElsewhere s t e.who ∧ ∃ bytes : Store Byte,
          (∀ k, (∃ b, (k, b) ∈ bytes) ↔ ∃ x ∈ places, k ∈ x.2)
          ∧ leaves places (m.value s e) (fun _ => 0) (Store.get 0 bytes)
          ∧ ∀ d, (t.die d).windows = (s.die d).windows ++
              ((bySector bytes).filter fun g => g ≠ [] && homeOf (g.headD (0, 0)).1 = d).map fun g =>
                { rank := 0, order := 64 * e.ch.die + e.ch.cores.getD e.cl.pos 0, who := some e.who, launch := some e.l.uid,
                  seq := s.fresh, window := (s.die d).cycle.toNat / 16, bytes := g })

/-- Checks of R235 in their order: an atomic whose address is not a multiple of its size ends the launch with ALIGN in
those lanes, and a scratchpad access outside the allocation with BOUNDS in those lanes. Model choices in it: log 26. -/
def Obligations.AddressFaults : Prop :=
  ∀ (s : State) (e : Env) (i : Instr) (m : MemoryForm), memoryForm i = some m → WellFormed e.ranges i = true →
    mayIssue s e m.op m.f → sourcesPass e m.srcs → (m.release = true → s.drained e = true) →
    let elems := e.elems s m.f m.space m.bytes m.gather
    let offAlign := maskOf fun l => elems.any fun x => x.lane = l && x.addr % x.bytes ≠ 0
    let offBounds := maskOf fun l => elems.any fun x => x.lane = l && (e.localKey m.space x.addr x.bytes).isNone
    (m.aligned = true → offAlign ≠ 0 → exec i s = fatal s e .align offAlign)
    ∧ ((m.aligned = true → offAlign = 0) → m.space ≠ 0 → offBounds ≠ 0 → exec i s = fatal s e .bounds offBounds)

/-- A landing: a producer without an access fills its destination, register by register in its lanes, with its tag and its
flags, and lands no more (R91 to R93, R132). -/
def Obligations.LandingFillsTheDestination : Prop :=
  ∀ (s : State) (p : Landing) (e : Env), landsNow s p e → p.access = none → p.mask ≠ 0 →
    ∃ t c, exec (.longLatencyLanding p.id) s = .next t ∧ t.at? p.who = some c ∧ t.mem = s.mem
      ∧ t.landings = s.landings.filter (fun q => q.id ≠ p.id) ∧ c.pc = e.cl.pc ∧ flagged s t p.who.chorus p.flags
      ∧ match p.dst with
        | .ordinary first k => p.words.length = k →
            wrote e.hdr.uniform p.mask first k (fun j l => lane (p.words.getD j []) l) e.cl c
            ∧ tagged first k (fun _ => p.tag.toNat) e.cl c ∧ (∀ r, r ∈ c.empty ↔ r ∈ e.cl.empty ∧ ¬ (first ≤ r ∧ r < first + k))
        | .moment reg => (∀ l, l < laneCount → inMask p.mask l = true → c.moment reg l = laneM p.pairs l)
            ∧ c.momentTag reg = p.tag.toNat

/-- A load reads its bytes when it lands, little-endian, extended by its size code (R231, R236): a scratchpad load of the
chorus's scratchpads, a global load of memory where the core's L1 holds no copy. Memory is as before. Model choices in
it: log 17. -/
def Obligations.LoadsReadAtLanding : Prop :=
  ∀ (s : State) (p : Landing) (e : Env) (a : Access) (sz first : Nat), landsNow s p e → p.access = some a → a.op = .load sz →
    p.dst = .ordinary first (szRegs sz) → p.words = [] → first + szRegs sz ≤ 253 → e.cl.pos < e.ch.cores.length →
    (a.places.map (·.1)).Nodup → (∀ x ∈ a.places, x.1 < laneCount) → (∀ l, l < laneCount → (inMask p.mask l = true ↔ l ∈ a.places.map (·.1))) → p.mask ≠ 0 →
    (a.space = .scratch ∧ e.ch.scratchPoison = []) ∨ (a.space = .global ∧ s.poisoned = [] ∧ (s.core e.core).l1 = [] ∧ a.alloc = false
      ∧ ∀ d, (s.die d).contention = []) →
    ∃ t c, exec (.longLatencyLanding p.id) s = .next t ∧ t.at? p.who = some c ∧ t.mem = s.mem
      ∧ ∀ x ∈ a.places, ∀ j, j < szRegs sz → isUniform e.hdr.uniform (first + j) = false →
          let bytes := x.2.map fun k => if a.space = .global then Memory.read s.mem k else e.ch.scratch.get 0 k
          c.word e.hdr.uniform (first + j) x.1 = BitVec.ofNat 32 ((loadWords sz (numberOf bytes)).getD j 0)

/-- An atomic reads, computes and writes its word when it lands, and returns the old value (R242, R243): of one lane and one
aligned word in memory, the stored bytes are those of the new value, and every other byte of memory is as before. A CAS
that does not find its compared value stores nothing. -/
def Sys2Proof.Claims.atomicsActAtLanding : Prop :=
  ∀ (s : State) (p : Landing) (e : Env) (a : Access) (l first n : Nat) (pas : List Nat), landsNow s p e →
    p.access = some a → a.space = .global → a.places = [(l, pas)] → pas.Nodup → pas.length = 4 * n → l < laneCount →
    p.mask = BitVec.ofNat 96 (2 ^ l) → p.words = [] → p.dst = .ordinary first n → first + n ≤ 253 →
    (∀ j, j < n → isUniform e.hdr.uniform (first + j) = false) → s.poisoned = [] → (∀ d, (s.die d).contention = []) →
    let old := numberOf (pas.map (Memory.read s.mem))
    ∀ new : Option Nat,
      ((∃ aop ty operands, a.op = .rmw aop ty operands ∧ n = (if ty < 2 then 1 else 2)
          ∧ new = some (atomicOp aop ty old (operands.getD l 0)).1)
        ∨ ∃ now cmp, a.op = .cas (4 * n) now cmp ∧ new = if old = cmp.getD l 0 then some (now.getD l 0) else none) →
      (n = 1 ∨ n = 2) →
      ∃ t c, exec (.longLatencyLanding p.id) s = .next t ∧ t.at? p.who = some c
        ∧ (∀ j, j < n → c.word e.hdr.uniform (first + j) l = BitVec.ofNat 32 (old / 2 ^ (32 * j)))
        ∧ (∀ q, q ∉ pas → Memory.read t.mem q = Memory.read s.mem q)
        ∧ ∀ i q, pas[i]? = some q → Memory.read t.mem q = match new with
            | some v => BitVec.ofNat 8 (v / 2 ^ (8 * i))
            | none => Memory.read s.mem q

/-- The arithmetic of the atomics on 32-bit words (R242). -/
def Sys2Proof.Claims.atomicOperations : Prop :=
  ∀ x y : Word, let r (aop ty : Nat) : Word := BitVec.ofNat 32 (atomicOp aop ty x.toNat y.toNat).1
    r 0 0 = x + y ∧ r 0 1 = x + y
      ∧ r 1 0 = (if y.toInt < x.toInt then y else x) ∧ r 1 1 = (if y < x then y else x)
      ∧ r 2 0 = (if x.toInt < y.toInt then y else x) ∧ r 2 1 = (if x < y then y else x)
      ∧ (∀ ty, ty < 2 → r 3 ty = x &&& y ∧ r 4 ty = x ||| y ∧ r 5 ty = x ^^^ y ∧ r 6 ty = y)

/-- Atomics and compare-and-swaps of one lane in global memory at their landing, and the arithmetic of 32-bit atomics (R242,
R243). Model choices in it: log 17. -/
def Obligations.AtomicsActAtLanding : Prop :=
  Sys2Proof.Claims.atomicsActAtLanding ∧ Sys2Proof.Claims.atomicOperations

/-- The latest window of a die whose last cycle has passed closes at a slice, once: where every gathered write of the slice
has reached it, no port's earlier write waits elsewhere and no lease stands in its way, memory changes at the bytes of those
writes alone; a single write leaves its own bytes, and of two the one that comes later in the order of R338 does (R338).
Model choices in it: log 72. -/
def Obligations.WindowsCloseIntoMemory : Prop :=
  ∀ (s : State) (die slice : Nat) (late : List Nat),
    let window := (s.die die).cycle.toNat / 16
    (window ≤ (s.die die).closed.get 0 slice → exec (.arbitrationWindowClose die slice late) s = .next s)
    ∧ ((s.die die).closed.get 0 slice < window → (∀ d, (s.die d).contention = []) →
      let mine := (s.die die).windows.filter fun w => w.slice = slice
      (∀ w ∈ mine, w.window < window ∧ s.portHeld die slice w = false) →
      ∃ t, exec (.arbitrationWindowClose die slice []) s = .next t
        ∧ (t.die die).windows = (s.die die).windows.filter (fun w => w.slice ≠ slice)
        ∧ (t.die die).closed.get 0 slice = window
        ∧ (∀ q, (∀ w ∈ mine, ∀ b, (q, b) ∉ w.bytes) → Memory.read t.mem q = Memory.read s.mem q)
        ∧ (∀ w, mine = [w] → (w.bytes.map (·.1)).Nodup → ∀ q b, (q, b) ∈ w.bytes → Memory.read t.mem q = b)
        ∧ ∀ w x, mine = [w, x] ∨ mine = [x, w] → w.rank < x.rank ∨ (w.rank = x.rank ∧ w.order < x.order) →
          (x.bytes.map (·.1)).Nodup → ∀ q b, (q, b) ∈ x.bytes → Memory.read t.mem q = b)

/-- An LDACC that no operation has met lands with the bits of its cells: one word or two in its lanes, or the mean and the
variance of a moment register (R244, R245). -/
def Sys2Proof.Claims.accumulatorLandings : Prop :=
  ∀ (s : State) (p : Landing) (e : Env) (a : Access) (kind : Nat), landsNow s p e → p.access = some a → a.op = .acc kind [] →
    a.space = .cells → p.words = [] → p.mask ≠ 0 → e.ch.accPoison = [] → (a.places.map (·.1)).Nodup →
    (∀ x ∈ a.places, x.1 < laneCount ∧ x.2.length = if kind = 0 then 1 else 2) →
    (∀ l, l < laneCount → (inMask p.mask l = true ↔ l ∈ a.places.map (·.1))) →
    let cell (x : Nat × List Nat) (j : Nat) : Word := e.ch.acc.get 0 (x.2.getD j 0)
    (∀ first n, n = (if kind = 2 then 2 else 1) → kind = 0 ∨ kind = 2 → p.dst = .ordinary first n → first + n ≤ 253 →
      ∃ t c, exec (.longLatencyLanding p.id) s = .next t ∧ t.at? p.who = some c ∧ t.mem = s.mem
        ∧ ∀ x ∈ a.places, ∀ j, j < n → isUniform e.hdr.uniform (first + j) = false →
            c.word e.hdr.uniform (first + j) x.1 = cell x j)
    ∧ (∀ reg, kind = 1 → p.dst = .moment reg → ∃ t c, exec (.longLatencyLanding p.id) s = .next t ∧ t.at? p.who = some c
        ∧ t.mem = s.mem ∧ ∀ x ∈ a.places, c.moment reg x.1 = cell x 1 ++ cell x 0)

/-- LDACC promises and STACC stores the cells of the rows that its address names in the window of its clutch, where no matrix
operation of the same rows is running; STACC leaves every other cell, and both leave memory (R244, R245). Model choices
in it: log 17, log 25. -/
def Sys2Proof.Claims.accumulatorWords : Prop :=
  ∀ (s : State) (e : Env) (f : Fields),
    let kind := f.mod.toNat / 16
    let r := e.accRow s f
    let places := e.accPlaces f kind r
    sourcesPass e [{ reg := f.a.toNat }] → e.accRowOk kind r = true → e.accStart ≤ e.cl.accbase.toNat →
    s.accessPending e.who .cells (places.flatMap (·.2)) = false →
    (∀ j ∈ e.ch.jobsAt e.cl.pos, ∀ row, j.meets e.cl.sub row = false) →
    (WellFormed e.ranges (.ldacc f) = true → mayIssue s e 0x92 f →
      ∃ t p a, exec (.ldacc f) s = .next t ∧ t.mem = s.mem ∧ t.landings = s.landings ++ [p] ∧ p.who = e.who
        ∧ p.access = some a ∧ a.op = .acc kind [] ∧ a.places = places
        ∧ p.dst = (if kind = 1 then .moment f.d.toNat else .ordinary f.d.toNat (if kind = 2 then 2 else 1)))
    ∧ (WellFormed e.ranges (.stacc f) = true → mayIssue s e 0x93 f →
      (kind ≠ 1 → sourcesPass e [{ reg := f.b.toNat, width := if kind = 2 then 2 else 1, tag := moveCheck f }]) →
      (kind = 1 → (f.tg ≠ 0 → e.cl.momentTag f.b.toNat = 15) ∧ e.momentPoison f.b.toNat = false) →
      let value (l : Nat) : Nat := if kind = 1 then (e.cl.moment f.b.toNat l).toNat
        else e.wideValue s f.b.toNat (if kind = 2 then 2 else 1) l
      ∃ t c d, exec (.stacc f) s = .next t ∧ t.mem = s.mem ∧ t.at? e.who = some c ∧ movedOn e.cl c 16
        ∧ t.chorus? e.who.chorus = some d
        ∧ (∀ k, (∀ x ∈ places, k ∉ x.2) → d.acc.get 0 k = e.ch.acc.get 0 k)
        ∧ ∀ x ∈ places, ∀ i k, x.2[i]? = some k → d.acc.get 0 k = BitVec.ofNat 32 (value x.1 / 2 ^ (32 * i)))

/-- LDACC and STACC, and the landing of an LDACC (R244, R245). Model choices in it: log 17, log 25. -/
def Obligations.AccumulatorCopies : Prop := Sys2Proof.Claims.accumulatorWords ∧ Sys2Proof.Claims.accumulatorLandings

/-- PREF and LINEOP change caches alone: every byte of memory and every register is as before (R246). Here no lease has to be
recalled first, no walk runs, and none of the lanes' walks reads a poisoned sector. -/
def Sys2Proof.Claims.cacheControlKeepsMemory : Prop :=
  ∀ (s : State) (e : Env) (f : Fields), noContention s →
    (f.mod = 1 ∨ ∀ x ∈ e.elems s f 0 1 false, s.walk e.l.ctx x.addr ≠ .poison) →
    (WellFormed e.ranges (.pref f) = true → mayIssue s e 0x9A f → (s.die e.ch.die).walks = [] → sourcesPass e [{ reg := f.a.toNat, width := 2 }] →
      ∃ t c, exec (.pref f) s = .next t ∧ t.mem = s.mem ∧ t.poisoned = s.poisoned ∧ t.at? e.who = some c ∧ movedOn e.cl c 16
        ∧ sameElsewhere s t e.who)
    ∧ (WellFormed e.ranges (.lineop f) = true → mayIssue s e 0x9B f → (s.die e.ch.die).walks = [] →
      (f.mod ≠ 1 → sourcesPass e [{ reg := f.a.toNat, width := 2 }]) →
      ∃ t c, exec (.lineop f) s = .next t ∧ t.mem = s.mem ∧ t.poisoned = s.poisoned ∧ t.at? e.who = some c
        ∧ movedOn e.cl c 16 ∧ sameElsewhere s t e.who ∧ (f.mod = 1 → (t.core e.core).l1 = []))

/-- A fence issues and is pending while the clutch goes on; it completes when what it waits for is done, and a memory fence of
cluster or die scope then invalidates the core's L1 (R249 to R251). PROMOTE loads its word as an acquire (R252). -/
def Sys2Proof.Claims.fencesAndPromote : Prop :=
  ∀ (s : State) (e : Env) (f : Fields),
    let pending (k : FenceKind) : State :=
      (s.publish e k).bump.modClutch e.who fun c => { c with fence := some k, fenceAt := s.fresh, pc := c.pc + 8 }
    (mayIssue s e 0x81 f → exec (.fence f) s = .next (pending (.memory (f.mod.toNat % 4)))
      ∧ exec (.fenceOpr f) s = .next (pending .opr) ∧ exec (.fenceQ f) s = .next (pending .q))
    ∧ (s.env? e.who = some e → s.fenceDone e = true →
      ∃ t c, exec (.fenceComplete e.who) s = .next t ∧ t.at? e.who = some c ∧ c = { e.cl with fence := none } ∧ t.mem = s.mem
        ∧ (∀ scope, e.cl.fence = some (.memory scope) → 2 ≤ scope → (t.core e.core).l1 = []))
    ∧ (WellFormed e.ranges (.promote f) = true → mayIssue s e 0x82 f → sourcesPass e [{ reg := f.a.toNat, width := 2 }] →
      let elems := e.elems s f 0 4 false
      (∀ x ∈ elems, x.addr % 4 = 0) → reachable s e 0 false elems → inOrder s e 0 (placesOf s e 0 elems) false →
      ∃ t c p a, exec (.promote f) s = .next t ∧ t.at? e.who = some c ∧ c.pc = e.cl.pc + 8 ∧ t.mem = s.mem
        ∧ (t.core e.core).l1 = [] ∧ t.landings = s.landings ++ [p] ∧ p.dst = .ordinary f.d.toNat 1 ∧ p.holds = true
        ∧ p.access = some a ∧ a.op = .load 4 ∧ a.places = placesOf s e 0 elems ∧ a.acquire = some 3)

/-- Cache control, fences and PROMOTE (R246, R249 to R252). Model choices in it: log 23, log 24. -/
def Obligations.CachesAndFences : Prop :=
  Sys2Proof.Claims.cacheControlKeepsMemory ∧ Sys2Proof.Claims.fencesAndPromote

/-- BAR.ARRIVE never holds the clutch: while an earlier access of the clutch has not been performed or returned, the arrival
waits, and it is performed when those have been (R332, R426). -/
def Sys2Proof.Claims.arrivalsWait : Prop :=
  (∀ (s : State) (e : Env) (f : Fields), mayIssue s e 0x80 f →
    (f.mod.getLsbD 0 = true → f.len = .w64 → sourcesPass e [{ reg := f.b.toNat }]) → s.drained e = false →
    ∃ t d c a, exec (.barArrive f) s = .next t ∧ t.chorus? e.who.chorus = some d ∧ t.at? e.who = some c ∧ movedOn e.cl c f.len.bytes
      ∧ t.mem = s.mem ∧ d.barriers = e.ch.barriers ∧ d.arriving = e.ch.arriving ++ [a] ∧ a.clutch = e.who.clutch
      ∧ a.barrier = f.a.toNat ∧ a.count = e.barCount s f ∧ ∀ p ∈ s.landings, p.id < s.fresh → p.id < a.before)
  ∧ ∀ (s : State) (e : Env) (a : Arriving), runs s e → e.ch.arriving = [a] → a.clutch = e.who.clutch →
    let b := e.ch.barriers.get {} a.barrier
    (s.drainedBefore e.core e.who a.before = true → a.count = 0 → b.held = 0 → b.arrivals < 127 → b.expect = b.arrivals + 1 →
      ∃ t d, s.turn (.arrives e.who) = .next t ∧ t.chorus? e.who.chorus = some d ∧ t.mem = s.mem ∧ d.arriving = []
        ∧ d.barriers.get {} a.barrier = { b with phases := b.phases + 1, arrivals := 0, doneAt := s.now + 1 }
        ∧ ∀ k, k ≠ a.barrier → d.barriers.get {} k = e.ch.barriers.get {} k)
    ∧ (s.drainedBefore e.core e.who a.before = false → s.turn (.arrives e.who) = .next s)

/-- Arrivals and waits at a barrier (R425 to R428): BAR.ARRIVE and BAR.SYNC add an arrival, which completes the phase when it
is the last of EXPECT; BAR.WAIT, and BAR.SYNC after its arrival, pass where the phase count differs from the clutch's wait
count, which then goes up by one, and hold the clutch where it does not. -/
def Sys2Proof.Claims.phases : Prop :=
  ∀ (s : State) (e : Env) (f : Fields), mayIssue s e 0x80 f →
    (f.mod.getLsbD 0 = true → f.len = .w64 → sourcesPass e [{ reg := f.b.toNat }]) → s.drained e = true → s.flagsPending e.who = false →
    stickyArmed e.ch.sticky = false → (∀ a ∈ e.ch.arriving, a.clutch ≠ e.who.clutch) →
    let b := e.ch.barriers.get {} f.a.toNat
    let w := e.cl.barWaits.get 0 f.a.toNat
    let n := e.barCount s f
    -- EXPECT once this BAR's own count has been taken
    let expect := if 1 ≤ n ∧ (b.expect = 0 ∨ b.arrivals = 0 ∧ b.doneAt ≠ s.now + 1) then n else b.expect
    b.held = 0 → b.arrivals < 127 → (expect ≠ 0 → b.arrivals < expect) →
    let full : Prop := expect ≠ 0 ∧ b.arrivals + 1 = expect
    (∃ t d, exec (.barArrive f) s = .next t ∧ t.chorus? e.who.chorus = some d ∧ t.mem = s.mem
      ∧ (∃ c, t.at? e.who = some c ∧ movedOn e.cl c f.len.bytes)
      ∧ (∀ k, k ≠ f.a.toNat → d.barriers.get {} k = e.ch.barriers.get {} k)
      ∧ (full → d.barriers.get {} f.a.toNat = { phases := b.phases + 1, arrivals := 0, expect, held := 0, doneAt := s.now + 1 })
      ∧ (¬ full → d.barriers.get {} f.a.toNat = { phases := b.phases, arrivals := b.arrivals + 1, expect, held := 0, doneAt := b.doneAt }))
    ∧ (e.cl.progress = .none →
      (b.phases ≠ w → ∃ t c, exec (.barWait f) s = .next t ∧ t.at? e.who = some c ∧ t.mem = s.mem
        ∧ c.pc = e.cl.pc + BitVec.ofNat 32 f.len.bytes ∧ c.barWaits.get 0 f.a.toNat = w + 1 ∧ c.progress = .none)
      ∧ (b.phases = w → full → ∃ t c, exec (.barSync f) s = .next t ∧ t.at? e.who = some c ∧ t.mem = s.mem
        ∧ c.pc = e.cl.pc + BitVec.ofNat 32 f.len.bytes ∧ c.barWaits.get 0 f.a.toNat = w + 1 ∧ c.progress = .none)
      ∧ (b.phases = w → ¬ full → ∃ t c, exec (.barSync f) s = .next t ∧ t.at? e.who = some c
        ∧ c.pc = e.cl.pc ∧ c.progress = .arrived)
      ∧ (b.phases = w → ∃ t c, exec (.barWait f) s = .next t ∧ t.at? e.who = some c ∧ t.mem = s.mem ∧ c.pc = e.cl.pc
        ∧ c.progress = .arrived ∧ c.barWaits = e.cl.barWaits)
      ∧ ∃ t c d, exec (.barSync f) s = .next t ∧ t.at? e.who = some c ∧ t.chorus? e.who.chorus = some d ∧ t.mem = s.mem
        ∧ (∀ k, k ≠ f.a.toNat → d.barriers.get {} k = e.ch.barriers.get {} k)
        ∧ (full → d.barriers.get {} f.a.toNat = { phases := b.phases + 1, arrivals := 0, expect, held := 0, doneAt := s.now + 1 })
        ∧ (¬ full → d.barriers.get {} f.a.toNat = { phases := b.phases, arrivals := b.arrivals + 1, expect, held := 0, doneAt := b.doneAt })
        ∧ ((d.barriers.get {} f.a.toNat).phases ≠ w → c.pc = e.cl.pc + BitVec.ofNat 32 f.len.bytes
          ∧ c.barWaits.get 0 f.a.toNat = w + 1 ∧ c.progress = .none)
        ∧ ((d.barriers.get {} f.a.toNat).phases = w → c.pc = e.cl.pc ∧ c.barWaits = e.cl.barWaits ∧ c.progress = .arrived))

/-- Barriers (R424 to R428). Model choices in it: log 23, log 36. -/
def Obligations.Barriers : Prop := Sys2Proof.Claims.arrivalsWait ∧ Sys2Proof.Claims.phases

/-! ### The matrix stream -/

/-- The scalar and barrier words of a sequencer: QMOV, QADD and QBRA; MWAIT once the phase count has passed the sequencer's
wait count; MARRIVE once its operations have completed; MEND, when no other sequencer waits at an MMA.BC (R260 to R262,
R270). -/
def Obligations.StreamScalars : Prop :=
  ∀ (s : State) (e : SeqEnv) (f : Fields), streams s e →
    let q := e.q
    let a := q.q.get 0 f.a.toNat
    let bytes := BitVec.ofNat 32 f.len.bytes
    let item : Word := match f.a.toNat with
      | 0 => BitVec.ofNat 32 ((e.ch.cores.getD q.pos 0) % 4)
      | 1 => BitVec.ofNat 32 e.ch.index
      | 2 => BitVec.ofNat 32 e.ch.section_
      | _ => BitVec.ofNat 32 e.l.hdr.accRows
    sequences (.qmov f) s e (fun q => { q with
      q := q.q.set 0 f.d.toNat (if f.mod = 0 then q.q.get 0 f.a.toNat else if f.mod = 1 then f.imm else item),
      pc := q.pc + bytes })
    ∧ sequences (.qadd f) s e (fun q => { q with
      q := q.q.set 0 f.d.toNat (q.q.get 0 f.a.toNat + (if f.len = .w96 then f.imm else q.q.get 0 f.b.toNat)),
      pc := q.pc + bytes })
    ∧ (f.mod.toNat < 3 → sequences (.qbra f) s e (fun q => { q with
      pc := q.pc + (if f.mod = 0 ∨ (f.mod = 1 ∧ a ≠ 0) ∨ (f.mod = 2 ∧ a = 0) then f.imm else 12) }))
    ∧ ((∀ x ∈ e.ch.seqs, x.pos ≠ q.pos → x.waiting = none) → sequences (.mend f) s e (fun q => { q with ended := true }))
    ∧ ((e.ch.barriers.get {} f.a.toNat).phases ≠ q.waits.get 0 f.a.toNat → sequences (.mwait f) s e (fun x => { x with
      waits := x.waits.set 0 f.a.toNat (q.waits.get 0 f.a.toNat + 1), pc := x.pc + 8 }))
    ∧ (q.jobs = [] → ∃ t d x, exec (.marrive f) s = .next t ∧ t.chorus? e.ch.uid = some d
      ∧ d.barriers.get {} f.a.toNat = Barrier.arrive (e.ch.barriers.get {} f.a.toNat) s.now
      ∧ d.seqs.find? (fun y => y.pos = q.pos) = some x ∧ x = { q with pc := q.pc + 8 } ∧ t.mem = s.mem)

/-- MMA, MMA.S and MMA.M issue once their tiles are READY and their checks pass; MMA.BC once every sequencer of the chorus
waits at its own; MZERO within the chorus's rows. The operation is then held by its engines, with its first row, and the
sequencer moves on (R262, R268, R270, R273, R274). -/
def Sys2Proof.Claims.matrixOperationsIssue : Prop :=
  ∀ (s : State) (e : SeqEnv) (f : Fields), streams s e →
    let row := ((e.q.get f.d).toNat + f.imm.toNat % 2 ^ 16) % 2 ^ 32
    ((∀ n ∈ f.tiles, e.ch.tileDefined n = true ∧ (e.ch.tile n).wasReady s.now = true) → f.form ≠ 1 →
      firstFailure [(e, f, e.job f (e.q, f) 0)] = none →
      ∀ i ∈ [Instr.mma f, .mmaS f, .mmaM f], ∃ t, exec i s = .next t ∧ started t e f 0xA8 row 16 0 ∧ t.mem = s.mem)
    ∧ (f.form = 1 → (e.ch.seqs.map (·.pos)).Nodup →
      let ch : Chorus := { e.ch with
        seqs := updateFirst (fun q => q.pos = e.q.pos) (fun q => { q with waiting := some f }) e.ch.seqs }
      let words : List (SeqEnv × Fields) := ch.seqs.filterMap fun q => q.waiting.map fun g => ({ e with ch, q }, g)
      words.length = ch.seqs.length →
      (∀ w ∈ words, ∀ n ∈ w.2.tiles, ch.tileDefined n = true ∧ (ch.tile n).wasReady s.now = true) →
      (∀ w ∈ words, w.2.form = 1) →
      (∀ e0 f0 rest, words = (e0, f0) :: rest →
        firstFailure (words.map fun w => (w.1, w.2, w.1.job w.2 (e0.q, f0) 0)) = none) →
      ∃ t, exec (.mmaBc f) s = .next t ∧ t.mem = s.mem
        ∧ ∀ w ∈ words, started t w.1 w.2 0xA8 (((w.1.q.get w.2.d).toNat + w.2.imm.toNat % 2 ^ 16) % 2 ^ 32) 16 1)
    ∧ (row + f.imm.toNat / 2 ^ 16 % 2 ^ 10 ≤ e.l.hdr.accRows →
      ∃ t, exec (.mzero f) s = .next t ∧ started t e f 0xAB row 12 0 ∧ t.mem = s.mem)

/-- The formats of A and B come from one row of the table of R265, those of MMA.S from the rows that R271 names. -/
def formatPair (form a b : Nat) : Prop :=
  if form = 3 then (a = 15 ∧ b = 2) ∨ (a = 16 ∧ b ∈ [3, 4])
  else (∃ row ∈ [[1], [2], [3, 4], [7], [5, 6, 12, 13], [8, 9], [10, 11], [14]], a ∈ row ∧ b ∈ row)
    ∧ (form = 2 → a ∈ [5, 6, 8, 9, 10, 11])

/-- The first check that fails names the fault: an undefined tile, a word of no valid pair or with a bad operand STREAMOP,
register tags FORMAT, rows outside the chorus's ACCROW, scratchpad bytes outside BOUNDS, metadata SPARSEMETA (R256, R265,
R268, R273). The sequencer ends, and the launch with a report of SLOT 30 and clutchid 0xFF. Of the words of an MMA.BC the
first that is not valid by itself, or does not agree with the first word, is the one reported (R270). -/
def Sys2Proof.Claims.streamFaults : Prop :=
  ∀ (s : State) (e : SeqEnv) (f : Fields) (r : Report), streams s e →
    r = { code := 0, coreid := 64 * e.ch.die + e.ch.cores.getD e.q.pos 0, pc := e.q.pc, clutch := 0xFF,
          section_ := e.ch.section_, slot := 30, chorus := e.ch.index, mask := 0 } →
    let row := ((e.q.get f.d).toNat + f.imm.toNat % 2 ^ 16) % 2 ^ 32
    let ended := s.modSeq e fun q => { q with ended := true }
    (e.l.hdr.accRows < row + f.imm.toNat / 2 ^ 16 % 2 ^ 10 →
      exec (.mzero f) s = .next (ended.launchFault e.l.uid { r with code := 0x2D }))
    ∧ ((∃ n ∈ f.tiles, e.ch.tileDefined n = false) → ∀ i ∈ [Instr.mma f, .mmaS f, .mmaM f, .mmaBc f],
      exec i s = .next (ended.launchFault e.l.uid { r with code := 0x27 }))
    ∧ ((∀ n ∈ f.tiles, e.ch.tileDefined n = true ∧ (e.ch.tile n).wasReady s.now = true) → f.form ≠ 1 →
      let stops (code : Nat) : Prop := ∀ i ∈ [Instr.mma f, .mmaS f, .mmaM f],
        exec i s = .next (ended.launchFault e.l.uid { r with code })
      (¬ formatPair f.form f.tg.toNat f.hn.toNat → stops 0x27)
      ∧ (e.validWord f = false → stops 0x27)
      ∧ (e.validWord f = true → e.tagsOk f = false → stops 0x23)
      ∧ (e.validWord f = true → e.tagsOk f = true →
        e.l.hdr.accRows < row + (if f.form = 3 then 128 else 64) ∨ (f.form = 3 ∧ row % 2 = 1) → stops 0x2D)
      ∧ (e.validWord f = true → e.tagsOk f = true → e.rowsOk f = true →
        let j := e.job f (e.q, f) 0
        (e.bytesOk j = false → stops 0x28) ∧ (e.bytesOk j = true → e.metaOk j = false → stops 0x2B)))
    ∧ (f.form = 1 → (e.ch.seqs.map (·.pos)).Nodup →
      let ch : Chorus := { e.ch with
        seqs := updateFirst (fun q => q.pos = e.q.pos) (fun q => { q with waiting := some f }) e.ch.seqs }
      let words : List (SeqEnv × Fields) := ch.seqs.filterMap fun q => q.waiting.map fun g => ({ e with ch, q }, g)
      words.length = ch.seqs.length → 1 < words.length → (∀ w ∈ words, w.2.form = 1) →
      (∀ w ∈ words, ∀ n ∈ w.2.tiles, ch.tileDefined n = true ∧ (ch.tile n).wasReady s.now = true) →
      ∀ (before after : List (SeqEnv × Fields)) (w : SeqEnv × Fields), words = before ++ w :: after →
        let agrees (x : SeqEnv × Fields) : Prop := x.1.validWord x.2 = true ∧ x.2.bScratch = true
          ∧ ∀ y ∈ words.head?, x.2.tg = y.2.tg ∧ x.2.hn = y.2.hn
        (∀ x ∈ before, agrees x) → ¬ agrees w →
        exec (.mmaBc f) s = .next ((s.modSeq e fun q => { q with waiting := some f }).seqFault w.1 .streamop))

/-- The issue of matrix operations, and the words that end the stream by a fault (R256, R262, R268, R270, R273, R274). Model
choices in it: log 25. -/
def Obligations.MatrixOperationsIssue : Prop :=
  Sys2Proof.Claims.matrixOperationsIssue ∧ Sys2Proof.Claims.streamFaults

/-- MMA_COMPLETE: the engines complete an operation once no earlier one of theirs remains. MZERO clears its rows on its
engines and nothing else, but for the cells that a STACC stored to beside it (R245); an MMA that nothing has overlapped adds to each cell of its FP32 tile the products of its row
and its column, rounded once (R55, R269, R273). Model choices in it: log 25. -/
def Obligations.MatrixOperationsComplete : Prop :=
  ∀ (s : State) (c : Chorus) (l : Launch) (q : Sequencer) (j : Job) (later : List Job),
    s.chorus? c.uid = some c → s.launch? c.launch = some l → c.seqs.find? (fun x => x.pos = q.pos) = some q →
    q.jobs = j :: later → (∀ x ∈ later, x.id ≠ j.id) →
    let inTile (n k : Nat) : Prop := cellKey q.pos n j.row 0 ≤ k ∧ k < cellKey q.pos n (j.row + j.rowCount) 0
    (j.op = 0xAB → ∃ t d, exec (.mmaComplete c.uid q.pos j.id) s = .next t ∧ t.chorus? c.uid = some d ∧ t.mem = s.mem
      ∧ (∃ x, d.seqs.find? (fun x => x.pos = q.pos) = some x ∧ x.jobs = later)
      ∧ (∀ n ∈ j.fields.engines, ∀ k, inTile n k → k ∉ j.spoiled → d.acc.get 0 k = 0)
      ∧ ∀ k, (∀ n ∈ j.fields.engines, ¬ inTile n k) → d.acc.get 0 k = c.acc.get 0 k)
    ∧ (j.op = 0xA8 → j.fields.form = 0 → mmaInt j.fields.tg.toNat = false → j.fields.tg ≠ 1 → c.poisonedOperand l.hdr q.pos j = false → j.touched = [] →
      ∀ (n : Nat) (x : Operands), j.fields.engines = [n] → c.operands l.hdr q.pos j n = some x → c.loanStands q.pos j n = true →
        x.a.length = 64 → x.b.length = 128 →
        ∃ t d, exec (.mmaComplete c.uid q.pos j.id) s = .next t ∧ t.chorus? c.uid = some d ∧ t.mem = s.mem
          ∧ (∀ k, ¬ inTile n k → d.acc.get 0 k = c.acc.get 0 k)
          ∧ ∀ r col, r < 64 → col < 128 →
              let elems (tag v : Nat) := (List.range (mmaSizes j.fields).2.1).map (mmaFloat tag v)
              let terms := ((elems j.fields.tg.toNat (x.a.getD r 0)).zip (elems j.fields.hn.toNat (x.b.getD col 0))).map
                fun y => [y.1, y.2]
              let old := fp32.decode (c.acc.get 0 (cellKey q.pos n (j.row + r) col)).toNat
              d.acc.get 0 (cellKey q.pos n (j.row + r) col)
                = BitVec.ofNat 32 (fp32.sumProducts .rne true ([old] :: terms)).bits)

/-! ### Tiles, copies and futures -/

/-- The tile instructions answer a status and move the tile as R403 gives: TILEDEF defines an EMPTY or undefined tile,
TILEREL
empties a READY one or takes one reader from a DRAINING one, TILEDRN sets a READY one draining, TILEST reports. A word that
comes too late in the order of its cycle (R404) waits for the next one. Model
choices in it: log 29. -/
def Obligations.TileTable : Prop :=
  ∀ (s : State) (e : Env) (f : Fields),
    let n := f.mod.toNat
    let t := e.ch.tile n
    let d := f.d.toNat
    let size := f.imm.toNat
    let base := (e.read s f.a.toNat e.low).toNat
    let first : Prop := t.inOrder s.now (clutchOrder e.cl.id) = true
    (mayRun s e 0xB9 f [f.a.toNat] →
      (size % 64 ≠ 0 ∨ 524288 < size → promisesWord (.tiledef f) s e d 16 3 (tileIs s e n t))
      ∧ (size % 64 = 0 → size ≤ 524288 → (size ≠ 0 → (e.localKey 2 base size).isSome = true) → first →
        (t.size = 0 ∨ t.state = .empty → promisesWord (.tiledef f) s e d 16 0
          (tileIs s e n (if size ≠ 0 then { base, size } else if t.size = 0 then t else {})))
        ∧ (t.size ≠ 0 → t.state ≠ .empty → promisesWord (.tiledef f) s e d 16 1 (tileIs s e n t))))
    ∧ (mayIssue s e 0xBA f → first →
      (t.size = 0 → promisesWord (.tilerel f) s e d 16 2 (tileIs s e n t))
      ∧ (t.size ≠ 0 → t.state = .ready ∨ (t.state = .draining ∧ t.dcount ≤ 1) → promisesWord (.tilerel f) s e d 16 0
        (tileIs s e n { base := t.base, size := t.size }))
      ∧ (t.size ≠ 0 → t.state = .draining → 1 < t.dcount → promisesWord (.tilerel f) s e d 16 0
        (tileIs s e n { t with dcount := t.dcount - 1 }))
      ∧ (t.size ≠ 0 → t.state = .empty ∨ t.state = .filling → promisesWord (.tilerel f) s e d 16 1 (tileIs s e n t)))
    ∧ (mayIssue s e 0xBB f → promisesWord (.tilest f) s e d 16
        (if t.size = 0 then 0 else BitVec.ofNat 32 (256 * t.dcount + t.state.num)) (tileIs s e n t))
    ∧ (mayIssue s e 0xBC f →
      (size < 1 ∨ 96 < size → promisesWord (.tiledrn f) s e d 16 3 (tileIs s e n t))
      ∧ (1 ≤ size → size ≤ 96 → first →
        (t.size = 0 → promisesWord (.tiledrn f) s e d 16 2 (tileIs s e n t))
        ∧ (t.size ≠ 0 → t.state = .ready → promisesWord (.tiledrn f) s e d 16 0
          (tileIs s e n { t with state := .draining, dcount := size }))
        ∧ (t.size ≠ 0 → t.state ≠ .ready → promisesWord (.tiledrn f) s e d 16 1 (tileIs s e n t))))
    ∧ (t.inOrder s.now (clutchOrder e.cl.id) = false →
      (mayIssue s e 0xBA f → exec (.tilerel f) s = .next s)
      ∧ (mayRun s e 0xB9 f [f.a.toNat] → size % 64 = 0 → size ≤ 524288 → (size ≠ 0 → (e.localKey 2 base size).isSome = true) →
        exec (.tiledef f) s = .next s)
      ∧ (mayIssue s e 0xBC f → 1 ≤ size → size ≤ 96 → exec (.tiledrn f) s = .next s))

/-- TCP.KICK allocates a future, PENDING, and puts the copy in its engine; D receives the handle at once, and an invalid
descriptor makes the future FAILED with reason 1 (R276, R281, R282, R394, R396). A copy into a tile is admitted when the tile
has room, completes with the future DONE and the number of its bytes, and fails with reason 3 when the tile has no room (R283,
R285, R403); one that meets a byte without a translation fails with reason 2 (R287); TCP.CANCEL stops it (R288). Writes to
global memory gather in arbitration windows, and the copy ends once they have been performed (R338). Model choices in it: log
23, log 30, log 72. -/
def Obligations.TensorCopies : Prop :=
  (∀ (s : State) (e : Env) (f : Fields) (key i : Nat) (s' : State), mayRun s e 0xB8 f [f.a.toNat] → s.drained e = true →
    let addr := ((e.read s f.a.toNat e.low).toNat + f.imm.toNat) % 2 ^ 32
    addr % 64 = 0 → e.localKey (f.sp.toNat % 4) addr 64 = some key → (s.copiesOn e.core).length < 16 →
    s.allocFuture e.ch.die e.l.ctx .copy e.who.chorus = some (i, s') →
    let d := Desc.ofNumber (e.ch.number key 64)
    let h : Word := BitVec.ofNat 32 (2 ^ 16 * (futureAt s e.ch.die i).gen.toNat + i)
    (e.descOk d = true → e.copyInside d = true → givesWord (.tcpKick f) s e f.d.toNat 16 h fun t =>
      t.mem = s.mem ∧ (futureAt t e.ch.die i).state = .pending ∧ (futureAt t e.ch.die i).kind = .copy
        ∧ ∃ j, t.copies = s.copies ++ [j] ∧ j.desc = d ∧ j.future = i ∧ j.who = e.who ∧ j.admitted = (d.tile = 0))
    ∧ (e.descOk d = false → givesWord (.tcpKick f) s e f.d.toNat 16 h fun t =>
      t.mem = s.mem ∧ t.copies = s.copies ∧ (futureAt t e.ch.die i).state = .failed
        ∧ (futureAt t e.ch.die i).value = BitVec.ofNat 64 (2 ^ 57)))
  ∧ (∀ (s : State) (e : Env) (f : Fields), mayRun s e 0xB8 f [f.a.toNat] →
    let h : Word := BitVec.ofNat 32 (e.read s f.a.toNat e.low).toNat
    (s.future? e.ch.die e.l.ctx h = none → promisesWord (.tcpCancel f) s e f.d.toNat 16 2 (sameDevice s))
    ∧ ∀ i x, s.future? e.ch.die e.l.ctx h = some (i, x) →
      (x.kind ≠ .copy ∨ x.owner ≠ e.who.chorus → promisesWord (.tcpCancel f) s e f.d.toNat 16 2 (sameDevice s))
      ∧ (x.kind = .copy → x.owner = e.who.chorus → x.state ≠ .pending →
        promisesWord (.tcpCancel f) s e f.d.toNat 16 1 (sameDevice s))
      ∧ (x.kind = .copy → x.owner = e.who.chorus → livePending x → ∀ j y, stoppable s e i j y →
        promisesWord (.tcpCancel f) s e f.d.toNat 16 0 (copyCancelled s e j i)))
  ∧ (∀ (s : State) (j : CopyJob) (c : Chorus), s.copies.find? (fun x => x.id = j.id) = some j → s.chorus? j.who.chorus = some c →
    j.admitted = false →
    s.copies.find? (fun x => x.who.chorus = j.who.chorus && !x.admitted && x.desc.tile = j.desc.tile) = some j →
    let n := j.desc.tile - 1
    let x := c.tile n
    x.size ≠ 0 → x.state = .empty ∨ x.state = .filling → x.inOrder s.now admissionOrder = true →
    (x.state = .empty → x.stamps.emptied ≠ s.now + 1) →
    let room := if x.state = .empty then x.size else x.open_
    (j.bytes ≤ room → ∃ t d, exec (.copyAdmit j.id) s = .next t ∧ t.chorus? j.who.chorus = some d ∧ t.mem = s.mem
      ∧ { d.tile n with stamps := x.stamps }
          = { x with state := .filling, open_ := room - j.bytes, remain := if x.state = .empty then x.size else x.remain }
      ∧ t.copies.find? (fun y => y.id = j.id) = some { j with admitted := true })
    ∧ (room < j.bytes → livePending (futureAt s j.die j.future) →
      ∃ t, exec (.copyAdmit j.id) s = .next t ∧ t.copies = s.copies.filter (fun y => y.id ≠ j.id)
        ∧ (futureAt t j.die j.future).state = .failed ∧ (futureAt t j.die j.future).value = BitVec.ofNat 64 (2 ^ 57 * 3)))
  ∧ (∀ (s : State) (j : CopyJob) (e : Env), s.copies.find? (fun x => x.id = j.id) = some j → s.anyEnv? j.who = some e →
    j.admitted = true → livePending (futureAt s j.die j.future) →
    let ends (t : State) (st : FutureState) (v : DWord) : Prop := t.copies = s.copies.filter (fun y => y.id ≠ j.id)
      ∧ (futureAt t j.die j.future).state = st ∧ (futureAt t j.die j.future).value = v
    let waits (t : State) (st : FutureState) (v : DWord) : Prop :=
      t.copies.find? (fun y => y.id = j.id) = some { j with result := some (st, v) } ∧ futureAt t j.die j.future = futureAt s j.die j.future
    let lands : Prop := j.desc.tile ≠ 0 → (e.ch.tile (j.desc.tile - 1)).inOrder s.now landingOrder = true
    (j.result = none → s.bring e.core e.l.ctx j.desc.pages = some s →
      (lands → (∀ u ∈ j.desc.units, s.unitMisses e j.desc u = [] ∧ s.unitPoison e j.desc u = false) → (∀ d, (s.die d).contention = []) →
        let v := BitVec.ofNat 64 j.bytes
        ∃ t, exec (.copyComplete j.id) s = .next t ∧ t.mem = s.mem
          ∧ if (s.performUnits e j j.desc.units).1.jobOpen j.id then waits t .done v else ends t .done v)
      ∧ ((∃ u ∈ j.desc.units, s.unitMisses e j.desc u ≠ []) →
        ∃ t va, exec (.copyFail j.id) s = .next t ∧ t.mem = s.mem ∧ (∃ u ∈ j.desc.units, va ∈ s.unitMisses e j.desc u)
          ∧ let v := BitVec.ofNat 64 (2 ^ 57 * 2 + va % 2 ^ 57)
            if (s.performUnits e j (s.landedUnits e j)).1.jobOpen j.id then waits t .failed v else ends t .failed v))
    ∧ ∀ st v, j.result = some (st, v) → s.jobOpen j.id = false → lands → st ≠ .pending → st ≠ .free →
      ∃ t, exec (.copyComplete j.id) s = .next t ∧ t.mem = s.mem ∧ ends t st v)

/-- FTEST reports the kind and the state of a future, FREAD promises its value, and FCANCEL cancels a pending copy's work or
says why not; an invalid handle reads as 7, as all ones, and as 2 (R397 to R400). That a cancelled copy keeps its result until
its gathered writes are performed, and that FCANCEL answers at once, is the model's choice (log 30). -/
def Obligations.Futures : Prop :=
  ∀ (s : State) (e : Env) (f : Fields),
    let h : Word := BitVec.ofNat 32 (e.read s f.a.toNat e.low).toNat
    let d := f.d.toNat
    let reads (i : Instr) (v : DWord) (more : State → Prop) : Prop :=
      ∃ t p, exec i s = .next t ∧ p ∈ t.landings ∧ p.who = e.who ∧ p.dst = .ordinary d 2 ∧ p.mask = e.mask ∧ p.access = none
        ∧ (∀ l k, l < laneCount → k < 2 → lane (p.words.getD k []) l = half v k) ∧ t.mem = s.mem ∧ more t
    (s.future? e.ch.die e.l.ctx h = none →
      (mayRun s e 0xE2 f [f.a.toNat] → givesWord (.ftest f) s e d 8 7 (sameDevice s))
      ∧ (mayRun s e 0xE4 f [f.a.toNat] → reads (.fread f) (BitVec.allOnes 64) fun _ => True)
      ∧ (mayRun s e 0xE3 f [f.a.toNat] → promisesWord (.fcancel f) s e d 8 2 (sameDevice s)))
    ∧ ∀ i x, s.future? e.ch.die e.l.ctx h = some (i, x) →
      (mayRun s e 0xE2 f [f.a.toNat] →
        givesWord (.ftest f) s e d 8 (BitVec.ofNat 32 (8 * x.kind.num + x.state.num)) fun t => t.mem = s.mem)
      ∧ (mayRun s e 0xE4 f [f.a.toNat] →
        (x.state ≠ .pending → x.waiters = [] → reads (.fread f) x.value fun t =>
          (f.mod.getLsbD 0 = true → (futureAt t e.ch.die i).state = .free ∧ (futureAt t e.ch.die i).gen = x.gen + 1)
          ∧ (f.mod.getLsbD 0 = false → futureAt t e.ch.die i = x))
        ∧ (x.state = .pending → s.nodesOf e.ch.die e.who < 4 → ∃ t p, exec (.fread f) s = .next t
          ∧ t.landings = s.landings ++ [p] ∧ p.dst = .ordinary d 2 ∧ t.mem = s.mem
          ∧ (futureAt t e.ch.die i).waiters = x.waiters ++ [(p.id, f.mod.getLsbD 0)]))
      ∧ (mayRun s e 0xE3 f [f.a.toNat] →
        (x.kind ≠ .copy → promisesWord (.fcancel f) s e d 8 (if x.state = .pending then 3 else 1) (sameDevice s))
        ∧ (x.kind = .copy → x.owner ≠ e.who.chorus → promisesWord (.fcancel f) s e d 8 2 (sameDevice s))
        ∧ (x.kind = .copy → x.owner = e.who.chorus → x.state ≠ .pending → promisesWord (.fcancel f) s e d 8 1 (sameDevice s))
        ∧ (x.kind = .copy → x.owner = e.who.chorus → livePending x → ∀ j y, stoppable s e i j y →
          promisesWord (.fcancel f) s e d 8 0 (copyCancelled s e j i)))
      ∧ (mayRun s e 0xE3 f [f.a.toNat] → x.kind = .copy → x.owner = e.who.chorus → x.state ≠ .pending →
        promisesWord (.fcancel f) s e d 8 1 (sameDevice s))

/-! ### Remote homes, arrival words and the chorus window -/

/-- A remote data word enters the remote queue of its core with one element for each active lane whose device word is not
refused; the clutch's operation count goes up by one, and no byte of memory changes at the source (R290, R292, R294,
R295, R298, R300). Model choices in it: log 32, log 74. -/
def Obligations.RemoteOperationsQueue : Prop :=
  ∀ (s : State) (e : Env) (i : Instr) (op : Nat) (f : Fields) (r : RemoteData), remoteData i = some (op, f, r) →
    WellFormed e.ranges i = true → mayIssue s e op f → sourcesPass e (remoteSrcs f ++ r.srcs) →
    (∀ reg, r.low = some reg → e.poisonIn { reg } (lanesIn e.mask) = false) → remoteReady s e f r.size → r.bad s e = 0 →
    ∃ t c, exec i s = .next t ∧ t.at? e.who = some c ∧ sentOn e.cl c 16 ∧ t.mem = s.mem ∧ t.landings = s.landings
      ∧ queues s t e fun q => q.reqs = [] ∧ q.elems = (sendingLanes s e f).map fun l =>
          { e.element s f (e.target s f l) (r.op s e) (r.data s e l) with
            lane := l, tag := e.tag, addr := BitVec.ofNat 64 (e.remoteAddr s f l), arr := e.arrival s f l }

/-- RGET queues a request for each lane; RACC.CVT queues one request, of its lowest active lane, and its destination waits;
MCAST1 gives the handle of a future in D and queues an element for each active lane, or completes its future at once
where the group is not valid (R301 to R304). Model choices in it: log 32, log 33. -/
def Obligations.RemoteReadsAndMulticast : Prop :=
  ∀ (s : State) (e : Env) (f : Fields),
    (WellFormed e.ranges (.rget f) = true → mayIssue s e 0xC6 f →
      sourcesPass e (remoteSrcs f ++ [{ reg := f.f.toNat, width := 2 }]) → remoteReady s e f (szBytes f.sz) →
      (∀ l ∈ lanesIn e.mask, Fields.self f = true →
        ((s.core e.core).tlb.find? (·.covers e.l.ctx (e.remoteAddr s f l))).isSome = true) →
      s.xlate e.core e.l.ctx false ((lanesIn e.mask).flatMap fun l =>
        Elem.pages { lane := l, addr := e.read64 s f.f.toNat l, bytes := szBytes f.sz }) = .ok →
      ∃ t c, exec (.rget f) s = .next t ∧ t.at? e.who = some c ∧ sentOn e.cl c 16 ∧ t.mem = s.mem
        ∧ queues s t e fun q => q.elems = [] ∧ q.reqs.map (·.req.lane) = sendingLanes s e f
          ∧ ∀ a ∈ q.reqs, a.chorus = e.who.chorus ∧ a.landing = none
            ∧ a.req.kind = .get (szBytes f.sz) (BitVec.ofNat 64 (e.read64 s f.f.toNat a.req.lane)) (e.arrival s f a.req.lane))
    ∧ (WellFormed e.ranges (.raccCvt f) = true →
      mayIssue s e 0xC8 f →
      (∀ r ∈ f.a.toNat :: (f.a.toNat + 1) :: (if Fields.self f then [] else [f.e.toNat]),
        e.poisonIn { reg := r } (lanesIn e.mask) = false) →
      e.remoteAddr s f e.low % 8 = 0 → (s.core e.core).queue.length < 64 → (e.target s f e.low).bad = false →
      (Fields.self f = true → s.xlate e.core e.l.ctx false [e.remoteAddr s f e.low] = .ok) →
      ∃ t c p, exec (.raccCvt f) s = .next t ∧ t.at? e.who = some c ∧ c.pc = e.cl.pc + 16 ∧ c.opc = e.cl.opc ∧ t.mem = s.mem
        ∧ t.landings = s.landings ++ [p] ∧ p.dst = .ordinary f.d.toNat (if f.tg = 1 then 2 else 1) ∧ p.mask = e.mask
        ∧ p.awaited = e.mask
        ∧ queues s t e fun q => q.elems = [] ∧ ∃ a, q.reqs = [a] ∧ a.landing = some p.id ∧ a.req.kind = .acc f.tg.toNat
          ∧ a.req.lane = e.low)
    ∧ (∀ (report key i : Nat) (s' : State), WellFormed e.ranges (.mcast1 f) = true → mayIssue s e 0xC7 f →
      sourcesPass e ({ reg := f.a.toNat, width := 2 } :: wideSrc f.b.toNat (szRegs f.sz) (moveCheck f)
        ++ (if Fields.arr f then [{ reg := f.c.toNat, width := 2 }] else [])) →
      e.poisonIn { reg := f.e.toNat } (lanesIn e.mask) = false → e.poisonIn { reg := f.f.toNat } (lanesIn e.mask) = false →
      (∀ l ∈ lanesIn e.mask, e.remoteAddr s f l % szBytes f.sz = 0 ∧ ∀ w, e.arrival s f l = some w → w.toNat % 8 = 0) →
      report = (e.read s f.f.toNat e.low).toNat → report % 64 = 0 → e.localKey 1 report 64 = some key →
      (s.core e.core).queue.length < 64 → s.allocFuture e.ch.die e.l.ctx .multicast e.who.chorus = some (i, s') →
      e.cl.progress = .none →
      let word := (e.read s f.e.toNat e.low).toNat
      let g := s.crucible.groups.get {} (word % 4096)
      let h : Word := BitVec.ofNat 32 (2 ^ 16 * (futureAt s e.ch.die i).gen.toNat + i)
      (word < 4096 → groupValid g e.l.ctx = true → givesWord (.mcast1 f) s e f.d.toNat 16 h fun t =>
        t.mem = s.mem ∧ (futureAt t e.ch.die i).state = .pending
          ∧ queues s t e fun q => q.reqs = [] ∧ q.elems.map (·.lane) = lanesIn e.mask ∧ ∀ x ∈ q.elems, x.mcast = some s.fresh)
      ∧ (4096 ≤ word ∨ groupValid g e.l.ctx = false → givesWord (.mcast1 f) s e f.d.toNat 16 h fun t =>
        t.mem = s.mem ∧ (futureAt t e.ch.die i).state = .done))

/-- ARRWAIT gives the value at once when it has reached the target, and otherwise watches the word and holds the clutch, its
destination pair empty (R91, R417);
ARRTEST gives the predicate; ARRSET exchanges the word, and no other byte changes (R419 to R422). Model choices in it:
log 34. -/
def Obligations.ArrivalWords : Prop :=
  ∀ (s : State) (e : Env) (f : Fields),
    let v := arrivalValue s e f
    let target := e.read64 s f.b.toNat e.low
    let d := f.d.toNat
    (WellFormed e.ranges (.arrwait f) = true → arrivalReady s e 0xC9 f false →
      (target ≤ v → promisesPair (.arrwait f) s e d (BitVec.ofNat 64 v) fun t => t.mem = s.mem)
      ∧ (v < target → (s.die e.ch.die).watches.length < 4096 → ∃ t c, exec (.arrwait f) s = .next t ∧ t.at? e.who = some c
        ∧ c = { e.cl with progress := .watching, empty := c.empty } ∧ t.mem = s.mem
        ∧ (∀ reg, reg ∈ c.empty ↔ reg ∈ e.cl.empty ∨ reg = d ∨ reg = d + 1)
        ∧ ∃ w, (t.die e.ch.die).watches = (s.die e.ch.die).watches ++ [w] ∧ w.who = e.who
          ∧ w.pa = arrivalPlace s e f ∧ w.win = Fields.self f ∧ w.target = BitVec.ofNat 64 target ∧ w.dst = d))
    ∧ (WellFormed e.ranges (.arrtest f) = true → arrivalReady s e 0xCB f false →
      promisesWord (.arrtest f) s e d 16 (truth (target ≤ v)) fun t => t.mem = s.mem)
    ∧ (WellFormed e.ranges (.arrset f) = true → arrivalReady s e 0xCA f true →
      promisesPair (.arrset f) s e d (BitVec.ofNat 64 v) fun t => ∃ ch, t.chorus? e.who.chorus = some ch ∧
        let now (k : Nat) : Byte := if Fields.self f then ch.scratch.get 0 k else Memory.read t.mem k
        let place := arrivalPlace s e f
        (Fields.self f = true → t.mem = s.mem)
        ∧ (∀ i, i < 8 → now (place + i) = BitVec.ofNat 8 (target / 2 ^ (8 * i)))
        ∧ ∀ k, ¬ (place ≤ k ∧ k < place + 8) → now k = arrivalByte s e f k)

/-- The window words: a CWIN data form queues one element for each active lane, to the member that holds the section it
names; CWLD of the own section is a load and CWST a store of the chorus's scratchpads; CWIN.ATTACH answers 0 once every
section is attached, 1 after a departure, and otherwise tells the peers and waits; CWIN.DETACH marks the clutch once its
window elements are acknowledged (R314 to R319). Model choices in it: log 14, log 32. -/
def Obligations.ChorusWindow : Prop :=
  (∀ (s : State) (e : Env) (i : Instr) (f : Fields) (n : Nat) (srcs : List Src) (op : HomeOp) (data : State → Env → Nat → Nat),
    windowData i = some (f, n, srcs, op, data) → WellFormed e.ranges i = true → mayIssue s e 0xD8 f →
    sourcesPass e ({ reg := f.a.toNat } :: srcs ++ (if Fields.arr f then [{ reg := f.c.toNat }] else [])) →
    e.departs s f = 0 → (s.core e.core).queue.length < 64 →
    (∀ l ∈ lanesIn e.mask, e.windowAddr s f l % n = 0 ∧ e.reachesWindow (e.windowAddr s f l) n = true
      ∧ (Fields.arr f = true → (e.read s f.c.toNat l).toNat % 8 = 0)) →
    ∃ t c, exec i s = .next t ∧ t.at? e.who = some c ∧ sentOn e.cl c 16 ∧ t.mem = s.mem
      ∧ queues s t e fun q => q.reqs = [] ∧ q.elems.map (·.lane) = lanesIn e.mask ∧ ∀ x ∈ q.elems,
          x.op = op ∧ x.data = data s e x.lane ∧ x.tag = e.tag ∧ x.addr = BitVec.ofNat 64 (e.windowAddr s f x.lane)
          ∧ x.keyidx = e.l.keyidx
          ∧ let sec := e.windowAddr s f x.lane / 2 ^ 21 % 8
            x.dstDev = (if sec = e.ch.section_ then s.crucible.devnum else e.l.members.getD sec 0)
            ∧ x.win = some { lid := e.l.lid, index := e.ch.index, epoch := e.ch.epoch, section_ := sec })
  ∧ (∀ (s : State) (e : Env) (f : Fields), e.departs s f = 0 → e.cl.progress = .none →
    (∀ l ∈ lanesIn e.mask, e.reachesWindow (e.windowAddr s f l) (szBytes f.sz) = true
      ∧ windowSection (e.windowAddr s f l) = e.ch.section_) →
    let places := (lanesIn e.mask).map fun l => (l, (List.range (szBytes f.sz)).map (windowKey (e.windowAddr s f l) + ·))
    (WellFormed e.ranges (.cwld f) = true → mayIssue s e 0xD9 f → sourcesPass e [{ reg := f.a.toNat }] →
      s.accessPending e.who .scratch (places.flatMap (·.2)) = false →
      ∃ t c p a, exec (.cwld f) s = .next t ∧ t.at? e.who = some c ∧ c.pc = e.cl.pc + 16 ∧ t.mem = s.mem
        ∧ t.landings = s.landings ++ [p] ∧ p.dst = .ordinary f.d.toNat (szRegs f.sz) ∧ p.mask = e.mask ∧ p.awaited = 0
        ∧ p.access = some a ∧ a.op = .load f.sz ∧ a.places = places)
    ∧ (WellFormed e.ranges (.cwst f) = true → mayIssue s e 0xDA f →
      sourcesPass e [{ reg := f.a.toNat }, { reg := f.b.toNat, width := szRegs f.sz, tag := moveCheck f }] →
      (f.ord = 2 → s.drained e = true) → s.accessPending e.who .scratch (places.flatMap (·.2)) = false →
      ∃ t c d, exec (.cwst f) s = .next t ∧ t.at? e.who = some c ∧ movedOn e.cl c 16 ∧ t.mem = s.mem
        ∧ t.chorus? e.who.chorus = some d
        ∧ leaves places (fun l => e.wideValue s f.b.toNat (szRegs f.sz) l) (e.ch.scratch.get 0) (d.scratch.get 0)))
  ∧ (∀ (s : State) (e : Env) (f : Fields), mayIssue s e 0xD8 f →
    (e.l.linked = false → givesWord (.cwinAttach f) s e f.d.toNat 16 0 (sameDevice s))
    ∧ (e.l.linked = true →
      let peers := (List.range e.hdr.sections).all fun k => k = e.ch.section_ || (e.ch.peers.get {} k).attached
      (∀ r, e.ch.attachResult = some r → givesWord (.cwinAttach f) s e f.d.toNat 16 r fun t => t.mem = s.mem)
      ∧ (e.ch.attachResult = none →
        (e.ch.departed = true → givesWord (.cwinAttach f) s e f.d.toNat 16 1 fun t => t.mem = s.mem)
        ∧ (e.ch.departed = false → peers = true → givesWord (.cwinAttach f) s e f.d.toNat 16 0 fun t => t.mem = s.mem)
        ∧ (e.ch.departed = false → peers = false → ∃ t c d, exec (.cwinAttach f) s = .next t ∧ t.at? e.who = some c
          ∧ c = { e.cl with progress := .attaching } ∧ t.chorus? e.who.chorus = some d ∧ d.attached = true
          ∧ (e.ch.attached = false → t.outbox = s.sent ((s.notices e.ch e.l).map Msg.attached)
            ∧ ∀ p ∈ s.notices e.ch e.l, .attached p ∈ t.crucible.placeOwed))))
    ∧ (s.owesWindow e = false → ∃ t c, exec (.cwinDetach f) s = .next t ∧ t.at? e.who = some c ∧ t.mem = s.mem
      ∧ c = { e.cl with detached := true, pc := e.cl.pc + 16 }))

/-- The step replay cache: STEP.CFG releases the context's entries and, for a valid size and region, takes new ones;
STEP.PROBE and STEP.STORE answer 5 without a region; a probe of a slot that holds no matching entry answers 1 and counts a
miss; a store holds its slot BUSY until it lands, and both its tiles with it (R324 to R327). Model choices in it: log 35. -/
def Obligations.StepReplayCache : Prop :=
  ∀ (s : State) (e : Env) (f : Fields),
    let die := e.ch.die
    let ctx := e.l.ctx
    let d := f.d.toNat
    let region (t : State) : Option StepRegion := (t.die die).stepRegion ctx
    (mayRun s e 0xDB f [f.a.toNat, f.a.toNat + 1, f.b.toNat] → s.stepStoring die ctx = false →
      let w := (e.read s f.b.toNat e.low).toNat
      let base := e.read64 s f.a.toNat e.low
      (w / 16 % 2 ^ 14 = 0 → promisesWord (.stepCfg f) s e d 16 0 fun t => t.mem = s.mem ∧ region t = none)
      ∧ (w / 16 % 2 ^ 14 ≠ 0 → stepSize w = none → promisesWord (.stepCfg f) s e d 16 3 fun t => t.mem = s.mem ∧ region t = none)
      ∧ ∀ tb n, w / 16 % 2 ^ 14 ≠ 0 → stepSize w = some (tb, n) →
        (base % (2 * tb) ≠ 0 → promisesWord (.stepCfg f) s e d 16 2 fun t => t.mem = s.mem ∧ region t = none)
        ∧ (base % (2 * tb) = 0 → s.xlate e.core ctx false (stepPages base (2 * tb * n)) = .ok →
          (∀ va ∈ stepPages base (2 * tb * n), pteW (s.leafOf e.core ctx va) = true ∧ homeOf (s.paOf e.core ctx va) = die
            ∧ s.paOf e.core ctx va % 2 ^ 39 < 2 ^ 36) →
          ((s.stepRelease die ctx).die die).stepUsed + n ≤ 8192 → promisesWord (.stepCfg f) s e d 16 0 fun t =>
            t.mem = s.mem ∧ region t = some { n, base, tb, tags := [] }))
    ∧ (mayIssue s e 0xDB f → (∀ r ∈ [f.a.toNat, f.b.toNat, f.c.toNat, f.e.toNat, f.f.toNat], e.poisonIn { reg := r } [e.low] = false) →
      let k := e.read s f.b.toNat e.low
      let step := e.read s f.c.toNat e.low
      (region s = none → promisesWord (.stepStore f) s e d 16 5 (sameDevice s)
        ∧ (e.srcFails { reg := f.f.toNat, tag := some 2 } = false → promisesWord (.stepProbe f) s e d 16 5 (sameDevice s)))
      ∧ ∀ r input output, region s = some r → e.stepTiles s f r.tb = some (input, output) → s.scratchPending e.who = false →
        s.accessPending e.who .scratch ((List.range r.tb).map (output + ·)) = false →
        let x := r.tags.get {} (k.toNat % r.n)
        (e.srcFails { reg := f.f.toNat, tag := some 2 } = false → x.valid = false ∨ x.busy = true ∨ x.key ≠ k →
          promisesWord (.stepProbe f) s e d 16 1 fun t => t.mem = s.mem ∧ ((s.die die).stepMiss.get 0 ctx ≠ BitVec.allOnes 32 →
            (t.die die).stepMiss.get 0 ctx = (s.die die).stepMiss.get 0 ctx + 1))
        ∧ (let base := r.base + 2 * r.tb * (k.toNat % r.n)
          s.xlate e.core ctx true (stepPages base (2 * r.tb)) = .ok → s.hasWrite e.who = false →
          (∀ p ∈ s.landings, p.who = e.who → p.access = none) →
          ∃ t p a pages, exec (.stepStore f) s = .next t ∧ t.mem = s.mem ∧ t.landings = s.landings ++ [p] ∧ p.dst = .ordinary d 1
            ∧ p.access = some a ∧ a.op = .stepStore ctx (k.toNat % r.n) k step input output r.tb base pages
            ∧ (∀ i, i < r.tb → (input + i) ∈ a.places.flatMap (·.2) ∧ (output + i) ∈ a.places.flatMap (·.2))
            ∧ ∀ q, region t = some q → (q.tags.get {} (k.toNat % r.n)).busy = true))

/-! ### Bins, collectives, groups and register blocks -/

/-- NREC answers 2 for a node that the context has not, 3 for one that is closed, 0 for a tag that the bin already holds and
1 for a bin without room, and its records then enter no bin; otherwise they enter as one group, and it answers 0 (R378,
R379). That FULL is decided by the slots that are taken is the model's choice (log 46). Model choices in it: log 17, log 46. -/
def Obligations.NodeRecords : Prop :=
  ∀ (s : State) (e : Env) (f : Fields), WellFormed e.ranges (.nrec f) = true → mayIssue s e 0xE0 f → s.drained e = true →
    let n := f.mod.toNat % 8 + 1
    (f.len = .w64 → e.poisonIn { reg := f.a.toNat } [e.low] = false) →
    (∀ i, i < n → e.poisonIn { reg := f.b.toNat + i } (lanesIn e.mask) = false) → (∀ d, (s.die d).contention = []) →
    e.cl.progress = .none →
    let k := if f.len = .w96 then f.imm.toNat else (e.read s f.a.toNat e.low).toNat
    let answers (status : Word) (more : State → Prop) : Prop := ∃ t c p, exec (.nrec f) s = .next t ∧ t.at? e.who = some c
      ∧ c.pc = e.cl.pc + BitVec.ofNat 32 f.len.bytes ∧ c.opc = e.cl.opc + 1 ∧ p ∈ t.landings ∧ p.who = e.who
      ∧ p.dst = .ordinary f.d.toNat 1 ∧ (∀ l, l < laneCount → lane (p.words.getD 0 []) l = status) ∧ more t
    let known (x : Node) : Prop := s.node? e.l.ctx k = some x ∧ k < (s.context e.l.ctx).nnodes
    (s.node? e.l.ctx k = none → answers 2 (sameDevice s))
    ∧ ∀ x, known x →
      (x.closed = true → answers 3 (sameDevice s))
      ∧ (x.closed = false → s.nodeOn x e.ch.die = false → answers 2 (sameDevice s))
      ∧ (x.closed = false → s.nodeOn x e.ch.die = true → n ≠ x.words → answers 2 (sameDevice s))
      ∧ (x.closed = false → s.nodeOn x e.ch.die = true → n = x.words →
        let b := x.bin e.ch.die
        (e.tag ∈ b.held → answers 0 (sameDevice s))
        ∧ (e.tag ∉ b.held → 2 ^ x.logcap - (s.slotsHeld x e.ch.die).length < (lanesIn e.mask).length → answers 1 (sameDevice s))
        ∧ (e.tag ∉ b.held → (lanesIn e.mask).length ≤ 2 ^ x.logcap - (s.slotsHeld x e.ch.die).length → s.binReady x e.ch.die = false → x.timer = 0 →
          b.recs.length + (lanesIn e.mask).length < x.count → (s.die e.ch.die).walks = [] → answers 0 fun t => ∃ y, t.node? e.l.ctx k = some y
            ∧ (y.bin e.ch.die).held = b.held ++ [e.tag]
            ∧ (y.bin e.ch.die).recs.map (·.words) = b.recs.map (·.words) ++
                (lanesIn e.mask).map fun l => (List.range n).map fun i => e.read s (f.b.toNat + i) l))

/-- COLL gives the handle of a future in D and takes an operation count: an invalid block makes the future FAILED with reason
1, a valid one enters the queue with this member's rank (R385 to R388). GRP.JOIN and GRP.LEAVE send a request to the owner
of the set and wait for its answer, and answer 6 for reserved bits (R407, R408). Model choices in it: log 37, log 38. -/
def Obligations.CollectivesAndGroups : Prop :=
  (∀ (s : State) (e : Env) (f : Fields) (key report i : Nat) (s' : State), mayRun s e 0xE1 f [f.a.toNat] → s.drained e = true →
    let addr := (e.read s f.a.toNat e.low).toNat
    addr % 128 = 0 → e.localKey 1 addr 128 = some key →
    let b := CollBlock.ofNumber (e.ch.number key 128)
    e.localKey 1 b.report 64 = some report → s.crucible.collsOpen.length < 64 →
    s.crucible.colls.find? (fun x => x.tag = e.tag && x.ctx = e.l.ctx) = none →
    s.allocFuture e.ch.die e.l.ctx .collective e.who.chorus = some (i, s') →
    let g := s.crucible.groups.get {} (b.set % 4096)
    let h : Word := BitVec.ofNat 32 (2 ^ 16 * (futureAt s e.ch.die i).gen.toNat + i)
    let answers (more : State → Prop) : Prop := givesWord (.coll f) s e f.d.toNat 8 h fun t =>
      t.mem = s.mem ∧ (∀ c, t.at? e.who = some c → c.opc = e.cl.opc + 1) ∧ more t
    (groupValid g e.l.ctx = false ∨ s.crucible.devnum ∉ g.members ∨ b.valid g.members.length = false → answers fun t =>
      (futureAt t e.ch.die i).state = .failed ∧ (futureAt t e.ch.die i).value = BitVec.ofNat 64 (2 ^ 57)
        ∧ t.crucible.colls = s.crucible.colls)
    ∧ (groupValid g e.l.ctx = true → ∀ rank, g.members.idxOf? s.crucible.devnum = some rank → b.valid g.members.length = true →
      answers fun t => (futureAt t e.ch.die i).state = .pending ∧ ∃ c, t.crucible.colls = s.crucible.colls ++ [c]
        ∧ c.future = i ∧ c.rank = rank ∧ c.members = g.members ∧ c.params = b.params ∧ c.tag = e.tag ∧ c.outcome = none
        ∧ c.seq = s.crucible.collSeq.get 0 (4096 * e.l.ctx + b.set)))
  ∧ (∀ (s : State) (e : Env) (f : Fields) (i : Instr) (leave : Bool), mayRun s e 0xE5 f [f.a.toNat] →
    (i = .grpJoin f ∧ leave = false) ∨ (i = .grpLeave f ∧ leave = true) →
    let w := (e.read s f.a.toNat e.low).toNat
    (2 ^ 29 ≤ w → promisesWord i s e f.d.toNat 8 6 (sameDevice s))
    ∧ (w < 2 ^ 29 → (s.srcKey e.l.ctx (w / 2 ^ 21 % 256)).valid = true → ∃ t c p r, exec i s = .next t ∧ t.at? e.who = some c
      ∧ c.pc = e.cl.pc + 8 ∧ t.mem = s.mem ∧ t.landings = s.landings ++ [p] ∧ p.dst = .ordinary f.d.toNat 1
      ∧ p.awaited = e.mask ∧ t.outbox = s.sent [.groupReq r] ∧ r.leave = leave ∧ r.set = w % 4096
      ∧ r.owner = w / 2 ^ 12 % 512 ∧ r.keyidx = w / 2 ^ 21 % 256 ∧ r.fromDev = s.crucible.devnum))

/-- The claims of a core position that a pool covers when it is scanned in the order of issue, each one lowering it (R106). -/
def scanned (pos : Nat) : Nat → List Claim → List Claim
  | _, [] => []
  | pool, x :: rest => if x.pos = pos ∧ x.k ≤ pool then x :: scanned pos (pool - x.k) rest else scanned pos pool rest

/-- A claim has completed: the clutch goes on at its next instruction with `more` registers, full and RAW, and its status word
stands in D in every active lane with tag RAW (R104, R106, R107). -/
def claimDone (n status more : Nat) (x : Claim) (cl c : Clutch) : Prop :=
  c.held = cl.held + more ∧ c.progress = .none ∧ c.pc = cl.pc + BitVec.ofNat 32 x.bytes
    ∧ (∀ reg, cl.held ≤ reg → reg < cl.held + more → reg ∉ c.empty ∧ c.tag reg = 0)
    ∧ (∀ reg l, reg < 253 → reg < cl.held ∨ cl.held + more ≤ reg → reg ≠ x.dst → c.word n reg l = cl.word n reg l)
    ∧ (x.dst < c.held ∨ isUniform n x.dst = true → x.dst < 253 → cl.mask ≠ 0 → c.tag x.dst = 0
      ∧ ∀ l, l < laneCount → inMask cl.mask l = true → c.word n x.dst l = BitVec.ofNat 32 (256 * (c.held / 8) + status))

/-- REGSURR gives up registers at the top of the private window, whose blocks enter the pool of the chorus on the core, and
answers 0, or 3 where it may not; REGCLAIM answers 2 beyond the limit and otherwise joins the queue of claims and stalls.
A grant scans the pending claims in order of issue, takes the blocks of each claim that the pool covers and answers it 0 with
the larger count; a deadlock answers 1 to every claim of the core (R104 to R107). -/
def Obligations.RegisterBlocks : Prop :=
  (∀ (s : State) (e : Env) (f : Fields),
    (f.len = .w64 → e.poisonIn { reg := f.b.toNat } [e.low] = false) →
    let k := if f.len = .w96 then f.imm.toNat else (e.read s f.b.toNat e.low).toNat
    let h := e.cl.held
    let status (h n : Nat) : Word := BitVec.ofNat 32 (256 * (h / 8) + n)
    let answers (i : Instr) (h n : Nat) (more : State → Clutch → Prop) : Prop := ∃ t c, exec i s = .next t
      ∧ t.at? e.who = some c ∧ c.pc = e.cl.pc + BitVec.ofNat 32 f.len.bytes ∧ t.mem = s.mem ∧ c.held = h
      ∧ (f.d.toNat < h ∨ isUniform e.hdr.uniform f.d.toNat = true → f.d.toNat < 253 →
          c.tag f.d.toNat = 0 ∧ ∀ l, l < laneCount → inMask e.mask l = true → c.word e.hdr.uniform f.d.toNat l = status h n)
      ∧ more t c
    (mayIssue s e 0xE7 f →
      (k < 1 ∨ 31 < k ∨ h < 8 * k + 8 → answers (.regsurr f) h 3 fun t _ => t.landings = s.landings)
      ∧ (1 ≤ k → k ≤ 31 → 8 * k + 8 ≤ h → (∀ r ∈ e.cl.empty, ¬ (h - 8 * k ≤ r ∧ r < h)) →
        answers (.regsurr f) (h - 8 * k) 0 fun t _ => ∃ d, t.chorus? e.who.chorus = some d
          ∧ d.pools.get 0 e.cl.pos = e.ch.pools.get 0 e.cl.pos + k))
    ∧ (mayIssue s e 0xE6 f → e.cl.progress ≠ .claiming →
      (k < 1 ∨ 31 < k ∨ 8 * ((256 - e.hdr.uniform) / 8) < h + 8 * k → answers (.regclaim f) h 2 fun t _ => t.landings = s.landings)
      ∧ (1 ≤ k → k ≤ 31 → h + 8 * k ≤ 8 * ((256 - e.hdr.uniform) / 8) → ∃ t c d, exec (.regclaim f) s = .next t
        ∧ t.at? e.who = some c ∧ c = { e.cl with progress := .claiming } ∧ t.chorus? e.who.chorus = some d ∧ t.mem = s.mem
        ∧ d.claims = e.ch.claims ++ [{ pos := e.cl.pos, clutch := e.who.clutch, k, dst := f.d.toNat, bytes := f.len.bytes }])))
  ∧ (∀ (s : State) (uid pos : Nat) (ch : Chorus) (l : Launch), s.chorus? uid = some ch → s.launch? ch.launch = some l →
    ch.status = .resident → (s.core (ch.coreAt pos)).stopped = false → (ch.claims.map (·.clutch)).Nodup →
    (∀ x ∈ ch.claims, (ch.clutch? x.clutch).isSome = true) →
    let pool := ch.pools.get 0 pos
    let completes (i : Instr) (gone : List Claim) (pool' status : Nat) (more : Claim → Nat) : Prop := ∃ t d, exec i s = .next t
      ∧ t.chorus? uid = some d ∧ t.mem = s.mem ∧ d.pools.get 0 pos = pool' ∧ (∀ x, x ∈ d.claims ↔ x ∈ ch.claims ∧ x ∉ gone)
      ∧ ∀ x ∈ ch.claims, ∀ cl, ch.clutch? x.clutch = some cl → ∃ c, d.clutch? x.clutch = some c
        ∧ (x ∈ gone → claimDone l.hdr.uniform status (more x) x cl c) ∧ (x ∉ gone → c = cl)
    ((∃ x ∈ ch.claims, x.pos = pos ∧ x.k ≤ pool) →
      let gone := scanned pos pool ch.claims
      completes (.regclaimGrant uid pos) gone (pool - (gone.map (·.k)).sum) 0 fun x => 8 * x.k)
    ∧ ((∀ x ∈ ch.claims, x.pos = pos → pool < x.k) → (∃ c ∈ ch.clutches, c.pos = pos ∧ c.ended = false) →
      (∀ c ∈ ch.clutches, c.pos = pos → c.ended = false → c.progress = .claiming) → (s.core (ch.coreAt pos)).dlstop = false →
      completes (.regclaimDeadlock uid pos) (ch.claims.filter fun x => x.pos = pos) pool 1 fun _ => 0))

/-! ### Core stops, errors and the end of a launch -/

/-- HALT stops a core; RESUME lets its clutches go on, one stopped by BREAK past its BKPT; ESCALATE and, after 100 ms,
STOPTIME end the launch of the stopping clutch with their codes (R193, R201 to R203). -/
def Sys2Proof.Claims.coreStops : Prop :=
  ∀ (s : State) (c : CoreId), let k := s.core c
    let runs (k : Core) : Core := { k with stopped := false, slot := 31, code := 0, stopper := none, stopInfo := none, pcWritten := false, stepping := none }
    let ends (i : Instr) (e : Env) (code inner : Nat) : Prop := ∃ t l, exec i s = .next t ∧ (t.core c).stopped = false
      ∧ t.launch? e.l.uid = some l ∧ l.ending = some .faulted ∧ l.report = some (e.report code inner e.mask) ∧ t.mem = s.mem
    (∃ t, exec (.halt c) s = .next t ∧ onlyCore s t c ∧ t.core c = if k.stopped then k else { k with
      stopped := true, slot := 31, code := 6, stopper := none, stopInfo := none, stopAt := s.now, pcWritten := false, stepping := none })
    ∧ (k.stopped = false → exec (.resume c) s = .next s ∧ exec (.escalate c) s = .next s ∧ exec (.stoptime c) s = .next s)
    ∧ (k.stopped = true → s.coreFrozen c = false → (∀ l ∈ s.launches, l.hdr.volCount = 0) →
      (∀ d ∈ s.choruses, d.deadlocked = []) → k.step = false →
      (k.stopper = none → ∃ t, exec (.resume c) s = .next t ∧ onlyCore s t c ∧ t.core c = runs k)
      ∧ ∀ who e, k.stopper = some who → s.env? who = some e →
        (k.code = 2 → k.pcWritten = false → ∃ t, exec (.resume c) s = .next t ∧ t.core c = runs k ∧ t.mem = s.mem
          ∧ t.at? who = some { e.cl with pc := e.cl.pc + 8 })
        ∧ (e.l.report = none → e.l.ending = none → ends (.escalate c) e 0x2E k.code
          ∧ (s.now < k.stopAt + 330000000 → exec (.stoptime c) s = .next s)
          ∧ (k.stopAt + 330000000 ≤ s.now → ends (.stoptime c) e 0x2F 0)))

/-- UNCORRECTABLE_ERROR marks a word of a register or of a moment register, a sector of scratchpad, of an accumulator row,
of memory or of an L1 as poisoned, changes no datum, and is logged (R94, R219). What the event's detail holds is log 69. -/
def Sys2Proof.Claims.uncorrectableErrors : Prop :=
  ∀ (s : State),
    (∀ (who : ClutchId) (reg l : Nat) (e : Env), s.anyEnv? who = some e → l < 96 → reg < e.cl.held →
      ∃ t c, exec (.uncorrectableError (.register who reg l)) s = .next t ∧ t.at? who = some c
        ∧ { c with poison := e.cl.poison } = e.cl ∧ t.mem = s.mem ∧ t.poisoned = s.poisoned
        ∧ logged s t .uncorrectable e.ch.die e.l.ctx (coreWord e.core) (2 ^ 16 * e.cl.id + 2 ^ 8 * reg + l)
        ∧ ∀ k, k ∈ c.poison ↔ k ∈ e.cl.poison ∨ k = poisonKey e.hdr.uniform reg l)
    ∧ (∀ (who : ClutchId) (reg l half : Nat) (e : Env), s.anyEnv? who = some e → l < 96 → reg < e.hdr.moments → half < 2 →
      ∃ t c, exec (.uncorrectableError (.moment who reg l half)) s = .next t ∧ t.at? who = some c
        ∧ { c with mpoison := e.cl.mpoison } = e.cl ∧ t.mem = s.mem ∧ t.poisoned = s.poisoned
        ∧ logged s t .uncorrectable e.ch.die e.l.ctx (coreWord e.core) (2 ^ 16 * e.cl.id + 2 ^ 8 * reg + l)
        ∧ ∀ k, k ∈ c.mpoison ↔ k ∈ e.cl.mpoison ∨ k = momentKey reg l half)
    ∧ (∀ n, mapped (64 * n) 64 = true → ∃ t, exec (.uncorrectableError (.sector n)) s = .next t ∧ t.mem = s.mem
        ∧ t.choruses = s.choruses ∧ (∀ k, k ∈ t.poisoned ↔ k ∈ s.poisoned ∨ k = n)
        ∧ logged s t .uncorrectable (homeOf (64 * n)) 0 0 (64 * n))
    ∧ (∀ (c : Chorus) (l : Launch) (pos n : Nat), s.chorus? c.uid = some c → s.launch? c.launch = some l → pos < c.cores.length →
      (64 * n < l.hdr.scratch → ∃ t d, exec (.uncorrectableError (.scratchpad c.uid pos n)) s = .next t
        ∧ t.chorus? c.uid = some d ∧ { d with scratchPoison := c.scratchPoison } = c ∧ t.mem = s.mem
        ∧ logged s t .uncorrectable c.die l.ctx (coreWord (c.coreAt pos)) (64 * n)
        ∧ ∀ k, k ∈ d.scratchPoison ↔ k ∈ c.scratchPoison ∨ k = 8192 * pos + n)
      ∧ ∀ sub row, sub < 4 → n < 8 → row < l.hdr.accRows →
        ∃ t d, exec (.uncorrectableError (.accumulator c.uid pos sub row n)) s = .next t
          ∧ t.chorus? c.uid = some d ∧ { d with accPoison := c.accPoison } = c ∧ t.mem = s.mem
          ∧ logged s t .uncorrectable c.die l.ctx (coreWord (c.coreAt pos)) (8 * row + n)
          ∧ ∀ k, k ∈ d.accPoison ↔ k ∈ c.accPoison ∨ k = ((4 * pos + sub) * 512 + row) * 8 + n)
    ∧ ∀ (c : CoreId) (n : Nat) (x : L1Sector), (s.core c).l1Sector? n = some x →
      ∃ t, exec (.uncorrectableError (.l1 c n)) s = .next t ∧ t.mem = s.mem ∧ t.poisoned = s.poisoned ∧ t.choruses = s.choruses
        ∧ logged s t .uncorrectable c.die 0 (coreWord c) (64 * n)
        ∧ (t.core c).l1Sector? n = some { x with poisoned := true }
        ∧ ∀ k, k ≠ n → (t.core c).l1Sector? k = (s.core c).l1Sector? k

/-- LAUNCH_FATAL_END: the choruses of a launch that a fault has ended are gone, once their gathered writes are performed, and
nothing more of it is placed (R204). -/
def Sys2Proof.Claims.launchFatalEnds : Prop :=
  ∀ (s : State) (l : Launch), s.launch? l.uid = some l → (s.launches.map (·.uid)).Nodup →
    l.stopped = false → l.ending = some .faulted → (s.context l.ctx).frozen = none → (∀ c ∈ s.choruses, c.launch = l.uid → s.writesOpen c.uid = false) →
    ∃ t m, exec (.launchFatalEnd l.uid) s = .next t ∧ (∀ c ∈ t.choruses, c.launch ≠ l.uid) ∧ t.launch? l.uid = some m
      ∧ m.stopped = true ∧ m.ending = some .faulted ∧ m.grants = [] ∧ m.report = l.report

/-- Core stops, uncorrectable errors, and the end of a launch that has faulted. Model choices in it: log 27, log 69. -/
def Obligations.CoreStopsAndErrors : Prop :=
  Sys2Proof.Claims.coreStops ∧ Sys2Proof.Claims.uncorrectableErrors ∧ Sys2Proof.Claims.launchFatalEnds

/-! ### Translation -/

/-- A page walk that finds a page fills the TLBs of the die and of the cores that wait; one that finds none stops the core
of a
waiting clutch with MISS and leaves its record (R225 to R227). MISSREC returns the oldest record. TLBINV is held until it
completes, a ninth one is dropped, and its completion removes the entries it covers (R228). Model choices in it: log 28. -/
def Obligations.TranslationEvents : Prop :=
  ∀ (s : State) (die : Nat), let d := s.die die
    (∀ (w : Walk), d.walks = [w] →
      (∀ va size pte, s.walk w.ctx (w.page * 2 ^ 16) = .page va size pte → va ≤ w.page * 2 ^ 16 → w.page * 2 ^ 16 < va + size →
        d.tlbPend = [] →
        let entry : TlbEntry := { ctx := w.ctx, va, size, pte := BitVec.ofNat 64 pte }
        ∃ t, exec (.pageWalkComplete die w.ctx w.page) s = .next t ∧ t.mem = s.mem ∧ t.choruses = s.choruses
          ∧ (t.die die).walks = [] ∧ entry ∈ (t.die die).tlb
          ∧ ∀ x ∈ w.waiters, ∀ e, s.env? x.1 = some e → entry ∈ (t.core e.core).tlb)
      ∧ (s.walk w.ctx (w.page * 2 ^ 16) = .none → ∀ who a va e, w.waiters = [(who, a, va)] → s.env? who = some e →
        e.ch.die = die → (s.core e.core).stopped = false → d.missRecs.length < 64 →
        ∃ t, exec (.pageWalkComplete die w.ctx w.page) s = .next t ∧ t.mem = s.mem ∧ t.choruses = s.choruses
          ∧ (t.core e.core).stopped = true ∧ (t.core e.core).code = 1 ∧ (t.core e.core).slot = 6 * e.cl.sub + e.cl.resPos
          ∧ (t.die die).missRecs = d.missRecs ++ [{ ctx := e.l.ctx, access := a, slot := 6 * e.cl.sub + e.cl.resPos,
                                                    coreid := coreWord e.core, va := va % 2 ^ 57 }]))
    ∧ (d.missRecs = [] → exec (.missrecRead die) s = .next { s with hostOut := 0 :: s.hostOut })
    ∧ (∀ m rest, d.missRecs = m :: rest → ∃ t, exec (.missrecRead die) s = .next t ∧ (t.die die).missRecs = rest ∧ t.mem = s.mem
        ∧ t.hostOut = (2 ^ 127 + 2 ^ 123 * m.ctx + 2 ^ 120 * m.access + 2 ^ 115 * m.slot + 2 ^ 107 * m.coreid + m.va) :: s.hostOut)
    ∧ (∀ (i : Instr) (x : TlbInv) (ctx page : Nat),
        (i = .tlbinvAll die ∧ x = { scope := 0, ctx := 0, page := 0 }) ∨ (i = .tlbinvContext die ctx ∧ x = { scope := 1, ctx, page := 0 })
          ∨ (i = .tlbinvPage die ctx page ∧ x = { scope := 2, ctx, page }) →
        ∃ t, exec i s = .next t ∧ onlyDie s t die ∧ t.die die = if d.tlbPend.length < 8 then
            { d with tlbPend := d.tlbPend ++ [{ x with walks := d.walks.map fun w => (w.ctx, w.page) }] } else { d with tlbDrop := true })
    ∧ (∀ i rest, d.tlbPend = i :: rest → noContention s → i.walks = [] →
        s.inFlight die i = false →
        ∃ t, exec (.tlbinvComplete die) s = .next t ∧ onlyDie s t die ∧ (t.die die).tlbPend = rest
          ∧ (t.die die).tlb = d.tlb.filter (fun x => !i.covers x.ctx x.va x.size)
          ∧ ∀ k, ((t.die die).core k).tlb = (d.core k).tlb.filter fun x => !i.covers x.ctx x.va x.size)

/-! ### Remote operations on their way -/

/-- REMOTE_SEND takes the oldest instruction of a core's queue: its elements and requests go on the fabric under the keys of
their context, each against a credit of its destination, and what finds no credit waits, its demand announced; an invalid
key freezes the context, and what has no route is refused (R296, R309, R310, R437). RETRANSMIT sends an unsettled element again, or a waiting one for the first
time; UNREACH_DEADLINE refuses it after its time limit. -/
def Sys2Proof.Claims.remoteSource : Prop :=
  (∀ (s : State) (c : CoreId) (q : Queued) (rest : List Queued) (ctx : Nat), (s.core c).queue = q :: rest → q.ctx = some ctx →
    (s.context ctx).frozen = none → (∀ x ∈ q.elems, x.mcast = none ∧ s.leaseFor { x with key := (s.srcKey ctx x.keyidx).key } = none) →
    ((∀ x, q.elems = [x] → q.reqs = [] → s.routed x.dstDev = false → ∀ l, s.launch? q.launch = some l → ∃ t m,
      exec (.remoteSend c) s = .next t ∧ (t.core c).queue = rest ∧ t.mem = s.mem ∧ t.outbox = s.outbox ∧ t.launch? q.launch = some m
        ∧ m.refusals = min (l.refusals + 1) 0xFFFFFFFF))
    ∧ ((∀ x ∈ q.elems, s.routed x.dstDev = true) → (∀ a ∈ q.reqs, s.routed a.req.dstDev = true) →
    let keyed (x : Element) : Element := { x with key := (s.srcKey ctx x.keyidx).key }
    let asks (a : Asked) : ReadReq := { a.req with key := (s.srcKey ctx a.req.keyidx).key }
    let need (k : Nat) : Nat := q.elems.countP (fun x => 256 * x.dstDev + x.keyidx = k)
      + q.reqs.countP (fun a => 256 * a.req.dstDev + a.req.keyidx = k)
    let enough (dev keyidx : Nat) : Prop :=
      dev = s.crucible.devnum ∨ need (256 * dev + keyidx) ≤ s.crucible.credits.get 0 (256 * dev + keyidx)
    ((∀ x ∈ q.elems, (s.srcKey ctx x.keyidx).valid = true) → (∀ a ∈ q.reqs, (s.srcKey ctx a.req.keyidx).valid = true) →
      ((∀ x ∈ q.elems, enough x.dstDev x.keyidx) → (∀ a ∈ q.reqs, enough a.req.dstDev a.req.keyidx) →
        ∃ t, exec (.remoteSend c) s = .next t ∧ (t.core c).queue = rest ∧ t.mem = s.mem
          ∧ t.outbox = s.sent (q.elems.map (fun x => Msg.elem (keyed x)) ++ q.reqs.map (fun a => Msg.rreq (asks a)))
          ∧ t.crucible.unsettled.map (·.elem) = s.crucible.unsettled.map (·.elem) ++ q.elems.map keyed
          ∧ t.crucible.asked.map (·.req) = s.crucible.asked.map (·.req) ++ q.reqs.map asks)
      ∧ (∀ x, q.elems = [x] → q.reqs = [] → x.keyidx < 256 → s.credited x.dstDev x.keyidx = false →
        ∃ t u, exec (.remoteSend c) s = .next t ∧ (t.core c).queue = rest ∧ t.mem = s.mem
          ∧ t.crucible.unsettled = s.crucible.unsettled ++ [u] ∧ u.elem = keyed x ∧ u.sent = false ∧ u.deadline = s.now + 33000000
          ∧ ∃ p, t.outbox = s.sent [.demand p] ∧ p.dstDev = x.dstDev ∧ p.keyidx = x.keyidx ∧ 1 ≤ p.units))
    ∧ ((∃ x ∈ q.elems, (s.srcKey ctx x.keyidx).valid = false) →
      ∃ t, exec (.remoteSend c) s = .next t ∧ (t.context ctx).frozen = some 0x40 ∧ t.mem = s.mem ∧ t.outbox = s.outbox)))
  ∧ (∀ (s : State) (keyidx : Nat) (tag : DWord) (lane dev : Nat) (u : Unsettled),
    let k := s.srcKey u.elem.ctx keyidx
    (s.dueOf keyidx tag lane dev (fun u => u.notBefore ≤ s.now) = some u → (s.context u.elem.ctx).frozen = none → s.routed dev = true → k.valid = true →
      (s.credited dev keyidx = true → ∃ t, exec (.retransmit keyidx tag lane dev) s = .next t ∧ t.mem = s.mem
        ∧ t.outbox = s.sent [.elem { u.elem with key := k.key }]
        ∧ { u with elem := { u.elem with key := k.key }, sent := true, deadline := if u.sent then u.deadline else s.now + 33000000 }
            ∈ t.crucible.unsettled)
      ∧ (s.credited dev keyidx = false → exec (.retransmit keyidx tag lane dev) s = .next (s.announce u.elem.ctx dev keyidx)))
    ∧ (s.routed dev = false → exec (.retransmit keyidx tag lane dev) s = .next s)
    ∧ ((∀ v ∈ s.crucible.unsettled, s.now < v.notBefore) → s.crucible.asked = [] →
      exec (.retransmit keyidx tag lane dev) s = .next s)
    ∧ ((∀ v ∈ s.crucible.unsettled, s.now < v.deadline) → s.crucible.asked = [] →
      exec (.unreachDeadline keyidx tag lane dev) s = .next s)
    ∧ (s.dueOf keyidx tag lane dev (fun u => u.deadline ≤ s.now) = some u → u.elem.mcast = none → ∀ l, s.launch? u.launch = some l →
      ∃ t m, exec (.unreachDeadline keyidx tag lane dev) s = .next t ∧ t.unsettledOf keyidx tag lane dev u.elem.epoch = none
        ∧ t.mem = s.mem ∧ t.launch? u.launch = some m ∧ m.refusals = min (l.refusals + 1) 0xFFFFFFFF
        ∧ (l.first = none → m.first = some { reason := .unreach, lane, dev, tag, addr := u.elem.addr })))

/-- An element at its home (R297, R298, R309, R310, R411): under an accepted key and with credit left, an integer addition to a
plain page is applied once and acknowledged, one that the filter of its home die holds, or that has no home any more, changes nothing; a wrong key or
a missing credit drops it. It waits while the walk of its address cannot run. -/
def Sys2Proof.Claims.remoteHome : Prop :=
  ∀ (s : State) (x : Element) (n : Nat), fromPeer s x.srcDev x.dstDev → x.win = none → x.pa = none → x.arr = none → x.op = .add n →
    let k := s.rcvKey x.keyidx
    let ack (r : AckResult) : Msg := .ack (x.ack r)
    let credit := s.crucible.granted.get 0 (256 * x.srcDev + x.keyidx)
    (k.accepts x.key = false → exec (.elem x) s = .next { s with outbox := s.sent [ack .keyViolation] })
    ∧ (k.accepts x.key = true → credit = 0 → exec (.elem x) s = .next { s with outbox := s.sent [ack .shareViolation] })
    ∧ (k.accepts x.key = true → credit ≠ 0 →
      (s.bringHome k.ctx [x.addr.toNat] = none → exec (.elem x) s = .next s)
      ∧ ∀ b, s.bringHome k.ctx [x.addr.toNat] = some b →
        (b.spot k.ctx x.addr.toNat = .miss → ∃ t, exec (.elem x) s = .next t ∧ t.mem = s.mem
          ∧ t.outbox = s.sent [ack (if b.knows x.keyidx x.tag x.lane then .duplicate else .refused .miss)])
        ∧ ∀ pa, b.spot k.ctx x.addr.toNat = .page pa 0 x.keyidx →
          (b.knowsAt (homeOf pa) x.keyidx x.tag x.lane = true → ∃ t, exec (.elem x) s = .next t ∧ t.mem = s.mem
            ∧ t.outbox = s.sent [ack .duplicate])
          ∧ (b.knowsAt (homeOf pa) x.keyidx x.tag x.lane = false → x.lane < 96 → s.poisoned = [] → noContention b →
            b.filterRoom (homeOf pa) x.keyidx x.tag = true → ∃ t, exec (.elem x) s = .next t ∧ sameOutside s t pa n
              ∧ t.number pa n = (s.number pa n + x.data) % 2 ^ (8 * n) ∧ t.outbox = s.sent [ack .applied]
              ∧ filterHolds (t.die (homeOf pa)).filter x.keyidx x.tag x.lane = true
              ∧ t.crucible.granted.get 0 (256 * x.srcDev + x.keyidx) = credit - 1))

/-- The answers: an acknowledgement settles its element, a refusal is counted for the launch and the first one kept, BUSY backs
off from 1 µs doubling to 1 ms, a key violation freezes the context, and an answer whose key the port does not accept is
dropped (R296, R305, R309). A read request is answered with the bytes; a reply fills the destination of the lanes that wait;
DEMAND notes what a device has to send, and GRANT moves credits within the share of the tenant (R301, R310, R315). -/
def Sys2Proof.Claims.remoteAnswers : Prop :=
  (∀ (s : State) (a : Ack) (u : Unsettled), fromPeer s a.fromDev a.toDev →
    s.unsettledOf a.keyidx a.tag a.lane a.fromDev a.epoch = some u → u.elem.mcast = none →
    let passes := (s.rcvKey a.keyidx).accepts a.key = true
    (passes → a.result ∈ [.applied, .duplicate, .stale] → ∃ t, exec (.ack a) s = .next t ∧ t.mem = s.mem ∧ t.launches = s.launches
      ∧ t.unsettledOf a.keyidx a.tag a.lane a.fromDev a.epoch = none)
    ∧ (∀ r l, passes → a.result = .refused r → s.launch? u.launch = some l → ∃ t m, exec (.ack a) s = .next t ∧ t.mem = s.mem
      ∧ t.unsettledOf a.keyidx a.tag a.lane a.fromDev a.epoch = none ∧ t.launch? u.launch = some m
      ∧ m.refusals = min (l.refusals + 1) 0xFFFFFFFF ∧ (∀ x, l.first = some x → m.first = some x)
      ∧ (l.first = none → m.first = some { reason := r, lane := a.lane, dev := a.fromDev, tag := a.tag, addr := u.elem.addr }))
    ∧ (passes → a.result = .busy → let b := if u.backoff = 0 then 3300 else min (2 * u.backoff) 3300000
      ∃ t, exec (.ack a) s = .next t ∧ onlyCrucible s t ∧ t.unsettledOf a.keyidx a.tag a.lane a.fromDev a.epoch
        = some { u with backoff := b, notBefore := s.now + b, deadline := s.now + 33000000 })
    ∧ (a.result = .keyViolation → (s.context u.elem.ctx).frozen = none → ∃ t, exec (.ack a) s = .next t ∧ t.mem = s.mem
      ∧ (t.context u.elem.ctx).frozen = some 0x40)
    ∧ ((s.rcvKey a.keyidx).accepts a.key = false → a.result ≠ .keyViolation → exec (.ack a) s = .next s))
  ∧ (∀ (s : State) (r : ReadReq) (n : Nat) (landing : DWord) (arr : Option DWord), fromPeer s r.srcDev r.dstDev →
    r.kind = .get n landing arr → r.pa = none →
    let answer (b : ReplyBody) : Msg := .rreply { req := r, fromDev := s.crucible.devnum, body := b }
    let k := s.rcvKey r.keyidx
    (k.accepts r.key = false → exec (.rreq r) s = .next { s with outbox := s.sent [answer .keyViolation] })
    ∧ (k.accepts r.key = true → s.creditLeft r.srcDev r.keyidx = false →
      exec (.rreq r) s = .next { s with outbox := s.sent [answer .shareViolation] })
    ∧ (k.accepts r.key = true → s.creditLeft r.srcDev r.keyidx = true → ∀ b pa kind, s.bringHome k.ctx [r.addr.toNat] = some b →
      b.spot k.ctx r.addr.toNat = .page pa kind r.keyidx → noContention s → s.poisoned = [] →
      ∃ t, exec (.rreq r) s = .next t ∧ t.mem = s.mem ∧ t.outbox = s.sent [answer (.bytes (s.number pa n))]))
  ∧ (∀ (s : State) (r : ReadReply) (a : Asked) (v id first : Nat) (p : Landing) (e : Env) (nb : Nat) (w : WinTarget),
    fromPeer s r.fromDev r.req.srcDev → s.crucible.asked.find? (fun b => b.req.id = r.req.id && b.req.dstDev = r.fromDev) = some a →
    r.body = .bytes v → a.req.kind = .window nb w → a.landing = some id → s.landings.find? (fun q => q.id = id) = some p →
    p.words = [] → p.awaited = a.mask → p.access = none → p.mask ≠ 0 → p.dst = .ordinary first (loadWords a.mode v).length →
    s.anyEnv? p.who = some e →
    ∃ t c, exec (.rreply r) s = .next t ∧ t.mem = s.mem ∧ t.at? p.who = some c ∧ t.landings = s.landings.filter (fun q => q.id ≠ id)
      ∧ (∀ b ∈ t.crucible.asked, b.req.id ≠ a.req.id)
      ∧ wrote e.hdr.uniform p.mask first (loadWords a.mode v).length (fun j _ => BitVec.ofNat 32 ((loadWords a.mode v).getD j 0)) e.cl c)
  ∧ (∀ (s : State) (p : Pace), fromPeer s p.srcDev p.dstDev → let key := 256 * p.srcDev + p.keyidx
    ((s.rcvKey p.keyidx).accepts p.key = true →
      (∃ t, exec (.demand p) s = .next t ∧ onlyCrucible s t ∧ t.crucible.demands.get 0 key = p.units)
      ∧ ∃ t, exec (.grant p) s = .next t ∧ onlyCrucible s t
        ∧ t.crucible.credits.get 0 key = s.crucible.credits.get 0 key + 4 * p.units)
    ∧ ((s.rcvKey p.keyidx).accepts p.key = false → exec (.demand p) s = .next s ∧ exec (.grant p) s = .next s))
  ∧ (∀ (s : State) (p : Pace), p.srcDev = s.crucible.devnum → p.dstDev ≠ s.crucible.devnum → (s.rcvKey p.keyidx).valid = true →
    let key := 256 * p.dstDev + p.keyidx
    let demand := s.crucible.demands.get 0 key
    (1 ≤ p.units → p.units ≤ demand → s.pacedNow p.keyidx + p.units ≤ s.paceShare p.keyidx →
      ∃ t, exec (.grant p) s = .next t ∧ t.mem = s.mem ∧ t.crucible.granted.get 0 key = s.crucible.granted.get 0 key + 4 * p.units
        ∧ t.crucible.demands.get 0 key = demand - p.units
        ∧ t.outbox = s.sent [.grant { p with key := (s.rcvKey p.keyidx).key }])
    ∧ (demand < p.units ∨ s.paceShare p.keyidx < s.pacedNow p.keyidx + p.units → exec (.grant p) s = .next s))

/-- Remote operations from the queue to their answers. Model choices in it: log 12, log 32, log 70, log 71, log 74. -/
def Obligations.RemoteOperationsTravel : Prop :=
  Sys2Proof.Claims.remoteSource ∧ Sys2Proof.Claims.remoteHome ∧ Sys2Proof.Claims.remoteAnswers

/-! ### Leases and the fabric -/

/-- Combining leases (R307, R308, R412, R413): the home grants one to a device that has sent 4,096 elements to a region; the
lessee holds at most 16, merges an element into its deltas and acknowledges it, merges its own without sending them, and
returns the deltas when the lease is recalled or has lasted its time; the home applies each delta as one effect. The counts
of a contention window clear after 10 µs. -/
def Sys2Proof.Claims.leases : Prop :=
  (∀ (s : State) (l : Lease) (x : Contention), l.homeDev = s.crucible.devnum → l.lessee ≠ s.crucible.devnum →
    (s.die l.homeDie).contention = [x] → x.region = l.region → x.source = l.lessee → x.lease = none → 4096 ≤ x.count →
    x.kind ∈ [0, 2] → homeOf (65536 * l.region) = l.homeDie →
    ∃ t g, exec (.leaseGrant l) s = .next t ∧ t.mem = s.mem ∧ t.outbox = s.sent [.leaseGrant g] ∧ g.held = (s.die l.homeDie).filter
      ∧ g.homeDev = l.homeDev ∧ g.homeDie = l.homeDie ∧ g.lessee = l.lessee ∧ g.region = l.region
      ∧ (t.die l.homeDie).contention = [{ x with lease := some g, recalled := false }])
  ∧ (∀ (s : State) (l : Lease), fromPeer s l.homeDev l.lessee → (∀ h ∈ s.crucible.leases, h.lease ≠ l) →
    ((s.rcvKey l.keyidx).accepts l.key = false → exec (.leaseGrant l) s = .next s)
    ∧ ((s.rcvKey l.keyidx).accepts l.key = true →
      (s.crucible.leases.length < 16 → ∃ t, exec (.leaseGrant l) s = .next t ∧ onlyCrucible s t
        ∧ t.crucible.leases = s.crucible.leases ++ [{ lease := l, held := l.held, granted := s.now, lastMerge := s.now }])
      ∧ (16 ≤ s.crucible.leases.length →
        exec (.leaseGrant l) s = .next { s with outbox := s.sent [.leaseReturn l [] []] })))
  ∧ (∀ (s : State) (l : Lease) (x : Element) (h : HeldLease) (pa : Nat), fromPeer s l.homeDev l.lessee →
    s.crucible.leases = [h] → h.lease = l → x.pa = some pa →
    let ack (r : AckResult) : Msg := .ack (x.ack r)
    ((s.rcvKey x.keyidx).accepts x.key = true →
      (h.knows x = true → exec (.leaseForward l x) s = .next { s with outbox := s.sent [ack .duplicate] })
      ∧ (h.held = [] → h.entries = [] → h.deltas = [] → x.lane < 96 → ∃ t g, exec (.leaseForward l x) s = .next t ∧ t.mem = s.mem
        ∧ t.outbox = s.sent [ack .applied] ∧ t.crucible.leases = [g] ∧ g.lease = l ∧ g.deltas = [{ pa, op := x.op, value := x.data }]
        ∧ g.lastMerge = s.now ∧ filterHolds g.entries x.keyidx x.tag x.lane = true))
    ∧ ((s.rcvKey l.keyidx).accepts l.key = true → ∃ t, exec (.leaseRecall l) s = .next t ∧ t.mem = s.mem ∧ t.crucible.leases = []
      ∧ t.outbox = s.sent [.leaseReturn l h.deltas h.entries])
    ∧ (h.granted + 330000 ≤ s.now ∨ h.lastMerge + 33000 ≤ s.now → ∃ t, exec (.leaseExpiry l) s = .next t ∧ t.mem = s.mem
      ∧ t.crucible.leases = [] ∧ t.outbox = s.sent [.leaseReturn l h.deltas h.entries])
    ∧ (s.now < h.granted + 330000 → s.now < h.lastMerge + 33000 → exec (.leaseExpiry l) s = .next s))
  ∧ (∀ (s : State) (c : CoreId) (q : Queued) (x : Element) (ctx : Nat) (h : HeldLease), (s.core c).queue = [q] → q.ctx = some ctx →
    q.elems = [x] → q.reqs = [] → x.mcast = none → s.routed x.dstDev = true → (s.context ctx).frozen = none →
    (s.srcKey ctx x.keyidx).valid = true →
    s.leaseFor { x with key := (s.srcKey ctx x.keyidx).key } = some h → s.crucible.leases = [h] → h.knows x = false → h.entries = [] →
    h.deltas = [] → ∃ t g, exec (.remoteSend c) s = .next t ∧ t.mem = s.mem ∧ t.outbox = s.outbox
      ∧ t.crucible.unsettled = s.crucible.unsettled ∧ t.crucible.leases = [g]
      ∧ g.deltas = [{ pa := 65536 * h.lease.region + x.addr.toNat % 65536, op := x.op, value := x.data }])
  ∧ (∀ (s : State) (l : Lease) (x : Contention) (pa n v : Nat), fromPeer s l.lessee l.homeDev → (s.die l.homeDie).contention = [x] →
    (s.rcvKey l.keyidx).accepts l.key = true → x.lease = some l → pa / 65536 = l.region →
    ∃ t, exec (.leaseReturn l [{ pa, op := .add n, value := v }] []) s = .next t ∧ sameOutside s t pa n
      ∧ t.number pa n = (s.number pa n + v) % 2 ^ (8 * n)
      ∧ (t.die l.homeDie).contention = [{ x with lease := none, recalled := false }])
  ∧ (∀ (s : State) (die : Nat),
    (s.now < (s.die die).contendAt + 33000 → exec (.contentionWindow die) s = .next s)
    ∧ ((s.die die).contendAt + 33000 ≤ s.now → ∃ t, exec (.contentionWindow die) s = .next t ∧ onlyDie s t die
      ∧ t.die die = { s.die die with
          contendAt := s.now, contention := (s.die die).contention.map fun x => { x with count := 0 } }))

/-- The release of a chorus's identities empties a filter of its tags (R306, R411); an unknown message is discarded and logged,
a port that goes down leaves use, and a device to which every path has been down for 10 ms is noted as lost and logged (R436). -/
def Sys2Proof.Claims.fabricReports : Prop :=
  (∀ (s : State) (die keyidx pre : Nat) (win : Bool), (s.die die).contention = [] →
    (match s.ownRelease die keyidx pre with
      | some key => (s.rcvKey keyidx).accepts key
      | none => (s.rcvKey keyidx).valid) = true →
    ∃ t, exec (.release die keyidx pre win) s = .next t ∧ t.mem = s.mem
      ∧ (∀ key, s.ownRelease die keyidx pre = some key → t.outbox = s.outbox.erase (.release s.crucible.devnum die keyidx pre key))
      ∧ (∀ x, x ∈ (t.die die).filter ↔ x ∈ (s.die die).filter
          ∧ ¬ (x.keyidx = keyidx ∧ x.tag.toNat / 2 ^ 25 = pre ∧ (x.win = true ∨ win = false)))
      ∧ ∀ d, d ≠ die → t.die d = s.die d)
  ∧ (∀ (s : State) (code : Nat),
    (1 ≤ code → code ≤ 0x0B → exec (.unknownMessage code) s = .next s)
    ∧ (code = 0 ∨ 0x0B < code → ∃ t, exec (.unknownMessage code) s = .next t ∧ onlyCrucible s t ∧ logged s t .unknownMessage 0 0 0 code))
  ∧ (∀ (s : State) (port : Nat),
    (32 ≤ port → exec (.linkDown port) s = .next s)
    ∧ (port < 32 → ∃ t, exec (.linkDown port) s = .next t ∧ onlyCrucible s t
      ∧ (∀ k, k ∈ t.crucible.portsDown ↔ k ∈ s.crucible.portsDown ∨ k = port)
      ∧ (s.crucible.portDownAt.get 0 port = 0 → t.crucible.portDownAt.get 0 port = s.now + 1)))
  ∧ (∀ (s : State) (dev : Nat), dev < 512 → dev ≠ s.crucible.devnum →
    (dev ∈ s.crucible.lostPeers ∨ s.cutOff dev = false → exec (.peerLost dev) s = .next s)
    ∧ ((∃ p, p < 32 ∧ s.crucible.portDownAt.get 0 p = 0 ∧ s.crucible.peerDownAt.get 0 (32 * dev + p) = 0) → s.cutOff dev = false)
    ∧ (dev ∉ s.crucible.lostPeers → s.cutOff dev = true → noContention s → s.crucible.colls = [] → s.crucible.groups = [] → s.crucible.groupWork = [] →
      (∀ l ∈ s.launches, dev ∉ l.members) → ∃ t, exec (.peerLost dev) s = .next t ∧ onlyCrucible s t
        ∧ t.crucible.lostPeers = s.crucible.lostPeers ++ [dev] ∧ logged s t .lostDevice 0 0 0 dev
        ∧ ∀ h, h ∈ t.crucible.leases ↔ h ∈ s.crucible.leases ∧ h.lease.homeDev ≠ dev))

/-- Leases, filter releases and what the fabric reports. Model choices in it: log 32, log 54, log 70, log 74. -/
def Obligations.LeasesAndFabric : Prop := Sys2Proof.Claims.leases ∧ Sys2Proof.Claims.fabricReports

/-! ### Linked placement, groups and collectives -/

/-- The coordinator of a linked launch (R311): it notes a RESERVED answer and commits when every member has given one; NOROOM or
100 µs of silence make it abort; 1 ms later, or at the refuser's next retirement, it asks again. A mismatch of headers or
members ends the launch with BAD_HEADER (R362). -/
def Sys2Proof.Claims.coordinator : Prop :=
  ∀ (s : State) (l : Launch) (k : LinkRec) (p : Place), s.launch? l.uid = some l → l.section_ = 0 → l.ending = none → l.links = [k] →
    k.index = p.index →
    let dev := s.crucible.devnum
    let place (m i : Nat) : Place := { srcDev := dev, dstDev := m, lid := l.lid, index := k.index, epoch := k.epoch, section_ := i
                                       keyidx := l.keyidx, key := (s.srcKey l.ctx l.keyidx).key }
    let to_ (g : Nat → Nat → Msg) : List Msg := l.members.zipIdx.map fun x => g x.1 x.2
    let link (t : State) (x : LinkRec) : Prop := ∃ m, t.launch? l.uid = some m ∧ m.links = [x] ∧ m.ending = none
    let aborts (i : Instr) (refuser : Option Nat) : Prop := ∃ t, exec i s = .next t ∧ t.mem = s.mem
      ∧ link t { k with asking := false, since := s.now, refuser }
      ∧ t.outbox = s.sent (to_ fun m i => .abort { place m i with attempt := k.attempt })
      ∧ ∀ x ∈ to_ (fun m i => .abort { place m i with attempt := k.attempt }), x ∈ t.crucible.placeOwed
    let asks (i : Instr) : Prop := ∃ t, exec i s = .next t ∧ t.mem = s.mem
      ∧ link t { k with attempt := k.attempt + 1, answered := [], asking := true, committed := false, since := s.now, refuser := none }
      ∧ t.outbox = s.sent (to_ fun m i =>
        .reserve { place m i with attempt := k.attempt + 1, hdr := l.hdr.fields, members := l.members })
    (fromPeer s p.srcDev p.dstDev → (s.rcvKey p.keyidx).accepts p.key = true → s.linkedLaunch p = some l →
      (k.asking = true → p.attempt = k.attempt → l.members.getD p.section_ 512 = p.srcDev →
        let answered := setInsert k.answered p.section_
        ((∃ j, j < l.members.length ∧ j ∉ answered) → ∃ t, exec (.placeReserved p) s = .next t ∧ t.mem = s.mem
          ∧ link t { k with answered } ∧ t.outbox = s.outbox)
        ∧ ((∀ j, j < l.members.length → j ∈ answered) → ∃ t, exec (.placeReserved p) s = .next t ∧ t.mem = s.mem
          ∧ link t { k with asking := false, committed := true, epoch := (k.epoch + 1) % 2 ^ 16, since := s.now }
          ∧ t.outbox = s.sent (to_ fun m i => .commit { place m i with attempt := k.attempt })
          ∧ ∀ x ∈ to_ (fun m i => .commit { place m i with attempt := k.attempt }), x ∈ t.crucible.placeOwed))
      ∧ (p.bad = true → ∃ t m, exec (.placeNoroom p) s = .next t ∧ t.mem = s.mem ∧ t.launch? l.uid = some m ∧ m.ending = some .badHeader)
      ∧ (p.bad = false → k.asking = true → p.attempt = k.attempt → aborts (.placeNoroom p) (some p.srcDev))
      ∧ ((s.context l.ctx).places = true → k.asking = false → k.committed = false → k.refuser = some p.srcDev →
        asks (.placeRetired p)))
    ∧ (k.asking = true → (s.now < k.since + 330000 → exec (.reserveTimeout l.uid k.index) s = .next s)
      ∧ (k.since + 330000 ≤ s.now → aborts (.reserveTimeout l.uid k.index)
          ((l.members.zipIdx.find? fun x => !k.answered.contains x.2).map (·.1))))
    ∧ ((s.context l.ctx).places = true → k.asking = false → k.committed = false →
      (s.now < k.since + 3300000 → exec (.placeRetry l.uid k.index) s = .next s)
      ∧ (k.since + 3300000 ≤ s.now → asks (.placeRetry l.uid k.index)))

/-- The members of a linked launch (R311 to R313, R318, R319, R321): a reserve that finds room holds the cores for the section and
is answered RESERVED, one without room NOROOM; a commit makes the section resident under its epoch, an abort releases it;
the coordinator's ABANDON takes it from its cores; the notices of a peer are noted for the placement they name. -/
def Sys2Proof.Claims.members : Prop :=
  ∀ (s : State) (p : Place), fromPeer s p.srcDev p.dstDev → (s.rcvKey p.keyidx).accepts p.key = true →
    let back : Place := { p with srcDev := p.dstDev, dstDev := p.srcDev, hdr := [], members := [] }
    (s.reservedLaunch p = none → ∃ t, exec (.placeReserve p) s = .next t ∧ onlyCrucible { s with outbox := t.outbox } t
      ∧ t.outbox = s.sent [.noroom { back with bad := false }])
    ∧ (∀ (l : Launch), s.reservedLaunch p = some l → s.launch? l.uid = some l → l.hdr.fields = p.hdr → l.members = p.members →
      s.sectionOf l p.index = none → l.waits.get 0 p.index = 0 →
      (s.passAll.modLaunch l.uid fun l => { l with waits := l.waits.set 0 p.index (1 + s.now) }).sectionRoom l
        { uid := s.fresh, launch := l.uid, index := p.index, section_ := l.section_, die := 0 } 0 = none →
      ∃ t, exec (.placeReserve p) s = .next t ∧ t.mem = s.mem ∧ t.choruses.map (·.uid) = s.choruses.map (·.uid)
        ∧ t.outbox = s.sent [.noroom { back with bad := false }] ∧ { back with bad := false, attempt := 0 } ∈ t.crucible.owedNotices)
    ∧ (∀ (l : Launch) (die : Nat) (cores : List Nat) (r : Room), s.reservedLaunch p = some l → s.launch? l.uid = some l →
      l.hdr.fields = p.hdr → l.members = p.members → s.sectionOf l p.index = none → l.waits.get 0 p.index = 0 →
      (s.passAll.modLaunch l.uid fun l => { l with waits := l.waits.set 0 p.index (1 + s.now) }).sectionRoom l
        { uid := s.fresh, launch := l.uid, index := p.index, section_ := l.section_, die := 0 } 0 = some (die, cores, r) →
      s.asleep = false → (∀ d k, ((s.die d).core k).resting = false) → s.chorus? s.fresh = none →
      ∃ t c, exec (.placeReserve p) s = .next t ∧ t.mem = s.mem ∧ t.outbox = s.sent [.reserved back]
        ∧ t.chorus? s.fresh = some c ∧ c.status = .reserved ∧ c.die = die ∧ c.cores = cores ∧ c.launch = l.uid ∧ c.index = p.index
        ∧ c.epoch = p.epoch ∧ c.attempt = p.attempt)
    ∧ (∀ (l : Launch) (c : Chorus), s.reservedLaunch p = some l → s.launch? l.uid = some l → s.sectionOf l p.index = some c →
      s.chorus? c.uid = some c → c.status = .reserved →
      (c.attempt = p.attempt → s.windowHeld = [] → ∃ t d m, exec (.placeCommit p) s = .next t ∧ t.mem = s.mem
        ∧ t.outbox = s.sent [.acked (.commit p)]
        ∧ t.chorus? c.uid = some d ∧ d = { c with status := .resident, epoch := p.epoch, placed := s.fresh }
        ∧ t.launch? l.uid = some m ∧ m.epochs.get 0 p.index = p.epoch + 1)
      ∧ (c.attempt ≤ p.attempt → l.epochs.get 0 p.index = 0 → ∃ t, exec (.placeAbort p) s = .next t
        ∧ ∀ x ∈ t.choruses, x.uid ≠ c.uid))
    ∧ ∀ (l : Launch) (c : Chorus), s.linkedLaunch p = some l → s.launch? l.uid = some l → s.sectionOf l p.index = some c →
      s.chorus? c.uid = some c → c.status = .resident → c.epoch < 2 ^ 16 → c.epoch = p.epoch →
      (l.section_ ≠ 0 → p.srcDev = l.coordinator → (s.context l.ctx).deactivating = false → ∃ t d, exec (.placeAbandon p) s = .next t
        ∧ t.chorus? c.uid = some d ∧ d.status = .abandoned ∧ d.clutches = [] ∧ d.cores = [] ∧ d.index = c.index ∧ d.epoch = c.epoch)
      ∧ (∃ t, exec (.placeAttached p) s = .next t ∧ { t with choruses := s.choruses, outbox := s.outbox } = s
        ∧ t.outbox = s.sent [.acked (.attached p)]
        ∧ t.chorus? c.uid = some ({ c with peers := c.peers.modify {} p.section_ fun x => { x with attached := true } }.settleAttach l.hdr.sections))
      ∧ (∃ t, exec (.placeDetached p) s = .next t ∧ { t with choruses := s.choruses, outbox := s.outbox } = s
        ∧ t.outbox = s.sent [.acked (.detached p)]
        ∧ t.chorus? c.uid = some ({ c with peers := c.peers.modify {} p.section_ fun x => { x with detached := true } }.settleAttach l.hdr.sections))
      ∧ (p.bad = true → ∃ t m, exec (.placeDepart p) s = .next t ∧ t.mem = s.mem ∧ t.launch? l.uid = some m ∧ m.ending = some .badHeader)
      ∧ (p.bad = false → ∃ t m d, exec (.placeDepart p) s = .next t ∧ t.mem = s.mem ∧ t.launch? l.uid = some m ∧ m.departed.isSome = true
        ∧ t.chorus? c.uid = some d ∧ d = { c with departed := true }.settleAttach l.hdr.sections)

/-- Linked placement. Model choices in it: log 39, log 74. -/
def Obligations.LinkedPlacement : Prop := Sys2Proof.Claims.coordinator ∧ Sys2Proof.Claims.members

/-- Membership sets and collectives: a device that joins a set which nobody owns becomes its first member and owner; a member
installs the entry that the owner sends and acknowledges it; an unanswered GRP ends with status 4 after 10 ms (R406 to
R408).
A contribution of another member is kept until all have come; a member that withdraws, or whose device is lost, makes the
future FAILED with reason 6 or 4 and its rank (R389, R391, R392). Model choices in it: log 37, log 38, log 74. -/
def Obligations.GroupsAndCollectiveSteps : Prop :=
  (∀ (s : State) (r : GroupReq), r.fromDev = s.crucible.devnum → r.owner = s.crucible.devnum → Msg.groupReq r ∈ s.outbox →
    (s.rcvKey r.keyidx).accepts r.key = true → (∀ w ∈ s.crucible.groupWork, w.set ≠ r.set) → s.group r.set = {} →
    r.leave = false →
    ∃ t, exec (.groupRequest r) s = .next t ∧ t.mem = s.mem
      ∧ t.group r.set = { valid := true, ctx := (s.rcvKey r.keyidx).ctx, keyidx := r.keyidx, owner := s.crucible.devnum, gen := 0,
                          members := [s.crucible.devnum] }
      ∧ t.outbox = s.outbox.erase (.groupReq r) ++ [.group {
          fromDev := s.crucible.devnum, toDev := s.crucible.devnum, set := r.set, keyidx := r.keyidx,
          key := (s.srcKey r.ctx r.keyidx).key, body := .answer 0, ask := r.ask }])
  ∧ (∀ (s : State) (m : GroupMsg) (entry : Group), fromPeer s m.fromDev m.toDev → (s.rcvKey m.keyidx).accepts m.key = true →
    m.body = .install entry → entry.valid = true →
    let ctx := (s.rcvKey m.keyidx).ctx
    let answer (full : Bool) : Msg := .group {
      fromDev := s.crucible.devnum, toDev := m.fromDev, set := m.set, keyidx := m.keyidx, key := (s.srcKey ctx m.keyidx).key,
      body := .installed full }
    ((s.group m.set).valid = false ∨ (s.group m.set).keyidx = m.keyidx → ∃ t, exec (.groupInstall m) s = .next t ∧ t.mem = s.mem
      ∧ t.group m.set = { entry with ctx, keyidx := m.keyidx } ∧ t.outbox = s.sent [answer false])
    ∧ ((s.group m.set).valid = true → (s.group m.set).keyidx ≠ m.keyidx →
      exec (.groupInstall m) s = .next { s with outbox := s.sent [answer true] }))
  ∧ (∀ (s : State) (set : Nat) (a : GroupAsk) (p : Landing) (e : Env) (d : Nat), (∀ w ∈ s.crucible.groupWork, w.set ≠ set) →
    s.crucible.groupAsks = [a] → a.req.set = set →
    (s.now < a.since + 33000000 → exec (.groupTimeout set) s = .next s)
    ∧ (a.since + 33000000 ≤ s.now → s.landings.find? (fun q => q.id = a.landing) = some p → p.words = [] → p.awaited = p.mask →
      p.access = none → p.mask ≠ 0 → p.dst = .ordinary d 1 → s.anyEnv? p.who = some e →
      ∃ t c, exec (.groupTimeout set) s = .next t ∧ t.mem = s.mem ∧ t.crucible.groupAsks = [] ∧ t.at? p.who = some c
        ∧ wrote e.hdr.uniform p.mask d 1 (fun _ _ => 4) e.cl c ∧ t.landings = s.landings.filter fun q => q.id ≠ a.landing))
  ∧ (∀ (s : State) (m : CollStep) (c : Collective) (rank gen : Nat) (params : CollParams) (elems : List Nat),
    fromPeer s m.fromDev m.toDev → (s.rcvKey m.keyidx).accepts m.key = true → s.collOf m.set m.seq m.fromDev = some (c, rank) →
    c.ctx = (s.rcvKey m.keyidx).ctx → (s.context c.ctx).frozen = none → m.body = .contribution gen params elems →
    (∀ x ∈ c.got, x.1 ≠ rank) → gen = c.gen → params = c.params → c.got.length + 1 < c.members.length →
    ∃ t, exec (.collstep m) s = .next t ∧ onlyCrucible s t ∧ { c with got := c.got ++ [(rank, elems)], said := c.said ++ [(rank, gen, params)] } ∈ t.crucible.colls)
  ∧ (∀ (s : State) (set seq dev rank : Nat) (withdrew : Bool) (c : Collective), dev ≠ s.crucible.devnum →
    s.collOf set seq dev = some (c, rank) → withdrew = true ∨ dev ∈ s.crucible.lostPeers → c.lost = [] → c.others = [] →
    (∀ x ∈ c.members.zipIdx, x.1 ∈ s.crucible.lostPeers → x.2 = rank) → (∀ t₀, c.begun = some t₀ → s.now < t₀ + 33000000) →
    livePending (futureAt s c.die c.future) →
    ∃ t, exec (.collMemberLost set seq dev withdrew) s = .next t ∧ (futureAt t c.die c.future).state = .failed
      ∧ (futureAt t c.die c.future).value = BitVec.ofNat 64 (2 ^ 57 * (if withdrew then 6 else 4) + min 511 rank))

/-! ### Launches and placement -/

/-- The grant of indices, heartbeats and lost dies (R22 to R24): a grant takes the next indices in order, as far as they go, and first those of a lost die again; a
serving die answers a heartbeat, one every 10 µs, or misses it; after four misses it is lost, and the launch of a kernel that cannot restart
ends with DIE_LOST. -/
def Sys2Proof.Claims.dispatchers : Prop :=
  (∀ (s : State) (l : Launch) (die n : Nat), s.launch? l.uid = some l → l.node = none → l.linked = false → l.ending = none → die ∈ l.dies →
    s.dieLive die = true → (s.context l.ctx).active = true → (s.context l.ctx).frozen = none → (s.context l.ctx).deactivating = false →
    n ≤ 32 → l.grants.countP (fun g => g.die = die) < 8 → l.links = [] → l.total ≤ 2 ^ 24 →
    let run := (List.range (min n (l.total - l.next))).map (l.next + ·)
    ∃ t m, exec (.chorusIndexGrant l.uid die n) s = .next t ∧ { t with launches := s.launches } = s ∧ t.launch? l.uid = some m
      ∧ (l.again = [] → m.next = l.next + run.length ∧ m.live = l.live ++ run.map (fun j => (j, die))
        ∧ m.grants = l.grants ++ run.map fun j => { die, index := j, since := s.now })
      ∧ (l.again ≠ [] → m.next = l.next ∧ m.again = l.again.drop n
        ∧ m.grants = l.grants ++ (l.again.take n).map fun x => { die, index := x.1, since := s.now, uid := x.2 }))
  ∧ (∀ (s : State), s.now < s.crucible.beatAt + 33000 → exec .heartbeat s = .next s)
  ∧ (∀ (s : State), s.crucible.beatAt + 33000 ≤ s.now → ∃ t, exec .heartbeat s = .next t
    ∧ { t with dies := s.dies, tick := s.tick, crucible := { t.crucible with beatAt := s.crucible.beatAt } } = s
    ∧ t.crucible.beatAt = s.now ∧ ∀ d, let x := s.die d
      (x.serving = false ∨ x.lost = true → t.die d = x)
      ∧ (x.serving = true → x.lost = false → t.die d = { x with missed := 0 } ∨ t.die d = { x with missed := x.missed + 1 }))
  ∧ (∀ (s : State) (die : Nat), let d := s.die die
    (d.missed < 4 → exec (.dieLost die) s = .next s)
    ∧ (4 ≤ d.missed → d.serving = true → d.lost = false →
      (∀ l ∈ s.launches, l.ending = none → die ∈ l.dies → l.hdr.restartable = false) → (s.launches.map (·.uid)).Nodup →
      ∃ t, exec (.dieLost die) s = .next t ∧ t.mem = s.mem ∧ t.choruses = s.choruses
        ∧ t.die die = { d with lost := true, serving := false } ∧ t.crucible.intcause.getLsbD 2 = true
        ∧ ∀ l ∈ s.launches, l.ending = none → l.report = none → die ∈ l.dies → ∃ m, t.launch? l.uid = some m
          ∧ m.ending = some .faulted ∧ m.dies = l.dies.filter (· ≠ die)
          ∧ m.report = some { code := 0x31, section_ := l.section_ }))

/-- Queues (R357 to R361): a doorbell of an enabled queue moves its tail and writes TAIL of the descriptor, any other sets its bit
of QERR; a record that may be taken becomes a launch, HEAD moves on, and one that fails check 1 ends with BAD_HEADER. -/
def Sys2Proof.Claims.queues_ : Prop :=
  (∀ (s : State) (q v : Nat), s.crucible.ready = true → q < 64 → (s.queue q).head ≠ (s.queue q).tail →
    let x := s.queue q
    (x.enabled = true → v < 2 ^ x.logsize → x.logsize ≤ 16 → ∃ t, exec (.qdoor q v) s = .next t ∧ t.queue q = { x with tail := v }
      ∧ sameOutside s t (s.queueAddr q + 16) 4 ∧ t.number (s.queueAddr q + 16) 4 = v)
    ∧ (x.enabled = false ∨ 2 ^ x.logsize ≤ v → ∃ t, exec (.qdoor q v) s = .next t ∧ onlyCrucible s t ∧ t.queue q = x
      ∧ t.crucible.qerr = s.crucible.qerr ||| BitVec.ofNat 64 (2 ^ q)))
  ∧ (∀ (s : State) (q : Nat), s.crucible.ready = true → q < 64 → s.mayTakeRecord q = true → s.servedFirst q = true → noContention s →
    let x := s.queue q
    (s.die ((s.participating (s.context x.ctx)).headD 0)).walks = [] →
    let w := s.number (x.ring + 128 * x.head) 128
    let head := (x.head + 1) % 2 ^ x.logsize
    ∃ t l, exec (.launchTake q) s = .next t ∧ t.launches = s.launches ++ [l] ∧ l.uid = s.fresh ∧ l.ctx = x.ctx ∧ l.prio = x.prio
      ∧ l.queue = some q ∧ l.image = w % 2 ^ 64 ∧ l.args = BitVec.ofNat 64 (w / 2 ^ 64) ∧ l.statusVa = w / 2 ^ 128 % 2 ^ 64
      ∧ l.doneVa = w / 2 ^ 192 % 2 ^ 64 ∧ l.lid = w / 2 ^ 320 % 2 ^ 16 ∧ t.queue q = { x with head, running := some s.fresh }
      ∧ sameOutside s t (s.queueAddr q + 12) 4 ∧ (x.logsize ≤ 16 → t.number (s.queueAddr q + 12) 4 = head)
      ∧ (launchRecordOk w = false → l.ending = some .badHeader ∧ l.stopped = true))

/-- Placement (R16, R363, R365, R366): the first candidate that fits becomes resident, and its clutches enter the kernel at its
entry with every lane active, its arguments in registers 0 and 1, zero in the others and their accumulator window, but for
volatile registers of a chorus that starts again after a forced pre-emption; waiting times lower a class by
one every 2 ms and mark a candidate that has waited 6 ms. -/
def Sys2Proof.Claims.placement : Prop :=
  (∀ (s : State) (die k : Nat) (l : Launch) (c : Chorus) (cores : List Nat) (r : Room), s.crucible.ready = true → s.dieLive die = true →
    (((s.ageAll die).starveAll die).passClusters die).firstFitting die k = some (l, c, cores, r) → c.status ≠ .saved → c.die = die →
    s.asleep = false → (∀ d n, ((s.die d).core n).resting = false) → 8 ≤ l.hdr.regs → l.hdr.regs + l.hdr.uniform ≤ 256 →
    ∃ t d, exec (.dispatcherPlacement die k) s = .next t ∧ t.mem = s.mem ∧ t.chorus? c.uid = some d ∧ d.status = .resident
      ∧ d.cores = cores ∧ d.index = c.index ∧ d.launch = c.launch ∧ d.clutches.length = l.hdr.clutches
      ∧ ∀ cl ∈ d.clutches, cl.pc = BitVec.ofNat 32 (l.variants.get {} die).entry ∧ cl.held = l.hdr.regs ∧ cl.ended = false
          ∧ cl.path = BitVec.allOnes 96 ∧ cl.mask = BitVec.allOnes 96 ∧ cl.exited = 0 ∧ cl.stack = [] ∧ cl.empty = []
          ∧ cl.fmode = 0 ∧ cl.mcr = 0 ∧ cl.ehbase = 0 ∧ cl.acclim = cl.accbase + BitVec.ofNat 32 l.hdr.accRows
          ∧ ∀ reg i, reg < 253 → i < 96 → (c.restarts = true → ¬ (l.hdr.volFirst ≤ reg ∧ reg < l.hdr.volFirst + l.hdr.volCount)) →
            cl.word l.hdr.uniform reg i = if reg = 0 then l.args.setWidth 32 else if reg = 1 then (l.args >>> 32).setWidth 32 else 0)
  ∧ (∀ (s : State) (die : Nat), (∃ t, exec (.energyClassAging die) s = .next t ∧ { t with choruses := s.choruses, launches := s.launches } = s
      ∧ ∀ c ∈ s.choruses, c.die = die → c.status ∈ [.released, .abandoned, .saved] →
          { c with aged := max c.aged (min 3 ((s.now - c.since) / 6600000)) } ∈ t.choruses)
    ∧ ∃ t, exec (.candidateStarved die) s = .next t ∧ { t with choruses := s.choruses, launches := s.launches } = s
      ∧ ∀ c ∈ s.choruses, c.die = die → c.status ∈ [.released, .abandoned, .saved] →
          { c with starved := c.starved || c.since + 19800000 ≤ s.now } ∈ t.choruses)

/-- Endings (R16, R348, R373, R381): a chorus whose clutches have ended retires and its launch counts it; a bin that holds COUNT
records releases a chorus with them; a launch that has ended writes its status record and is gone. -/
def Sys2Proof.Claims.endings : Prop :=
  (∀ (s : State) (l : Launch) (c : Chorus), s.chorus? c.uid = some c → s.launch? l.uid = some l → c.launch = l.uid →
    s.mayRetire l c = true → l.linked = false → l.node = none → (s.context l.ctx).deactivating = false →
    ∃ t m, exec (.chorusRetire c.uid) s = .next t ∧ (∀ x ∈ t.choruses, x.uid ≠ c.uid) ∧ t.launch? l.uid = some m
      ∧ m.retired = l.retired + 1)
  ∧ (∀ (s : State) (ctx num die : Nat) (n : Node), s.node? ctx num = some n → s.binReady n die = true →
    (n.bin die).recs.length ≤ n.count →
    let b := n.bin die
    ∃ t m c, exec (.binTimer ctx num die) s = .next t ∧ t.mem = s.mem ∧ t.choruses = s.choruses ++ [c] ∧ c.launch = n.launch
      ∧ c.die = die ∧ c.status = .released ∧ c.index = (4 * b.released + die) % 2 ^ 32 ∧ c.records.length = b.recs.length
      ∧ t.node? ctx num = some m ∧ (m.bin die).recs = [] ∧ (m.bin die).released = b.released + 1 ∧ (m.bin die).held = b.held)
  ∧ (∀ (s : State) (l : Launch) (st : LaunchEnd) (places : List Nat), s.launch? l.uid = some l → s.endOf l = some st → l.doneVa = 0 →
    noContention s → s.engineSpan l.leader l.ctx l.statusVa 128 = some places → places.Nodup →
    s.bringSpans l.leader l.ctx [(l.statusVa, 128), (l.doneVa, 0)] = some s →
    (s.context l.ctx).deactivating = false →
    ∃ t, exec (.launchComplete l.uid) s = .next t ∧ (∀ x ∈ t.launches, x.uid ≠ l.uid)
      ∧ numberOf (places.map (Memory.read t.mem)) = l.statusNumber st (s.die l.leader).cycle.toNat % 2 ^ 1024
      ∧ ∀ q, q ∉ places → Memory.read t.mem q = Memory.read s.mem q)

/-- Launches from the queue to their end. Model choices in it: log 43, log 44, log 48, log 51, log 67, log 73. -/
def Obligations.LaunchesAndPlacement : Prop :=
  Sys2Proof.Claims.dispatchers ∧ Sys2Proof.Claims.queues_ ∧ Sys2Proof.Claims.placement ∧ Sys2Proof.Claims.endings

/-! ### Pre-emption and contexts -/

/-- The context commands and the context switch (R355, R356, R367 to R370): ACTIVATE takes its descriptor; POLITE holds the
context
and lets its choruses run on for DRAIN, FORCED abandons restartable choruses at once, DEACTIVATE ends the context, RESUME
lifts the hold; a command on an inactive context reports 4. After QUANTUM a cluster that another context waits for drains,
and after DRAIN a chorus that is ready for it is saved with its registers. Model choices in it: log 42, log 47, log 50, log 73. -/
def Obligations.PreemptionAndContexts : Prop :=
  (∀ (s : State) (ctx : Nat), s.crucible.ready = true → ctx < 16 → s.crucible.ctxBusy = none → (s.context ctx).frozen = none →
    let c := s.context ctx
    let does (i : Instr) (result : Nat) (more : State → Context → Prop) : Prop := ∃ t, exec i s = .next t
      ∧ t.crucible.ctxBusy = none ∧ t.crucible.ctxResult = result ∧ t.mem = s.mem ∧ more t (t.context ctx)
    (c.active = false → (∀ i ∈ [Instr.polite ctx, .forced ctx, .deactivate ctx, .ctxResume ctx], does i 4 fun _ d => d = c)
      ∧ let w := s.number (s.crucible.ctxbase.toNat / 64 * 64 + 64 * ctx) 64
        (descriptorOk w = false → does (.activate ctx) 1 fun _ d => d = c)
        ∧ (descriptorOk w = true → s.overShared ctx (recField w 8 6) = true → does (.activate ctx) 2 fun _ d => d = c)
        ∧ (descriptorOk w = true → s.overShared ctx (recField w 8 6) = false → nodeCount (s.crucible.ntbase.get 0 ctx) = 0 →
          does (.activate ctx) 0 fun _ d => d.active = true ∧ d.held = false ∧ d.ptroot = w % 2 ^ 64 ∧ d.clusters = w / 2 ^ 64 % 2 ^ 48
            ∧ d.quantum = w / 2 ^ 128 % 2 ^ 32 ∧ d.drain = w / 2 ^ 160 % 2 ^ 32 ∧ d.saveBase = w / 2 ^ 192 % 2 ^ 64
            ∧ d.saveSize = w / 2 ^ 256 % 2 ^ 64))
    ∧ (c.active = true → c.deactivating = false →
      does (.ctxResume ctx) 0 (fun _ d => d = { c with held := false })
      ∧ (s.anyResident ctx = true → ∃ t, exec (.polite ctx) s = .next t ∧ t.crucible.ctxBusy = some (2, ctx) ∧ t.mem = s.mem
        ∧ t.choruses = s.choruses ∧ t.context ctx = { c with held := true, drains := c.drains ++ [(s.now, none)] })
      ∧ (s.anyResident ctx = false → ∀ i ∈ [Instr.polite ctx, .forced ctx], does i 0 fun t d => d.held = true ∧ t.choruses = s.choruses)
      ∧ (∀ uid l x, s.runningOf ctx = [uid] → s.chorus? uid = some x → x.status = .resident → s.launch? x.launch = some l → l.hdr.restartable = true →
        l.ending = none → l.linked = false → ∃ t y, exec (.forced ctx) s = .next t ∧ t.chorus? uid = some y
          ∧ y.status = .abandoned ∧ y.clutches = [] ∧ y.index = x.index ∧ (t.context ctx).held = true)
      ∧ ((∀ l ∈ s.launches, l.ctx ≠ ctx) → s.crucible.groups = [] → does (.deactivate ctx) 0 fun _ d => d.active = false)))
  ∧ (∀ (s : State) (die cluster n t0 : Nat), cluster < 12 → (s.holder die cluster).ctx = some n → (s.holder die cluster).since = some t0 →
    let c := s.context n
    let bit := 12 * die + cluster
    (c.quantum = 0 ∨ s.now < t0 + c.quantum * 3300 → exec (.quantumExpiry die cluster) s = .next s)
    ∧ (c.active = true → c.frozen = none → c.quantum ≠ 0 → t0 + c.quantum * 3300 ≤ s.now → c.draining bit = false →
      (s.listing die cluster).any (fun m => m ≠ n && s.wants m die cluster) = true → s.residentOn n die cluster = true →
      ∃ t, exec (.quantumExpiry die cluster) s = .next t ∧ t.mem = s.mem ∧ t.choruses = s.choruses
        ∧ (s.now, some bit) ∈ (t.context n).drains))
  ∧ (∀ (s : State) (ctx t0 uid : Nat) (l : Launch) (c : Chorus), let x := s.context ctx
    x.drains = [(t0, none)] → x.frozen = none →
    (s.now < t0 + x.drain * 3300 → exec (.drainExpiry ctx) s = .next s)
    ∧ (t0 + x.drain * 3300 ≤ s.now → x.deactivating = false → s.runningOf ctx = [uid] → s.chorus? uid = some c →
      s.launch? c.launch = some l → c.status = .resident → l.ctx = ctx → l.ending = none → l.linked = false → x.hasRoom l.hdr = true →
      s.besideSection c = false → s.stoppedCore c = false → s.quietFor c = true → s.copies = [] → noContention s →
      (s.savePlace l).isSome = true → (∀ k ∈ c.clutches, k.poison = [] ∧ k.mpoison = []) → c.scratchPoison = [] → c.accPoison = [] →
      ∃ t d, exec (.drainExpiry ctx) s = .next t ∧ (∀ pa, pa ∉ s.saveSpan l → Memory.read t.mem pa = Memory.read s.mem pa) ∧ t.chorus? uid = some d ∧ d.status = .saved
        ∧ d.clutches.map (·.regs) = c.clutches.map (·.regs) ∧ d.clutches.map (·.uni) = c.clutches.map (·.uni)
        ∧ d.clutches.map (·.mregs) = c.clutches.map (·.mregs) ∧ d.scratch = c.scratch ∧ d.acc = c.acc ∧ d.tiles = c.tiles
        ∧ d.barriers = c.barriers ∧ d.index = c.index ∧ d.cores = c.cores))

/-! ### Readiness, the host and the controller -/

/-- Readiness levels (R372, R435): a core that has been idle for 10 µs rests, a device that has been idle for 1 ms or 10 ms takes
level 2 or 3, each as far as LATTOL admits, and writes its die caches back; a wake takes 2 µs, 200 µs or 5 ms and then returns everything to level 0. -/
def Sys2Proof.Claims.readiness : Prop :=
  (∀ (s : State) (c : CoreId), let k := s.core c
    (s.now < k.idleSince + 33000 → exec (.enterL1 c) s = .next s)
    ∧ (s.dieLive c.die = true → c.core < 48 → s.coreIdle c = true → 2 ≤ s.crucible.lattol.toNat → s.crucible.wakeAt = none →
      k.idleSince + 33000 ≤ s.now →
      ∃ t, exec (.enterL1 c) s = .next t ∧ onlyCore s t c ∧ t.core c = { k with resting := true }))
  ∧ (∀ (s : State) (i : Instr) (level wait need : Nat), (i, level, wait, need) ∈ [(Instr.enterL2, 2, 3300000, 200), (.enterL3, 3, 33000000, 5000)] →
    (s.now < s.idleFrom + wait → exec i s = .next s)
    ∧ (s.crucible.ready = true → s.deviceIdle = true → need ≤ s.crucible.lattol.toNat → s.crucible.level < level →
      s.crucible.wakeAt = none → s.idleFrom + wait ≤ s.now →
      exec i s = .next { s with
        crucible := { s.crucible with level }
        dies := s.dies.map fun d => (d.1, { d.2 with cache := d.2.cache.map fun x => { x with dirty := [] } }) }))
  ∧ (∀ (s : State),
    (s.crucible.wakeAt = none → s.crucible.level ∈ [2, 3] → exec .wake s = .next { s with crucible := { s.crucible with
      wakeAt := some (s.now + if s.crucible.level = 2 then 660000 else 16500000) } })
    ∧ (s.crucible.wakeAt = none → s.asleep = false → s.coresRest = true → exec .wake s = .next { s with crucible := { s.crucible with
      wakeAt := some (s.now + 6600) } })
    ∧ (∀ t0, s.crucible.wakeAt = some t0 → exec .wake s = .next s
      ∧ (s.now < t0 → exec .wakeComplete s = .next s)
      ∧ (t0 ≤ s.now → ∃ t, exec .wakeComplete s = .next t ∧ t.mem = s.mem ∧ t.crucible.level = 0 ∧ t.crucible.wakeAt = none
        ∧ t.crucible.lattol = s.crucible.heldLattol.getD s.crucible.lattol ∧ (∀ d k, ((t.die d).core k).resting = false)
        ∧ t.agenda = s.crucible.heldEvents.map Turn.event ++ s.agenda))
    ∧ ∀ v, s.crucible.ready = true → s.crucible.wakeAt = none →
      (s.asleep = false → s.coresRest = false → exec (.lattolWrite v) s
        = .next { s with crucible := { s.crucible with lattol := v, idleSince := s.now } })
      ∧ (s.crucible.level ∈ [2, 3] → ∃ t, exec (.lattolWrite v) s = .next t ∧ onlyCrucible s t ∧ t.crucible.lattol = s.crucible.lattol
        ∧ t.crucible.heldLattol = some v ∧ t.crucible.wakeAt.isSome = true))

/-- Host accesses (R429, R433, R434): a write within one sector waits in the arbitration window of its home; a read returns the
bytes; outside the mapped ranges a write is dropped, a read returns all ones, and both are logged. An event counter clears
when it is read, and a register takes a write by its access type. -/
def Sys2Proof.Claims.hostAccesses : Prop :=
  (∀ (s : State) (pa port : Nat) (data : List Byte), port < 2 → data ≠ [] → data.length ≤ 512 → s.crucible.ready = true →
    (mapped pa data.length = true → pa / 64 = (pa + data.length - 1) / 64 → ∃ t w, exec (.hostWrite pa port data) s = .next t
      ∧ t.mem = s.mem ∧ (t.die (homeOf pa)).windows = (s.die (homeOf pa)).windows ++ [w] ∧ w.rank = 3 ∧ w.order = port ∧ w.who = none
      ∧ w.bytes.map (·.1) = (List.range data.length).map (pa + ·) ∧ w.bytes.map (·.2) = data)
    ∧ (mapped pa data.length = false → ∃ t, exec (.hostWrite pa port data) s = .next t ∧ onlyCrucible s t
      ∧ logged s t .droppedAccess (homeOf pa) 0 0 pa))
  ∧ (∀ (s : State) (pa n port : Nat), port < 2 → 1 ≤ n → n ≤ 4096 → s.crucible.ready = true →
    (mapped pa n = true → noContention s → s.poisoned = [] → ∃ t, exec (.hostRead pa n port) s = .next t ∧ t.mem = s.mem
      ∧ t.hostOut = s.number pa n :: s.hostOut ∧ t.outbox = s.outbox)
    ∧ (mapped pa n = false → ∃ t, exec (.hostRead pa n port) s = .next t ∧ t.mem = s.mem ∧ t.hostOut = (2 ^ (8 * n) - 1) :: s.hostOut
      ∧ logged s t .droppedAccess (homeOf pa) 0 0 pa))
  ∧ (∀ (s : State) (die ctx : Nat), s.crucible.ready = true → let d := s.die die
    let reads (which : Nat) (v : Word) (x : Die) : Prop := (d.counted.get (0, 0, 0) (16 * which + ctx)).1 ≠ s.now + 1 → ∃ t, exec (.eventCounterRead die ctx which) s = .next t
      ∧ t.hostOut = v.toNat :: s.hostOut ∧ t.die die = x ∧ t.mem = s.mem
    reads 0 (d.stepHit.get 0 ctx) { d with stepHit := d.stepHit.set 0 ctx 0 }
      ∧ reads 1 (d.stepMiss.get 0 ctx) { d with stepMiss := d.stepMiss.set 0 ctx 0 }
      ∧ reads 2 (d.conflict.get 0 ctx) { d with conflict := d.conflict.set 0 ctx 0 })
  ∧ (∀ (s : State) (v port die : Nat), port < 2 → s.crucible.ready = true → s.portOneWrote = [] → s.portBusy port = false →
    let w : Word := BitVec.ofNat 32 v
    let writes (b : Block) (offset width : Nat) (p : State → Prop) : Prop := ∃ t, exec (.registerWrite b offset width v port) s = .next t
      ∧ p { t with crucible := { t.crucible with portOne := s.crucible.portOne } } ∧ (port = 0 → t.crucible.portOne = s.crucible.portOne)
    writes .crucible 0x10 4 (· = { s with crucible := { s.crucible with intcause := s.crucible.intcause &&& ~~~w } })
      ∧ writes .crucible 0x120 8 (· = { s with crucible := { s.crucible with qtbase := BitVec.ofNat 64 v } })
      ∧ writes .crucible 0x128 8 (· = { s with crucible := { s.crucible with ctxbase := BitVec.ofNat 64 v } })
      ∧ writes .crucible 0x110 8 (· = { s with crucible := { s.crucible with qerr := s.crucible.qerr &&& ~~~BitVec.ofNat 64 v } })
      ∧ (die < 4 → ∀ n, n < 4 → writes (.die die) (0x600 + 4 * n) 4 fun t => onlyDie s t die
          ∧ t.die die = { s.die die with enth := (s.die die).enth.set 0 n w })
      ∧ (die < 4 → writes (.die die) 0x408 4 fun t => onlyDie s t die
          ∧ t.die die = { s.die die with tlbDrop := (s.die die).tlbDrop && !w.getLsbD 1 }))
  ∧ (∀ (s : State) (v offset : Nat), (s.crucible.portOne = (s.now + 1, [(.crucible, offset)])) → offset % 4 = 0 →
    exec (.registerWrite .crucible offset 4 v 0) s = .next s)

/-- Readiness and host accesses. Model choices in it: log 5, log 6, log 54, log 66, log 72. -/
def Obligations.ReadinessAndHost : Prop := Sys2Proof.Claims.readiness ∧ Sys2Proof.Claims.hostAccesses

/-- A command has been started, and its argument block, whose unnamed bytes are zero, holds `w` (R438). -/
def Sys2Proof.Claims.commanded (s : State) (op : Nat) (named : List Nat) (w : Nat) : Prop :=
  let a := s.crucible.rfarg.toNat / 64 * 64
  s.crucible.rfcmd = BitVec.ofNat 32 (2 ^ 31 + op) ∧ s.crucible.rfRun = some op ∧ mapped a 64 = true ∧ s.number a 64 = w
    ∧ ∀ i, i < 64 → i ∉ named → recField w i 1 = 0

/-- The commands of the Rifold controller (R410, R430, R438 to R441): each acts on its argument block, clears GO, leaves status 0
and sets its interrupt cause. -/
def Sys2Proof.Claims.rifoldCommands : Prop :=
  ∀ (s : State) (w : Nat), noContention s →
    let byte (i : Nat) : Nat := w / 2 ^ (8 * i) % 256
    let wide (i : Nat) : Nat := w / 2 ^ (8 * i) % 2 ^ 64
    let done (i : Instr) (op : Nat) (more : State → Prop) : Prop := ∃ t, exec i s = .next t ∧ t.crucible.rfcmd = BitVec.ofNat 32 op
      ∧ t.crucible.intcause.getLsbD 3 = true ∧ more t
    (commanded s 1 ([0, 1, 2] ++ byteSpan 8 8) w → byte 0 < 16 → byte 2 < 2 → done .keysrc 1 fun t => onlyCrucible s t
      ∧ t.srcKey (byte 0) (byte 1) = { valid := byte 2 = 1, key := BitVec.ofNat 64 (wide 8) }
      ∧ t.crucible.keyGen = s.crucible.keyGen + 1)
    ∧ (commanded s 2 ([0, 1, 2, 4, 5] ++ byteSpan 8 8) w → byte 1 < 2 → byte 2 < 16 → byte 4 + 256 * byte 5 < 4096 →
      done .keyrcv 2 fun t => onlyCrucible s t
        ∧ (t.rcvKey (byte 0)).valid = decide (byte 1 = 1) ∧ (t.rcvKey (byte 0)).ctx = byte 2
        ∧ (t.rcvKey (byte 0)).quota = byte 4 + 256 * byte 5 ∧ (t.rcvKey (byte 0)).key = BitVec.ofNat 64 (wide 8)
        ∧ ((s.rcvKey (byte 0)).key ≠ BitVec.ofNat 64 (wide 8) →
          (t.rcvKey (byte 0)).prev = some (s.rcvKey (byte 0)).key ∧ (t.rcvKey (byte 0)).changed = s.now))
    ∧ (∀ k, let x := s.rcvKey k
      (x.prev.isSome = true → x.changed + 33000000 ≤ s.now → ∃ t, exec (.keyPrevExpiry k) s = .next t ∧ onlyCrucible s t
        ∧ t.rcvKey k = { x with prev := none })
      ∧ (s.now < x.changed + 33000000 → exec (.keyPrevExpiry k) s = .next s))
    ∧ (commanded s 3 (0 :: byteSpan 4 4) w → byte 0 < 4 →
      let mw : Word := BitVec.ofNat 32 (w / 2 ^ 32)
      0 ≤ (s.modDie (byte 0) fun d => { d with pwrbud := mw }).headroom (byte 0) →
      done .budget 3 fun t => t.mem = s.mem ∧ t.choruses = s.choruses ∧ t.die (byte 0) = { s.die (byte 0) with pwrbud := mw })
    ∧ (commanded s 4 [0, 1] w → byte 0 < 16 → byte 1 = 0 → (s.context (byte 0)).frozen.isSome = true →
      (s.context (byte 0)).deactivating = false → done .unfreeze 4 fun t => t.mem = s.mem ∧ (t.context (byte 0)).frozen = none)
    ∧ (commanded s 5 (byteSpan 0 8) w → wide 0 % 64 = 0 → mapped (wide 0) 256 = true → done .sensors 5 fun t =>
      sameOutside s t (wide 0) 256
        ∧ ∀ i, i < 64 → t.number (wide 0 + 4 * i) 4 = if i < 12 then (Config.sensor i s.tick).toNat else 0)
    ∧ (commanded s 6 (byteSpan 0 12) w → wide 0 % 32 = 0 →
      let count := w / 2 ^ 64 % 2 ^ 32
      let n := min count s.crucible.log.length
      1 ≤ count → count ≤ 4096 → mapped (wide 0) (32 * (count + 1)) = true → done .logread 6 fun t =>
        sameOutside s t (wide 0) (32 * (n + 1)) ∧ t.number (wide 0) 8 = s.crucible.overwritten % 2 ^ 64 ∧ t.number (wide 0 + 8) 8 = n
          ∧ t.crucible.log = s.crucible.log.drop count ∧ t.crucible.overwritten = 0)
    ∧ (commanded s 7 (byteSpan 0 16) w → wide 8 ≠ 0 → mapped (wide 0) (wide 8) = true →
      let image := (List.range (wide 8)).map fun i => Memory.read s.mem (wide 0 + i)
      (Config.imageVerifies image = true → s.crucible.rollback ≤ Config.imageVersion image → done .update 7 fun t => onlyCrucible s t
        ∧ t.crucible.fwVersions.get 0 (1 - s.crucible.fwSlot) = Config.imageVersion image ∧ t.crucible.fwPending = true)
      ∧ (Config.imageVerifies image = false → ∃ t, exec .update s = .next t ∧ onlyCrucible s t
        ∧ t.crucible.rfcmd = BitVec.ofNat 32 (2 ^ 24 * 2 + 7) ∧ t.crucible.fwVersions = s.crucible.fwVersions))
    ∧ (commanded s 8 (byteSpan 0 40) w → let pa := w / 2 ^ 256 % 2 ^ 64
      pa % 64 = 0 → mapped pa 4096 = true → done .attest 8 fun t => sameOutside s t pa 2548 ∧ t.number pa 32 = w % 2 ^ 256
        ∧ ∀ i, i < 3 → t.number (pa + 32 * (i + 1)) 32 = (s.digests.getD i 0).toNat)

/-- RESET (R434, R441, R442): every field takes its reset value; the device is ready exactly when no step of boot has failed, and
then its four dies serve; what the firmware slots hold stays, and the first valid slot runs. The slot that an UPDATE has written
is verified first, else the one that ran: the model's choice (log 9). -/
def Sys2Proof.Claims.resetBoots : Prop :=
  ∀ s : State, ∃ t, exec .reset s = .next t ∧ (t.crucible.ready = true ↔ t.crucible.bootErr = 0)
    ∧ t.mem = [] ∧ t.choruses = [] ∧ t.launches = [] ∧ t.landings = [] ∧ t.outbox = [] ∧ t.contexts = [] ∧ t.poisoned = []
    ∧ t.crucible.intcause = 0 ∧ t.crucible.lattol = 0 ∧ t.crucible.qtbase = 0 ∧ t.crucible.ctxbase = 0 ∧ t.crucible.rfcmd = 0
    ∧ t.crucible.fwVersions = s.crucible.fwVersions
    ∧ (let first := if s.crucible.fwPending then 1 - s.crucible.fwSlot else s.crucible.fwSlot
      t.crucible.fwSlot = if s.crucible.slotValid first = false ∧ s.crucible.slotValid (1 - first) = true then 1 - first else first)
    ∧ (s.crucible.fwInvalid = true ∨ (∀ slot, s.crucible.slotValid slot = false) → t.crucible.bootErr = 1)
    ∧ ∀ d, (t.die d).serving = (t.crucible.ready && decide (d < 4)) ∧ (t.die d).cores = []
      ∧ (t.die d).cycle = if (t.die d).serving then Config.bootCycles s.tick d else 0

/-- The Rifold controller. Model choices in it: log 9, log 53, log 57. -/
def Obligations.RifoldController : Prop := Sys2Proof.Claims.rifoldCommands ∧ Sys2Proof.Claims.resetBoots
end

