-- ==== Sys2Proof/Laws/State.lean ====
section
/-! SUPPORT. What each update of State leaves alone, field by field, and what it changes; true by definition. -/

namespace Sys2Proof.Machine

/-! ### `State.modChorus` -/

@[simp] theorem State.modChorus_mem (s : State) (uid : Nat) (g : Chorus → Chorus) : (s.modChorus uid g).mem = s.mem := rfl
@[simp] theorem State.modChorus_written (s : State) (uid : Nat) (g : Chorus → Chorus) : (s.modChorus uid g).written = s.written := rfl
@[simp] theorem State.modChorus_poisoned (s : State) (uid : Nat) (g : Chorus → Chorus) : (s.modChorus uid g).poisoned = s.poisoned := rfl
@[simp] theorem State.modChorus_ring (s : State) (uid : Nat) (g : Chorus → Chorus) : (s.modChorus uid g).ring = s.ring := rfl
@[simp] theorem State.modChorus_owed (s : State) (uid : Nat) (g : Chorus → Chorus) : (s.modChorus uid g).owed = s.owed := rfl
@[simp] theorem State.modChorus_imagePast (s : State) (uid : Nat) (g : Chorus → Chorus) : (s.modChorus uid g).imagePast = s.imagePast := rfl
@[simp] theorem State.modChorus_dies (s : State) (uid : Nat) (g : Chorus → Chorus) : (s.modChorus uid g).dies = s.dies := rfl
@[simp] theorem State.modChorus_crucible (s : State) (uid : Nat) (g : Chorus → Chorus) : (s.modChorus uid g).crucible = s.crucible := rfl
@[simp] theorem State.modChorus_contexts (s : State) (uid : Nat) (g : Chorus → Chorus) : (s.modChorus uid g).contexts = s.contexts := rfl
@[simp] theorem State.modChorus_launches (s : State) (uid : Nat) (g : Chorus → Chorus) : (s.modChorus uid g).launches = s.launches := rfl
@[simp] theorem State.modChorus_landings (s : State) (uid : Nat) (g : Chorus → Chorus) : (s.modChorus uid g).landings = s.landings := rfl
@[simp] theorem State.modChorus_copies (s : State) (uid : Nat) (g : Chorus → Chorus) : (s.modChorus uid g).copies = s.copies := rfl
@[simp] theorem State.modChorus_outbox (s : State) (uid : Nat) (g : Chorus → Chorus) : (s.modChorus uid g).outbox = s.outbox := rfl
@[simp] theorem State.modChorus_windowHeld (s : State) (uid : Nat) (g : Chorus → Chorus) : (s.modChorus uid g).windowHeld = s.windowHeld := rfl
@[simp] theorem State.modChorus_fresh (s : State) (uid : Nat) (g : Chorus → Chorus) : (s.modChorus uid g).fresh = s.fresh := rfl
@[simp] theorem State.modChorus_now (s : State) (uid : Nat) (g : Chorus → Chorus) : (s.modChorus uid g).now = s.now := rfl
@[simp] theorem State.modChorus_tick (s : State) (uid : Nat) (g : Chorus → Chorus) : (s.modChorus uid g).tick = s.tick := rfl
@[simp] theorem State.modChorus_agenda (s : State) (uid : Nat) (g : Chorus → Chorus) : (s.modChorus uid g).agenda = s.agenda := rfl
@[simp] theorem State.modChorus_cur (s : State) (uid : Nat) (g : Chorus → Chorus) : (s.modChorus uid g).cur = s.cur := rfl
@[simp] theorem State.modChorus_hostOut (s : State) (uid : Nat) (g : Chorus → Chorus) : (s.modChorus uid g).hostOut = s.hostOut := rfl

/-! ### `State.modLaunch` -/

@[simp] theorem State.modLaunch_mem (s : State) (uid : Nat) (g : Launch → Launch) : (s.modLaunch uid g).mem = s.mem := rfl
@[simp] theorem State.modLaunch_written (s : State) (uid : Nat) (g : Launch → Launch) : (s.modLaunch uid g).written = s.written := rfl
@[simp] theorem State.modLaunch_poisoned (s : State) (uid : Nat) (g : Launch → Launch) : (s.modLaunch uid g).poisoned = s.poisoned := rfl
@[simp] theorem State.modLaunch_ring (s : State) (uid : Nat) (g : Launch → Launch) : (s.modLaunch uid g).ring = s.ring := rfl
@[simp] theorem State.modLaunch_owed (s : State) (uid : Nat) (g : Launch → Launch) : (s.modLaunch uid g).owed = s.owed := rfl
@[simp] theorem State.modLaunch_imagePast (s : State) (uid : Nat) (g : Launch → Launch) : (s.modLaunch uid g).imagePast = s.imagePast := rfl
@[simp] theorem State.modLaunch_dies (s : State) (uid : Nat) (g : Launch → Launch) : (s.modLaunch uid g).dies = s.dies := rfl
@[simp] theorem State.modLaunch_crucible (s : State) (uid : Nat) (g : Launch → Launch) : (s.modLaunch uid g).crucible = s.crucible := rfl
@[simp] theorem State.modLaunch_contexts (s : State) (uid : Nat) (g : Launch → Launch) : (s.modLaunch uid g).contexts = s.contexts := rfl
@[simp] theorem State.modLaunch_choruses (s : State) (uid : Nat) (g : Launch → Launch) : (s.modLaunch uid g).choruses = s.choruses := rfl
@[simp] theorem State.modLaunch_landings (s : State) (uid : Nat) (g : Launch → Launch) : (s.modLaunch uid g).landings = s.landings := rfl
@[simp] theorem State.modLaunch_copies (s : State) (uid : Nat) (g : Launch → Launch) : (s.modLaunch uid g).copies = s.copies := rfl
@[simp] theorem State.modLaunch_outbox (s : State) (uid : Nat) (g : Launch → Launch) : (s.modLaunch uid g).outbox = s.outbox := rfl
@[simp] theorem State.modLaunch_windowHeld (s : State) (uid : Nat) (g : Launch → Launch) : (s.modLaunch uid g).windowHeld = s.windowHeld := rfl
@[simp] theorem State.modLaunch_fresh (s : State) (uid : Nat) (g : Launch → Launch) : (s.modLaunch uid g).fresh = s.fresh := rfl
@[simp] theorem State.modLaunch_now (s : State) (uid : Nat) (g : Launch → Launch) : (s.modLaunch uid g).now = s.now := rfl
@[simp] theorem State.modLaunch_tick (s : State) (uid : Nat) (g : Launch → Launch) : (s.modLaunch uid g).tick = s.tick := rfl
@[simp] theorem State.modLaunch_agenda (s : State) (uid : Nat) (g : Launch → Launch) : (s.modLaunch uid g).agenda = s.agenda := rfl
@[simp] theorem State.modLaunch_cur (s : State) (uid : Nat) (g : Launch → Launch) : (s.modLaunch uid g).cur = s.cur := rfl
@[simp] theorem State.modLaunch_hostOut (s : State) (uid : Nat) (g : Launch → Launch) : (s.modLaunch uid g).hostOut = s.hostOut := rfl

/-! ### `State.modClutch` -/

@[simp] theorem State.modClutch_mem (s : State) (who : ClutchId) (g : Clutch → Clutch) : (s.modClutch who g).mem = s.mem := rfl
@[simp] theorem State.modClutch_written (s : State) (who : ClutchId) (g : Clutch → Clutch) : (s.modClutch who g).written = s.written := rfl
@[simp] theorem State.modClutch_poisoned (s : State) (who : ClutchId) (g : Clutch → Clutch) : (s.modClutch who g).poisoned = s.poisoned := rfl
@[simp] theorem State.modClutch_ring (s : State) (who : ClutchId) (g : Clutch → Clutch) : (s.modClutch who g).ring = s.ring := rfl
@[simp] theorem State.modClutch_owed (s : State) (who : ClutchId) (g : Clutch → Clutch) : (s.modClutch who g).owed = s.owed := rfl
@[simp] theorem State.modClutch_imagePast (s : State) (who : ClutchId) (g : Clutch → Clutch) : (s.modClutch who g).imagePast = s.imagePast := rfl
@[simp] theorem State.modClutch_dies (s : State) (who : ClutchId) (g : Clutch → Clutch) : (s.modClutch who g).dies = s.dies := rfl
@[simp] theorem State.modClutch_crucible (s : State) (who : ClutchId) (g : Clutch → Clutch) : (s.modClutch who g).crucible = s.crucible := rfl
@[simp] theorem State.modClutch_contexts (s : State) (who : ClutchId) (g : Clutch → Clutch) : (s.modClutch who g).contexts = s.contexts := rfl
@[simp] theorem State.modClutch_launches (s : State) (who : ClutchId) (g : Clutch → Clutch) : (s.modClutch who g).launches = s.launches := rfl
@[simp] theorem State.modClutch_landings (s : State) (who : ClutchId) (g : Clutch → Clutch) : (s.modClutch who g).landings = s.landings := rfl
@[simp] theorem State.modClutch_copies (s : State) (who : ClutchId) (g : Clutch → Clutch) : (s.modClutch who g).copies = s.copies := rfl
@[simp] theorem State.modClutch_outbox (s : State) (who : ClutchId) (g : Clutch → Clutch) : (s.modClutch who g).outbox = s.outbox := rfl
@[simp] theorem State.modClutch_windowHeld (s : State) (who : ClutchId) (g : Clutch → Clutch) : (s.modClutch who g).windowHeld = s.windowHeld := rfl
@[simp] theorem State.modClutch_fresh (s : State) (who : ClutchId) (g : Clutch → Clutch) : (s.modClutch who g).fresh = s.fresh := rfl
@[simp] theorem State.modClutch_now (s : State) (who : ClutchId) (g : Clutch → Clutch) : (s.modClutch who g).now = s.now := rfl
@[simp] theorem State.modClutch_tick (s : State) (who : ClutchId) (g : Clutch → Clutch) : (s.modClutch who g).tick = s.tick := rfl
@[simp] theorem State.modClutch_agenda (s : State) (who : ClutchId) (g : Clutch → Clutch) : (s.modClutch who g).agenda = s.agenda := rfl
@[simp] theorem State.modClutch_cur (s : State) (who : ClutchId) (g : Clutch → Clutch) : (s.modClutch who g).cur = s.cur := rfl
@[simp] theorem State.modClutch_hostOut (s : State) (who : ClutchId) (g : Clutch → Clutch) : (s.modClutch who g).hostOut = s.hostOut := rfl

/-! ### `State.modDie` -/

@[simp] theorem State.modDie_mem (s : State) (d : Nat) (g : Die → Die) : (s.modDie d g).mem = s.mem := rfl
@[simp] theorem State.modDie_written (s : State) (d : Nat) (g : Die → Die) : (s.modDie d g).written = s.written := rfl
@[simp] theorem State.modDie_poisoned (s : State) (d : Nat) (g : Die → Die) : (s.modDie d g).poisoned = s.poisoned := rfl
@[simp] theorem State.modDie_ring (s : State) (d : Nat) (g : Die → Die) : (s.modDie d g).ring = s.ring := rfl
@[simp] theorem State.modDie_owed (s : State) (d : Nat) (g : Die → Die) : (s.modDie d g).owed = s.owed := rfl
@[simp] theorem State.modDie_imagePast (s : State) (d : Nat) (g : Die → Die) : (s.modDie d g).imagePast = s.imagePast := rfl
@[simp] theorem State.modDie_crucible (s : State) (d : Nat) (g : Die → Die) : (s.modDie d g).crucible = s.crucible := rfl
@[simp] theorem State.modDie_contexts (s : State) (d : Nat) (g : Die → Die) : (s.modDie d g).contexts = s.contexts := rfl
@[simp] theorem State.modDie_launches (s : State) (d : Nat) (g : Die → Die) : (s.modDie d g).launches = s.launches := rfl
@[simp] theorem State.modDie_choruses (s : State) (d : Nat) (g : Die → Die) : (s.modDie d g).choruses = s.choruses := rfl
@[simp] theorem State.modDie_landings (s : State) (d : Nat) (g : Die → Die) : (s.modDie d g).landings = s.landings := rfl
@[simp] theorem State.modDie_copies (s : State) (d : Nat) (g : Die → Die) : (s.modDie d g).copies = s.copies := rfl
@[simp] theorem State.modDie_outbox (s : State) (d : Nat) (g : Die → Die) : (s.modDie d g).outbox = s.outbox := rfl
@[simp] theorem State.modDie_windowHeld (s : State) (d : Nat) (g : Die → Die) : (s.modDie d g).windowHeld = s.windowHeld := rfl
@[simp] theorem State.modDie_fresh (s : State) (d : Nat) (g : Die → Die) : (s.modDie d g).fresh = s.fresh := rfl
@[simp] theorem State.modDie_now (s : State) (d : Nat) (g : Die → Die) : (s.modDie d g).now = s.now := rfl
@[simp] theorem State.modDie_tick (s : State) (d : Nat) (g : Die → Die) : (s.modDie d g).tick = s.tick := rfl
@[simp] theorem State.modDie_agenda (s : State) (d : Nat) (g : Die → Die) : (s.modDie d g).agenda = s.agenda := rfl
@[simp] theorem State.modDie_cur (s : State) (d : Nat) (g : Die → Die) : (s.modDie d g).cur = s.cur := rfl
@[simp] theorem State.modDie_hostOut (s : State) (d : Nat) (g : Die → Die) : (s.modDie d g).hostOut = s.hostOut := rfl

/-! ### `State.modCore` -/

@[simp] theorem State.modCore_mem (s : State) (c : CoreId) (g : Core → Core) : (s.modCore c g).mem = s.mem := rfl
@[simp] theorem State.modCore_written (s : State) (c : CoreId) (g : Core → Core) : (s.modCore c g).written = s.written := rfl
@[simp] theorem State.modCore_poisoned (s : State) (c : CoreId) (g : Core → Core) : (s.modCore c g).poisoned = s.poisoned := rfl
@[simp] theorem State.modCore_ring (s : State) (c : CoreId) (g : Core → Core) : (s.modCore c g).ring = s.ring := rfl
@[simp] theorem State.modCore_owed (s : State) (c : CoreId) (g : Core → Core) : (s.modCore c g).owed = s.owed := rfl
@[simp] theorem State.modCore_imagePast (s : State) (c : CoreId) (g : Core → Core) : (s.modCore c g).imagePast = s.imagePast := rfl
@[simp] theorem State.modCore_crucible (s : State) (c : CoreId) (g : Core → Core) : (s.modCore c g).crucible = s.crucible := rfl
@[simp] theorem State.modCore_contexts (s : State) (c : CoreId) (g : Core → Core) : (s.modCore c g).contexts = s.contexts := rfl
@[simp] theorem State.modCore_launches (s : State) (c : CoreId) (g : Core → Core) : (s.modCore c g).launches = s.launches := rfl
@[simp] theorem State.modCore_choruses (s : State) (c : CoreId) (g : Core → Core) : (s.modCore c g).choruses = s.choruses := rfl
@[simp] theorem State.modCore_landings (s : State) (c : CoreId) (g : Core → Core) : (s.modCore c g).landings = s.landings := rfl
@[simp] theorem State.modCore_copies (s : State) (c : CoreId) (g : Core → Core) : (s.modCore c g).copies = s.copies := rfl
@[simp] theorem State.modCore_outbox (s : State) (c : CoreId) (g : Core → Core) : (s.modCore c g).outbox = s.outbox := rfl
@[simp] theorem State.modCore_windowHeld (s : State) (c : CoreId) (g : Core → Core) : (s.modCore c g).windowHeld = s.windowHeld := rfl
@[simp] theorem State.modCore_fresh (s : State) (c : CoreId) (g : Core → Core) : (s.modCore c g).fresh = s.fresh := rfl
@[simp] theorem State.modCore_now (s : State) (c : CoreId) (g : Core → Core) : (s.modCore c g).now = s.now := rfl
@[simp] theorem State.modCore_tick (s : State) (c : CoreId) (g : Core → Core) : (s.modCore c g).tick = s.tick := rfl
@[simp] theorem State.modCore_agenda (s : State) (c : CoreId) (g : Core → Core) : (s.modCore c g).agenda = s.agenda := rfl
@[simp] theorem State.modCore_cur (s : State) (c : CoreId) (g : Core → Core) : (s.modCore c g).cur = s.cur := rfl
@[simp] theorem State.modCore_hostOut (s : State) (c : CoreId) (g : Core → Core) : (s.modCore c g).hostOut = s.hostOut := rfl

/-! ### `State.modContext` -/

@[simp] theorem State.modContext_mem (s : State) (n : Nat) (g : Context → Context) : (s.modContext n g).mem = s.mem := rfl
@[simp] theorem State.modContext_written (s : State) (n : Nat) (g : Context → Context) : (s.modContext n g).written = s.written := rfl
@[simp] theorem State.modContext_poisoned (s : State) (n : Nat) (g : Context → Context) : (s.modContext n g).poisoned = s.poisoned := rfl
@[simp] theorem State.modContext_ring (s : State) (n : Nat) (g : Context → Context) : (s.modContext n g).ring = s.ring := rfl
@[simp] theorem State.modContext_owed (s : State) (n : Nat) (g : Context → Context) : (s.modContext n g).owed = s.owed := rfl
@[simp] theorem State.modContext_imagePast (s : State) (n : Nat) (g : Context → Context) : (s.modContext n g).imagePast = s.imagePast := rfl
@[simp] theorem State.modContext_dies (s : State) (n : Nat) (g : Context → Context) : (s.modContext n g).dies = s.dies := rfl
@[simp] theorem State.modContext_crucible (s : State) (n : Nat) (g : Context → Context) : (s.modContext n g).crucible = s.crucible := rfl
@[simp] theorem State.modContext_launches (s : State) (n : Nat) (g : Context → Context) : (s.modContext n g).launches = s.launches := rfl
@[simp] theorem State.modContext_choruses (s : State) (n : Nat) (g : Context → Context) : (s.modContext n g).choruses = s.choruses := rfl
@[simp] theorem State.modContext_landings (s : State) (n : Nat) (g : Context → Context) : (s.modContext n g).landings = s.landings := rfl
@[simp] theorem State.modContext_copies (s : State) (n : Nat) (g : Context → Context) : (s.modContext n g).copies = s.copies := rfl
@[simp] theorem State.modContext_outbox (s : State) (n : Nat) (g : Context → Context) : (s.modContext n g).outbox = s.outbox := rfl
@[simp] theorem State.modContext_windowHeld (s : State) (n : Nat) (g : Context → Context) : (s.modContext n g).windowHeld = s.windowHeld := rfl
@[simp] theorem State.modContext_fresh (s : State) (n : Nat) (g : Context → Context) : (s.modContext n g).fresh = s.fresh := rfl
@[simp] theorem State.modContext_now (s : State) (n : Nat) (g : Context → Context) : (s.modContext n g).now = s.now := rfl
@[simp] theorem State.modContext_tick (s : State) (n : Nat) (g : Context → Context) : (s.modContext n g).tick = s.tick := rfl
@[simp] theorem State.modContext_agenda (s : State) (n : Nat) (g : Context → Context) : (s.modContext n g).agenda = s.agenda := rfl
@[simp] theorem State.modContext_cur (s : State) (n : Nat) (g : Context → Context) : (s.modContext n g).cur = s.cur := rfl
@[simp] theorem State.modContext_hostOut (s : State) (n : Nat) (g : Context → Context) : (s.modContext n g).hostOut = s.hostOut := rfl

/-! ### `State.modCrucible` -/

@[simp] theorem State.modCrucible_mem (s : State) (g : Crucible → Crucible) : (s.modCrucible g).mem = s.mem := rfl
@[simp] theorem State.modCrucible_written (s : State) (g : Crucible → Crucible) : (s.modCrucible g).written = s.written := rfl
@[simp] theorem State.modCrucible_poisoned (s : State) (g : Crucible → Crucible) : (s.modCrucible g).poisoned = s.poisoned := rfl
@[simp] theorem State.modCrucible_ring (s : State) (g : Crucible → Crucible) : (s.modCrucible g).ring = s.ring := rfl
@[simp] theorem State.modCrucible_owed (s : State) (g : Crucible → Crucible) : (s.modCrucible g).owed = s.owed := rfl
@[simp] theorem State.modCrucible_imagePast (s : State) (g : Crucible → Crucible) : (s.modCrucible g).imagePast = s.imagePast := rfl
@[simp] theorem State.modCrucible_dies (s : State) (g : Crucible → Crucible) : (s.modCrucible g).dies = s.dies := rfl
@[simp] theorem State.modCrucible_contexts (s : State) (g : Crucible → Crucible) : (s.modCrucible g).contexts = s.contexts := rfl
@[simp] theorem State.modCrucible_launches (s : State) (g : Crucible → Crucible) : (s.modCrucible g).launches = s.launches := rfl
@[simp] theorem State.modCrucible_choruses (s : State) (g : Crucible → Crucible) : (s.modCrucible g).choruses = s.choruses := rfl
@[simp] theorem State.modCrucible_landings (s : State) (g : Crucible → Crucible) : (s.modCrucible g).landings = s.landings := rfl
@[simp] theorem State.modCrucible_copies (s : State) (g : Crucible → Crucible) : (s.modCrucible g).copies = s.copies := rfl
@[simp] theorem State.modCrucible_outbox (s : State) (g : Crucible → Crucible) : (s.modCrucible g).outbox = s.outbox := rfl
@[simp] theorem State.modCrucible_windowHeld (s : State) (g : Crucible → Crucible) : (s.modCrucible g).windowHeld = s.windowHeld := rfl
@[simp] theorem State.modCrucible_fresh (s : State) (g : Crucible → Crucible) : (s.modCrucible g).fresh = s.fresh := rfl
@[simp] theorem State.modCrucible_now (s : State) (g : Crucible → Crucible) : (s.modCrucible g).now = s.now := rfl
@[simp] theorem State.modCrucible_tick (s : State) (g : Crucible → Crucible) : (s.modCrucible g).tick = s.tick := rfl
@[simp] theorem State.modCrucible_agenda (s : State) (g : Crucible → Crucible) : (s.modCrucible g).agenda = s.agenda := rfl
@[simp] theorem State.modCrucible_cur (s : State) (g : Crucible → Crucible) : (s.modCrucible g).cur = s.cur := rfl
@[simp] theorem State.modCrucible_hostOut (s : State) (g : Crucible → Crucible) : (s.modCrucible g).hostOut = s.hostOut := rfl

/-! ### `State.send` -/

@[simp] theorem State.send_mem (s : State) (m : Msg) : (s.send m).mem = s.mem := rfl
@[simp] theorem State.send_written (s : State) (m : Msg) : (s.send m).written = s.written := rfl
@[simp] theorem State.send_poisoned (s : State) (m : Msg) : (s.send m).poisoned = s.poisoned := rfl
@[simp] theorem State.send_ring (s : State) (m : Msg) : (s.send m).ring = s.ring := rfl
@[simp] theorem State.send_owed (s : State) (m : Msg) : (s.send m).owed = s.owed := rfl
@[simp] theorem State.send_imagePast (s : State) (m : Msg) : (s.send m).imagePast = s.imagePast := rfl
@[simp] theorem State.send_dies (s : State) (m : Msg) : (s.send m).dies = s.dies := rfl
@[simp] theorem State.send_crucible (s : State) (m : Msg) : (s.send m).crucible = s.crucible := rfl
@[simp] theorem State.send_contexts (s : State) (m : Msg) : (s.send m).contexts = s.contexts := rfl
@[simp] theorem State.send_launches (s : State) (m : Msg) : (s.send m).launches = s.launches := rfl
@[simp] theorem State.send_choruses (s : State) (m : Msg) : (s.send m).choruses = s.choruses := rfl
@[simp] theorem State.send_landings (s : State) (m : Msg) : (s.send m).landings = s.landings := rfl
@[simp] theorem State.send_copies (s : State) (m : Msg) : (s.send m).copies = s.copies := rfl
@[simp] theorem State.send_windowHeld (s : State) (m : Msg) : (s.send m).windowHeld = s.windowHeld := rfl
@[simp] theorem State.send_fresh (s : State) (m : Msg) : (s.send m).fresh = s.fresh := rfl
@[simp] theorem State.send_now (s : State) (m : Msg) : (s.send m).now = s.now := rfl
@[simp] theorem State.send_tick (s : State) (m : Msg) : (s.send m).tick = s.tick := rfl
@[simp] theorem State.send_agenda (s : State) (m : Msg) : (s.send m).agenda = s.agenda := rfl
@[simp] theorem State.send_cur (s : State) (m : Msg) : (s.send m).cur = s.cur := rfl
@[simp] theorem State.send_hostOut (s : State) (m : Msg) : (s.send m).hostOut = s.hostOut := rfl

/-! ### `State.bump` -/

@[simp] theorem State.bump_mem (s : State) : (s.bump).mem = s.mem := rfl
@[simp] theorem State.bump_written (s : State) : (s.bump).written = s.written := rfl
@[simp] theorem State.bump_poisoned (s : State) : (s.bump).poisoned = s.poisoned := rfl
@[simp] theorem State.bump_ring (s : State) : (s.bump).ring = s.ring := rfl
@[simp] theorem State.bump_owed (s : State) : (s.bump).owed = s.owed := rfl
@[simp] theorem State.bump_imagePast (s : State) : (s.bump).imagePast = s.imagePast := rfl
@[simp] theorem State.bump_dies (s : State) : (s.bump).dies = s.dies := rfl
@[simp] theorem State.bump_crucible (s : State) : (s.bump).crucible = s.crucible := rfl
@[simp] theorem State.bump_contexts (s : State) : (s.bump).contexts = s.contexts := rfl
@[simp] theorem State.bump_launches (s : State) : (s.bump).launches = s.launches := rfl
@[simp] theorem State.bump_choruses (s : State) : (s.bump).choruses = s.choruses := rfl
@[simp] theorem State.bump_landings (s : State) : (s.bump).landings = s.landings := rfl
@[simp] theorem State.bump_copies (s : State) : (s.bump).copies = s.copies := rfl
@[simp] theorem State.bump_outbox (s : State) : (s.bump).outbox = s.outbox := rfl
@[simp] theorem State.bump_windowHeld (s : State) : (s.bump).windowHeld = s.windowHeld := rfl
@[simp] theorem State.bump_fresh (s : State) : (s.bump).fresh = s.fresh := rfl
@[simp] theorem State.bump_now (s : State) : (s.bump).now = s.now := rfl
@[simp] theorem State.bump_agenda (s : State) : (s.bump).agenda = s.agenda := rfl
@[simp] theorem State.bump_cur (s : State) : (s.bump).cur = s.cur := rfl
@[simp] theorem State.bump_hostOut (s : State) : (s.bump).hostOut = s.hostOut := rfl

/-! ### `State.produce` -/

@[simp] theorem State.produce_mem (s : State) (p : Landing) : (s.produce p).mem = s.mem := rfl
@[simp] theorem State.produce_written (s : State) (p : Landing) : (s.produce p).written = s.written := rfl
@[simp] theorem State.produce_poisoned (s : State) (p : Landing) : (s.produce p).poisoned = s.poisoned := rfl
@[simp] theorem State.produce_ring (s : State) (p : Landing) : (s.produce p).ring = s.ring := rfl
@[simp] theorem State.produce_owed (s : State) (p : Landing) : (s.produce p).owed = s.owed := rfl
@[simp] theorem State.produce_imagePast (s : State) (p : Landing) : (s.produce p).imagePast = s.imagePast := rfl
@[simp] theorem State.produce_dies (s : State) (p : Landing) : (s.produce p).dies = s.dies := rfl
@[simp] theorem State.produce_crucible (s : State) (p : Landing) : (s.produce p).crucible = s.crucible := rfl
@[simp] theorem State.produce_contexts (s : State) (p : Landing) : (s.produce p).contexts = s.contexts := rfl
@[simp] theorem State.produce_launches (s : State) (p : Landing) : (s.produce p).launches = s.launches := rfl
@[simp] theorem State.produce_copies (s : State) (p : Landing) : (s.produce p).copies = s.copies := rfl
@[simp] theorem State.produce_outbox (s : State) (p : Landing) : (s.produce p).outbox = s.outbox := rfl
@[simp] theorem State.produce_windowHeld (s : State) (p : Landing) : (s.produce p).windowHeld = s.windowHeld := rfl
@[simp] theorem State.produce_now (s : State) (p : Landing) : (s.produce p).now = s.now := rfl
@[simp] theorem State.produce_tick (s : State) (p : Landing) : (s.produce p).tick = s.tick := rfl
@[simp] theorem State.produce_agenda (s : State) (p : Landing) : (s.produce p).agenda = s.agenda := rfl
@[simp] theorem State.produce_cur (s : State) (p : Landing) : (s.produce p).cur = s.cur := rfl
@[simp] theorem State.produce_hostOut (s : State) (p : Landing) : (s.produce p).hostOut = s.hostOut := rfl

/-! ### `State.interrupt` -/

@[simp] theorem State.interrupt_mem (s : State) (bits : Word) : (s.interrupt bits).mem = s.mem := rfl
@[simp] theorem State.interrupt_written (s : State) (bits : Word) : (s.interrupt bits).written = s.written := rfl
@[simp] theorem State.interrupt_poisoned (s : State) (bits : Word) : (s.interrupt bits).poisoned = s.poisoned := rfl
@[simp] theorem State.interrupt_ring (s : State) (bits : Word) : (s.interrupt bits).ring = s.ring := rfl
@[simp] theorem State.interrupt_owed (s : State) (bits : Word) : (s.interrupt bits).owed = s.owed := rfl
@[simp] theorem State.interrupt_imagePast (s : State) (bits : Word) : (s.interrupt bits).imagePast = s.imagePast := rfl
@[simp] theorem State.interrupt_dies (s : State) (bits : Word) : (s.interrupt bits).dies = s.dies := rfl
@[simp] theorem State.interrupt_contexts (s : State) (bits : Word) : (s.interrupt bits).contexts = s.contexts := rfl
@[simp] theorem State.interrupt_launches (s : State) (bits : Word) : (s.interrupt bits).launches = s.launches := rfl
@[simp] theorem State.interrupt_choruses (s : State) (bits : Word) : (s.interrupt bits).choruses = s.choruses := rfl
@[simp] theorem State.interrupt_landings (s : State) (bits : Word) : (s.interrupt bits).landings = s.landings := rfl
@[simp] theorem State.interrupt_copies (s : State) (bits : Word) : (s.interrupt bits).copies = s.copies := rfl
@[simp] theorem State.interrupt_outbox (s : State) (bits : Word) : (s.interrupt bits).outbox = s.outbox := rfl
@[simp] theorem State.interrupt_windowHeld (s : State) (bits : Word) : (s.interrupt bits).windowHeld = s.windowHeld := rfl
@[simp] theorem State.interrupt_fresh (s : State) (bits : Word) : (s.interrupt bits).fresh = s.fresh := rfl
@[simp] theorem State.interrupt_now (s : State) (bits : Word) : (s.interrupt bits).now = s.now := rfl
@[simp] theorem State.interrupt_tick (s : State) (bits : Word) : (s.interrupt bits).tick = s.tick := rfl
@[simp] theorem State.interrupt_agenda (s : State) (bits : Word) : (s.interrupt bits).agenda = s.agenda := rfl
@[simp] theorem State.interrupt_cur (s : State) (bits : Word) : (s.interrupt bits).cur = s.cur := rfl
@[simp] theorem State.interrupt_hostOut (s : State) (bits : Word) : (s.interrupt bits).hostOut = s.hostOut := rfl

/-! ### `State.stopCore` -/

@[simp] theorem State.stopCore_mem (s : State) (c : CoreId) (who : Option ClutchId) (slot : Nat) (code : Code) : (s.stopCore c who slot code).mem = s.mem := rfl
@[simp] theorem State.stopCore_written (s : State) (c : CoreId) (who : Option ClutchId) (slot : Nat) (code : Code) : (s.stopCore c who slot code).written = s.written := rfl
@[simp] theorem State.stopCore_poisoned (s : State) (c : CoreId) (who : Option ClutchId) (slot : Nat) (code : Code) : (s.stopCore c who slot code).poisoned = s.poisoned := rfl
@[simp] theorem State.stopCore_ring (s : State) (c : CoreId) (who : Option ClutchId) (slot : Nat) (code : Code) : (s.stopCore c who slot code).ring = s.ring := rfl
@[simp] theorem State.stopCore_owed (s : State) (c : CoreId) (who : Option ClutchId) (slot : Nat) (code : Code) : (s.stopCore c who slot code).owed = s.owed := rfl
@[simp] theorem State.stopCore_imagePast (s : State) (c : CoreId) (who : Option ClutchId) (slot : Nat) (code : Code) : (s.stopCore c who slot code).imagePast = s.imagePast := rfl
@[simp] theorem State.stopCore_crucible (s : State) (c : CoreId) (who : Option ClutchId) (slot : Nat) (code : Code) : (s.stopCore c who slot code).crucible = s.crucible := rfl
@[simp] theorem State.stopCore_contexts (s : State) (c : CoreId) (who : Option ClutchId) (slot : Nat) (code : Code) : (s.stopCore c who slot code).contexts = s.contexts := rfl
@[simp] theorem State.stopCore_launches (s : State) (c : CoreId) (who : Option ClutchId) (slot : Nat) (code : Code) : (s.stopCore c who slot code).launches = s.launches := rfl
@[simp] theorem State.stopCore_choruses (s : State) (c : CoreId) (who : Option ClutchId) (slot : Nat) (code : Code) : (s.stopCore c who slot code).choruses = s.choruses := rfl
@[simp] theorem State.stopCore_landings (s : State) (c : CoreId) (who : Option ClutchId) (slot : Nat) (code : Code) : (s.stopCore c who slot code).landings = s.landings := rfl
@[simp] theorem State.stopCore_copies (s : State) (c : CoreId) (who : Option ClutchId) (slot : Nat) (code : Code) : (s.stopCore c who slot code).copies = s.copies := rfl
@[simp] theorem State.stopCore_outbox (s : State) (c : CoreId) (who : Option ClutchId) (slot : Nat) (code : Code) : (s.stopCore c who slot code).outbox = s.outbox := rfl
@[simp] theorem State.stopCore_windowHeld (s : State) (c : CoreId) (who : Option ClutchId) (slot : Nat) (code : Code) : (s.stopCore c who slot code).windowHeld = s.windowHeld := rfl
@[simp] theorem State.stopCore_fresh (s : State) (c : CoreId) (who : Option ClutchId) (slot : Nat) (code : Code) : (s.stopCore c who slot code).fresh = s.fresh := rfl
@[simp] theorem State.stopCore_now (s : State) (c : CoreId) (who : Option ClutchId) (slot : Nat) (code : Code) : (s.stopCore c who slot code).now = s.now := rfl
@[simp] theorem State.stopCore_tick (s : State) (c : CoreId) (who : Option ClutchId) (slot : Nat) (code : Code) : (s.stopCore c who slot code).tick = s.tick := rfl
@[simp] theorem State.stopCore_agenda (s : State) (c : CoreId) (who : Option ClutchId) (slot : Nat) (code : Code) : (s.stopCore c who slot code).agenda = s.agenda := rfl
@[simp] theorem State.stopCore_cur (s : State) (c : CoreId) (who : Option ClutchId) (slot : Nat) (code : Code) : (s.stopCore c who slot code).cur = s.cur := rfl
@[simp] theorem State.stopCore_hostOut (s : State) (c : CoreId) (who : Option ClutchId) (slot : Nat) (code : Code) : (s.stopCore c who slot code).hostOut = s.hostOut := rfl

/-! ### `State.clutchStop` -/

@[simp] theorem State.clutchStop_mem (s : State) (e : Env) (code : Code) : (s.clutchStop e code).mem = s.mem := rfl
@[simp] theorem State.clutchStop_written (s : State) (e : Env) (code : Code) : (s.clutchStop e code).written = s.written := rfl
@[simp] theorem State.clutchStop_poisoned (s : State) (e : Env) (code : Code) : (s.clutchStop e code).poisoned = s.poisoned := rfl
@[simp] theorem State.clutchStop_ring (s : State) (e : Env) (code : Code) : (s.clutchStop e code).ring = s.ring := rfl
@[simp] theorem State.clutchStop_owed (s : State) (e : Env) (code : Code) : (s.clutchStop e code).owed = s.owed := rfl
@[simp] theorem State.clutchStop_imagePast (s : State) (e : Env) (code : Code) : (s.clutchStop e code).imagePast = s.imagePast := rfl
@[simp] theorem State.clutchStop_crucible (s : State) (e : Env) (code : Code) : (s.clutchStop e code).crucible = s.crucible := rfl
@[simp] theorem State.clutchStop_contexts (s : State) (e : Env) (code : Code) : (s.clutchStop e code).contexts = s.contexts := rfl
@[simp] theorem State.clutchStop_launches (s : State) (e : Env) (code : Code) : (s.clutchStop e code).launches = s.launches := rfl
@[simp] theorem State.clutchStop_choruses (s : State) (e : Env) (code : Code) : (s.clutchStop e code).choruses = s.choruses := rfl
@[simp] theorem State.clutchStop_landings (s : State) (e : Env) (code : Code) : (s.clutchStop e code).landings = s.landings := rfl
@[simp] theorem State.clutchStop_copies (s : State) (e : Env) (code : Code) : (s.clutchStop e code).copies = s.copies := rfl
@[simp] theorem State.clutchStop_outbox (s : State) (e : Env) (code : Code) : (s.clutchStop e code).outbox = s.outbox := rfl
@[simp] theorem State.clutchStop_windowHeld (s : State) (e : Env) (code : Code) : (s.clutchStop e code).windowHeld = s.windowHeld := rfl
@[simp] theorem State.clutchStop_fresh (s : State) (e : Env) (code : Code) : (s.clutchStop e code).fresh = s.fresh := rfl
@[simp] theorem State.clutchStop_now (s : State) (e : Env) (code : Code) : (s.clutchStop e code).now = s.now := rfl
@[simp] theorem State.clutchStop_tick (s : State) (e : Env) (code : Code) : (s.clutchStop e code).tick = s.tick := rfl
@[simp] theorem State.clutchStop_agenda (s : State) (e : Env) (code : Code) : (s.clutchStop e code).agenda = s.agenda := rfl
@[simp] theorem State.clutchStop_cur (s : State) (e : Env) (code : Code) : (s.clutchStop e code).cur = s.cur := rfl
@[simp] theorem State.clutchStop_hostOut (s : State) (e : Env) (code : Code) : (s.clutchStop e code).hostOut = s.hostOut := rfl

/-! ### What the updates change -/

@[simp] theorem State.modChorus_choruses (s : State) (uid : Nat) (g : Chorus → Chorus) :
    (s.modChorus uid g).choruses = updateFirst (·.uid = uid) g s.choruses := rfl
@[simp] theorem State.modLaunch_launches (s : State) (uid : Nat) (g : Launch → Launch) :
    (s.modLaunch uid g).launches = updateFirst (·.uid = uid) g s.launches := rfl
@[simp] theorem State.modDie_dies (s : State) (d : Nat) (g : Die → Die) :
    (s.modDie d g).dies = s.dies.modify {} d g := rfl
@[simp] theorem State.modContext_contexts (s : State) (n : Nat) (g : Context → Context) :
    (s.modContext n g).contexts = s.contexts.modify {} n g := rfl
@[simp] theorem State.modCrucible_crucible (s : State) (g : Crucible → Crucible) :
    (s.modCrucible g).crucible = g s.crucible := rfl
@[simp] theorem State.send_outbox (s : State) (m : Msg) : (s.send m).outbox = s.sent [m] := rfl
/-- What lies on the fabric after two sends is what lies there after both at once. -/
theorem State.sent_send (s : State) (m : Msg) (ms : List Msg) : (s.send m).sent ms = s.sent (m :: ms) := by
  rw [← List.singleton_append]
  simp only [State.sent, List.filter_append, ← List.append_assoc]
  rfl

@[simp] theorem State.sent_nil (s : State) : s.sent [] = s.outbox := by simp [State.sent]

/-- A message to a device with a route and a port in use is sent (R436, R437). -/
theorem State.sent_routed (s : State) (m : Msg) (h : s.routed (destOf m) = true) (hp : s.hasPath (destOf m) = true) :
    s.sent [m] = s.outbox ++ [m] := by
  simp [State.sent, h, hp]

/-- What a device sends to itself needs no port. -/
@[simp] theorem State.hasPath_self (s : State) : s.hasPath s.crucible.devnum = true := by simp [State.hasPath]

/-- A message to a device without a route is not. -/
theorem State.sent_unrouted (s : State) (m : Msg) (h : s.routed (destOf m) = false) : s.sent [m] = s.outbox := by
  simp [State.sent, h]

@[simp] theorem State.bump_tick (s : State) : s.bump.tick = s.tick + 1 := rfl
@[simp] theorem State.produce_landings (s : State) (p : Landing) :
    (s.produce p).landings = s.landings ++ [{ p with id := s.fresh }] := rfl
@[simp] theorem State.produce_fresh (s : State) (p : Landing) : (s.produce p).fresh = s.fresh + 1 := rfl

/-! ### `State.flag` changes sticky registers alone -/

@[simp] theorem State.flag_mem (s : State) (uid : Nat) (w : Word) : (s.flag uid w).mem = s.mem := by
  unfold State.flag; split <;> rfl
@[simp] theorem State.flag_written (s : State) (uid : Nat) (w : Word) : (s.flag uid w).written = s.written := by
  unfold State.flag; split <;> rfl
@[simp] theorem State.flag_poisoned (s : State) (uid : Nat) (w : Word) : (s.flag uid w).poisoned = s.poisoned := by
  unfold State.flag; split <;> rfl
@[simp] theorem State.flag_ring (s : State) (uid : Nat) (w : Word) : (s.flag uid w).ring = s.ring := by
  unfold State.flag; split <;> rfl
@[simp] theorem State.flag_owed (s : State) (uid : Nat) (w : Word) : (s.flag uid w).owed = s.owed := by
  unfold State.flag; split <;> rfl
@[simp] theorem State.flag_imagePast (s : State) (uid : Nat) (w : Word) : (s.flag uid w).imagePast = s.imagePast := by
  unfold State.flag; split <;> rfl
@[simp] theorem State.flag_dies (s : State) (uid : Nat) (w : Word) : (s.flag uid w).dies = s.dies := by
  unfold State.flag; split <;> rfl
@[simp] theorem State.flag_crucible (s : State) (uid : Nat) (w : Word) : (s.flag uid w).crucible = s.crucible := by
  unfold State.flag; split <;> rfl
@[simp] theorem State.flag_contexts (s : State) (uid : Nat) (w : Word) : (s.flag uid w).contexts = s.contexts := by
  unfold State.flag; split <;> rfl
@[simp] theorem State.flag_launches (s : State) (uid : Nat) (w : Word) : (s.flag uid w).launches = s.launches := by
  unfold State.flag; split <;> rfl
@[simp] theorem State.flag_landings (s : State) (uid : Nat) (w : Word) : (s.flag uid w).landings = s.landings := by
  unfold State.flag; split <;> rfl
@[simp] theorem State.flag_copies (s : State) (uid : Nat) (w : Word) : (s.flag uid w).copies = s.copies := by
  unfold State.flag; split <;> rfl
@[simp] theorem State.flag_outbox (s : State) (uid : Nat) (w : Word) : (s.flag uid w).outbox = s.outbox := by
  unfold State.flag; split <;> rfl
@[simp] theorem State.flag_windowHeld (s : State) (uid : Nat) (w : Word) : (s.flag uid w).windowHeld = s.windowHeld := by
  unfold State.flag; split <;> rfl
@[simp] theorem State.flag_fresh (s : State) (uid : Nat) (w : Word) : (s.flag uid w).fresh = s.fresh := by
  unfold State.flag; split <;> rfl
@[simp] theorem State.flag_now (s : State) (uid : Nat) (w : Word) : (s.flag uid w).now = s.now := by
  unfold State.flag; split <;> rfl
@[simp] theorem State.flag_tick (s : State) (uid : Nat) (w : Word) : (s.flag uid w).tick = s.tick := by
  unfold State.flag; split <;> rfl
@[simp] theorem State.flag_agenda (s : State) (uid : Nat) (w : Word) : (s.flag uid w).agenda = s.agenda := by
  unfold State.flag; split <;> rfl
@[simp] theorem State.flag_cur (s : State) (uid : Nat) (w : Word) : (s.flag uid w).cur = s.cur := by
  unfold State.flag; split <;> rfl
@[simp] theorem State.flag_hostOut (s : State) (uid : Nat) (w : Word) : (s.flag uid w).hostOut = s.hostOut := by
  unfold State.flag; split <;> rfl

/-! ### `State.launchFault` changes launches and the interrupt causes alone -/

@[simp] theorem State.launchFault_mem (s : State) (l : Nat) (r : Report) : (s.launchFault l r).mem = s.mem := by
  unfold State.launchFault; split <;> rfl
@[simp] theorem State.launchFault_written (s : State) (l : Nat) (r : Report) : (s.launchFault l r).written = s.written := by
  unfold State.launchFault; split <;> rfl
@[simp] theorem State.launchFault_poisoned (s : State) (l : Nat) (r : Report) : (s.launchFault l r).poisoned = s.poisoned := by
  unfold State.launchFault; split <;> rfl
@[simp] theorem State.launchFault_ring (s : State) (l : Nat) (r : Report) : (s.launchFault l r).ring = s.ring := by
  unfold State.launchFault; split <;> rfl
@[simp] theorem State.launchFault_owed (s : State) (l : Nat) (r : Report) : (s.launchFault l r).owed = s.owed := by
  unfold State.launchFault; split <;> rfl
@[simp] theorem State.launchFault_imagePast (s : State) (l : Nat) (r : Report) : (s.launchFault l r).imagePast = s.imagePast := by
  unfold State.launchFault; split <;> rfl
@[simp] theorem State.launchFault_dies (s : State) (l : Nat) (r : Report) : (s.launchFault l r).dies = s.dies := by
  unfold State.launchFault; split <;> rfl
@[simp] theorem State.launchFault_contexts (s : State) (l : Nat) (r : Report) : (s.launchFault l r).contexts = s.contexts := by
  unfold State.launchFault; split <;> rfl
@[simp] theorem State.launchFault_choruses (s : State) (l : Nat) (r : Report) : (s.launchFault l r).choruses = s.choruses := by
  unfold State.launchFault; split <;> rfl
@[simp] theorem State.launchFault_landings (s : State) (l : Nat) (r : Report) : (s.launchFault l r).landings = s.landings := by
  unfold State.launchFault; split <;> rfl
@[simp] theorem State.launchFault_copies (s : State) (l : Nat) (r : Report) : (s.launchFault l r).copies = s.copies := by
  unfold State.launchFault; split <;> rfl
@[simp] theorem State.launchFault_outbox (s : State) (l : Nat) (r : Report) : (s.launchFault l r).outbox = s.outbox := by
  unfold State.launchFault; split <;> rfl
@[simp] theorem State.launchFault_windowHeld (s : State) (l : Nat) (r : Report) : (s.launchFault l r).windowHeld = s.windowHeld := by
  unfold State.launchFault; split <;> rfl
@[simp] theorem State.launchFault_fresh (s : State) (l : Nat) (r : Report) : (s.launchFault l r).fresh = s.fresh := by
  unfold State.launchFault; split <;> rfl
@[simp] theorem State.launchFault_now (s : State) (l : Nat) (r : Report) : (s.launchFault l r).now = s.now := by
  unfold State.launchFault; split <;> rfl
@[simp] theorem State.launchFault_tick (s : State) (l : Nat) (r : Report) : (s.launchFault l r).tick = s.tick := by
  unfold State.launchFault; split <;> rfl
@[simp] theorem State.launchFault_agenda (s : State) (l : Nat) (r : Report) : (s.launchFault l r).agenda = s.agenda := by
  unfold State.launchFault; split <;> rfl
@[simp] theorem State.launchFault_cur (s : State) (l : Nat) (r : Report) : (s.launchFault l r).cur = s.cur := by
  unfold State.launchFault; split <;> rfl
@[simp] theorem State.launchFault_hostOut (s : State) (l : Nat) (r : Report) : (s.launchFault l r).hostOut = s.hostOut := by
  unfold State.launchFault; split <;> rfl

/-! ### `State.endWith` changes one clutch, its launch and the interrupt causes alone -/

@[simp] theorem State.endWith_mem (s : State) (e : Env) (r : Report) : (s.endWith e r).mem = s.mem := by
  simp [State.endWith]
@[simp] theorem State.endWith_written (s : State) (e : Env) (r : Report) : (s.endWith e r).written = s.written := by
  simp [State.endWith]
@[simp] theorem State.endWith_poisoned (s : State) (e : Env) (r : Report) : (s.endWith e r).poisoned = s.poisoned := by
  simp [State.endWith]
@[simp] theorem State.endWith_ring (s : State) (e : Env) (r : Report) : (s.endWith e r).ring = s.ring := by
  simp [State.endWith]
@[simp] theorem State.endWith_owed (s : State) (e : Env) (r : Report) : (s.endWith e r).owed = s.owed := by
  simp [State.endWith]
@[simp] theorem State.endWith_imagePast (s : State) (e : Env) (r : Report) : (s.endWith e r).imagePast = s.imagePast := by
  simp [State.endWith]
@[simp] theorem State.endWith_dies (s : State) (e : Env) (r : Report) : (s.endWith e r).dies = s.dies := by
  simp [State.endWith]
@[simp] theorem State.endWith_contexts (s : State) (e : Env) (r : Report) : (s.endWith e r).contexts = s.contexts := by
  simp [State.endWith]
@[simp] theorem State.endWith_landings (s : State) (e : Env) (r : Report) : (s.endWith e r).landings = s.landings := by
  simp [State.endWith]
@[simp] theorem State.endWith_copies (s : State) (e : Env) (r : Report) : (s.endWith e r).copies = s.copies := by
  simp [State.endWith]
@[simp] theorem State.endWith_outbox (s : State) (e : Env) (r : Report) : (s.endWith e r).outbox = s.outbox := by
  simp [State.endWith]
@[simp] theorem State.endWith_windowHeld (s : State) (e : Env) (r : Report) : (s.endWith e r).windowHeld = s.windowHeld := by
  simp [State.endWith]
@[simp] theorem State.endWith_fresh (s : State) (e : Env) (r : Report) : (s.endWith e r).fresh = s.fresh := by
  simp [State.endWith]
@[simp] theorem State.endWith_now (s : State) (e : Env) (r : Report) : (s.endWith e r).now = s.now := by
  simp [State.endWith]
@[simp] theorem State.endWith_tick (s : State) (e : Env) (r : Report) : (s.endWith e r).tick = s.tick := by
  simp [State.endWith]
@[simp] theorem State.endWith_agenda (s : State) (e : Env) (r : Report) : (s.endWith e r).agenda = s.agenda := by
  simp [State.endWith]
@[simp] theorem State.endWith_cur (s : State) (e : Env) (r : Report) : (s.endWith e r).cur = s.cur := by
  simp [State.endWith]
@[simp] theorem State.endWith_hostOut (s : State) (e : Env) (r : Report) : (s.endWith e r).hostOut = s.hostOut := by
  simp [State.endWith]

end Sys2Proof.Machine
end

