-- ==== Sys2Proof/Laws/Store.lean ====
section
/-! SUPPORT. Reading after writing in a sparse store, and that every operation keeps the canonical form. -/

namespace Sys2Proof.Machine

variable {α : Type}

/-! ### Reading after a change -/

theorem Store.get_insert_self (d : α) (m : Store α) (i : Nat) (x : α) :
    Store.get d (Store.insert m i x) i = x := by
  induction m with
  | nil => simp [Store.insert, Store.get]
  | cons kv rest ih =>
    obtain ⟨k, v⟩ := kv
    by_cases h : i < k
    · simp [Store.insert, Store.get, h]
    · by_cases h2 : k = i
      · simp [Store.insert, Store.get, h2]
      · simpa [Store.insert, Store.get, h, h2] using ih

theorem Store.get_insert_other (d : α) (m : Store α) (i j : Nat) (x : α) (hne : j ≠ i) :
    Store.get d (Store.insert m i x) j = Store.get d m j := by
  induction m with
  | nil => simp [Store.insert, Store.get, Ne.symm hne]
  | cons kv rest ih =>
    obtain ⟨k, v⟩ := kv
    by_cases h : i < k
    · simp [Store.insert, Store.get, h, Ne.symm hne]
    · by_cases h2 : k = i
      · subst h2; simp [Store.insert, Store.get, Ne.symm hne]
      · simp only [Store.insert, h, h2, if_false, Store.get, ih]

theorem Store.get_erase_other (d : α) (m : Store α) (i j : Nat) (hne : j ≠ i) :
    Store.get d (Store.erase m i) j = Store.get d m j := by
  induction m with
  | nil => rfl
  | cons kv rest ih =>
    obtain ⟨k, v⟩ := kv
    by_cases h : k = i
    · subst h; simp [Store.erase, Store.get, Ne.symm hne, ih]
    · simp only [Store.erase, h, if_false, Store.get, ih]

theorem Store.get_erase_self (d : α) (m : Store α) (i : Nat) : Store.get d (Store.erase m i) i = d := by
  induction m with
  | nil => rfl
  | cons kv rest ih =>
    obtain ⟨k, v⟩ := kv
    by_cases h : k = i
    · subst h; simpa [Store.erase] using ih
    · simpa [Store.erase, h, Store.get] using ih

variable [DecidableEq α]

theorem Store.get_set_self (d : α) (m : Store α) (i : Nat) (x : α) :
    Store.get d (Store.set d m i x) i = x := by
  by_cases h : x = d
  · simp [Store.set, h, Store.get_erase_self]
  · simp [Store.set, h, Store.get_insert_self]

theorem Store.get_set_other (d : α) (m : Store α) (i j : Nat) (x : α) (hne : j ≠ i) :
    Store.get d (Store.set d m i x) j = Store.get d m j := by
  by_cases h : x = d
  · simp [Store.set, h, Store.get_erase_other d m i j hne]
  · simp [Store.set, h, Store.get_insert_other d m i j x hne]

theorem Store.get_modify_self (d : α) (m : Store α) (i : Nat) (f : α → α) :
    Store.get d (Store.modify d m i f) i = f (Store.get d m i) :=
  Store.get_set_self d m i _

theorem Store.get_modify_other (d : α) (m : Store α) (i j : Nat) (f : α → α) (hne : j ≠ i) :
    Store.get d (Store.modify d m i f) j = Store.get d m j :=
  Store.get_set_other d m i j _ hne

/-! ### The canonical form is kept -/

theorem Store.wfAbove_mono (d : α) (m : Store α) (lo hi : Nat) (hle : lo ≤ hi)
    (hw : Store.wfAbove d hi m = true) : Store.wfAbove d lo m = true := by
  cases m with
  | nil => rfl
  | cons kv rest =>
    obtain ⟨k, v⟩ := kv
    simp only [Store.wfAbove, Bool.and_eq_true, decide_eq_true_eq] at hw ⊢
    exact ⟨⟨by omega, hw.1.2⟩, hw.2⟩

theorem Store.wfAbove_insert (d : α) (m : Store α) (lo i : Nat) (x : α) (hlo : lo ≤ i) (hx : x ≠ d)
    (hw : Store.wfAbove d lo m = true) : Store.wfAbove d lo (Store.insert m i x) = true := by
  induction m generalizing lo with
  | nil => simp [Store.insert, Store.wfAbove, hlo, hx]
  | cons kv rest ih =>
    obtain ⟨k, v⟩ := kv
    simp only [Store.wfAbove, Bool.and_eq_true, decide_eq_true_eq] at hw
    by_cases h : i < k
    · simp only [Store.insert, h, if_true, Store.wfAbove, Bool.and_eq_true, decide_eq_true_eq]
      exact ⟨⟨hlo, hx⟩, ⟨by omega, hw.1.2⟩, hw.2⟩
    · by_cases h2 : k = i
      · subst h2
        simp only [Store.insert, h, if_false, if_true, Store.wfAbove, Bool.and_eq_true, decide_eq_true_eq]
        exact ⟨⟨hlo, hx⟩, hw.2⟩
      · simp only [Store.insert, h, h2, if_false, Store.wfAbove, Bool.and_eq_true, decide_eq_true_eq]
        exact ⟨hw.1, ih (k + 1) (by omega) hw.2⟩

theorem Store.wfAbove_erase (d : α) (m : Store α) (lo i : Nat) (hw : Store.wfAbove d lo m = true) :
    Store.wfAbove d lo (Store.erase m i) = true := by
  induction m generalizing lo with
  | nil => rfl
  | cons kv rest ih =>
    obtain ⟨k, v⟩ := kv
    simp only [Store.wfAbove, Bool.and_eq_true, decide_eq_true_eq] at hw
    by_cases h : k = i
    · simp only [Store.erase, h, if_true]
      exact Store.wfAbove_mono d _ lo (k + 1) (by omega) (ih (k + 1) hw.2)
    · simp only [Store.erase, h, if_false, Store.wfAbove, Bool.and_eq_true, decide_eq_true_eq]
      exact ⟨hw.1, ih (k + 1) hw.2⟩

theorem Store.wf_set (d : α) (m : Store α) (i : Nat) (x : α) (hw : Store.wf d m = true) :
    Store.wf d (Store.set d m i x) = true := by
  by_cases h : x = d
  · rw [Store.set, if_pos h]; exact Store.wfAbove_erase d m 0 i hw
  · rw [Store.set, if_neg h]; exact Store.wfAbove_insert d m 0 i x (Nat.zero_le i) h hw

theorem Store.wf_modify (d : α) (m : Store α) (i : Nat) (f : α → α) (hw : Store.wf d m = true) :
    Store.wf d (Store.modify d m i f) = true := Store.wf_set d m i _ hw

end Sys2Proof.Machine
end

