-- ==== Sys2Proof/Laws/Lookup.lean ====
section
/-! SUPPORT. Finding a clutch, a chorus, a launch or a part of the device after an update. -/

namespace Sys2Proof.Machine

/-! ### The first element that meets a test -/

theorem find?_updateFirst_self {α : Type} (p : α → Bool) (g : α → α) (hg : ∀ x, p x = true → p (g x) = true)
    (xs : List α) : (updateFirst p g xs).find? p = (xs.find? p).map g := by
  induction xs with
  | nil => rfl
  | cons x rest ih =>
    by_cases h : p x = true
    · simp [updateFirst, h, hg x h]
    · simp [updateFirst, h, ih]

theorem find?_updateFirst_other {α : Type} (p q : α → Bool) (g : α → α)
    (hg : ∀ x, p x = true → q x = false ∧ q (g x) = false) (xs : List α) :
    (updateFirst p g xs).find? q = xs.find? q := by
  induction xs with
  | nil => rfl
  | cons x rest ih =>
    by_cases h : p x = true
    · simp [updateFirst, h, hg x h]
    · by_cases hq : q x = true
      · simp [updateFirst, h, hq]
      · simp [updateFirst, h, hq, ih]

/-! ### Clutches and choruses -/

theorem Chorus.clutch?_modClutch_self (c : Chorus) (id : Nat) (g : Clutch → Clutch) (hg : ∀ x, (g x).id = x.id) :
    (c.modClutch id g).clutch? id = (c.clutch? id).map g := by
  unfold Chorus.clutch? Chorus.modClutch
  exact find?_updateFirst_self _ g (fun x h => by simpa [hg x] using h) c.clutches

theorem Chorus.clutch?_modClutch_other (c : Chorus) (id k : Nat) (g : Clutch → Clutch) (hg : ∀ x, (g x).id = x.id)
    (hne : k ≠ id) : (c.modClutch id g).clutch? k = c.clutch? k := by
  unfold Chorus.clutch? Chorus.modClutch
  refine find?_updateFirst_other _ _ g (fun x h => ?_) c.clutches
  simp only [decide_eq_true_eq] at h
  simp [hg x, h, Ne.symm hne]

theorem State.chorus?_modChorus_self (s : State) (uid : Nat) (g : Chorus → Chorus) (hg : ∀ x, (g x).uid = x.uid) :
    (s.modChorus uid g).chorus? uid = (s.chorus? uid).map g := by
  unfold State.chorus? State.modChorus
  exact find?_updateFirst_self _ g (fun x h => by simpa [hg x] using h) s.choruses

theorem State.chorus?_modChorus_other (s : State) (uid k : Nat) (g : Chorus → Chorus) (hg : ∀ x, (g x).uid = x.uid)
    (hne : k ≠ uid) : (s.modChorus uid g).chorus? k = s.chorus? k := by
  unfold State.chorus? State.modChorus
  refine find?_updateFirst_other _ _ g (fun x h => ?_) s.choruses
  simp only [decide_eq_true_eq] at h
  simp [hg x, h, Ne.symm hne]

@[simp] theorem Chorus.modClutch_uid (c : Chorus) (id : Nat) (g : Clutch → Clutch) : (c.modClutch id g).uid = c.uid := rfl
@[simp] theorem Chorus.modClutch_launch (c : Chorus) (id : Nat) (g : Clutch → Clutch) :
    (c.modClutch id g).launch = c.launch := rfl
@[simp] theorem Chorus.modClutch_status (c : Chorus) (id : Nat) (g : Clutch → Clutch) :
    (c.modClutch id g).status = c.status := rfl

theorem State.chorus?_modClutch_self (s : State) (who : ClutchId) (g : Clutch → Clutch) :
    (s.modClutch who g).chorus? who.chorus = (s.chorus? who.chorus).map (·.modClutch who.clutch g) :=
  State.chorus?_modChorus_self s _ _ (fun _ => rfl)

theorem State.chorus?_modClutch_other (s : State) (who : ClutchId) (k : Nat) (g : Clutch → Clutch)
    (hne : k ≠ who.chorus) : (s.modClutch who g).chorus? k = s.chorus? k :=
  State.chorus?_modChorus_other s _ _ _ (fun _ => rfl) hne

theorem State.at?_modClutch_self (s : State) (who : ClutchId) (g : Clutch → Clutch) (hg : ∀ x, (g x).id = x.id) :
    (s.modClutch who g).at? who = (s.at? who).map g := by
  unfold State.at?
  rw [State.chorus?_modClutch_self]
  cases s.chorus? who.chorus with
  | none => rfl
  | some c => exact Chorus.clutch?_modClutch_self c _ g hg

theorem State.at?_modClutch_other (s : State) (who k : ClutchId) (g : Clutch → Clutch) (hg : ∀ x, (g x).id = x.id)
    (hne : k ≠ who) : (s.modClutch who g).at? k = s.at? k := by
  unfold State.at?
  by_cases h : k.chorus = who.chorus
  · rw [h, State.chorus?_modClutch_self]
    cases hc : s.chorus? who.chorus with
    | none => rfl
    | some c =>
      refine Chorus.clutch?_modClutch_other c _ _ g hg (fun hk => hne ?_)
      cases k; cases who; simp_all
  · rw [State.chorus?_modClutch_other s who k.chorus g h]

/-- What an environment says of the state. -/
theorem State.env?_some (s : State) (who : ClutchId) (e : Env) (h : s.env? who = some e) :
    e.who = who ∧ s.chorus? who.chorus = some e.ch ∧ s.launch? e.ch.launch = some e.l
      ∧ e.ch.clutch? who.clutch = some e.cl ∧ e.ch.status = .resident ∧ e.cl.ended = false := by
  unfold State.env? at h
  split at h
  · simp at h
  · rename_i ch hc
    split at h
    · rename_i l cl hl hcl
      split at h
      · rename_i hs
        simp only [Option.some.injEq] at h
        subst h
        exact ⟨rfl, hc, hl, hcl, hs.1, by simpa using hs.2⟩
      · simp at h
    · simp at h

theorem State.env?_at? (s : State) (who : ClutchId) (e : Env) (h : s.env? who = some e) : s.at? who = some e.cl := by
  obtain ⟨_, hc, _, hcl, _, _⟩ := State.env?_some s who e h
  simp [State.at?, hc, hcl]

theorem withClutch_eq (s : State) (e : Env) (k : Env → Out) (hcur : s.cur = .clutch e.who) (he : s.env? e.who = some e) :
    withClutch s k = k e := by
  simp [withClutch, hcur, he]

/-! ### Dies and contexts -/

theorem State.die_modDie_other (s : State) (d k : Nat) (g : Die → Die) (hne : k ≠ d) :
    (s.modDie d g).die k = s.die k := by
  exact Store.get_modify_other ({} : Die) s.dies d k g hne

theorem State.die_modDie_self (s : State) (d : Nat) (g : Die → Die) :
    (s.modDie d g).die d = g (s.die d) := Store.get_modify_self ({} : Die) s.dies d g

theorem State.context_modContext_self (s : State) (n : Nat) (g : Context → Context) :
    (s.modContext n g).context n = g (s.context n) := Store.get_modify_self ({} : Context) s.contexts n g

theorem State.context_modContext_other (s : State) (n k : Nat) (g : Context → Context) (hne : k ≠ n) :
    (s.modContext n g).context k = s.context k := Store.get_modify_other ({} : Context) s.contexts n k g hne

end Sys2Proof.Machine
end

