-- ==== Sys2Proof/Laws/Issue.lean ====
section
/-! SUPPORT. What the shared runs of instructions answer once their hypotheses hold. -/

namespace Sys2Proof.Machine

open Sys2Proof.Safety

/-- A word that may issue is run in its clutch's environment. -/
theorem issueWith_eq (op : Nat) (f : Fields) (more : Env → List Named) (s : State) (e : Env) (k : Env → Out)
    (hr : runs s e) (hm : e.mask ≠ 0) (hh : s.heldBack e op = false)
    (hg : e.cl.ready (readsOf op f ++ more e) (writesOf op f) = .go) : issueWith op f more s k = k e := by
  unfold issueWith
  rw [withClutch_eq s e _ hr.1 hr.2, if_neg hm]
  simp [hh, hg]

theorem issue_eq (op : Nat) (f : Fields) (s : State) (e : Env) (k : Env → Out) (h : mayIssue s e op f) :
    issue op f s k = k e :=
  issueWith_eq op f _ s e k h.1 h.2.1 h.2.2.1 (by simpa using h.2.2.2)

/-- An all-zero mask passes the word over (R15). -/
theorem issue_zero (op : Nat) (f : Fields) (s : State) (e : Env) (k : Env → Out) (hr : runs s e) (hm : e.mask = 0) :
    issue op f s k = passOver s e f.len.bytes := by
  unfold issue issueWith
  rw [withClutch_eq s e _ hr.1 hr.2]
  simp [hm]

/-- An empty source with its FE bit set stops the core (R61). -/
theorem issue_trap (op : Nat) (f : Fields) (s : State) (e : Env) (k : Env → Out) (hr : runs s e) (hm : e.mask ≠ 0)
    (hh : s.heldBack e op = false) (hg : e.cl.ready (readsOf op f) (writesOf op f) = .trap) :
    issue op f s k = .next (s.clutchStop e .empty) := by
  unfold issue issueWith
  rw [withClutch_eq s e _ hr.1 hr.2, if_neg hm]
  simp [hh, hg]

/-- An empty register without an action, or an empty destination, holds the word (R61, R92). -/
theorem issue_wait (op : Nat) (f : Fields) (s : State) (e : Env) (k : Env → Out) (hr : runs s e) (hm : e.mask ≠ 0)
    (hh : s.heldBack e op = false) (hg : e.cl.ready (readsOf op f) (writesOf op f) = .wait) :
    issue op f s k = .next s := by
  unfold issue issueWith
  rw [withClutch_eq s e _ hr.1 hr.2, if_neg hm]
  simp [hh, hg]

/-- A register instruction whose checks pass has its effect, and the clutch moves on. -/
theorem runAlu_eq (op : Nat) (f : Fields) (mk : State → Env → Alu) (s : State) (e : Env) (h : mayIssue s e op f)
    (ht : (mk s e).fails e = false) (hp : (mk s e).poisoned e = false) :
    runAlu op f mk s =
      .next (((mk s e).effect s e ((mk s e).result s e)).bump.modClutch e.who (·.advance f.len.bytes)) := by
  unfold runAlu
  rw [issue_eq op f s e _ h]
  simp [ht, hp]

/-- A register instruction whose tag check fails ends the launch with FORMAT and has no effect (R32). -/
theorem runAlu_format (op : Nat) (f : Fields) (mk : State → Env → Alu) (s : State) (e : Env) (h : mayIssue s e op f)
    (ht : (mk s e).fails e = true) : runAlu op f mk s = fatal s e .format e.mask := by
  unfold runAlu
  rw [issue_eq op f s e _ h]
  simp [ht]

/-- A memory word whose checks pass goes on to its accesses. -/
theorem memoryWord_eq (op : Nat) (f : Fields) (release : Bool) (srcs : List Src) (s : State) (e : Env)
    (k : Env → Word → Out) (h : mayIssue s e op f) (ht : srcs.any e.srcFails = false)
    (hp : srcs.any (fun x => e.poisonIn x (e.readLanes x)) = false) (hd : release = true → s.drained e = true) :
    memoryWord op f release srcs s k = k e (fmtFlag (srcs.any e.srcFmt)) := by
  unfold memoryWord memoryWordWith
  rw [issue_eq op f s e _ h]
  have hrel : (release && !s.drained e) = false := by
    cases release with
    | false => rfl
    | true => simp [hd rfl]
  simp [ht, hp, hrel, Env.momentFails]

/-- A control word in a clutch with an active lane whose registers are full. -/
theorem control_eq (op : Nat) (f : Fields) (pathLevel : Bool) (s : State) (e : Env) (k : Env → Out) (hr : runs s e)
    (hm : e.mask ≠ 0 ∨ (pathLevel = true ∧ e.cl.path ≠ 0))
    (hg : e.cl.ready (readsOf op f) (writesOf op f) = .go) : control op f pathLevel s k = k e := by
  unfold control
  rw [withClutch_eq s e _ hr.1 hr.2]
  have : ¬ (e.mask = 0 ∧ (!(pathLevel && e.cl.path ≠ 0)) = true) := by
    rintro ⟨h0, h1⟩
    rcases hm with h | ⟨h, h2⟩
    · exact h h0
    · exact h2 (by simpa [h] using h1)
  simp only [this, if_false, hg]

theorem withSequencer_eq (s : State) (e : SeqEnv) (k : SeqEnv → Out) (h : streams s e) : withSequencer s k = k e := by
  simp [withSequencer, h.1, h.2]

end Sys2Proof.Machine
end

