-- ==== Sys2Proof/Laws/Memory.lean ====
section
/-! SUPPORT. Physical memory: reading after writing, and that every operation on it keeps its canonical form. -/

namespace Sys2Proof.Machine

theorem Memory.reset_wf : Memory.wf State.reset.mem = true := rfl

theorem Memory.read_write_self (m : Memory) (pa : Nat) (b : Byte) :
    Memory.read (Memory.write m pa b) pa = b := Store.get_set_self 0 m pa b

theorem Memory.read_write_other (m : Memory) (pa q : Nat) (b : Byte) (hne : q ≠ pa) :
    Memory.read (Memory.write m pa b) q = Memory.read m q := Store.get_set_other 0 m pa q b hne

theorem Memory.write_wf (m : Memory) (pa : Nat) (b : Byte) (hw : Memory.wf m = true) :
    Memory.wf (Memory.write m pa b) = true := Store.wf_set 0 m pa b hw

theorem Memory.writeAll_wf (m : Memory) (bytes : Store Byte) (hw : Memory.wf m = true) :
    Memory.wf (Memory.writeAll m bytes) = true := by
  unfold Memory.writeAll
  induction bytes generalizing m with
  | nil => exact hw
  | cons x rest ih => exact ih _ (Memory.write_wf m x.1 x.2 hw)

theorem Memory.read_writeAll_other (m : Memory) (bytes : Store Byte) (q : Nat)
    (h : ∀ x ∈ bytes, x.1 ≠ q) : Memory.read (Memory.writeAll m bytes) q = Memory.read m q := by
  unfold Memory.writeAll
  induction bytes generalizing m with
  | nil => rfl
  | cons x rest ih =>
    simp only [List.foldl_cons]
    rw [ih _ (fun y hy => h y (List.mem_cons_of_mem _ hy))]
    exact Memory.read_write_other m x.1 q x.2 (Ne.symm (h x (List.mem_cons_self ..)))

/-! ### The one operation that changes memory, and those over it -/

theorem State.putSector_mem_wf (s : State) (bytes : Store Byte) (hw : Memory.wf s.mem = true) :
    Memory.wf (s.putSector bytes).mem = true := by
  cases bytes with
  | nil => exact hw
  | cons x rest => exact Memory.writeAll_wf s.mem _ hw

@[simp] theorem State.mapL1_mem (s : State) (c : CoreId) (g : Nat → L1Sector → Option L1Sector) :
    (s.mapL1 c g).mem = s.mem := by
  unfold State.mapL1; split <;> rfl

@[simp] theorem State.dropL1_mem (s : State) (c : CoreId) (p : Nat → Bool) : (s.dropL1 c p).mem = s.mem := by
  simp [State.dropL1]

@[simp] theorem State.invalidateL1_mem (s : State) (c : CoreId) : (s.invalidateL1 c).mem = s.mem := by
  simp [State.invalidateL1]

@[simp] theorem State.updateL1_mem (s : State) (c : CoreId) (bytes : Store Byte) : (s.updateL1 c bytes).mem = s.mem := by
  simp [State.updateL1]

@[simp] theorem State.fillTlb_mem (s : State) (c : CoreId) (e : TlbEntry) : (s.fillTlb c e).mem = s.mem := rfl

theorem State.foldl_mem {β : Type} (g : State → β → State) (hg : ∀ s x, (g s x).mem = s.mem) (xs : List β) (s : State) :
    (xs.foldl g s).mem = s.mem := by
  induction xs generalizing s with
  | nil => rfl
  | cons x rest ih => rw [List.foldl_cons, ih, hg]

theorem State.foldl_mem_wf {β : Type} (g : State → β → State)
    (hg : ∀ s x, Memory.wf s.mem = true → Memory.wf (g s x).mem = true) (xs : List β) (s : State)
    (hw : Memory.wf s.mem = true) : Memory.wf (xs.foldl g s).mem = true := by
  induction xs generalizing s with
  | nil => exact hw
  | cons x rest ih => exact ih _ (hg s x hw)

@[simp] theorem State.fillCache_mem (s : State) (sectors : List Nat) : (s.fillCache sectors).mem = s.mem := by
  unfold State.fillCache
  apply State.foldl_mem
  intro s x; rfl

@[simp] theorem State.readsAt_mem (s : State) (pas : List Nat) : (s.readsAt pas).mem = s.mem := State.fillCache_mem s _

@[simp] theorem State.uncache_mem (s before : State) (sectors : List Nat) : (s.uncache before sectors).mem = s.mem := by
  unfold State.uncache
  apply State.foldl_mem
  intro s x; split <;> rfl

/-- What changes the dies alone leaves every other field of the state, fold after fold. -/
theorem State.foldl_dies {β : Type} (g : State → β → State) (hg : ∀ s x, { g s x with dies := s.dies } = s) (xs : List β) (s : State) :
    { xs.foldl g s with dies := s.dies } = s := by
  induction xs generalizing s with
  | nil => rfl
  | cons x rest ih => exact (congrArg (fun t : State => { t with dies := s.dies }) (ih (g s x))).trans (hg s x)

/-- The die caches are all that reads and fills change. -/
theorem State.fillCache_dies (s : State) (sectors : List Nat) : { s.fillCache sectors with dies := s.dies } = s :=
  State.foldl_dies (fun (t : State) sec => t.modDie (homeOf (64 * sec)) (fun d => d.takeSector (homeOf (64 * sec)) sec))
    (fun _ _ => rfl) sectors s
theorem State.readsAt_dies (s : State) (pas : List Nat) : { s.readsAt pas with dies := s.dies } = s := State.fillCache_dies s _
theorem State.walked_dies (s : State) (ctx va : Nat) : { s.walked ctx va with dies := s.dies } = s := State.fillCache_dies s _

@[simp] theorem State.walked_mem (s : State) (ctx va : Nat) : (s.walked ctx va).mem = s.mem := State.fillCache_mem s _

@[simp] theorem State.gatherUncached_mem (s : State) (sectors : List Nat) : (s.gatherUncached sectors).mem = s.mem := by
  unfold State.gatherUncached
  apply State.foldl_mem
  intro s x; rfl

@[simp] theorem State.walkFound_mem (s : State) (die ctx page va size pte : Nat) :
    (s.walkFound die ctx page va size pte).mem = s.mem := by
  unfold State.walkFound
  dsimp only
  split
  · rfl
  · apply State.foldl_mem
    intro s x; split
    · split <;> simp
    · rfl

/-- What a walk that an engine waits for changes: nothing of memory. -/
theorem State.bring_mem (c : CoreId) (ctx : Nat) (vas : List Nat) :
    ∀ s t : State, s.bring c ctx vas = some t → t.mem = s.mem := by
  induction vas with
  | nil => intro s t h; simp only [State.bring, Option.some.injEq] at h; rw [h]
  | cons va rest ih =>
    intro s t h
    unfold State.bring at h
    split at h
    · exact ih s t h
    · split at h
      · cases h
      · split at h
        · dsimp only at h
          rw [ih _ t h]
          split <;> simp
        · exact ih s t h

@[simp] theorem State.touchTlb_mem (s : State) (c : CoreId) (ctx : Nat) (vas : List Nat) :
    (s.touchTlb c ctx vas).mem = s.mem := by
  unfold State.touchTlb
  apply State.foldl_mem
  intro s x; split <;> rfl

@[simp] theorem State.fillL1_mem (s : State) (c : CoreId) (alloc die : Nat → Bool) (secs : List Nat) :
    (s.fillL1 c alloc die secs).mem = s.mem := by
  induction secs generalizing s with
  | nil => rfl
  | cons x rest ih =>
    unfold State.fillL1
    simp only [ih, State.bump_mem]
    split
    · rfl
    · split <;> simp

@[simp] theorem State.fireWatch_mem (s : State) (die : Nat) (w : Watch) (v : Nat) : (s.fireWatch die w v).mem = s.mem := by
  unfold State.fireWatch
  dsimp only
  split
  · rfl
  · split
    · rfl
    · simp

@[simp] theorem State.examine_mem (s : State) (die : Nat) (p : Watch → Bool) : (s.examine die p).mem = s.mem := by
  unfold State.examine
  apply State.foldl_mem
  intro s x; dsimp only; split <;> simp

theorem State.writeSector_mem_wf (s : State) (bytes : Store Byte) (hw : Memory.wf s.mem = true) :
    Memory.wf (s.writeSector bytes).mem = true := by
  cases bytes with
  | nil => exact hw
  | cons x rest => simpa [State.writeSector] using State.putSector_mem_wf s (x :: rest) hw

theorem State.writeBytes_mem_wf (s : State) (bytes : Store Byte) (hw : Memory.wf s.mem = true) :
    Memory.wf (s.writeBytes bytes).mem = true :=
  State.foldl_mem_wf State.writeSector (fun s x h => State.writeSector_mem_wf s x h) _ s hw

@[simp] theorem State.writeLocal_mem (s : State) (uid : Nat) (bytes : Store Byte) : (s.writeLocal uid bytes).mem = s.mem := by
  unfold State.writeLocal; split
  · rfl
  · simp

@[simp] theorem State.noteScratch_mem (s : State) (who : ClutchId) (keys : List Nat) : (s.noteScratch who keys).mem = s.mem := rfl

@[simp] theorem State.applyLocal_mem (s : State) (uid : Nat) (bytes : Store Byte) : (s.applyLocal uid bytes).mem = s.mem := by
  unfold State.applyLocal; split
  · rfl
  · simp

@[simp] theorem State.gather_mem (s : State) (w : PlainWrite) (bytes : Store Byte) : (s.gather w bytes).mem = s.mem := by
  unfold State.gather
  show (List.foldl _ s _).mem = s.mem
  apply State.foldl_mem
  intro t x; split <;> rfl

@[simp] theorem State.storeAll_mem (s : State) (e : Env) (sp : Space) (bytes : Store Byte) (uncached : List Nat) :
    (s.storeAll e sp bytes uncached).mem = s.mem := by
  cases sp <;> simp [State.storeAll]

@[simp] theorem State.miss_mem (s : State) (e : Env) (access va : Nat) : (s.miss e access va).mem = s.mem := rfl

@[simp] theorem State.missStop_mem (s : State) (e : Env) (access va : Nat) : (s.missStop e access va).mem = s.mem := by
  unfold State.missStop; split <;> rfl

theorem State.storeAt_mem_wf (s : State) (who : ClutchId) (sp : Space) (places : List Nat) (v : Nat)
    (hw : Memory.wf s.mem = true) : Memory.wf (s.storeAt who sp places v).mem = true := by
  cases sp with
  | global => exact State.writeBytes_mem_wf s _ hw
  | scratch => simpa [State.storeAt] using hw
  | cells => exact hw

end Sys2Proof.Machine
end

