-- ==== Sys2Proof/Laws/Registers.lean ====
section
/-! SUPPORT. What a write of registers does to every register word and tag. -/

namespace Sys2Proof.Machine

theorem lane_lanesOf (g : Nat → Word) (l : Nat) (hl : l < laneCount) : lane (lanesOf g) l = g l := by
  simp [lane, lanesOf, List.getD, hl]

theorem laneM_lanesOf (g : Nat → DWord) (l : Nat) (hl : l < laneCount) : laneM (lanesOf g) l = g l := by
  simp [laneM, lanesOf, List.getD, hl]

theorem lane_packLanes (v : Lanes) (l : Nat) : lane (packLanes v) l = lane v l := by
  unfold packLanes
  split
  · rename_i h
    simp only [List.all_eq_true, decide_eq_true_eq] at h
    unfold lane
    rw [List.getD_eq_getElem?_getD, List.getD_eq_getElem?_getD]
    cases hv : v[l]? with
    | none => simp
    | some w => simp [h w (List.mem_of_getElem? hv)]
  · rfl

@[simp] theorem Clutch.write_id (c : Clutch) (n : Nat) (m : Mask) (reg : Nat) (v : Nat → Word) :
    (c.write n m reg v).id = c.id := by
  unfold Clutch.write; dsimp only; split; · rfl
  split; · rfl
  split <;> rfl

@[simp] theorem Clutch.setTag_id (c : Clutch) (reg tag : Nat) : (c.setTag reg tag).id = c.id := by
  unfold Clutch.setTag; split <;> rfl

@[simp] theorem Clutch.put_id (c : Clutch) (n : Nat) (m : Mask) (reg tag : Nat) (v : Nat → Word) :
    (c.put n m reg tag v).id = c.id := by
  unfold Clutch.put; split <;> simp

@[simp] theorem Clutch.setTag_word (c : Clutch) (n reg tag k l : Nat) : (c.setTag reg tag).word n k l = c.word n k l := by
  unfold Clutch.setTag; split <;> rfl

/-- A write changes the words of its register in the lanes of the mask, and no other word of a register outside the
mask triple (R89). -/
theorem Clutch.write_word (c : Clutch) (n : Nat) (m : Mask) (reg k l : Nat) (v : Nat → Word) (hm : m ≠ 0)
    (hk : k < 253) (hl : l < laneCount) :
    (c.write n m reg v).word n k l =
      if k = reg ∧ (isUniform n reg = true ∨ inMask m l = true) then v (if isUniform n reg then lowest m else l)
      else c.word n k l := by
  have hk' : ¬ 253 ≤ k := by omega
  unfold Clutch.write
  rw [if_neg hm]
  by_cases ht : 253 ≤ reg
  · have hne : ¬ k = reg := by omega
    simp [ht, hne, Clutch.word, hk']
  · by_cases hu : isUniform n reg = true
    · by_cases hkr : k = reg
      · subst hkr
        simp [ht, hu, Clutch.word, Store.get_set_self]
      · simp [ht, hu, Clutch.word, hk', hkr, Store.get_set_other _ _ _ _ _ hkr]
    · have hu' : isUniform n reg = false := by simpa using hu
      by_cases hkr : k = reg
      · subst hkr
        simp only [ht, hu', Clutch.word, if_false, Store.get_set_self, lane_packLanes, Bool.false_eq_true, true_and,
          false_or]
        rw [lane_lanesOf _ l hl]
      · simp [ht, hu', Clutch.word, hk', hkr, Store.get_set_other _ _ _ _ _ hkr]

theorem Clutch.put_word (c : Clutch) (n : Nat) (m : Mask) (reg tag k l : Nat) (v : Nat → Word) (hm : m ≠ 0)
    (hk : k < 253) (hl : l < laneCount) :
    (c.put n m reg tag v).word n k l =
      if k = reg ∧ (isUniform n reg = true ∨ inMask m l = true) then v (if isUniform n reg then lowest m else l)
      else c.word n k l := by
  unfold Clutch.put
  rw [if_neg hm, Clutch.setTag_word, Clutch.write_word c n m reg k l v hm hk hl]

@[simp] theorem Clutch.write_tags (c : Clutch) (n : Nat) (m : Mask) (reg : Nat) (v : Nat → Word) :
    (c.write n m reg v).tags = c.tags := by
  unfold Clutch.write; dsimp only; split; · rfl
  split; · rfl
  split <;> rfl

/-- A write changes the tag of its register alone (R93). -/
theorem Clutch.put_tag (c : Clutch) (n : Nat) (m : Mask) (reg tag k : Nat) (v : Nat → Word) (hm : m ≠ 0)
    (hk : k < 253) : (c.put n m reg tag v).tag k = if k = reg then tag % 32 else c.tag k := by
  have hk' : ¬ 253 ≤ k := by omega
  unfold Clutch.put
  rw [if_neg hm]
  unfold Clutch.setTag Clutch.tag
  by_cases hkr : k = reg
  · subst hkr
    simp [hk', Store.get_set_self]
  · by_cases ht : 253 ≤ reg
    · simp [ht, hk', hkr]
    · simp [ht, hk', hkr, Store.get_set_other _ _ _ _ _ hkr]

/-! ### Several registers -/

theorem Clutch.putAll_nil (c : Clutch) (n : Nat) (m : Mask) (dst : Nat) (tags : List Nat) :
    c.putAll n m dst tags [] = c := rfl

theorem Clutch.putAll_one (c : Clutch) (n : Nat) (m : Mask) (dst : Nat) (tags : List Nat) (w : Lanes) :
    c.putAll n m dst tags [w] = c.put n m dst (tags.getD 0 0) (lane w) := rfl

theorem Clutch.putAll_two (c : Clutch) (n : Nat) (m : Mask) (dst : Nat) (tags : List Nat) (w x : Lanes) :
    c.putAll n m dst tags [w, x] =
      (c.put n m dst (tags.getD 0 0) (lane w)).put n m (dst + 1) (tags.getD 1 0) (lane x) := rfl

end Sys2Proof.Machine
end

