-- ==== Sys2Proof/Machine/Assembly.lean ====
section
/-! DEFINITION. What Weagen assembly puts into a kernel image: suffixes, immediates, pair words, the places of words and
the header (R78 to R83). Source text is no part of the machine; a statement stands here as what it names (log 63). -/

namespace Sys2Proof.Machine

/-! ### Suffixes (R78) -/

/-- What a suffix of a statement or of an operand names. -/
inductive Suffix where
  /-- `.lf` or `.rt` of source A (0) or B (1) -/
  | neighbour (src : Nat) (right : Bool)
  /-- `!` of source A (0), B (1) or C (2) -/
  | trapEmpty (src : Nat)
  /-- `.i8` to `.n64`, by the code of R65 -/
  | ty (code : Nat)
  /-- `.f64` to `.mb16`, by the tag of R31 -/
  | format (tag : Nat)
  /-- `.rne`, `.rtz`, `.rup`, `.rdn` -/
  | rounding (rm : RM)
  /-- `.sp`, `.fi`, `.fo`, `.fio` -/
  | subnormals (inputs outputs : Bool)
deriving DecidableEq, Repr

/-- The code of a rounding mode (R43). -/
def RM.code : RM → Nat
  | .rne => 0
  | .rtz => 1
  | .rup => 2
  | .rdn => 3

/-- The fields of a word under one more suffix (R78). -/
def Suffix.apply (x : Suffix) (f : Fields) : Fields :=
  match x with
  | .neighbour src right =>
    let code : BitVec 2 := if right then 2 else 1
    if src = 0 then { f with na := code } else { f with nb := code }
  | .trapEmpty src => { f with fe := f.fe ||| BitVec.ofNat 3 (2 ^ src) }
  | .ty code => { f with mod := f.mod &&& 0x38 ||| BitVec.ofNat 6 (code % 8) }
  | .format tag => { f with tg := BitVec.ofNat 5 tag }
  | .rounding rm => { f with mod := f.mod &&& 0x07 ||| BitVec.ofNat 6 (32 + 8 * rm.code) }
  | .subnormals i o =>
    { f with mod := f.mod &&& 0x38 ||| BitVec.ofNat 6 (4 + (if i then 1 else 0) + (if o then 2 else 0)) }

/-! ### Immediates (R79) -/

/-- A literal of the source: a decimal one, (-1)^neg x digits x 10^exp, or a bit pattern. -/
inductive Literal where
  | decimal (neg : Bool) (digits : Nat) (exp : Int)
  | hex (bits : Nat)
deriving DecidableEq, Repr

/-- The operand that an immediate replaces. -/
inductive ImmKind where
  /-- a floating value of at most 32 bits -/
  | float (f : Fmt)
  /-- both elements of a packed form -/
  | packed (f : Fmt)
  /-- an FP64 value, which IMM gives in FP32 -/
  | double
  /-- an integer of a type of R65 -/
  | int (ty : Nat)
  /-- an integer whose rule has no type, read as signed or not -/
  | plain (signed : Bool)
deriving DecidableEq, Repr

/-- A decimal literal exceeds a magnitude m x 2^e. -/
def exceeds (digits : Nat) (exp : Int) (m : Nat) (e : Int) : Bool :=
  m * 2 ^ e.toNat * 10 ^ (-exp).toNat < digits * 10 ^ exp.toNat * 2 ^ (-e).toNat

/-- RoundTo(format, RNE) of a decimal literal; none beyond the largest finite value. -/
def Fmt.ofDecimal (f : Fmt) (neg : Bool) (digits : Nat) (exp : Int) : Option Nat :=
  if digits = 0 then some (f.signBit neg)
  else match f.decode f.maxBits with
    | .fin _ m e =>
      if exceeds digits exp m e then none
      else if 0 ≤ exp then some (f.round .rne neg (digits * 10 ^ exp.toNat) 0).bits
      else some (f.roundQuot .rne neg digits (10 ^ (-exp).toNat) 0).bits
    | _ => none

/-- The integers that a literal may name for a type (R66, R79). -/
def immRange (ty : Nat) : Int × Int :=
  match ty with
  | 0 | 2 => (-2147483648, 2147483647)
  | 1 | 3 => (0, 4294967295)
  | 4 => (-32768, 32767)
  | 5 => (0, 65535)
  | 6 => (-128, 127)
  | _ => (0, 255)

/-- IMM for a value of an element of a type: in every element of a packed one. -/
def immWord (ty : Nat) (x : Int) : Word :=
  match ty with
  | 4 | 5 => BitVec.ofInt 16 x ++ BitVec.ofInt 16 x
  | 6 | 7 => BitVec.ofInt 8 x ++ BitVec.ofInt 8 x ++ BitVec.ofInt 8 x ++ BitVec.ofInt 8 x
  | _ => BitVec.ofInt 32 x

/-- An integer literal for a type; none for one that is out of range or no integer. -/
def integerImm (ty : Nat) (neg : Bool) (digits : Nat) (exp : Int) : Option Word :=
  let x : Int := if neg then -(digits : Int) else digits
  if exp = 0 ∧ (immRange ty).1 ≤ x ∧ x ≤ (immRange ty).2 then some (immWord ty x) else none

/-- IMM of a literal, or none for an assembly error (R79). -/
def immediate (k : ImmKind) (x : Literal) : Option Word :=
  match x with
  | .hex bits => if bits < 2 ^ 32 then some (BitVec.ofNat 32 bits) else none
  | .decimal neg digits exp =>
    match k with
    | .float f => (f.ofDecimal neg digits exp).map (BitVec.ofNat 32)
    | .packed f => (f.ofDecimal neg digits exp).map fun h => BitVec.ofNat 16 h ++ BitVec.ofNat 16 h
    | .double =>
      (fp64.ofDecimal neg digits exp).bind fun w =>
        let narrow := (fp32.convert .rne (fp64.decode w)).bits
        if (fp64.convert .rne (fp32.decode narrow)).bits = w then some (BitVec.ofNat 32 narrow) else none
    | .int ty => integerImm ty neg digits exp
    | .plain signed => integerImm (if signed then 0 else 1) neg digits exp

/-! ### Pair words (R80) -/

/-- A statement: its operation, and whether it carries a label. -/
structure Statement where
  instr : Instr
  labelled : Bool := false
deriving DecidableEq, Repr

/-- The pair word that two adjacent statements may form. -/
def pairOf (r : Ranges) (x y : Statement) : Option Instr :=
  match opOf x.instr, opOf y.instr with
  | some (op, f), some (op', f') =>
    let a : PairOp := { op := BitVec.ofNat 8 op, f }
    let b : PairOp := { op := BitVec.ofNat 8 op', f := f' }
    if !y.labelled && WellFormed r (.pairWord a b) then some (.pairWord a b) else none
  | _, _ => none

/-! ### Places (R81) -/

/-- What stands in a section of code or of a stream. -/
inductive Item where
  | word (bytes : List Byte)
  | align (n : Nat)
deriving DecidableEq, Repr

/-- The filler word of 8 bytes and that of 12, in code and in a stream. -/
def filler8 (stream : Bool) : List Byte := bytesOf 8 (if stream then 0x2B0 else 0)
def filler12 (stream : Bool) : List Byte := bytesOf 12 (if stream then 0x2B5 else 1)

/-- Fillers for a gap that is a sum of 8s and 12s, a 12 first where one is needed (log 63). -/
def fillGap (stream : Bool) (gap : Nat) : List Byte :=
  if gap % 8 = 4 then filler12 stream ++ (List.replicate ((gap - 12) / 8) (filler8 stream)).flatten
  else (List.replicate (gap / 8) (filler8 stream)).flatten

/-- Fillers from a position to a later one, block by block. -/
def fillTo (stream : Bool) (target : Nat) : Nat → Nat → List Byte
  | 0, _ => []
  | fuel + 1, pos =>
    if target ≤ pos then []
    else if pos / 32 = target / 32 then fillGap stream (target - pos)
    else fillGap stream (32 - pos % 32) ++ fillTo stream target fuel (pos + (32 - pos % 32))

/-- Filler words can reach a position from another. -/
def reachesPlace (pos q : Nat) : Bool :=
  q = pos || (if q / 32 = pos / 32 then pos + 8 ≤ q && q % 32 ≠ 28
    else pos < q && [0, 8, 12, 16, 20, 24].contains (q % 32))

/-- The position that `.align n` moves to. -/
def alignPlace (n pos : Nat) : Nat :=
  (((List.range (2 * n + 64)).map (pos + ·)).find? (fun q => q % n = 0 && reachesPlace pos q)).getD pos

/-- Where a word of a length stands: at the position, or at the next block (R59, R81). -/
def wordPlace (bytes pos : Nat) : Nat :=
  if 32 < pos % 32 + bytes ∨ pos % 32 + bytes = 28 then pos + (32 - pos % 32) else pos

/-- The bytes of a section that begins at a position. -/
def layOut (stream : Bool) : Nat → List Item → List Byte
  | _, [] => []
  | pos, x :: rest =>
    let place := match x with
      | .word bytes => wordPlace bytes.length pos
      | .align n => alignPlace n pos
    let bytes := match x with
      | .word bytes => bytes
      | .align _ => []
    fillTo stream place ((place - pos) / 32 + 2) pos ++ bytes ++ layOut stream (place + bytes.length) rest

/-! ### The header and the image (R82, R83) -/

/-- A variant of a kernel: its signature, its usable cores, its code and its matrix stream, if it has one. -/
structure VariantSource where
  signature : DWord := 0
  cores : BitVec 48 := 0xFFFFFFFFFFFF
  code : List Item
  stream : Option (List Item) := none
deriving DecidableEq, Repr

/-- The 64 bytes of the header (R83). -/
def headerBytes (h : Header) (dataOff dataLen : Nat) : List Byte :=
  bytesOf 4 0x4B395646 ++ bytesOf 2 1 ++ bytesOf 1 (if h.cluster then 1 else 0) ++ bytesOf 1 h.clutches
    ++ bytesOf 1 h.regs ++ bytesOf 1 h.uniform ++ bytesOf 1 h.volFirst ++ bytesOf 1 h.volCount
    ++ bytesOf 1 h.moments ++ bytesOf 1 h.barriers ++ bytesOf 2 h.accRows ++ bytesOf 4 h.scratch
    ++ bytesOf 1 (if h.restartable then 1 else 0) ++ bytesOf 1 h.energy ++ bytesOf 1 h.sections ++ bytesOf 1 h.nvar
    ++ bytesOf 4 dataOff ++ bytesOf 4 dataLen ++ bytesOf 32 0

/-- The 32 bytes of a variant's entry. -/
def variantBytes (x : VariantSource) (entry stream : Nat) : List Byte :=
  bytesOf 8 x.signature.toNat ++ bytesOf 4 entry ++ bytesOf 4 stream ++ bytesOf 6 x.cores.toNat ++ bytesOf 10 0

/-- The sections of the variants from a position on: their entries, and their bytes. Each section begins at a multiple
of 32, which the fillers of the section before it reach. -/
def sectionsFrom : Nat → Bool → List VariantSource → List (VariantSource × Nat × Nat) × List Byte
  | _, _, [] => ([], [])
  | pos, last, x :: rest =>
    let entry := alignPlace 32 pos
    let gap := fillTo last entry 2 pos
    let code := layOut false entry x.code
    let afterCode := entry + code.length
    match x.stream with
    | none =>
      let r := sectionsFrom afterCode false rest
      ((x, entry, 0) :: r.1, gap ++ code ++ r.2)
    | some items =>
      let start := alignPlace 32 afterCode
      let pad := fillTo false start 2 afterCode
      let stream := layOut true start items
      let r := sectionsFrom (start + stream.length) true rest
      ((x, entry, start) :: r.1, gap ++ code ++ pad ++ stream ++ r.2)

/-- The image of a kernel: header, variant entries, sections, data (R83). -/
def imageOf (h : Header) (xs : List VariantSource) (data : List Byte) : List Byte :=
  let base := 64 + 32 * xs.length
  let r := sectionsFrom base false xs
  headerBytes { h with nvar := xs.length } (base + r.2.length) data.length
    ++ (r.1.map fun x => variantBytes x.1 x.2.1 x.2.2).flatten ++ r.2 ++ data

end Sys2Proof.Machine
end

