-- ==== Sys2Proof/Tests/Slice0.lean ====
section
/-! SUPPORT. Tests: decoding, refused terms, single steps with results that the manual works out, and for each
obligation a witness that meets its hypotheses. Expected words and results are the manual's, or worked out by hand
from its tables. -/

namespace Sys2Proof.Tests

open Sys2Proof Sys2Proof.Machine Sys2Proof.Safety Sys2Proof.Claims

set_option Elab.async false

/-! ### One word of every instruction -/

def integerWords : List (Nat × Instr) := [
  (0x0, .nop {}),
  (0x4080004, .mov { d := 8, a := 4 }),
  (0xA0604080008, .sel { d := 8, a := 4, b := 6, c := 10 }),
  (0x800060408180C, .iadd { mod := 6, d := 8, a := 4, b := 6, na := 1 }),
  (0x1000604081810, .isub { mod := 6, d := 8, a := 4, b := 6, fe := 1 }),
  (0x70000000004080015, .imul { len := .w96, d := 8, a := 4, imm := 7 }),
  (0x604080018, .imulh { d := 8, a := 4, b := 6 }),
  (0xA060408001C, .imad { d := 8, a := 4, b := 6, c := 10 }),
  (0xA0604080820, .imadw { mod := 2, d := 8, a := 4, b := 6, c := 10 }),
  (0x604080024, .idiv { d := 8, a := 4, b := 6 }),
  (0x604080428, .irem { mod := 1, d := 8, a := 4, b := 6 }),
  (0x408002C, .iabs { d := 8, a := 4 }),
  (0x604081830, .imin { mod := 6, d := 8, a := 4, b := 6 }),
  (0x604080034, .imax { d := 8, a := 4, b := 6 }),
  (0xA0604082438, .iaddc { mod := 9, d := 8, a := 4, b := 6, c := 10 }),
  (0x60408303C, .iadds { mod := 12, d := 8, a := 4, b := 6 }),
  (0x60408A040, .icmp { mod := 40, d := 8, a := 4, b := 6 }),
  (0x604080044, .and { d := 8, a := 4, b := 6 }),
  (0x604080048, .or { d := 8, a := 4, b := 6 }),
  (0x4000060408004C, .xor { d := 8, a := 4, b := 6, nb := 2 }),
  (0x604080050, .andn { d := 8, a := 4, b := 6 }),
  (0x604080854, .shl { mod := 2, d := 8, a := 4, b := 6 }),
  (0x604080458, .shr { mod := 1, d := 8, a := 4, b := 6 }),
  (0x5000000000408005D, .sar { len := .w96, d := 8, a := 4, imm := 5 }),
  (0x604082060, .rot { mod := 8, d := 8, a := 4, b := 6 }),
  (0x604080464, .bfe { mod := 1, d := 8, a := 4, b := 6 }),
  (0xA0604080068, .bfi { d := 8, a := 4, b := 6, c := 10 }),
  (0x408006C, .popc { d := 8, a := 4 }),
  (0x4080070, .clz { d := 8, a := 4 }),
  (0x4080074, .brev { d := 8, a := 4 }),
  (0x4080078, .ffs { d := 8, a := 4 }),
  (0x60408687C, .lea { mod := 26, d := 8, a := 4, b := 6 }),
  (0x604080880, .add64 { mod := 2, d := 8, a := 4, b := 6 }),
  (0x604086884, .cmp64 { mod := 26, d := 8, a := 4, b := 6 }),
  (0x4085088, .cvti { mod := 20, d := 8, a := 4 }),
  (0xA060408008C, .bymix { d := 8, a := 4, b := 6, c := 10 }),
  (0x4082090, .vote { mod := 8, d := 8, a := 4 }),
  (0x4086094, .ballot { mod := 24, d := 8, a := 4 }),
  (0x4084098, .match_ { mod := 16, d := 8, a := 4 }),
  (0x408209C, .redi { mod := 8, d := 8, a := 4 }),
  (0x40804A0, .scani { mod := 1, d := 8, a := 4 }),
  (0xFD06040820A4, .shfl { mod := 8, d := 8, a := 4, b := 6, c := 253 }),
  (0x6040800A8, .bcast { d := 8, a := 4, b := 6 }),
  (0xA06040800AC, .isect { d := 8, a := 4, b := 6, c := 10 })]

def specialWords : List (Nat × Instr) := [
  (0x814B0, .rdcr { mod := 5, d := 8 }),
  (0x40000B4, .wrcr { a := 4 })]

def floatingWords : List (Nat × Instr) := [
  (0x1000006040800C0, .fadd { d := 8, a := 4, b := 6, tg := 2 }),
  (0x1000006040800C4, .fsub { d := 8, a := 4, b := 6, tg := 2 }),
  (0x1000006040800C8, .fmul { d := 8, a := 4, b := 6, tg := 2 }),
  (0x1000006040800D0, .fmin { d := 8, a := 4, b := 6, tg := 2 }),
  (0x1000006040800D4, .fmax { d := 8, a := 4, b := 6, tg := 2 }),
  (0x1000006040800D8, .fcmp { d := 8, a := 4, b := 6, tg := 2 }),
  (0x1000A060408A0CC, .ffma { mod := 40, d := 8, a := 4, b := 6, c := 10, tg := 2 }),
  (0x1000000040800DC, .fclass { d := 8, a := 4, tg := 2 }),
  (0x180000C0C0800E0, .pkadd { d := 8, a := 12, b := 12, tg := 3 }),
  (0x180000C0C0800E4, .pkmul { d := 8, a := 12, b := 12, tg := 3 }),
  (0x180000C0C0800EC, .pkmin { d := 8, a := 12, b := 12, tg := 3 }),
  (0x180000C0C0800F0, .pkmax { d := 8, a := 12, b := 12, tg := 3 }),
  (0x180000C0C0800F4, .pkcmp { d := 8, a := 12, b := 12, tg := 3 }),
  (0x1800C0C0C0800E8, .pkfma { d := 8, a := 12, b := 12, c := 12, tg := 3 }),
  (0x1000006040800F8, .fdiv { d := 8, a := 4, b := 6, tg := 2 }),
  (0x1000000040800FC, .fsqrt { d := 8, a := 4, tg := 2 }),
  (0x100030004080100, .cvtf { d := 8, a := 4, c := 3, tg := 2 }),
  (0x100000004080104, .cvtfi { d := 8, a := 4, tg := 2 }),
  (0x100000004080108, .cvtif { d := 8, a := 4, tg := 2 }),
  (0x18000060408010C, .fpack { d := 8, a := 4, b := 6, tg := 3 }),
  (0x18000000C080110, .funpack { d := 8, a := 12, tg := 3 }),
  (0x60000000E080114, .blkq { d := 8, a := 14, tg := 12 }),
  (0x600020E10080118, .blkdq { d := 8, a := 16, b := 14, c := 2, tg := 12 }),
  (0x60000000408011C, .blkex { d := 8, a := 4, tg := 12 }),
  (0x100000004080120, .frcp { d := 8, a := 4, tg := 2 }),
  (0x100000004080124, .frsq { d := 8, a := 4, tg := 2 }),
  (0x100000004080128, .fexp2 { d := 8, a := 4, tg := 2 }),
  (0x10000000408012C, .flog2 { d := 8, a := 4, tg := 2 }),
  (0x100000004080130, .fsin { d := 8, a := 4, tg := 2 }),
  (0x100000004080134, .fcos { d := 8, a := 4, tg := 2 }),
  (0x100000004080138, .ftanh { d := 8, a := 4, tg := 2 }),
  (0x10000000408013C, .fsigm { d := 8, a := 4, tg := 2 }),
  (0x100000004080140, .ferf { d := 8, a := 4, tg := 2 }),
  (0x100000004080144, .freda { d := 8, a := 4, tg := 2 }),
  (0x100000004080148, .fredm { d := 8, a := 4, tg := 2 }),
  (0x10000000408014C, .fscan { d := 8, a := 4, tg := 2 }),
  (0x100000004080150, .frnd { d := 8, a := 4, tg := 2 }),
  (0x100001204080154, .fscl { d := 8, a := 4, b := 18, tg := 2 }),
  (0x2800A1414080158, .fdot4 { d := 8, a := 20, b := 20, c := 10, tg := 5 })]

def momentWords : List (Nat × Instr) := [
  (0x780000201030180, .madd { d := 3, a := 1, b := 2, tg := 15 }),
  (0x780000201030184, .msub { d := 3, a := 1, b := 2, tg := 15 }),
  (0x78000020103018C, .mmul { d := 3, a := 1, b := 2, tg := 15 }),
  (0x780040201030190, .mfma { d := 3, a := 1, b := 2, c := 4, tg := 15 }),
  (0x780000401030188, .mscl { d := 3, a := 1, b := 4, tg := 15 }),
  (0x780000001030194, .mrelu { d := 3, a := 1, tg := 15 }),
  (0x780000001030198, .msigm { d := 3, a := 1, tg := 15 }),
  (0x78000000103019C, .mexp { d := 3, a := 1, tg := 15 }),
  (0x7800006040301A0, .mset { d := 3, a := 4, b := 6, tg := 15 }),
  (0x7800004010881A4, .mcoll { mod := 32, d := 8, a := 1, b := 4, tg := 15 }),
  (0x10301B0, .mmov { d := 3, a := 1 }),
  (0x7800000050301B4, .mcvt { d := 3, a := 5, tg := 15 }),
  (0x4007800000140301AA, .mld { len := .w128, d := 3, a := 20, tg := 15, imm := 64 }),
  (0x4007800001140001AE, .mst { len := .w128, a := 20, b := 1, tg := 15, imm := 64 })]

def controlWords : List (Nat × Instr) := [
  (0x4000000000F2000DC1, .bra { len := .w96, mod := 3, a := 242, imm := 64 }),
  (0x400000000004F101C5, .brc { len := .w96, d := 241, a := 4, imm := 64 }),
  (0x400000000000F105C5, .brcLoop { len := .w96, mod := 1, d := 241, imm := 64 }),
  (0xF30001C8, .join { a := 243 }),
  (0x4F40001CC, .brk { a := 244, b := 4 }),
  (0xF40005D0, .cont { mod := 1, a := 244 }),
  (0x8000000000000001D5, .call { len := .w96, imm := 128 }),
  (0x1D8, .ret {}),
  (0x40005DC, .exit { mod := 1, a := 4 }),
  (0xF60001E0, .kill { a := 246 }),
  (0x1E4, .yield {}),
  (0x500000000000001E9, .trap { len := .w96, imm := 5 }),
  (0x5EC, .emret { mod := 1 }),
  (0x1F0, .bkpt {}),
  (0xF20001F4, .brx { a := 242 }),
  (0x8020C, .rdclk { d := 8 }),
  (0x602000600, .barArrive { mod := 1, a := 2, b := 6 }),
  (0x2004200, .barWait { mod := 16, a := 2 }),
  (0x20000000002008601, .barSync { len := .w96, mod := 33, a := 2, imm := 2 }),
  (0xA04, .fence { mod := 2 }),
  (0x4204, .fenceOpr { mod := 16 }),
  (0x8204, .fenceQ { mod := 32 }),
  (0x14080208, .promote { d := 8, a := 20 })]

def memoryWords : List (Nat × Instr) := [
  (0x400100000014088222, .ld { len := .w128, mod := 32, d := 8, a := 20, tg := 2, imm := 64 }),
  (0x400000001A14008226, .st { len := .w128, mod := 32, a := 20, b := 26, imm := 64 }),
  (0x4000000000040000000001608A22A, .lds { len := .w128, mod := 40, d := 8, a := 22, imm := 64, sp := 4 }),
  (0x40000000000400000001A1600A22E, .sts { len := .w128, mod := 40, a := 22, b := 26, imm := 64, sp := 4 }),
  (0x80000000000400000000016084232, .ldc { len := .w128, mod := 16, d := 8, a := 22, imm := 64, sp := 8 }),
  (0x80000000000400000001A16004236, .stc { len := .w128, mod := 16, a := 22, b := 26, imm := 64, sp := 8 }),
  (0x181408823A, .gath { len := .w128, mod := 32, d := 8, a := 20, b := 24 }),
  (0x1A181400823E, .scat { len := .w128, mod := 32, a := 20, b := 24, c := 26 }),
  (0x40000000000000000001816088242, .gaths { len := .w128, mod := 32, d := 8, a := 22, b := 24, sp := 4 }),
  (0x800000000000000001A1816008246, .scats { len := .w128, mod := 32, a := 22, b := 24, c := 26, sp := 8 }),
  (0x1808024A, .ldacc { len := .w128, d := 8, a := 24 }),
  (0x1A1800024E, .stacc { len := .w128, a := 24, b := 26 }),
  (0x1A14080652, .atom { len := .w128, mod := 1, d := 8, a := 20, b := 26 }),
  (0x40000000000000000001A16082A56, .atoms { len := .w128, mod := 10, d := 8, a := 22, b := 26, sp := 4 }),
  (0x80000000000000000001A1608465A, .atomc { len := .w128, mod := 17, d := 8, a := 22, b := 26, sp := 8 }),
  (0x8300000000000000001C1A1408065E, .cas { len := .w128, mod := 1, d := 8, a := 20, b := 26, c := 28, sp := 3, hn := 8 }),
  (0x400000000000000001C1A16080E62, .cass { len := .w128, mod := 3, d := 8, a := 22, b := 26, c := 28, sp := 4 }),
  (0x800000000000000001C1A16080266, .casc { len := .w128, d := 8, a := 22, b := 26, c := 28, sp := 8 }),
  (0x1400066A, .pref { len := .w128, mod := 1, a := 20 }),
  (0x14000A6E, .lineop { len := .w128, mod := 2, a := 20 })]

def streamWords : List (Nat × Instr) := [
  (0x2300000000000001000006040206A2, .mma { len := .w128, mod := 1, d := 2, a := 4, b := 6, tg := 2, sp := 3, hn := 2 }),
  (0x3300000000000001800006040246A2, .mmaBc { len := .w128, mod := 17, d := 2, a := 4, b := 6, tg := 3, sp := 3, hn := 3 }),
  (0x5300000010000002800806040286A2, .mmaS { len := .w128, mod := 33, d := 2, a := 4, b := 6, c := 8, tg := 5, imm := 0x100000, sp := 3, hn := 5 }),
  (0x23000000000000078000060402C6A2, .mmaM { len := .w128, mod := 49, d := 2, a := 4, b := 6, tg := 15, sp := 3, hn := 2 }),
  (0x20002A4, .mwait { a := 2 }),
  (0x20002A8, .marrive { a := 2 }),
  (0x4000100000000000020EAD, .mzero { len := .w96, mod := 3, d := 2, imm := 0x400010 }),
  (0x900000000000306B1, .qmov { len := .w96, mod := 1, d := 3, imm := 9 }),
  (0x5020302B4, .qadd { d := 3, a := 2, b := 5 }),
  (0x3000000000020006B9, .qbra { len := .w96, mod := 1, a := 2, imm := 48 }),
  (0x2BC, .mend {})]

def copyWords : List (Nat × Instr) := [
  (0x100000000004000000000180802E2, .tcpKick { len := .w128, d := 8, a := 24, imm := 64, sp := 1 }),
  (0x1E0806E2, .tcpCancel { len := .w128, mod := 1, d := 8, a := 30 }),
  (0x100000000000180816E6, .tiledef { len := .w128, mod := 5, d := 8, a := 24, imm := 0x1000 }),
  (0x816EA, .tilerel { len := .w128, mod := 5, d := 8 }),
  (0x816EE, .tilest { len := .w128, mod := 5, d := 8 }),
  (0x200000000000816F2, .tiledrn { len := .w128, mod := 5, d := 8, imm := 2 })]

def remoteWords : List (Nat × Instr) := [
  (0x24000000000000001A20000F02, .radd { len := .w128, mod := 3, a := 32, b := 26, e := 36 }),
  (0x100024000000000100260420002302, .raddFx { len := .w128, mod := 8, a := 32, b := 4, c := 38, tg := 2, e := 36, hn := 1 }),
  (0x24000000000000001A20000706, .rmin { len := .w128, mod := 1, a := 32, b := 26, e := 36 }),
  (0x24000000000000001A2000030A, .rmax { len := .w128, a := 32, b := 26, e := 36 }),
  (0x24000000000000001A2000070E, .ror { len := .w128, mod := 1, a := 32, b := 26, e := 36 }),
  (0x24000000000000001A20008312, .rput1 { len := .w128, mod := 32, a := 32, b := 26, e := 36 }),
  (0x24000000000000001A20000316, .rarr { len := .w128, a := 32, b := 26, e := 36 }),
  (0x142400000000000000002000831A, .rget { len := .w128, mod := 32, a := 32, e := 36, f := 20 }),
  (0x2225000000000000001A2008831E, .mcast1 { len := .w128, mod := 32, d := 8, a := 32, b := 26, e := 37, f := 34 }),
  (0x24000000000100000020080322, .raccCvt { len := .w128, d := 8, a := 32, tg := 2, e := 36 }),
  (0x1A20080326, .arrwait { len := .w128, d := 8, a := 32, b := 26 }),
  (0x10000000000000000001A1608032A, .arrset { len := .w128, d := 8, a := 22, b := 26, sp := 1 }),
  (0x1A2008032E, .arrtest { len := .w128, d := 8, a := 32, b := 26 })]

def windowWords : List (Nat × Instr) := [
  (0x80362, .cwinAttach { len := .w128, d := 8 }),
  (0x2362, .cwinDetach { len := .w128, mod := 8 }),
  (0x1A16004362, .cwinAdd { len := .w128, mod := 16, a := 22, b := 26 }),
  (0x1A16006762, .cwinMin { len := .w128, mod := 25, a := 22, b := 26 }),
  (0x1A16008362, .cwinMax { len := .w128, mod := 32, a := 22, b := 26 }),
  (0x100000000000000000261A1600A762, .cwinOr { len := .w128, mod := 41, a := 22, b := 26, c := 38, hn := 1 }),
  (0x1A1600D362, .cwinPut1 { len := .w128, mod := 52, a := 22, b := 26 }),
  (0x1A1600E362, .cwinArr { len := .w128, mod := 56, a := 22, b := 26 }),
  (0x16088366, .cwld { len := .w128, mod := 32, d := 8, a := 22 }),
  (0x1A1600836A, .cwst { len := .w128, mod := 32, a := 22, b := 26 }),
  (0x282008036E, .stepCfg { len := .w128, d := 8, a := 32, b := 40 }),
  (0x4180000000000001A061608436E, .stepProbe { len := .w128, mod := 16, d := 8, a := 22, b := 6, c := 26, e := 24, f := 4 }),
  (0x180000000000001A061608836E, .stepStore { len := .w128, mod := 32, d := 8, a := 22, b := 6, c := 26, e := 24 })]

def queuesWords : List (Nat × Instr) := [
  (0x30000001A00080781, .nrec { len := .w96, mod := 1, d := 8, b := 26, imm := 3 }),
  (0x18080384, .coll { d := 8, a := 24 }),
  (0x1E080388, .ftest { d := 8, a := 30 }),
  (0x1E08038C, .fcancel { d := 8, a := 30 }),
  (0x1E080790, .fread { mod := 1, d := 8, a := 30 }),
  (0x2A080394, .grpJoin { d := 8, a := 42 }),
  (0x2A080794, .grpLeave { mod := 1, d := 8, a := 42 }),
  (0x20000000000080399, .regclaim { len := .w96, d := 8, imm := 2 }),
  (0x60008039C, .regsurr { d := 8, b := 6 })]


/-! ### Decoding -/

/-- The ranges of the words above. -/
def r0 : Ranges := { h := 64, n := 16, moments := 16, barriers := 8 }

def decodesTest (x : Nat × Instr) : Bool := decodeWord r0 x.1 = x.2 && WellFormed r0 x.2 && encodeWord x.2 = some x.1
def streamTest (x : Nat × Instr) : Bool := decodeStream r0 x.1 = some x.2 && WellFormed r0 x.2 && encodeWord x.2 = some x.1

/-- One word of every instruction, laid out from R60, R66, R67 and the opcodes of R71. -/
theorem test_decode_integer : integerWords.all decodesTest = true := by decide +kernel
theorem test_decode_special : specialWords.all decodesTest = true := by decide +kernel
theorem test_decode_floating : floatingWords.all decodesTest = true := by decide +kernel
theorem test_decode_moment : momentWords.all decodesTest = true := by decide +kernel
theorem test_decode_control : controlWords.all decodesTest = true := by decide +kernel
theorem test_decode_memory : memoryWords.all decodesTest = true := by decide +kernel
theorem test_decode_stream : streamWords.all streamTest = true := by decide +kernel
theorem test_decode_copy : copyWords.all decodesTest = true := by decide +kernel
theorem test_decode_remote : remoteWords.all decodesTest = true := by decide +kernel
theorem test_decode_window : windowWords.all decodesTest = true := by decide +kernel
theorem test_decode_queues : queuesWords.all decodesTest = true := by decide +kernel

/-- The bytes hold the instruction and nothing more. -/
def holds (bs : List Byte) (i : Instr) : Bool :=
  match decodeBytes r0 bs with
  | .ok x => x.1 = i && x.2.isEmpty
  | .error _ => false

/-- Worked encodings of the manual that DecodedWords does not name (04, 06, 10, 17, 18, 19). -/
theorem test_decode_worked :
    holds [0x99, 0x03, 0x05, 0, 0, 0, 0, 0, 0x04, 0, 0, 0] (.regclaim { len := .w96, d := 5, imm := 4 }) = true
      ∧ holds [0xE8, 0xC0, 0x06, 0x01, 0x02, 0x03, 0, 0x02] (.pkfma { mod := 0x30, d := 6, a := 1, b := 2, c := 3, tg := 4 }) = true
      ∧ holds [0x04, 0x06, 0, 0, 0, 0, 0, 0] (.fence { mod := 1 }) = true
      ∧ holds [0x84, 0x03, 0x06, 0x14, 0, 0, 0, 0] (.coll { d := 6, a := 20 }) = true
      ∧ holds [0x90, 0x07, 0x08, 0x0C, 0, 0, 0, 0] (.fread { mod := 1, d := 8, a := 12 }) = true
      ∧ holds [0xE6, 0x0E, 0x05, 0x08, 0, 0, 0, 0, 0, 0x10, 0, 0, 0, 0, 0, 0] (.tiledef { len := .w128, mod := 3, d := 5, a := 8, imm := 0x1000 }) = true
      ∧ holds [0x26, 0x03, 0x04, 0x0C, 0x06, 0, 0, 0, 0, 0, 0, 0, 0, 0, 0, 0] (.arrwait { len := .w128, d := 4, a := 12, b := 6 }) = true := by
  decide +kernel

/-- A pair word of IADD and FADD (R68, R69): the second operation's 62 bits stand above the first's 64. -/
theorem test_decode_pair :
    decodeWord r0 (3 + 4 * 0x03 + 2 ^ 16 * 8 + 2 ^ 24 * 4 + 2 ^ 32 * 6 + 2 ^ 64 * (4 * 0x30 + 2 ^ 16 * 10 + 2 ^ 24 * 12 + 2 ^ 32 * 14 + 2 ^ 55 * 2))
      = .pairWord { op := 0x03, f := { d := 8, a := 4, b := 6 } } { op := 0x30, f := { d := 10, a := 12, b := 14, tg := 2 } } := by decide +kernel

/-- Witnesses for DecodedWords (the ranges of its words), EncodingIsExact (an unassigned opcode, an assigned one) and
DecodeOfEncode (a clutch's word, a stream word, a pair word). -/
theorem witness_DecodedWords : ∃ r : Ranges, r.h = 208 ∧ r.n = 16 ∧ r.moments = 64 ∧ r.barriers = 96 :=
  ⟨{ h := 208, n := 16, moments := 64, barriers := 96 }, rfl, rfl, rfl, rfl⟩

theorem witness_EncodingIsExact : (4 * 0x2E) % 4 ≠ 3 ∧ opAt (4 * 0x2E) = 0x2E ∧ opAt (4 * 0xFF) = 0xFF ∧ opAt (4 * 0x2D) = 0x2D
    ∧ 4 * 0x2D < 2 ^ (8 * lengthOf (4 * 0x2D)) := by decide +kernel

theorem witness_DecodeOfEncode :
    WellFormed r0 (.iadd { d := 8, a := 4, b := 6 }) = true ∧ opOf (.iadd { d := 8, a := 4, b := 6 }) = some (3, { d := 8, a := 4, b := 6 })
      ∧ (∀ x ∈ streamWords, WellFormed r0 x.2 = true ∧ ((opOf x.2).any fun y => 0xA8 ≤ y.1 && y.1 < 0xB0) = true)
      ∧ WellFormed r0 (.pairWord { op := 0x03, f := { d := 8, a := 4, b := 6 } } { op := 0x30, f := { d := 10, a := 12, b := 14, tg := 2 } }) = true := by
  decide +kernel

/-! ### Ill-formed terms -/

/-- One ill-formed term for each check. -/
theorem test_wellFormed_refuses :
    -- fields that the length does not hold
    WellFormed r0 (.iadd { d := 8, a := 4, b := 6, imm := 1 }) = false
      ∧ WellFormed r0 (.iadd { len := .w96, d := 8, a := 4, b := 6, sp := 1 }) = false
      -- cause 1, bits that must be zero; cause 2, a field value; cause 3, a length; cause 5, a register; cause 6, a wrong place
      ∧ WellFormed r0 (.iadd { d := 8, a := 4, b := 6, top := 1 }) = false
      ∧ WellFormed r0 (.iadd { d := 8, a := 4, b := 6, c := 1 }) = false
      ∧ WellFormed r0 (.iadd { d := 8, a := 4, b := 6, mod := 2 }) = false
      ∧ WellFormed r0 (.ld { d := 8, a := 10, tg := 2, mod := 0x20 }) = false
      ∧ WellFormed r0 (.iadd { d := 64, a := 4, b := 6 }) = false
      ∧ WellFormed r0 (.barSync { mod := 2, b := 8 }) = false
      -- a constructor that its own fields contradict, a reserved encoding
      ∧ WellFormed r0 (.barWait { len := .w96, mod := 1, imm := 1 }) = false
      -- destinations of one bank; a second operation that reads the first's destination; one that may not stand in a pair word
      ∧ WellFormed r0 (.pairWord { op := 0x03, f := { d := 8, a := 4, b := 6 } } { op := 0x03, f := { d := 12, a := 5, b := 7 } }) = false
      ∧ WellFormed r0 (.pairWord { op := 0x03, f := { d := 8, a := 4, b := 6 } } { op := 0x03, f := { d := 9, a := 8, b := 7 } }) = false
      ∧ WellFormed r0 (.pairWord { op := 0x03, f := { d := 8, a := 4, b := 6 } } { op := 0x24, f := { d := 9, a := 5 } }) = false
      ∧ WellFormed r0 (.reservedEncoding 0 8 0xF0 {} false false) = false
      -- events that name a part the device has not
      ∧ WellFormed r0 (.halt { die := 0, core := 48 }) = false ∧ WellFormed r0 (.chorusIndexGrant 1 0 33) = false
      ∧ WellFormed r0 (.dieLost 4) = false ∧ WellFormed r0 (.pageWalkComplete 0 16 0) = false
      ∧ WellFormed r0 (.arbitrationWindowClose 0 64 []) = false ∧ WellFormed r0 (.retransmit 0 0 96 0) = false
      ∧ WellFormed r0 (.activate 16) = false := by decide +kernel

/-- The same of the events that Lean's runtime numbers last. -/
theorem test_wellFormed_refuses_events : WellFormed r0 (.quantumExpiry 0 12) = false ∧ WellFormed r0 (.linkDown 32) = false
    ∧ WellFormed r0 (.peerLost 512) = false ∧ WellFormed r0 (.qdoor 64 0) = false := by decide +kernel
/-! ### A small machine -/

/-- The clutch of the witnesses: lanes 0 to 2 active, registers as named beside each. -/
def who : ClutchId := { chorus := 2, clutch := 0 }

def hdr : Header :=
  { clutches := 1, regs := 64, uniform := 16, moments := 16, barriers := 8, accRows := 128, scratch := 65536, dataLen := 0x2000,
    restartable := true }

def launch : Launch := { uid := 1, ctx := 0, total := 8, hdr, dies := [0], next := 1, live := [(0, 0)] }

def clutch : Clutch := {
  id := 0, pos := 0, sub := 0, slot := 0, resPos := 0, pc := 0x1000, path := 7, mask := 7, exited := ~~~7, held := 64
  acclim := 128, seq := 5
  regs := [
    (4, lanesOf fun l => BitVec.ofNat 32 (l + 3)), (6, lanesOf fun _ => 2),
    -- a global address, a scratchpad address, an index
    (20, lanesOf fun l => BitVec.ofNat 32 (0x10000 + 64 * l)), (22, lanesOf fun l => BitVec.ofNat 32 (64 * l)),
    (24, lanesOf fun l => BitVec.ofNat 32 l),
    -- data
    (26, lanesOf fun l => BitVec.ofNat 32 (l + 7)),
    -- a remote address on device 1 under key 0, and its device word
    (32, lanesOf fun l => BitVec.ofNat 32 (0x20000 + 64 * l)), (36, lanesOf fun _ => 1)]
  mtags := [(5, 16)]
  -- a branch target, the mask triple of KILL
  uni := [(242, 0x1100), (246, 2)] }

def chorus : Chorus := { uid := 2, launch := 1, index := 0, die := 0, cores := [0], clutches := [clutch], accStarts := [0] }

/-- A page of 64 KiB at 0x10000, readable, writable and executable, and one that begins at 0. -/
def page (va : Nat) : TlbEntry := { ctx := 0, va, size := 65536, pte := BitVec.ofNat 64 (va + 0x1D) }

def core0 : CoreId := { die := 0, core := 0 }

def world : State := {
  launches := [launch], choruses := [chorus], fresh := 10, cur := .clutch who, contexts := [(0, { active := true })]
  crucible := { ready := true }
  dies := [(0, { serving := true, tlb := [page 0], cores := [(0, { tlb := [page 0x10000] })] })] }

def env : Env := { who, l := launch, ch := chorus, cl := clutch }

theorem runs_world : runs world env := by unfold runs; decide +kernel

theorem clean_env (reg l : Nat) : env.poisonAt reg l = false := by simp [Env.poisonAt, env, clutch]

/-- What `mayIssue` asks beside the clutch's turn, as a test. -/
def may (s : State) (e : Env) (op : Nat) (f : Fields) : Bool :=
  decide (e.mask ≠ 0) && !s.heldBack e op && decide (e.cl.ready (readsOf op f) (writesOf op f) = .go)

theorem mayIssue_of {s : State} {e : Env} {op : Nat} {f : Fields} (h : runs s e) (hm : may s e op f = true) :
    mayIssue s e op f := by
  simp only [may, Bool.and_eq_true, decide_eq_true_eq, Bool.not_eq_true'] at hm
  exact ⟨h, hm.1.1, hm.1.2, hm.2⟩

/-- A clutch that differs from the one above, and the machine with it. -/
def worldOf (g : Clutch → Clutch) : State := { world with choruses := [{ chorus with clutches := [g clutch] }] }
def envOf (g : Clutch → Clutch) : Env := { env with ch := { chorus with clutches := [g clutch] }, cl := g clutch }

/-! ### Register instructions -/

/-- The register words of a table that may issue in the small machine. -/
def issuesTest (i : Instr) : Bool :=
  match registerForm i with
  | some (op, f, mk) => WellFormed env.ranges i && may world env op f && !(mk world env).fails env && !(mk world env).poisoned env
  | none => false

theorem issues_of {i : Instr} (h : issuesTest i = true) : issues i world env := by
  unfold issuesTest at h
  split at h
  · rename_i op f mk hf
    simp only [Bool.and_eq_true, Bool.not_eq_true'] at h
    exact ⟨op, f, mk, hf, h.1.1.1, mayIssue_of runs_world h.1.1.2, h.1.2, h.2⟩
  · cases h

/-- A witness for RegisterInstructionsComplete, IntegerArithmetic, Division, LogicShiftsAndCompares, FieldsAndAddresses and
LaneInstructions: each register instruction may issue. -/
theorem witness_registerInstructions : ∀ x ∈ integerWords ++ floatingWords, issues x.2 world env := by
  have h : (integerWords ++ floatingWords).all (fun x => issuesTest x.2) = true := by decide +kernel
  exact fun x hx => issues_of (List.all_eq_true.mp h x hx)

/-- Two ascending lists of two coordinates each. -/
def listed (c : Clutch) : Clutch := { c with regs := c.regs.set [] 10 (lanesOf fun _ => 0x0202) }

theorem witness_LaneInstructions_isect : let f : Fields := { d := 8, a := 4, b := 24, c := 10 }
    let s := worldOf listed; let e := envOf listed
    issues (.isect f) s e ∧ e.cl.inHandler = false ∧ (word s e f 0 3 e.low).toNat = 0x0202
      ∧ (∀ i, i + 1 < 2 → (word s e f 0 1 i).toNat < (word s e f 0 1 (i + 1)).toNat)
      ∧ ∀ j, j + 1 < 2 → (word s e f 0 2 j).toNat < (word s e f 0 2 (j + 1)).toNat := by
  refine ⟨⟨0x2B, _, _, rfl, by decide +kernel, mayIssue_of (by unfold runs; decide +kernel) (by decide +kernel), by decide +kernel,
    by decide +kernel⟩, by decide +kernel, by decide +kernel, fun i hi => ?_, fun i hi => ?_⟩ <;>
    (have : i = 0 := by omega) <;> subst this <;> decide +kernel

/-- A special function in two machines of the same modes. -/
theorem witness_SpecialFunctionsAreFunctions : let i : Instr := .frcp { d := 8, a := 4, tg := 2 }
    issues i world env ∧ inMask env.mask 1 = true
      ∧ env.source world (intSrc { d := 8, a := 4, tg := 2 } 0 1 1) 1 = env.source world (intSrc { d := 8, a := 4, tg := 2 } 0 1 1) 1 :=
  ⟨issues_of (by decide +kernel), by decide +kernel, rfl⟩

/-- What `momentReady` asks, as a test, where no correlation register is taken. -/
def momentTest (s : State) (e : Env) (m : MomentForm) : Bool :=
  may s e m.op m.f && decide (e.cl.cov ≠ 3)
    && (match m.srcTag with
      | none => true
      | some t => (momentReads m.op m.f).all fun reg => e.cl.momentTag reg = t)
    && (momentReads m.op m.f).all (fun reg => !e.momentPoison reg)
    && m.srcs.all fun x => !e.srcFails x && !e.poisonIn x (e.readLanes x)

theorem momentReady_of {s : State} {e : Env} {m : MomentForm} (h : runs s e) (hm : momentTest s e m = true) :
    momentReady s e m := by
  simp only [momentTest, Bool.and_eq_true, decide_eq_true_eq] at hm
  obtain ⟨⟨⟨⟨hmay, hcov⟩, htag⟩, hpoison⟩, hsrcs⟩ := hm
  have hi := mayIssue_of h hmay
  refine ⟨h, hi.2.1, hi.2.2.1, fun _ hc => absurd hc hcov, ?_, ?_, ?_, ?_⟩
  · simp only [hcov, and_false, if_false, List.append_nil]; exact hi.2.2.2
  · intro t ht reg hreg
    rw [ht] at htag
    exact of_decide_eq_true (List.all_eq_true.mp htag reg hreg)
  · intro reg hreg
    simpa using List.all_eq_true.mp hpoison reg hreg
  · intro x hx
    simp only [hcov, and_false, if_false, List.append_nil] at hx
    simpa using List.all_eq_true.mp hsrcs x hx

/-- The moment instructions may issue in a clutch with mcr.CLAMP set, and in one without. -/
theorem witness_MomentInstructions : ∀ x ∈ momentWords, ∀ m, momentForm x.2 = some m →
    WellFormed env.ranges x.2 = true ∧ momentReady world env m
      ∧ momentReady (worldOf fun c => { c with mcr := 4 }) (envOf fun c => { c with mcr := 4 }) m := by
  have hr : runs (worldOf fun c => { c with mcr := 4 }) (envOf fun c => { c with mcr := 4 }) := by unfold runs; decide +kernel
  have h : momentWords.all (fun x => match momentForm x.2 with
      | some m => WellFormed env.ranges x.2 && momentTest world env m
          && momentTest (worldOf fun c => { c with mcr := 4 }) (envOf fun c => { c with mcr := 4 }) m
      | none => true) = true := by decide +kernel
  intro x hx m hm
  have hx := List.all_eq_true.mp h x hx
  simp only [hm, Bool.and_eq_true] at hx
  exact ⟨hx.1.1, momentReady_of runs_world hx.1.2, momentReady_of hr hx.2⟩

theorem witness_MomentInstructions_clamp : (envOf fun c => { c with mcr := 4 }).cl.clamp = true := by decide +kernel

theorem witness_MomentInstructions_words : ∀ x ∈ [(.mset { d := 3, a := 4, b := 6, tg := 15 } : Instr),
      .mcoll { d := 8, a := 1, tg := 15 }, .mcoll { mod := 8, d := 8, a := 1, tg := 15 }],
    (∀ m, momentForm x = some m → WellFormed env.ranges x = true ∧ momentReady world env m)
      ∧ (env.modes 0).fi = false ∧ (env.modes 0).fo = false ∧ (env.modes 8).fi = false ∧ (env.modes 8).fo = false
      ∧ (∀ l, l < laneCount → inMask env.mask l = true → let w (i : Nat) : Word := BitVec.ofNat 32 (env.source world (floatSrc { d := 3, a := 4, b := 6, tg := 15 } 2 i 2) l)
          finite32 (w 1) ∧ finite32 (w 2) ∧ (w 2).msb = false)
      ∧ ∀ l, l < laneCount → inMask env.mask l = true → ∀ k, k < 2 →
          let h : Word := ((env.cl.moment 1 l) >>> (32 * k)).setWidth 32
          finite32 h ∧ h.msb = false := by
  intro x hx
  have h : [(.mset { d := 3, a := 4, b := 6, tg := 15 } : Instr), .mcoll { d := 8, a := 1, tg := 15 },
      .mcoll { mod := 8, d := 8, a := 1, tg := 15 }].all (fun x => match momentForm x with
      | some m => WellFormed env.ranges x && momentTest world env m
      | none => true) = true := by decide +kernel
  refine ⟨fun m hm => ?_, by decide +kernel, by decide +kernel, by decide +kernel, by decide +kernel, ?_, ?_⟩
  · have hx := List.all_eq_true.mp h x hx
    simp only [hm, Bool.and_eq_true] at hx
    exact ⟨hx.1, momentReady_of runs_world hx.2⟩
  · unfold finite32; decide +kernel
  · unfold finite32; decide +kernel

/-- A pair (3, 4), a zero pair, the pair (1, +0), a pair of variance +0, and the FP32 word 1. -/
def paired (c : Clutch) : Clutch :=
  { c with mregs := [(1, lanesOf fun _ => 0x4080000040400000), (5, lanesOf fun _ => 0x3F800000), (7, lanesOf fun _ => 0x40400000)],
           regs := c.regs.set [] 8 (lanesOf fun _ => 0x3F800000), mtags := [] }

theorem witness_MomentInstructions_neutral : ∀ x ∈ [(.madd { d := 3, a := 1, b := 2, tg := 15 } : Instr),
      .msub { d := 3, a := 1, b := 2, tg := 15 }, .mmul { d := 3, a := 1, b := 5, tg := 15 },
      .mfma { d := 3, a := 1, b := 5, c := 2, tg := 15 }, .mscl { d := 3, a := 1, b := 8, tg := 15 },
      .mrelu { d := 3, a := 7, tg := 15 }], ∀ m, momentForm x = some m →
    let s := worldOf paired; let e := envOf paired
    WellFormed e.ranges x = true ∧ momentReady s e m ∧ (e.modes 0).fi = false ∧ (e.modes 0).fo = false ∧ e.cl.cov ≠ 3
      ∧ (∀ l, l < laneCount → ∀ reg ∈ [1, 7], let p := e.cl.moment reg l
          finite32 (p.setWidth 32) ∧ (p.setWidth 32 : Word).toNat % 2 ^ 31 ≠ 0 ∧ finite32 ((p >>> 32).setWidth 32)
            ∧ ((p >>> 32).setWidth 32 : Word).msb = false)
      ∧ (∀ l, l < laneCount → e.cl.moment 2 l = 0 ∧ e.cl.moment 5 l = 0x3F800000 ∧ ((e.cl.moment 7 l) >>> 32).setWidth 32 = (0 : Word))
      ∧ ∀ l, l < laneCount → e.source s (floatSrc { d := 3, a := 1, b := 8, tg := 15 } 2 2 2) l = 0x3F800000 := by
  have h : [(.madd { d := 3, a := 1, b := 2, tg := 15 } : Instr),
      .msub { d := 3, a := 1, b := 2, tg := 15 }, .mmul { d := 3, a := 1, b := 5, tg := 15 },
      .mfma { d := 3, a := 1, b := 5, c := 2, tg := 15 }, .mscl { d := 3, a := 1, b := 8, tg := 15 },
      .mrelu { d := 3, a := 7, tg := 15 }].all (fun x => match momentForm x with
      | some m => WellFormed (envOf paired).ranges x && momentTest (worldOf paired) (envOf paired) m
      | none => true) = true := by decide +kernel
  intro x hx m hm
  have hx := List.all_eq_true.mp h x hx
  simp only [hm, Bool.and_eq_true] at hx
  refine ⟨hx.1, momentReady_of (by unfold runs; decide +kernel) hx.2, by decide +kernel, by decide +kernel, by decide +kernel, ?_, ?_, ?_⟩
  · unfold finite32; decide +kernel
  · decide +kernel
  · decide +kernel

theorem witness_MomentInstructions_mmov : let f : Fields := { d := 3, a := 1 }
    WellFormed env.ranges (.mmov f) = true ∧ mayIssue world env 0x6C f ∧ env.momentPoison f.a.toNat = false :=
  ⟨by decide +kernel, mayIssue_of runs_world (by decide +kernel), by decide +kernel⟩

/-! ### Steps -/

/-- The machine at the clutch's turn, with the word of IADD v8, v4, v6 at its program counter. -/
def turnWorld : State := { world with agenda := [.clutch who], mem := [(0x1000, 0x0C), (0x1002, 8), (0x1003, 4), (0x1004, 6)] }

/-- A witness for StepRunsTheWord: the clutch may issue, its bytes are fetched and decode. -/
theorem witness_StepRunsTheWord : let s1 : State := { turnWorld with agenda := [] }
    s1.env? who = some env ∧ s1.mayTake env = true
      ∧ (match s1.fetchBytes { die := 0, core := 0 } launch 0x1000 with
        | .inr bs => holds (bs.take 8) (.iadd { d := 8, a := 4, b := 6 })
        | .inl _ => false) = true
      ∧ (match exec (.iadd { d := 8, a := 4, b := 6 }) { s1 with cur := .clutch who } with
        | .next _ => true
        | _ => false) = true := by decide +kernel

/-- A sequencer at MEND, and an event. -/
theorem witness_StepRunsTheWord_others :
    let c : Chorus := { chorus with seqs := [{ pos := 0, pc := 0x1000 }] }
    let s1 : State := { world with choruses := [c], mem := [(0x1000, 0xBC), (0x1001, 0x02)] }
    (s1.seqEnv? 2 0).isSome = true ∧ launch.ending = none ∧ c.stopping = false ∧ (s1.die 0).lost = false
      ∧ (match s1.fetchBytes { die := 0, core := 0 } launch 0x1000 with
        | .inr bs => (match decodeStreamBytes r0 bs with
          | .ok x => x.1 = Instr.mend {}
          | .error _ => false)
        | .inl _ => false) = true
      ∧ (match exec (.mend {}) { s1 with cur := .sequencer 2 0 } with
        | .next _ => true
        | _ => false) = true
      ∧ s1.counting = false ∧ isEvent .heartbeat = true ∧ s1.wakeFor .heartbeat = none := by decide +kernel

/-- The step adds 3 + 2 in lane 0 and moves past the word. -/
theorem test_step_iadd : (match step turnWorld with
    | .next t => (t.at? who).map fun c => (c.word 16 8 0, c.word 16 8 2, c.word 16 8 3, c.pc)
    | _ => none) = some (5, 7, 0, 0x1008) := by decide +kernel

/-- The first step after reset runs the word that the fetch meets: MOV of an immediate (R66, R110). -/
theorem test_step_fromReset : (match step (State.reset.withFetchWord 96 (1 + 4 * 0x01 + 2 ^ 16 * 5 + 2 ^ 64 * 0x1234)) with
    | .next t => t.choruses.map fun c => c.clutches.map fun k => k.word 3 5 7
    | _ => []) = [[0x1234]] := by decide +kernel

/-- Witnesses for StepKeepsMemoryCanonical: reset, and a machine with bytes. -/
theorem witness_StepKeepsMemoryCanonical : memoryCanonical State.reset ∧ memoryCanonical turnWorld := by
  unfold memoryCanonical; decide +kernel

/-! ### Results that the manual works out -/

/-- A clutch with the lanes of a mask, and some registers and moment registers. -/
def made (mask : Mask) (regs : List (Nat × (Nat → Word))) (moments : List (Nat × (Nat → DWord))) (c : Clutch) : Clutch :=
  { c with
    path := mask, mask, exited := ~~~mask
    regs := regs.foldl (fun m x => m.set [] x.1 (lanesOf x.2)) []
    mregs := moments.map fun x => (x.1, lanesOf x.2) }

/-- The clutch after an instruction, and the flags of its chorus. -/
def after (i : Instr) (g : Clutch → Clutch) : Option (Clutch × Word) :=
  match exec i (worldOf g) with
  | .next t => (t.at? who).map fun c => (c, ((t.chorus? 2).map (·.sticky)).getD 0)
  | _ => none

/-- A register of the clutch after an instruction, in some lanes. -/
def wordsAfter (i : Instr) (g : Clutch → Clutch) (reg : Nat) (lanes : List Nat) : Option (List Word) :=
  (after i g).map fun x => lanes.map (x.1.word 16 reg)

/-- What is on its way after an instruction. -/
def landingAfter (i : Instr) (g : Clutch → Clutch) : Option Landing :=
  match exec i (worldOf g) with
  | .next t => t.landings.getLast?
  | _ => none

def full : Mask := BitVec.allOnes 96

/-- BYMIX (05, after R121). -/
theorem test_bymix : wordsAfter (.bymix { d := 8, a := 4, b := 6, c := 9 })
    (made 7 [(4, fun _ => 0x44332211), (6, fun _ => 0x88776655), (9, fun _ => 0x00813205)] []) 8 [0] = some [0x0022EE66] := by decide +kernel

/-- Neighbours under EDGE = 3 and EDGE = 0 (05, after R111): lane 32 reads lanes 63 and 33, or 31 and 33. -/
theorem test_neighbours : wordsAfter (.iadd { d := 8, a := 4, b := 4, na := 1, nb := 2 }) (fun c =>
    { made full [(4, fun l => BitVec.ofNat 32 l)] [] c with fmode := 0 }) 8 [32, 95] = some [64, 94] := by decide +kernel
theorem test_neighbours_beat : wordsAfter (.iadd { d := 8, a := 4, b := 4, na := 1, nb := 2 }) (fun c =>
    { made full [(4, fun l => BitVec.ofNat 32 l)] [] c with fmode := 0xC0 }) 8 [32, 95] = some [96, 158] := by decide +kernel

/-- REDI.adds.i32 saturates at its first level (05, after R124). -/
theorem test_redi : ((after (.redi { d := 8, a := 4, mod := 0x30 })
    (made 7 [(4, fun l => if l = 0 then 0x7FFFFFFF else if l = 1 then 1 else 0xFFFFFFFF)] [])).map fun x =>
      ([0, 1, 2].map (x.1.word 16 8), x.2)) = some ([0x7FFFFFFE, 0x7FFFFFFE, 0x7FFFFFFE], flagOvf) := by decide +kernel

/-- ISECT of 2, 5, 9, 14 and 3, 5, 6, 9, 20 (05, after R128). -/
theorem test_isect :
    let x : List Nat := [2, 5, 9, 14]
    let y : List Nat := [3, 5, 6, 9, 20]
    wordsAfter (.isect { d := 8, a := 4, b := 6, c := 9 }) (made full [(4, fun l => BitVec.ofNat 32 (x.getD l 0)),
      (6, fun l => BitVec.ofNat 32 (y.getD l 0)), (9, fun _ => 0x0504)] []) 8 [0, 1, 2, 95]
      = some [0x00810081, 0x00810182, 0x00813FFF, 0x00813FFF] := by decide +kernel

/-- Lanes 0, 1 and 95 hold 1e8, 1 and -1e8. -/
def ends : Mask := 3 ||| BitVec.ofNat 96 (2 ^ 95)
def endsData (l : Nat) : Word := if l = 0 then 0x4CBEBC20 else if l = 1 then 0x3F800000 else 0xCCBEBC20

/-- FREDA and FSCAN (02, after R57; 06, after R154). -/
theorem test_freda : wordsAfter (.freda { d := 8, a := 4, tg := 2 }) (made ends [(4, endsData)] []) 8 [0, 1, 95]
    = some [0, 0, 0] := by decide +kernel
theorem test_fscan : wordsAfter (.fscan { d := 8, a := 4, tg := 2 }) (made ends [(4, endsData)] []) 8 [0, 1, 95]
    = some [0x4CBEBC20, 0x4CBEBC20, 0] := by decide +kernel

/-- FDIV of 1 and 3 rounds up under RNE, and down under RTZ (06, after R155). -/
theorem test_fdiv : ([0, 1].map fun m => (landingAfter (.fdiv { d := 8, a := 4, b := 6, tg := 2 }) (fun c =>
    { made 7 [(4, fun _ => 0x3F800000), (6, fun _ => 0x40400000)] [] c with fmode := m })).map fun p => p.words.map fun v => lane v 0)
      = [some [0x3EAAAAAB], some [0x3EAAAAAA]] := by decide +kernel

/-- The block of R40's example, and its memory order is the matter of R38. -/
theorem test_blkq : txQuantise 13 (fun _ => 0) ([0x41400000, 0xC0400000, 0x3ED00000, 0x3E800000] ++ List.replicate 28 0)
    = { pair := 0x827D, elems := [0x2C, 0x33, 0x0D, 0x08] ++ List.replicate 28 0x20, flags := 0 } := by decide +kernel

/-- 1e8, 1, -1e8 and 0.125 in a wide accumulator make 1.125 (02, after R53). -/
theorem test_wide : (([0x4CBEBC20, 0x3F800000, 0xCCBEBC20, 0x3E000000].map fun x => (toWide (fp32.decode x) (-149)).bits).sum) % 2 ^ 320
      = 2 ^ 149 + 2 ^ 146 ∧ (fp32.fromWide .rne (2 ^ 149 + 2 ^ 146) (-149)).bits = 0x3F900000 := by decide +kernel

/-- The moment results of R165's table for A = (3, 4) and B = (1, 1), under IND, POS and NEG. -/
theorem test_moments : ([0, 1, 2].map fun m => [Instr.madd { d := 3, a := 1, b := 2, tg := 15 }, .msub { d := 3, a := 1, b := 2, tg := 15 },
      .mmul { d := 3, a := 1, b := 2, tg := 15 }].map fun i => (after i (fun c =>
        { made 7 [] [(1, fun _ => 0x4080000040400000), (2, fun _ => 0x3F8000003F800000)] c with mcr := m })).map fun x => x.1.moment 3 0)
    = [[some 0x40A0000040800000, some 0x40A0000040000000, some 0x4188000040400000],
       [some 0x4110000040800000, some 0x3F80000040000000, some 0x4204000040A00000],
       [some 0x3F80000040800000, some 0x4110000040000000, some 0x411000003F800000]] := by decide +kernel

/-- The exact paths of MRELU (07, after R166). -/
theorem test_mrelu : ((landingAfter (.mrelu { d := 3, a := 1, tg := 15 }) (made 7 [] [(1, fun l =>
    if l = 0 then 0x4080000041800000 else if l = 1 then 0x40800000C1800000 else 0x80000000)])).map fun p => p.pairs.take 3)
      = some [0x4080000041800000, 0, 0x80000000] := by decide +kernel

/-- BRC splits the clutch, and the token names entry 0 and sequence 5 (08, after R182). -/
theorem test_brc : ((after (.brc { len := .w96, d := 250, a := 3, imm := 0x40 }) (fun c =>
    { made full [(3, fun l => if l < 48 then 0 else 1)] [] c with pc := 0 })).any fun x =>
      x.1.path == maskOf (· < 48) && x.1.pc == 12 && x.1.word 16 250 0 == 0xA0000005
        && x.1.stack.map (·.aw) == [full] && x.1.stack.map (·.pm) == [maskOf (48 ≤ ·)] && x.1.stack.map (·.ppc) == [0x40]) = true := by
  decide +kernel

/-- The walk of the example after R223, for VA 0x4080601234. -/
theorem test_walk :
    let s : State := { contexts := [(0, { active := true, ptroot := 0x100000 })], mem := [
      (0x100000, 0x01), (0x100001, 0x10), (0x100002, 0x10), (0x101000, 0x01), (0x101001, 0x20), (0x101002, 0x10),
      (0x102810, 0x01), (0x102811, 0x30), (0x102812, 0x10), (0x103018, 0x0D), (0x10301A, 0x40), (0x10301C, 0x80), (0x10301E, 0x10), (0x10301F, 0x03)] }
    s.walk 0 0x4080601234 = .page 0x4080600000 (2 ^ 21) 0x031000800040000D
      ∧ pageAddr 0x4080600000 0x031000800040000D 0x4080601234 = 0x8000401234 ∧ homeOf 0x8000401234 = 1
      ∧ pteKey 0x031000800040000D = 3 := by decide +kernel

/-- LID 0x2A5, section 0, chorus 7, clutch 3 and count 5 (13, after R292). -/
theorem test_tag : ({ env with l := { launch with lid := 0x2A5 }, ch := { chorus with index := 7 }, cl := { clutch with id := 3, opc := 5 }
                               who := { chorus := 2, clutch := 3 } } : Env).tag = 0x2A5000000E0C0005 := by decide +kernel

/-- The distances of the example after R325: 64 ones, and elements 5 and 9 changed to 1.25 and 0.5. -/
theorem test_distance :
    let y := List.replicate 64 0x3F800000
    let x := (y.set 5 0x3FA00000).set 9 0x3F000000
    stepDistance false x y = 0x3F000000 := by decide +kernel

/-- A reserved opcode without a handler ends the launch; with one it enters it, with the word's opcode in emop (R74 to R76). -/
theorem test_reserved : ((after (.reservedEncoding 0 8 0xF0 {} false false) (fun c => { c with ehbase := 0x800 })).map fun x =>
    (x.1.pc, x.1.empty, x.1.stack.length)) = some (0x800, [], 1) := by decide +kernel

/-! ### Control registers and control flow -/

theorem witness_ControlRegisters_read : ∀ n ∈ [0, 1, 2, 3, 4, 5, 6, 7, 8, 9, 10, 16, 17, 18, 19, 20, 21, 22, 23],
    let f : Fields := { mod := BitVec.ofNat 6 n, d := 8 }
    WellFormed env.ranges (.rdcr f) = true ∧ mayIssue world env 0x2C f ∧ (f.mod = 2 → world.flagsPending env.who = false) := by
  have h : [0, 1, 2, 3, 4, 5, 6, 7, 8, 9, 10, 16, 17, 18, 19, 20, 21, 22, 23].all (fun n =>
      let f : Fields := { mod := BitVec.ofNat 6 n, d := 8 }
      WellFormed env.ranges (.rdcr f) && may world env 0x2C f) = true := by decide +kernel
  intro n hn
  have hn := List.all_eq_true.mp h n hn
  simp only [Bool.and_eq_true] at hn
  exact ⟨hn.1, mayIssue_of runs_world hn.2, fun _ => by decide +kernel⟩

/-- Registers 0 to 4, 10 and an ignored one; the word of register 4 lies inside the allocation and that of register 20 outside. -/
theorem witness_ControlRegisters_write : ∀ n ∈ [0, 1, 2, 3, 4, 10, 16], ∀ a ∈ [4, 20],
    let f : Fields := { mod := BitVec.ofNat 6 n, a }
    WellFormed env.ranges (.wrcr f) = true ∧ mayIssue world env 0x2D f
      ∧ (f.len = .w64 → ∀ l, env.selected (intSrc f 1 1 1) env.low = some l → env.poisonAt f.a.toNat l = false) := by
  have h : [0, 1, 2, 3, 4, 10, 16].all (fun n => [4, 20].all fun a =>
      let f : Fields := { mod := BitVec.ofNat 6 n, a }
      WellFormed env.ranges (.wrcr f) && may world env 0x2D f) = true := by decide +kernel
  intro n hn a ha
  have hn := List.all_eq_true.mp (List.all_eq_true.mp h n hn) a ha
  simp only [Bool.and_eq_true] at hn
  exact ⟨hn.1, mayIssue_of runs_world hn.2, fun _ l _ => clean_env _ l⟩

/-- What `mayControl` asks beside the clutch's turn, as a test. -/
def mayC (e : Env) (op : Nat) (f : Fields) (path : Bool) : Bool :=
  (decide (e.mask ≠ 0) || (path && decide (e.cl.path ≠ 0))) && decide (e.cl.ready (readsOf op f) (writesOf op f) = .go)

theorem mayControl_of {s : State} {e : Env} {op : Nat} {f : Fields} {path : Bool} (h : runs s e)
    (hm : mayC e op f path = true) : mayControl s e op f path := by
  simp only [mayC, Bool.and_eq_true, Bool.or_eq_true, decide_eq_true_eq] at hm
  exact ⟨h, hm.1, hm.2⟩

/-- BRA under its three conditions and BRX. -/
theorem witness_Branches : (∀ m ∈ [0, 1, 3], let f : Fields := { len := .w96, mod := BitVec.ofNat 6 m, a := if m = 0 then 0 else 242, imm := 0x40 }
      WellFormed env.ranges (.bra f) = true ∧ mayControl world env 0x70 f true ∧ uniformClean env f.a.toNat)
    ∧ mayControl world env 0x7D { a := 242 } true ∧ uniformClean env 242 := by
  refine ⟨fun m hm => ?_, mayControl_of runs_world (by decide +kernel), fun _ => rfl⟩
  have h : [0, 1, 3].all (fun m => let f : Fields := { len := .w96, mod := BitVec.ofNat 6 m, a := if m = 0 then 0 else 242, imm := 0x40 }
      WellFormed env.ranges (.bra f) && mayC env 0x70 f true) = true := by decide +kernel
  have hm := List.all_eq_true.mp h m hm
  simp only [Bool.and_eq_true] at hm
  exact ⟨hm.1, mayControl_of runs_world hm.2, fun _ => clean_env _ 0⟩

/-- BRC whose predicate is true in every lane (register 4) and in some (register 24), and BRC.loop. -/
theorem witness_Divergence : env.cl.stack.length < 16
    ∧ (∀ a ∈ [4, 24], let f : Fields := { len := .w96, d := 241, a, imm := 0x40 }
      WellFormed env.ranges (.brc f) = true ∧ mayControl world env 0x71 f false ∧ predicateClean env f.a.toNat)
    ∧ WellFormed env.ranges (.brcLoop { len := .w96, mod := 1, d := 241, imm := 0x40 }) = true
    ∧ mayControl world env 0x71 { len := .w96, mod := 1, d := 241, imm := 0x40 } false
    ∧ env.cl.path &&& ~~~trueLanes world env 4 = 0 ∧ env.cl.path &&& ~~~trueLanes world env 24 ≠ 0 := by
  refine ⟨by decide +kernel, fun a ha => ?_, by decide +kernel, mayControl_of runs_world (by decide +kernel),
    by decide +kernel, by decide +kernel⟩
  have h : [4, 24].all (fun a => let f : Fields := { len := .w96, d := 241, a, imm := 0x40 }
      WellFormed env.ranges (.brc f) && mayC env 0x71 f false && !env.poisonIn { reg := f.a.toNat } (lanesIn env.mask)) = true := by
    decide +kernel
  have hm := List.all_eq_true.mp h a ha
  simp only [Bool.and_eq_true, Bool.not_eq_true'] at hm
  exact ⟨hm.1.1, mayControl_of runs_world hm.1.2, hm.2⟩

/-- A clutch for each case of Resolve. -/
theorem witness_ResolveChoosesThePath :
    let on (x : Entry) : Clutch := { clutch with path := 0, mask := 0, stack := [x] }
    clutch.path ≠ 0 ∧ ({ clutch with path := 0 } : Clutch).stack = []
      ∧ ∀ x ∈ [({ kind := .handler, aw := 7, pm := 7, seq := 0 } : Entry), { kind := .branch, aw := 7, pm := 2, seq := 0 },
          { kind := .branch, aw := 7, ar := 7, seq := 0 }, { kind := .loop, aw := 7, ct := 3, seq := 0 },
          { kind := .call, aw := 7, seq := 0 }], (on x).path = 0 ∧ (on x).stack = [] ++ [x] := by
  decide +kernel

/-- A clutch inside a BRANCH and, beneath it, a LOOP: their tokens stand in registers 243 and 244. -/
def diverged (c : Clutch) : Clutch :=
  { c with
    path := 3, mask := 3, seq := 2
    stack := [{ kind := .loop, aw := 7, rpc := some 0x1080, ppc := 0x1000, seq := 0 },
              { kind := .branch, aw := 7, ppc := 0x1040, pm := 4, seq := 1 }]
    uni := [(243, 0xA0100001), (244, 0xA4000000)] }

theorem runs_diverged : runs (worldOf diverged) (envOf diverged) := by unfold runs; decide +kernel

theorem witness_Rejoin : let s := worldOf diverged; let e := envOf diverged
    uniformClean e 243 ∧ uniformClean e 244 ∧ mayControl s e 0x72 { a := 243 } true
      ∧ e.cl.tokenIndex (e.read s 243 0) .branch = some 1 ∧ 1 + 1 = e.cl.stack.length ∧ (e.cl.stack[1]?).isSome = true
      ∧ e.cl.tokenIndex (e.read s 244 0) .loop = some 0 ∧ predicateClean e 4
      ∧ (∀ m ∈ [0, 1], let f : Fields := { mod := BitVec.ofNat 6 m, a := 244, b := if m = 0 then 4 else 0 }
        WellFormed e.ranges (.brk f) = true ∧ WellFormed e.ranges (.cont f) = true ∧ mayControl s e 0x73 f (f.mod = 1)
          ∧ mayControl s e 0x74 f (f.mod = 1)) := by
  refine ⟨fun _ => rfl, fun _ => rfl, mayControl_of runs_diverged (by decide +kernel), by decide +kernel, by decide +kernel,
    by decide +kernel, by decide +kernel, by unfold predicateClean; decide +kernel, fun m hm => ?_⟩
  have h : [0, 1].all (fun m => let f : Fields := { mod := BitVec.ofNat 6 m, a := 244, b := if m = 0 then 4 else 0 }
      let e := envOf diverged
      WellFormed e.ranges (.brk f) && WellFormed e.ranges (.cont f) && mayC e 0x73 f (f.mod = 1) && mayC e 0x74 f (f.mod = 1))
      = true := by decide +kernel
  have hm := List.all_eq_true.mp h m hm
  simp only [Bool.and_eq_true] at hm
  exact ⟨hm.1.1.1, hm.1.1.2, mayControl_of runs_diverged hm.1.2, mayControl_of runs_diverged hm.2⟩

/-- CALL with room in the stack; RET under a CALL entry with a BRANCH entry above it. -/
def called (c : Clutch) : Clutch :=
  { c with stack := [{ kind := .call, aw := 7, rpc := some 0x1100, seq := 0 }, { kind := .branch, aw := 7, seq := 1 }] }

theorem witness_CallsAndEndings_call : mayControl world env 0x75 { len := .w96, imm := 0x80 } true ∧ env.cl.stack.length < 16
    ∧ mayControl (worldOf called) (envOf called) 0x76 {} true
    ∧ (envOf called).cl.stack
        = [] ++ { kind := .call, aw := 7, rpc := some 0x1100, seq := 0 } :: [{ kind := .branch, aw := 7, seq := 1 }]
    ∧ ∀ y ∈ [({ kind := .branch, aw := 7, seq := 1 } : Entry)], y.kind ≠ .call ∧ y.kind ≠ .handler :=
  ⟨mayControl_of runs_world (by decide +kernel), by decide +kernel,
    mayControl_of (by unfold runs; decide +kernel) (by decide +kernel), rfl, by decide +kernel⟩

/-- EXIT of the whole path and by a predicate, and KILL of a lane. -/
theorem witness_CallsAndEndings_exit :
    WellFormed env.ranges (.exit {}) = true ∧ mayControl world env 0x77 {} true
      ∧ WellFormed env.ranges (.exit { mod := 1, a := 4 }) = true ∧ mayControl world env 0x77 { mod := 1, a := 4 } false
      ∧ predicateClean env 4 ∧ mayControl world env 0x78 { a := 246 } false ∧ ∀ j, j < 3 → env.poisonAt (246 + j) 0 = false :=
  ⟨by decide +kernel, mayControl_of runs_world (by decide +kernel), by decide +kernel,
    mayControl_of runs_world (by decide +kernel), by unfold predicateClean; decide +kernel,
    mayControl_of runs_world (by decide +kernel), fun _ _ => clean_env _ 0⟩

/-- The same machine with BKPT disabled on the core. -/
def quiet : State := world.modCore core0 fun k => { k with bken := false }

theorem witness_YieldBreakAndClock : mayControl world env 0x79 {} false
    ∧ mayControl quiet env 0x7C {} false ∧ (quiet.core env.core).bken = false
    ∧ mayControl world env 0x7C {} false ∧ (world.core env.core).bken = true ∧ (world.core env.core).stopped = false
    ∧ mayControl world env 0x83 { d := 8 } false ∧ (8 : BitVec 8).toNat % 2 = 0 :=
  ⟨mayControl_of runs_world (by decide +kernel), mayControl_of (by unfold runs; decide +kernel) (by decide +kernel),
    by decide +kernel, mayControl_of runs_world (by decide +kernel), by decide +kernel, by decide +kernel,
    mayControl_of runs_world (by decide +kernel), by decide⟩

/-! ### The emulation handler and launch-fatal faults -/

/-- A clutch with a handler set; without one; with a full stack; inside the handler. -/
def handled (c : Clutch) : Clutch := { c with ehbase := 0x2000 }
def fullStack (c : Clutch) : Clutch :=
  { c with ehbase := 0x2000, stack := List.replicate 16 { kind := .call, aw := 7, seq := 0 } }
def inside (c : Clutch) : Clutch :=
  { c with
    ehbase := 0x2000
    stack := [{ kind := .handler, aw := 7, ar := 7, rpc := some 0x1008, ppc := 0x1000, pm := 7, seq := 0 }] }

theorem witness_TrapEntry : runs (worldOf handled) (envOf handled) ∧ (envOf handled).mask ≠ 0
    ∧ (envOf handled).cl.inHandler = false ∧ (envOf handled).cl.ehbase ≠ 0 ∧ (envOf handled).cl.stack.length < 16
    ∧ runs (worldOf inside) (envOf inside) ∧ (envOf inside).mask ≠ 0 ∧ (envOf inside).cl.inHandler = true
    ∧ runs world env ∧ env.mask ≠ 0 ∧ env.cl.inHandler = false ∧ env.cl.ehbase = 0
    ∧ runs (worldOf fullStack) (envOf fullStack) ∧ (envOf fullStack).cl.inHandler = false ∧ 16 ≤ (envOf fullStack).cl.stack.length := by
  unfold runs; decide +kernel

/-- EMRET at the handler's entry, with an empty stack, and beneath an entry of its own. -/
def nested (c : Clutch) : Clutch := { inside c with stack := (inside c).stack ++ [{ kind := .call, aw := 7, seq := 1 }] }

theorem witness_EmulationReturn :
    mayControl (worldOf inside) (envOf inside) 0x7B { mod := 1 } true
      ∧ (envOf inside).cl.stack = [] ++ [{ kind := .handler, aw := 7, ar := 7, rpc := some 0x1008, ppc := 0x1000, pm := 7, seq := 0 }]
      ∧ (envOf inside).cl.path = 7 ∧ 7 &&& ~~~(envOf inside).cl.exited ≠ 0 ∧ mayControl world env 0x7B {} true ∧ env.cl.stack = []
      ∧ mayControl (worldOf nested) (envOf nested) 0x7B {} true
      ∧ (envOf nested).cl.stack = (inside clutch).stack ++ [{ kind := .call, aw := 7, seq := 1 }] :=
  ⟨mayControl_of (by unfold runs; decide +kernel) (by decide +kernel), rfl, by decide +kernel, by decide +kernel,
    mayControl_of runs_world (by decide +kernel), rfl, mayControl_of (by unfold runs; decide +kernel) (by decide +kernel), rfl⟩

theorem witness_LaunchFatalFault : world.env? env.who = some env ∧ env.l.report = none ∧ env.l.ending = none
    ∧ (({ env with l := { launch with report := some { code := 0x20 } } } : Env).l.report.isSome = true) := by decide +kernel

/-! ### Checks before issue -/

/-- A clutch without an active lane, and one whose registers 4 and 8 are empty. -/
def idle (c : Clutch) : Clutch := { c with mask := 0, path := 0, exited := 0, stack := [{ kind := .call, aw := 7, seq := 0 }] }
def emptied (c : Clutch) : Clutch := { c with empty := [4, 8] }

/-- Words that a clutch without an active lane passes over, path-level ones among them. -/
theorem witness_ChecksBeforeIssue_mask : runs (worldOf idle) (envOf idle) ∧ (envOf idle).mask = 0 ∧ (envOf idle).cl.path = 0
    ∧ ∀ x ∈ integerWords ++ specialWords ++ floatingWords ++ momentWords ++ controlWords ++ memoryWords ++ copyWords ++ remoteWords
        ++ windowWords ++ queuesWords, WellFormed (envOf idle).ranges x.2 = true ∧ (opOf x.2).isSome = true := by
  refine ⟨by unfold runs; decide +kernel, by decide +kernel, by decide +kernel, ?_⟩
  decide +kernel

theorem witness_ChecksBeforeIssue_empty : runs (worldOf emptied) (envOf emptied) ∧ (envOf emptied).mask ≠ 0
    ∧ (worldOf emptied).heldBack (envOf emptied) 0x03 = false
    ∧ (∃ x ∈ readsOf 0x03 { d := 9, a := 4, b := 6, fe := 1 }, (envOf emptied).cl.isEmpty x = true ∧ x.fe = true)
    ∧ (∀ x ∈ readsOf 0x03 { d := 8, a := 5, b := 6 }, (envOf emptied).cl.isEmpty x = true → x.fe = false)
    ∧ ∃ x ∈ readsOf 0x03 { d := 8, a := 5, b := 6 } ++ writesOf 0x03 { d := 8, a := 5, b := 6 },
        (envOf emptied).cl.isEmpty x = true := by
  unfold runs; decide +kernel

/-- A source whose tag differs from the word's: register 4 carries FP64. -/
def mistagged (c : Clutch) : Clutch := { c with tags := [(4, 1)] }

theorem witness_ChecksBeforeIssue_format : let s := worldOf mistagged; let e := envOf mistagged
    let f : Fields := { d := 8, a := 4, b := 6, tg := 2 }
    mayIssue s e 0x30 f ∧ (aluFadd f s e).fails e = true :=
  ⟨mayIssue_of (by unfold runs; decide +kernel) (by decide +kernel), by decide +kernel⟩

/-- A pair word of an addition and a product, and one that fails its tag check. -/
def pairFirst : PairOp := { op := 0x03, f := { d := 8, a := 4, b := 6 } }
def pairSecond : PairOp := { op := 0x32, f := { d := 9, a := 4, b := 6, tg := 2 } }

theorem witness_PairWords : WellFormed env.ranges (.pairWord pairFirst pairSecond) = true ∧ runs world env ∧ env.mask ≠ 0
    ∧ env.cl.ready (readsOf 0x03 pairFirst.f ++ readsOf 0x32 pairSecond.f) (writesOf 0x03 pairFirst.f ++ writesOf 0x32 pairSecond.f) = .go
    ∧ ((pairAlu pairFirst world env).fails env || (pairAlu pairSecond world env).fails env) = false
    ∧ ((pairAlu pairFirst world env).poisoned env || (pairAlu pairSecond world env).poisoned env) = false
    ∧ runs (worldOf mistagged) (envOf mistagged)
    ∧ ((pairAlu pairFirst (worldOf mistagged) (envOf mistagged)).fails (envOf mistagged)
      || (pairAlu pairSecond (worldOf mistagged) (envOf mistagged)).fails (envOf mistagged)) = true := by
  unfold runs; decide +kernel

/-! ### Memory -/

/-- What a load, gather, MLD, atomic or compare-and-swap meets before it issues, as a test. -/
def loadTest (i : Instr) : Bool :=
  match memoryForm i with
  | some m =>
    let elems := env.elems world m.f m.space m.bytes m.gather
    let places := placesOf world env m.space elems
    WellFormed env.ranges i && may world env m.op m.f && (m.srcs.all fun x => !env.srcFails x && !env.poisonIn x (env.readLanes x))
      && (!m.release || world.drained env) && (!m.aligned || elems.all fun x => x.addr % x.bytes = 0)
      && (if m.space = 0 then world.xlate env.core env.l.ctx m.write (elems.flatMap Elem.pages) = .ok
          && elems.all fun x => x.vas.all fun va => homeOf (world.paOf env.core env.l.ctx va) = env.ch.die
        else elems.all fun x => (env.localKey m.space x.addr x.bytes).isSome)
      && !world.accessPending env.who (spaceOf m.space) (places.flatMap (·.2)) && !world.writePending env.who (places.flatMap (·.2))
  | none => false

theorem sourcesPass_of {e : Env} {srcs : List Src}
    (h : srcs.all (fun x => !e.srcFails x && !e.poisonIn x (e.readLanes x)) = true) : sourcesPass e srcs := by
  intro x hx
  simpa using List.all_eq_true.mp h x hx

theorem reachable_of {s : State} {e : Env} {space : Nat} {write : Bool} {elems : List Elem}
    (h : (if space = 0 then s.xlate e.core e.l.ctx write (elems.flatMap Elem.pages) = .ok
          && elems.all fun x => x.vas.all fun va => homeOf (s.paOf e.core e.l.ctx va) = e.ch.die
        else elems.all fun x => (e.localKey space x.addr x.bytes).isSome) = true) : reachable s e space write elems := by
  unfold reachable
  split
  · rename_i hs
    rw [if_pos hs] at h
    simpa using h
  · rename_i hs
    rw [if_neg hs] at h
    simpa using h

/-- Every load, gather, MLD, atomic and compare-and-swap of the table issues in the small machine. -/
theorem witness_LoadsAndAtomicsIssue : ∀ x ∈ memoryWords ++ momentWords, ∀ m, memoryForm x.2 = some m →
    WellFormed env.ranges x.2 = true ∧ mayIssue world env m.op m.f ∧ sourcesPass env m.srcs
      ∧ (m.release = true → world.drained env = true)
      ∧ let elems := env.elems world m.f m.space m.bytes m.gather
        (m.aligned = true → ∀ x ∈ elems, x.addr % x.bytes = 0) ∧ reachable world env m.space m.write elems
          ∧ inOrder world env m.space (placesOf world env m.space elems) false := by
  have h : (memoryWords ++ momentWords).all (fun x => (memoryForm x.2).isNone || loadTest x.2) = true := by decide +kernel
  intro x hx m hm
  have hx := List.all_eq_true.mp h x hx
  simp only [hm, Option.isNone_some, Bool.false_or] at hx
  unfold loadTest at hx
  simp only [hm, Bool.and_eq_true] at hx
  obtain ⟨⟨⟨⟨⟨⟨⟨h1, h2⟩, h3⟩, h4⟩, h5⟩, h6⟩, h7⟩, h8⟩ := hx
  refine ⟨h1, mayIssue_of runs_world h2, sourcesPass_of h3, fun hr => by simpa [hr] using h4, fun ha => ?_, reachable_of h6,
    by simpa using h7, fun _ _ => by simpa using h8⟩
  simpa [ha] using h5

/-- What a store meets before it issues, as a test. -/
def storeTest (i : Instr) : Bool :=
  match storeForms i with
  | some m =>
    let elems := env.elems world m.f m.space m.bytes m.gather
    let places := placesOf world env m.space elems
    WellFormed env.ranges i && may world env m.op m.f && (m.srcs.all fun x => !env.srcFails x && !env.poisonIn x (env.readLanes x))
      && world.drained env && (m.op ≠ 0x6B || (env.cl.momentTag m.f.b.toNat = momentTag m.f && !env.momentPoison m.f.b.toNat))
      && (if m.space = 0 then world.xlate env.core env.l.ctx true (elems.flatMap Elem.pages) = .ok
          && elems.all fun x => x.vas.all fun va => homeOf (world.paOf env.core env.l.ctx va) = env.ch.die
        else elems.all fun x => (env.localKey m.space x.addr x.bytes).isSome)
      && !world.accessPending env.who (spaceOf m.space) (places.flatMap (·.2)) && places.all fun x => decide x.2.Nodup
  | none => false

/-- Every store, scatter and MST of the table completes in the small machine. -/
theorem witness_StoresComplete : ∀ x ∈ memoryWords ++ momentWords, ∀ m, storeForms x.2 = some m →
    WellFormed env.ranges x.2 = true ∧ mayIssue world env m.op m.f ∧ sourcesPass env m.srcs ∧ world.drained env = true
      ∧ env.cl.progress = .none ∧ (m.op = 0x6B → env.cl.momentTag m.f.b.toNat = momentTag m.f ∧ env.momentPoison m.f.b.toNat = false)
      ∧ let elems := env.elems world m.f m.space m.bytes m.gather
        let places := placesOf world env m.space elems
        reachable world env m.space true elems ∧ inOrder world env m.space places true ∧ ∀ x ∈ places, x.2.Nodup := by
  have h : (memoryWords ++ momentWords).all (fun x => (storeForms x.2).isNone || storeTest x.2) = true := by decide +kernel
  intro x hx m hm
  have hx := List.all_eq_true.mp h x hx
  simp only [hm, Option.isNone_some, Bool.false_or] at hx
  unfold storeTest at hx
  simp only [hm, Bool.and_eq_true] at hx
  obtain ⟨⟨⟨⟨⟨⟨⟨h1, h2⟩, h3⟩, h4⟩, h5⟩, h6⟩, h7⟩, h8⟩ := hx
  refine ⟨h1, mayIssue_of runs_world h2, sourcesPass_of h3, h4, rfl, fun ho => ?_, reachable_of h6,
    by simpa [inOrder] using h7, ?_⟩
  · simpa [ho] using h5
  · intro y hy
    exact of_decide_eq_true (List.all_eq_true.mp h8 y hy)

/-- An atomic at an odd address, and a load beyond the allocation. -/
def askew (c : Clutch) : Clutch := { c with regs := c.regs.set [] 22 (lanesOf fun l => BitVec.ofNat 32 (if l = 1 then 65535 else 0)) }

theorem witness_AddressFaults : let s := worldOf askew; let e := envOf askew
    let f : Fields := { len := .w128, mod := 8, d := 8, a := 22, b := 26, sp := 4 }
    let g : Fields := { len := .w128, mod := 0x20, d := 8, a := 22, sp := 4 }
    let odd := maskOf fun l => (e.elems s f 1 4 false).any fun x => x.lane = l && x.addr % x.bytes ≠ 0
    let out := maskOf fun l => (e.elems s g 1 4 false).any fun x => x.lane = l && (e.localKey 1 x.addr x.bytes).isNone
    WellFormed e.ranges (.atoms f) = true ∧ mayIssue s e 0x95 f ∧ WellFormed e.ranges (.lds g) = true ∧ mayIssue s e 0x8A g
      ∧ sourcesPass e [{ reg := 22 }, { reg := 26 }] ∧ odd = 2 ∧ out = 2 := by
  have hr : runs (worldOf askew) (envOf askew) := by unfold runs; decide +kernel
  exact ⟨by decide +kernel, mayIssue_of hr (by decide +kernel), by decide +kernel, mayIssue_of hr (by decide +kernel),
    sourcesPass_of (by decide +kernel), by decide +kernel, by decide +kernel⟩

/-- A producer of register 8 and one of moment register 3; a load from the scratchpad and one from memory; an atomic. -/
def landing : Landing := { id := 9, who, dst := .ordinary 8 1, mask := 7, words := [lanesOf fun _ => 5], flags := 1 }
def landingM : Landing := { id := 9, who, dst := .moment 3, mask := 7, pairs := lanesOf fun _ => 5, tag := 15 }
def landingL (space : Space) : Landing :=
  { id := 9, who, dst := .ordinary 8 2, mask := 3
    access := some { op := .load 5, space, places := [(0, [8, 9, 10, 11, 12, 13, 14, 15]), (1, [0, 1, 2, 3, 4, 5, 6, 7])] } }
def landingA (op : AccessOp) : Landing :=
  { id := 9, who, dst := .ordinary 8 1, mask := 1, access := some { op, space := .global, places := [(0, [64, 65, 66, 67])] } }
def landed (p : Landing) : State := { world with landings := [p], mem := [(64, 3)] }

theorem landsNow_of (p : Landing) (h : p.id = 9) (ha : p.awaited = 0) (hw : p.who = who) : landsNow (landed p) p env :=
  have h1 : (landed landing).waitsOnFuture 9 = false := by decide +kernel
  have h2 : (landed landing).anyEnv? who = some env := by decide +kernel
  ⟨by simp [landed, h], ha, by rw [h]; exact h1, by rw [hw]; exact h2⟩

theorem witness_LandingFillsTheDestination : landsNow (landed landing) landing env ∧ landing.access = none ∧ landing.mask ≠ 0
    ∧ landing.words.length = 1 ∧ landsNow (landed landingM) landingM env ∧ landingM.access = none ∧ landingM.mask ≠ 0 :=
  ⟨landsNow_of _ rfl rfl rfl, rfl, by decide, rfl, landsNow_of _ rfl rfl rfl, rfl, by decide⟩

theorem witness_LoadsReadAtLanding : ∀ space ∈ [Space.scratch, .global], ∃ a, (landingL space).access = some a ∧ a.op = .load 5
    ∧ landsNow (landed (landingL space)) (landingL space) env ∧ (landingL space).dst = .ordinary 8 (szRegs 5)
    ∧ (landingL space).words = [] ∧ 8 + szRegs 5 ≤ 253 ∧ env.cl.pos < env.ch.cores.length ∧ (a.places.map (·.1)).Nodup
    ∧ (∀ x ∈ a.places, x.1 < laneCount)
    ∧ (∀ l, l < laneCount → (inMask (landingL space).mask l = true ↔ l ∈ a.places.map (·.1))) ∧ (landingL space).mask ≠ 0
    ∧ (a.space = .scratch ∨ (a.space = .global ∧ (landed (landingL space)).poisoned = []
        ∧ ((landed (landingL space)).core env.core).l1 = [] ∧ a.alloc = false)) := by
  intro space hs
  refine ⟨_, rfl, rfl, landsNow_of _ rfl rfl rfl, rfl, rfl, by decide, by decide +kernel, ?_, ?_, ?_, ?_, ?_⟩ <;>
    revert space <;> simp only [landingL] <;> decide +kernel

def noContentionTest (s : State) : Bool := s.dies.all fun d => d.2.contention.isEmpty

theorem noContention_of {s : State} (h : noContentionTest s = true) : noContention s := by
  intro d
  have key : ∀ m : Store Die, m.all (fun d => d.2.contention.isEmpty) = true → (Store.get {} m d).contention = [] := by
    intro m
    induction m with
    | nil => intro _; rfl
    | cons x xs ih =>
      intro hx
      simp only [List.all_cons, Bool.and_eq_true] at hx
      obtain ⟨k, v⟩ := x
      simp only [Store.get]
      split
      · exact List.isEmpty_iff.mp hx.1
      · exact ih hx.2
  exact key s.dies h

theorem noContention_world (d : Nat) : (world.die d).contention = [] := by
  by_cases h : d = 0
  · subst h; decide +kernel
  · simp [State.die, world, Store.get, Ne.symm h]

theorem witness_AtomicsActAtLanding :
    ∀ op ∈ [AccessOp.rmw 0 0 [5], .cas 4 [9] [3], .cas 4 [9] [4]], ∃ a, (landingA op).access = some a ∧ a.op = op
      ∧ landsNow (landed (landingA op)) (landingA op) env ∧ a.places = [(0, [64, 65, 66, 67])] ∧ [64, 65, 66, 67].Nodup
      ∧ (landingA op).mask = BitVec.ofNat 96 (2 ^ 0) ∧ (landingA op).dst = .ordinary 8 1
      ∧ isUniform env.hdr.uniform 8 = false ∧ (landed (landingA op)).poisoned = []
      ∧ ∀ d, ((landed (landingA op)).die d).contention = [] :=
  fun op _ => ⟨_, rfl, rfl, landsNow_of _ rfl rfl rfl, rfl, by decide, rfl, rfl, by decide +kernel, rfl, noContention_world⟩

/-- A gathered write in a window of slice 0. -/
def windowed : State :=
  world.modDie 0 fun d => { d with
    cycle := 16, windows := [{ rank := 0, order := 0, who := some who, bytes := [(64, 7), (65, 8)] }, { rank := 1, order := 0, who := none, bytes := [(64, 9)] }] }

theorem witness_WindowsCloseIntoMemory : let mine := (windowed.die 0).windows.filter (fun w => w.slice = 0)
    (windowed.die 0).closed.get 0 0 < (windowed.die 0).cycle.toNat / 16
    ∧ mine = [{ rank := 0, order := 0, who := some who, bytes := [(64, 7), (65, 8)] }, { rank := 1, order := 0, who := none, bytes := [(64, 9)] }]
    ∧ (∀ w ∈ mine, w.window < (windowed.die 0).cycle.toNat / 16 ∧ windowed.portHeld 0 0 w = false)
    ∧ ([(64, 7), (65, 8)] : Store Byte).map (·.1) = [64, 65] ∧ [64, 65].Nodup ∧ noContention windowed :=
  ⟨by decide +kernel, by decide +kernel, by decide +kernel, by decide +kernel, by decide +kernel, noContention_of (by decide +kernel)⟩

/-- Of two writes that share a window the copy engine's byte stands, and the clutch's where it alone wrote (R338). -/
theorem test_window_order : (match exec (.arbitrationWindowClose 0 0 []) windowed with
    | .next t => [Memory.read t.mem 64, Memory.read t.mem 65]
    | _ => []) = [9, 8] := by decide +kernel

/-- An LDACC of one cell a lane, of a pair, and of a mean and a variance. -/
def landingC (kind : Nat) : Landing :=
  { id := 9, who, dst := if kind = 1 then .moment 3 else .ordinary 8 (if kind = 2 then 2 else 1), mask := 3
    access := some { op := .acc kind [], space := .cells,
                     places := if kind = 0 then [(0, [5]), (1, [6])] else [(0, [4, 5]), (1, [6, 7])] } }

theorem witness_AccumulatorCopies_landing : ∀ kind ∈ [0, 1, 2], ∃ a, (landingC kind).access = some a ∧ a.op = .acc kind []
    ∧ landsNow (landed (landingC kind)) (landingC kind) env ∧ a.space = .cells ∧ (landingC kind).words = [] ∧ (landingC kind).mask ≠ 0
    ∧ env.ch.accPoison = [] ∧ (a.places.map (·.1)).Nodup
    ∧ (∀ x ∈ a.places, x.1 < laneCount ∧ x.2.length = if kind = 0 then 1 else 2)
    ∧ (∀ l, l < laneCount → (inMask (landingC kind).mask l = true ↔ l ∈ a.places.map (·.1)))
    ∧ (landingC kind).dst = if kind = 1 then .moment 3 else .ordinary 8 (if kind = 2 then 2 else 1) := by
  intro kind hk
  refine ⟨_, rfl, rfl, landsNow_of _ rfl rfl rfl, rfl, rfl, by simp only [landingC]; decide, rfl, ?_, ?_, ?_, rfl⟩ <;>
    revert kind <;> decide +kernel

/-- LDACC and STACC of each kind. -/
theorem witness_AccumulatorCopies : ∀ k ∈ [0, 1, 2], let f : Fields := { len := .w128, mod := BitVec.ofNat 6 (16 * k), a := 24 }
    let places := env.accPlaces f k (env.accRow world f)
    sourcesPass env [{ reg := 24 }] ∧ env.accRowOk k (env.accRow world f) = true ∧ env.accStart ≤ env.cl.accbase.toNat
      ∧ world.accessPending env.who .cells (places.flatMap (·.2)) = false
      ∧ (∀ j ∈ env.ch.jobsAt env.cl.pos, ∀ row, j.meets env.cl.sub row = false)
      ∧ WellFormed env.ranges (.ldacc { f with d := if k = 1 then 3 else 8 }) = true
      ∧ mayIssue world env 0x92 { f with d := if k = 1 then 3 else 8 }
      ∧ WellFormed env.ranges (.stacc { f with b := if k = 1 then 1 else 26 }) = true
      ∧ mayIssue world env 0x93 { f with b := if k = 1 then 1 else 26 }
      ∧ sourcesPass env [{ reg := 26, width := if k = 2 then 2 else 1, tag := moveCheck f }] ∧ env.momentPoison 1 = false := by
  intro k hk
  have h : [0, 1, 2].all (fun k => let f : Fields := { len := .w128, mod := BitVec.ofNat 6 (16 * k), a := 24 }
      let places := env.accPlaces f k (env.accRow world f)
      env.accRowOk k (env.accRow world f) && !world.accessPending env.who .cells (places.flatMap (·.2))
        && WellFormed env.ranges (.ldacc { f with d := if k = 1 then 3 else 8 }) && may world env 0x92 { f with d := if k = 1 then 3 else 8 }
        && WellFormed env.ranges (.stacc { f with b := if k = 1 then 1 else 26 }) && may world env 0x93 { f with b := if k = 1 then 1 else 26 }
        && ([{ reg := 26, width := if k = 2 then 2 else 1, tag := moveCheck f }] : List Src).all fun x =>
            !env.srcFails x && !env.poisonIn x (env.readLanes x)) = true := by decide +kernel
  have h := List.all_eq_true.mp h k hk
  simp only [Bool.and_eq_true] at h
  obtain ⟨⟨⟨⟨⟨⟨h1, h2⟩, h3⟩, h4⟩, h5⟩, h6⟩, h7⟩ := h
  exact ⟨sourcesPass_of (by decide +kernel), h1, by decide +kernel, by simpa using h2, by simp [Chorus.jobsAt, env, chorus], h3,
    mayIssue_of runs_world h4, h5, mayIssue_of runs_world h6, sourcesPass_of h7, by decide +kernel⟩

/-- PREF, the four forms of LINEOP, the fences and PROMOTE. -/
theorem witness_CachesAndFences_walks : noContention world
    ∧ ∀ m ∈ [0, 1, 2, 3], let f : Fields := { len := .w128, mod := BitVec.ofNat 6 m, a := if m = 1 then 0 else 20 }
      ∀ x ∈ env.elems world f 0 1 false, world.walk env.l.ctx x.addr ≠ .poison :=
  ⟨noContention_of (by decide +kernel), by decide +kernel⟩

theorem witness_CachesAndFences :
    (∀ m ∈ [0, 1, 2, 3], let f : Fields := { len := .w128, mod := BitVec.ofNat 6 m, a := if m = 1 then 0 else 20 }
      WellFormed env.ranges (.lineop f) = true ∧ mayIssue world env 0x9B f)
    ∧ WellFormed env.ranges (.pref { len := .w128, mod := 1, a := 20 }) = true ∧ mayIssue world env 0x9A { len := .w128, mod := 1, a := 20 }
    ∧ sourcesPass env [{ reg := 20, width := 2 }] ∧ mayIssue world env 0x81 { mod := 2 }
    ∧ WellFormed env.ranges (.promote { d := 8, a := 20 }) = true ∧ mayIssue world env 0x82 { d := 8, a := 20 }
    ∧ (let elems := env.elems world { d := 8, a := 20 } 0 4 false
      (∀ x ∈ elems, x.addr % 4 = 0) ∧ reachable world env 0 false elems ∧ inOrder world env 0 (placesOf world env 0 elems) false) := by
  refine ⟨fun m hm => ?_, by decide +kernel, mayIssue_of runs_world (by decide +kernel), sourcesPass_of (by decide +kernel),
    mayIssue_of runs_world (by decide +kernel), by decide +kernel, mayIssue_of runs_world (by decide +kernel), by decide +kernel,
    reachable_of (by decide +kernel), ⟨by decide +kernel, fun _ _ => by decide +kernel⟩⟩
  have h : [0, 1, 2, 3].all (fun m => let f : Fields := { len := .w128, mod := BitVec.ofNat 6 m, a := if m = 1 then 0 else 20 }
      WellFormed env.ranges (.lineop f) && may world env 0x9B f) = true := by decide +kernel
  have h := List.all_eq_true.mp h m hm
  simp only [Bool.and_eq_true] at h
  exact ⟨h.1, mayIssue_of runs_world h.2⟩

/-- A clutch whose fence is pending with nothing outstanding. -/
def fenced (c : Clutch) : Clutch := { c with fence := some (.memory 2), fenceAt := 9 }

theorem witness_CachesAndFences_complete : (worldOf fenced).env? who = some (envOf fenced)
    ∧ (worldOf fenced).fenceDone (envOf fenced) = true ∧ (envOf fenced).cl.fence = some (.memory 2) := by decide +kernel

/-- A barrier that the arrival of this clutch fills, one that it does not, and one whose phase has passed. -/
def barred (b : Barrier) : State := { world with choruses := [{ chorus with barriers := [(2, b)] }] }
def barredEnv (b : Barrier) : Env := { env with ch := { chorus with barriers := [(2, b)] } }

theorem witness_Barriers : ∀ b ∈ [({ expect := 2, arrivals := 1 } : Barrier), { expect := 3, arrivals := 1 }, { phases := 1 }, {}],
    ∀ f ∈ [({ a := 2 } : Fields), { mod := 1, a := 2, b := 6 }], let s := barred b; let e := barredEnv b
    mayIssue s e 0x80 f ∧ sourcesPass e [{ reg := f.b.toNat }] ∧ s.drained e = true ∧ s.flagsPending e.who = false
      ∧ stickyArmed e.ch.sticky = false ∧ b.held = 0 ∧ b.arrivals < 127 ∧ (∀ a ∈ e.ch.arriving, a.clutch ≠ e.who.clutch)
      ∧ (let n := e.barCount s f
        let expect := if 1 ≤ n ∧ (b.expect = 0 ∨ b.arrivals = 0 ∧ b.doneAt ≠ s.now + 1) then n else b.expect
        expect ≠ 0 → b.arrivals < expect) ∧ e.cl.progress = .none := by
  intro b hb f hf
  have h : [({ expect := 2, arrivals := 1 } : Barrier), { expect := 3, arrivals := 1 }, { phases := 1 }, {}].all (fun b =>
      [({ a := 2 } : Fields), { mod := 1, a := 2, b := 6 }].all fun f => let s := barred b; let e := barredEnv b
      decide (s.env? who = some e) && may s e 0x80 f
        && ([{ reg := f.b.toNat }] : List Src).all (fun x => !e.srcFails x && !e.poisonIn x (e.readLanes x)) && s.drained e
        && !s.flagsPending e.who && !stickyArmed e.ch.sticky && decide (b.held = 0) && decide (b.arrivals < 127)
        && decide (let n := e.barCount s f
          let expect := if 1 ≤ n ∧ (b.expect = 0 ∨ b.arrivals = 0 ∧ b.doneAt ≠ s.now + 1) then n else b.expect
          expect ≠ 0 → b.arrivals < expect)) = true := by decide +kernel
  have h := List.all_eq_true.mp (List.all_eq_true.mp h b hb) f hf
  simp only [Bool.and_eq_true, decide_eq_true_eq, Bool.not_eq_true'] at h
  obtain ⟨⟨⟨⟨⟨⟨⟨⟨h0, h1⟩, h2⟩, h3⟩, h4⟩, h5⟩, h6⟩, h7⟩, h8⟩ := h
  exact ⟨mayIssue_of ⟨rfl, h0⟩ h1, sourcesPass_of h2, h3, h4, h5, h6, h7, (by intro a ha; cases ha), h8, rfl⟩

/-- A clutch with an arrival that waits, with and without a store gathered before it. -/
def arrivingChorus : Chorus :=
  { chorus with barriers := [(2, { expect := 2, arrivals := 1 })], arriving := [{ clutch := 0, barrier := 2, count := 0, before := 9 }] }
def arrivingWorld (gathered : Bool) : State := { world with choruses := [arrivingChorus] }.modDie 0 fun d =>
  if gathered then { d with windows := [{ rank := 0, order := 0, who := some who, seq := 5, bytes := [(64, 7)] }] } else d
def arrivingEnv : Env := { env with ch := arrivingChorus }

theorem witness_Barriers_waits : mayIssue (arrivingWorld true) arrivingEnv 0x80 { a := 2 }
    ∧ (arrivingWorld true).drained arrivingEnv = false ∧ runs (arrivingWorld true) arrivingEnv
    ∧ (arrivingWorld true).drainedBefore arrivingEnv.core who 9 = false ∧ runs (arrivingWorld false) arrivingEnv
    ∧ (arrivingWorld false).drainedBefore arrivingEnv.core who 9 = true :=
  ⟨mayIssue_of ⟨rfl, by decide +kernel⟩ (by decide +kernel), by decide +kernel, ⟨rfl, by decide +kernel⟩, by decide +kernel,
    ⟨rfl, by decide +kernel⟩, by decide +kernel⟩

/-! ### The matrix stream -/

/-- A chorus with a sequencer at core position 0 whose scratchpad begins with a metadata record of 64 elements. -/
def sequencer : Sequencer := { pos := 0, pc := 0x1000, q := [(5, 3)] }
def metadata : Store Byte := (List.range 8).map (fun i => (i, 0xFF)) ++ [(16, 64)]
def streamChorus (q : Sequencer) : Chorus := { chorus with seqs := [q], scratch := metadata }
def streamWorld (q : Sequencer) : State := { world with choruses := [streamChorus q], cur := .sequencer 2 0 }
def streamEnv (q : Sequencer) : SeqEnv := { l := launch, ch := streamChorus q, q }

theorem streams_of (q : Sequencer) (hp : q.pos = 0) (he : q.ended = false) : streams (streamWorld q) (streamEnv q) := by
  refine ⟨by simp [streamWorld, streamEnv, streamChorus, chorus, hp], ?_⟩
  simp [State.seqEnv?, State.chorus?, State.launch?, streamWorld, streamEnv, streamChorus, chorus, world, launch, hp, he]

/-- The scalar and barrier words: QBRA within its conditions, MEND where none waits, MWAIT behind a phase that has
passed (the sequencer has counted fewer), MARRIVE with nothing running. -/
theorem witness_StreamScalars : streams (streamWorld { sequencer with waits := [(2, 1)] }) (streamEnv { sequencer with waits := [(2, 1)] })
    ∧ (0 : BitVec 6).toNat < 3 ∧ (∀ x ∈ (streamEnv sequencer).ch.seqs, x.pos ≠ 0 → x.waiting = none)
    ∧ ((streamEnv { sequencer with waits := [(2, 1)] }).ch.barriers.get {} 2).phases ≠ 1 ∧ sequencer.jobs = [] :=
  ⟨streams_of _ rfl rfl, by decide, by decide +kernel, by decide +kernel, rfl⟩

/-- A clutch with registers enough for the operands of MMA, MMA.S and MMA.M, and its chorus. -/
def wideChorus : Chorus := { streamChorus sequencer with clutches := [{ clutch with held := 200 }] }
def wideWorld : State := { streamWorld sequencer with choruses := [wideChorus] }
def wideEnv : SeqEnv := { l := launch, ch := wideChorus, q := sequencer }

theorem streams_wide : streams wideWorld wideEnv := ⟨rfl, by decide +kernel⟩

/-- MMA, MMA.S and MMA.M with operands in registers, and MZERO of 64 rows from row 16. -/
theorem witness_MatrixOperationsIssue : streams wideWorld wideEnv
    ∧ (∀ f ∈ [({ len := .w128, mod := 1, d := 2, a := 40, b := 48, tg := 2, hn := 2 } : Fields),
          { len := .w128, mod := 0x21, d := 2, a := 40, b := 64, c := 8, tg := 5, imm := 0x100000, hn := 5 },
          { len := .w128, mod := 0x31, d := 2, a := 8, b := 48, tg := 15, hn := 2 }],
        (∀ n ∈ f.tiles, wideEnv.ch.tileDefined n = true ∧ (wideEnv.ch.tile n).wasReady wideWorld.now = true) ∧ f.form ≠ 1
          ∧ firstFailure [(wideEnv, f, wideEnv.job f (wideEnv.q, f) 0)] = none)
    ∧ (let f : Fields := { len := .w96, mod := 3, d := 2, imm := 0x00400010 }
      ((wideEnv.q.get f.d).toNat + f.imm.toNat % 2 ^ 16) % 2 ^ 32 + f.imm.toNat / 2 ^ 16 % 2 ^ 10 ≤ wideEnv.l.hdr.accRows) :=
  ⟨streams_wide, by decide +kernel, by decide +kernel⟩

/-- The one sequencer of a cluster chorus reaches its MMA.BC. -/
def bcFields : Fields := { len := .w128, mod := 0x11, d := 2, a := 40, b := 48, tg := 2, hn := 2 }
def bcChorus : Chorus := { chorus with cores := [0, 1, 2, 3], seqs := [sequencer] }
def bcLaunch : Launch := { launch with hdr := { hdr with cluster := true } }
def bcWorld : State := { world with choruses := [bcChorus], launches := [bcLaunch], cur := .sequencer 2 0 }
def bcEnv : SeqEnv := { l := bcLaunch, ch := bcChorus, q := sequencer }

theorem witness_MatrixOperationsIssue_bc : streams bcWorld bcEnv ∧ bcFields.form = 1 ∧ (bcEnv.ch.seqs.map (·.pos)).Nodup
    ∧ (let ch : Chorus := { bcEnv.ch with
        seqs := updateFirst (fun q => q.pos = bcEnv.q.pos) (fun q => { q with waiting := some bcFields }) bcEnv.ch.seqs }
      let words : List (SeqEnv × Fields) := ch.seqs.filterMap fun q => q.waiting.map fun g => ({ bcEnv with ch, q }, g)
      words.length = ch.seqs.length
        ∧ (∀ w ∈ words, ∀ n ∈ w.2.tiles, ch.tileDefined n = true ∧ (ch.tile n).wasReady bcWorld.now = true) ∧ (∀ w ∈ words, w.2.form = 1)
        ∧ ∀ x ∈ words.take 1, firstFailure (words.map fun w => (w.1, w.2, w.1.job w.2 (x.1.q, x.2) 0)) = none) :=
  ⟨⟨by decide +kernel, by decide +kernel⟩, by decide +kernel, by decide +kernel, by decide +kernel⟩

/-- MZERO beyond the chorus's rows, and a word that names an undefined tile. -/
theorem witness_MatrixOperationsIssue_faults : streams (streamWorld sequencer) (streamEnv sequencer)
    ∧ (let f : Fields := { len := .w96, mod := 3, d := 2, imm := 0x00800010 }
      (streamEnv sequencer).l.hdr.accRows
        < (((streamEnv sequencer).q.get f.d).toNat + f.imm.toNat % 2 ^ 16) % 2 ^ 32 + f.imm.toNat / 2 ^ 16 % 2 ^ 10)
    ∧ ∃ n ∈ ({ e := 4 } : Fields).tiles, (streamEnv sequencer).ch.tileDefined n = false :=
  ⟨streams_of _ rfl rfl, by decide +kernel, 3, by decide +kernel, by decide +kernel⟩

/-- A sequencer whose q registers name bytes outside the scratchpad (4) and bytes that are no metadata (10), with a clutch
whose register 41 carries FP64. -/
def checkedSequencer : Sequencer := { sequencer with q := [(4, 0x3FFFF), (5, 3), (10, 64)] }
def checkedChorus : Chorus := { streamChorus checkedSequencer with clutches := [{ clutch with held := 200, tags := [(41, 1)] }] }
def checkedWorld : State := { streamWorld checkedSequencer with choruses := [checkedChorus] }
def checkedEnv : SeqEnv := { l := launch, ch := checkedChorus, q := checkedSequencer }

/-- A word of no valid pair, one beyond the clutch's registers, one with a wrong tag, one outside the rows, one outside the
scratchpad and one without metadata: each meets the clause of its check. -/
theorem witness_MatrixOperationsIssue_checks : streams checkedWorld checkedEnv
    ∧ (let f : Fields := { len := .w128, mod := 1, d := 2, a := 50, b := 60, tg := 2, hn := 3 }
      f.form ≠ 1 ∧ mmaPairOk f.form f.tg.toNat f.hn.toNat = false)
    ∧ (let f : Fields := { len := .w128, mod := 1, d := 2, a := 196, b := 60, tg := 2, hn := 2 }
      f.form ≠ 1 ∧ checkedEnv.validWord f = false)
    ∧ (let f : Fields := { len := .w128, mod := 1, d := 2, a := 40, b := 60, tg := 2, hn := 2 }
      f.form ≠ 1 ∧ checkedEnv.validWord f = true ∧ checkedEnv.tagsOk f = false)
    ∧ (let f : Fields := { len := .w128, mod := 1, d := 2, a := 50, b := 60, tg := 2, hn := 2, imm := 0x1FF0 }
      f.form ≠ 1 ∧ checkedEnv.validWord f = true ∧ checkedEnv.tagsOk f = true ∧ checkedEnv.rowsOk f = false
        ∧ launch.hdr.accRows < ((checkedEnv.q.get f.d).toNat + f.imm.toNat % 2 ^ 16) % 2 ^ 32 + 64)
    ∧ (let f : Fields := { len := .w128, mod := 1, d := 2, a := 4, b := 60, sp := 1, tg := 2, hn := 2 }
      f.form ≠ 1 ∧ checkedEnv.validWord f = true ∧ checkedEnv.tagsOk f = true ∧ checkedEnv.rowsOk f = true
        ∧ checkedEnv.bytesOk (checkedEnv.job f (checkedEnv.q, f) 0) = false)
    ∧ (let f : Fields := { len := .w128, mod := 0x21, d := 2, a := 50, b := 70, c := 10, tg := 5, imm := 0x100000, hn := 5 }
      f.form ≠ 1 ∧ checkedEnv.validWord f = true ∧ checkedEnv.tagsOk f = true ∧ checkedEnv.rowsOk f = true
        ∧ checkedEnv.bytesOk (checkedEnv.job f (checkedEnv.q, f) 0) = true ∧ checkedEnv.metaOk (checkedEnv.job f (checkedEnv.q, f) 0) = false) := by
  refine ⟨⟨rfl, by decide +kernel⟩, ?_⟩
  decide +kernel

/-- Two sequencers at their MMA.BC words, the second of another format. -/
def unequalChorus : Chorus :=
  { bcChorus with seqs := [{ sequencer with pos := 1, waiting := some { bcFields with sp := 2, tg := 3, hn := 3 } }, sequencer] }
def unequalWorld : State := { bcWorld with choruses := [unequalChorus] }
def unequalEnv : SeqEnv := { l := bcLaunch, ch := unequalChorus, q := sequencer }

theorem witness_MatrixOperationsIssue_unequal : streams unequalWorld unequalEnv
    ∧ (let f : Fields := { bcFields with sp := 2 }
      let ch : Chorus := { unequalChorus with
        seqs := updateFirst (fun q => q.pos = sequencer.pos) (fun q => { q with waiting := some f }) unequalChorus.seqs }
      let words : List (SeqEnv × Fields) := ch.seqs.filterMap fun q => q.waiting.map fun g => ({ unequalEnv with ch, q }, g)
      f.form = 1 ∧ (unequalChorus.seqs.map (·.pos)).Nodup ∧ words.length = ch.seqs.length ∧ 1 < words.length
        ∧ (∀ w ∈ words, w.2.form = 1)
        ∧ (∀ w ∈ words, ∀ n ∈ w.2.tiles, ch.tileDefined n = true ∧ (ch.tile n).wasReady unequalWorld.now = true)
        ∧ ∃ w ∈ words.head?, w.1.validWord w.2 = false ∨ w.2.bScratch = false) := by
  refine ⟨⟨by decide +kernel, by decide +kernel⟩, ?_⟩
  decide +kernel

/-- An MZERO that runs, and an MMA whose operands nothing has changed since its issue. -/
def zeroJob : Job := { id := 9, fields := { len := .w96, mod := 3, imm := 0x00400010 }, op := 0xAB, row := 16 }
def mmaJob : Job :=
  { id := 9, fields := { len := .w128, mod := 1, d := 2, a := 40, b := 48, tg := 2, hn := 2 }, op := 0xA8, row := 0 }
def running (j : Job) : Sequencer := { sequencer with jobs := [j] }

theorem witness_MatrixOperationsComplete : ∀ j ∈ [zeroJob, mmaJob], let s := streamWorld (running j); let c := streamChorus (running j)
    s.chorus? c.uid = some c ∧ s.launch? c.launch = some launch ∧ c.seqs.find? (fun x => x.pos = (running j).pos) = some (running j)
      ∧ (running j).jobs = j :: [] ∧ j.touched = [] :=
  fun j hj => ⟨rfl, rfl, rfl, rfl, by revert j; decide +kernel⟩

/-- The MMA's registers are on loan to it from the clutch that supplies them, unwritten since it issued. -/
def lendingChorus : Chorus :=
  { streamChorus (running mmaJob) with clutches := [{ clutch with held := 200, loans := { lent := [(9, [40, 41, 48, 49, 50, 51])] } }] }

theorem witness_MatrixOperationsComplete_mma : let c := lendingChorus
    mmaJob.fields.form = 0 ∧ mmaInt mmaJob.fields.tg.toNat = false ∧ mmaJob.fields.tg ≠ 1 ∧ mmaJob.touched = []
      ∧ c.poisonedOperand launch.hdr 0 mmaJob = false ∧ mmaJob.fields.engines = [0] ∧ c.loanStands 0 mmaJob 0 = true
      ∧ (c.operands launch.hdr 0 mmaJob 0).any (fun x => x.a.length = 64 && x.b.length = 128) = true := by
  decide +kernel

/-! ### Tiles, copies and futures -/

theorem mayRun_of {s : State} {e : Env} {op : Nat} {f : Fields} {regs : List Nat} (h : runs s e)
    (hm : (may s e op f && regs.all fun r => !e.poisonIn { reg := r } [e.low]) = true) : mayRun s e op f regs := by
  simp only [Bool.and_eq_true] at hm
  exact ⟨mayIssue_of h hm.1, fun r hr => by simpa using List.all_eq_true.mp hm.2 r hr⟩

/-- A chorus whose tile 5 is as given. -/
def tiled (t : Tile) : Chorus := { chorus with tiles := [(5, t)] }
def tiledWorld (t : Tile) : State := { world with choruses := [tiled t] }
def tiledEnv (t : Tile) : Env := { env with ch := tiled t }

theorem runs_tiled (t : Tile) : runs (tiledWorld t) (tiledEnv t) := ⟨rfl, rfl⟩

/-- Tile 5 undefined, and in its four states: the four instructions on it may issue, and the words of TILEDEF and TILEDRN with
a good and a bad argument. -/
theorem witness_TileTable : ∀ t ∈ [({} : Tile), { size := 4096 }, { state := .filling, size := 4096 }, { state := .ready, size := 4096 },
      { state := .draining, dcount := 1, size := 4096 }, { state := .draining, dcount := 2, size := 4096 }],
    (∀ n ∈ [0, 96, 4096], mayRun (tiledWorld t) (tiledEnv t) 0xB9 { len := .w128, mod := 5, d := 8, a := 24, imm := n } [24])
      ∧ ((tiledEnv t).localKey 2 ((tiledEnv t).read (tiledWorld t) 24 0).toNat 4096).isSome = true
      ∧ mayIssue (tiledWorld t) (tiledEnv t) 0xBA { len := .w128, mod := 5, d := 8 }
      ∧ mayIssue (tiledWorld t) (tiledEnv t) 0xBB { len := .w128, mod := 5, d := 8 }
      ∧ ∀ n ∈ [0, 2], mayIssue (tiledWorld t) (tiledEnv t) 0xBC { len := .w128, mod := 5, d := 8, imm := n } := by
  intro t ht
  have h : [({} : Tile), { size := 4096 }, { state := .filling, size := 4096 }, { state := .ready, size := 4096 },
      { state := .draining, dcount := 1, size := 4096 }, { state := .draining, dcount := 2, size := 4096 }].all (fun t =>
      let s := tiledWorld t
      let e := tiledEnv t
      ([0, 96, 4096].all fun n => may s e 0xB9 { len := .w128, mod := 5, d := 8, a := 24, imm := n })
        && ([24].all fun r => !e.poisonIn { reg := r } [e.low]) && (e.localKey 2 (e.read s 24 0).toNat 4096).isSome
        && may s e 0xBA { len := .w128, mod := 5, d := 8 } && may s e 0xBB { len := .w128, mod := 5, d := 8 }
        && [0, 2].all fun n => may s e 0xBC { len := .w128, mod := 5, d := 8, imm := n }) = true := by decide +kernel
  have h := List.all_eq_true.mp h t ht
  simp only [Bool.and_eq_true] at h
  obtain ⟨⟨⟨⟨⟨h1, h2⟩, h3⟩, h4⟩, h5⟩, h6⟩ := h
  refine ⟨fun n hn => mayRun_of (runs_tiled t) ?_, h3, mayIssue_of (runs_tiled t) h4, mayIssue_of (runs_tiled t) h5,
    fun n hn => mayIssue_of (runs_tiled t) (List.all_eq_true.mp h6 n hn)⟩
  simp only [Bool.and_eq_true]
  exact ⟨List.all_eq_true.mp h1 n hn, h2⟩

/-- A copy of one element from address 0 of the own scratchpad to address 64: the descriptor stands at address 64 x lane + 64. -/
def descriptor : Store Byte :=
  [(66, 0x50), (80, 64), (88, 1), (90, 1), (92, 1), (94, 1), (96, 1), (98, 1)]
def copyWorld (scratch : Store Byte) : State := { world with choruses := [{ chorus with scratch }] }
def copyEnv (scratch : Store Byte) : Env := { env with ch := { chorus with scratch } }
def kick : Fields := { len := .w128, d := 8, a := 24, imm := 64, sp := 1 }

/-- A KICK of that descriptor, and of one that is all zero, which is invalid. -/
theorem witness_TensorCopies_kick : ∀ x ∈ [(descriptor, true), (([] : Store Byte), false)],
    let s := copyWorld x.1; let e := copyEnv x.1
    mayRun s e 0xB8 kick [24] ∧ s.drained e = true ∧ ((e.read s 24 e.low).toNat + 64) % 2 ^ 32 % 64 = 0
      ∧ e.localKey 1 (((e.read s 24 e.low).toNat + 64) % 2 ^ 32) 64 = some 64 ∧ (s.copiesOn e.core).length < 16
      ∧ (s.allocFuture e.ch.die e.l.ctx .copy e.who.chorus).isSome = true
      ∧ e.descOk (Desc.ofNumber (e.ch.number 64 64)) = x.2
      ∧ (x.2 = true → e.copyInside (Desc.ofNumber (e.ch.number 64 64)) = true) := by
  intro x hx
  have h : [(descriptor, true), (([] : Store Byte), false)].all (fun x => let s := copyWorld x.1; let e := copyEnv x.1
      (may s e 0xB8 kick && [24].all fun r => !e.poisonIn { reg := r } [e.low]) && s.drained e
        && decide (((e.read s 24 e.low).toNat + 64) % 2 ^ 32 % 64 = 0)
        && decide (e.localKey 1 (((e.read s 24 e.low).toNat + 64) % 2 ^ 32) 64 = some 64)
        && decide ((s.copiesOn e.core).length < 16) && (s.allocFuture e.ch.die e.l.ctx .copy e.who.chorus).isSome
        && decide (e.descOk (Desc.ofNumber (e.ch.number 64 64)) = x.2)
        && (!x.2 || e.copyInside (Desc.ofNumber (e.ch.number 64 64)))) = true := by decide +kernel
  have h := List.all_eq_true.mp h x hx
  simp only [Bool.and_eq_true, decide_eq_true_eq] at h
  obtain ⟨⟨⟨⟨⟨⟨⟨h1, h2⟩, h3⟩, h4⟩, h5⟩, h6⟩, h7⟩, h8⟩ := h
  refine ⟨mayRun_of ⟨rfl, rfl⟩ (by rw [Bool.and_eq_true]; exact h1), h2, h3, h4, h5, h6, h7, fun hx => ?_⟩
  simpa [hx] using h8

/-- A die whose future 1 is as given, and a clutch whose register 30 names it. -/
def futureWorld (x : Future) : State := { world with dies := [(0, { serving := true, futures := [(1, x)] })] }
def handle (c : Clutch) : Clutch := { c with regs := c.regs.set [] 30 (lanesOf fun _ => 1) }
def handleWorld (x : Future) : State := { futureWorld x with choruses := [{ chorus with clutches := [handle clutch] }] }
def handleEnv : Env := { env with ch := { chorus with clutches := [handle clutch] }, cl := handle clutch }

/-- A pending copy of this chorus, a finished one, one of another chorus, and a multicast. -/
def someFutures : List Future :=
  [{ state := .pending, owner := 2 }, { state := .done, value := 5, owner := 2 }, { state := .done, owner := 3 },
    { state := .pending, kind := .multicast, owner := 2 }, { state := .done, kind := .multicast, owner := 2 }]

theorem runs_handle (x : Future) : runs (handleWorld x) handleEnv := ⟨rfl, rfl⟩

/-- TCP.CANCEL, FTEST, FREAD and FCANCEL of each, and of the invalid handle 0. -/
theorem witness_Futures : ∀ x ∈ someFutures,
    (∀ op ∈ [(0xB8, ({ len := .w128, mod := 1, d := 8, a := 30 } : Fields)), (0xE2, { d := 8, a := 30 }), (0xE3, { d := 8, a := 30 }),
        (0xE4, { mod := 1, d := 8, a := 30 })], mayRun (handleWorld x) handleEnv op.1 op.2 [30])
      ∧ (handleWorld x).future? 0 0 (BitVec.ofNat 32 (handleEnv.read (handleWorld x) 30 0).toNat) = some (1, x)
      ∧ x.waiters = [] ∧ (handleWorld x).nodesOf 0 who < 4 := by
  intro x hx
  have h : someFutures.all (fun x => ([(0xB8, ({ len := .w128, mod := 1, d := 8, a := 30 } : Fields)), (0xE2, { d := 8, a := 30 }),
        (0xE3, { d := 8, a := 30 }), (0xE4, { mod := 1, d := 8, a := 30 })].all fun op =>
        may (handleWorld x) handleEnv op.1 op.2 && [30].all fun r => !handleEnv.poisonIn { reg := r } [handleEnv.low])
      && decide ((handleWorld x).future? 0 0 (BitVec.ofNat 32 (handleEnv.read (handleWorld x) 30 0).toNat) = some (1, x))
      && decide (x.waiters = []) && decide ((handleWorld x).nodesOf 0 who < 4)) = true := by decide +kernel
  have h := List.all_eq_true.mp h x hx
  simp only [Bool.and_eq_true, decide_eq_true_eq] at h
  obtain ⟨⟨⟨h1, h2⟩, h3⟩, h4⟩ := h
  exact ⟨fun op ho => mayRun_of (runs_handle x) (List.all_eq_true.mp h1 op ho), h2, h3, h4⟩

theorem witness_Futures_invalid : mayRun world env 0xE2 { d := 8, a := 30 } [30] ∧ mayRun world env 0xE4 { d := 8, a := 30 } [30]
    ∧ mayRun world env 0xE3 { d := 8, a := 30 } [30] ∧ mayRun world env 0xB8 { len := .w128, mod := 1, d := 8, a := 30 } [30]
    ∧ world.future? 0 0 (BitVec.ofNat 32 (env.read world 30 0).toNat) = none :=
  ⟨mayRun_of runs_world (by decide +kernel), mayRun_of runs_world (by decide +kernel), mayRun_of runs_world (by decide +kernel),
    mayRun_of runs_world (by decide +kernel), by decide +kernel⟩

/-- A copy of 64 bytes into tile 5 that waits for room, with tiles that have it and have it not. -/
def waitingCopy : CopyJob :=
  { id := 9, who, die := 0, desc := Desc.ofNumber (2 ^ 24 * 6), future := 1, admitted := false, bytes := 64 }
def admitWorld (t : Tile) : State := { tiledWorld t with copies := [waitingCopy], dies := [(0, { futures := [(1, { state := .pending })] })] }

theorem witness_TensorCopies_admit : ∀ t ∈ [({ size := 64 } : Tile), { state := .filling, size := 128, open_ := 64 }, { size := 32 }],
    (admitWorld t).copies.find? (fun x => x.id = waitingCopy.id) = some waitingCopy
      ∧ (admitWorld t).chorus? waitingCopy.who.chorus = some (tiled t) ∧ waitingCopy.admitted = false
      ∧ (admitWorld t).copies.find? (fun x => x.who.chorus = waitingCopy.who.chorus && !x.admitted && x.desc.tile = waitingCopy.desc.tile)
          = some waitingCopy
      ∧ ((tiled t).tile (waitingCopy.desc.tile - 1)).size ≠ 0 ∧ (t.state = .empty ∨ t.state = .filling)
      ∧ livePending (futureAt (admitWorld t) 0 1) := by decide +kernel

/-- The events of the witnesses' tiles come in order, and one behind an admission of its cycle does not (R404). -/
theorem witness_TileTable_order : (∀ n ∈ [landingOrder, clutchOrder env.cl.id, admissionOrder], ({} : Tile).inOrder world.now n = true)
    ∧ ({} : Tile).stamps.emptied ≠ world.now + 1
    ∧ ({ size := 64, stamps := { at_ := (world.now + 1, admissionOrder) } } : Tile).inOrder world.now (clutchOrder env.cl.id) = false := by
  decide +kernel

/-- The same copy admitted, from the scratchpad, and one from global address 0x30000, which has no translation. -/
def runningCopy (d : Desc) : CopyJob := { waitingCopy with desc := d, admitted := true, bytes := 1 }
def runWorld (d : Desc) : State := { admitWorld {} with copies := [runningCopy d] }
def localDesc : Desc := Desc.ofNumber (2 ^ 22 + 2 ^ 20 + 2 ^ (8 * 16) * 64 + 2 ^ (8 * 24) * (1 + 2 ^ 16 + 2 ^ 32 + 2 ^ 48 + 2 ^ 64 + 2 ^ 80))
def globalDesc : Desc := { localDesc with ssp := 0, src := 0x30000 }

theorem witness_TensorCopies_complete : (runWorld localDesc).copies.find? (fun x => x.id = 9) = some (runningCopy localDesc)
    ∧ (runWorld localDesc).anyEnv? who = some { env with ch := tiled {} } ∧ livePending (futureAt (runWorld localDesc) 0 1)
    ∧ (∀ u ∈ localDesc.units, (runWorld localDesc).unitMisses { env with ch := tiled {} } localDesc u = []
      ∧ (runWorld localDesc).unitPoison { env with ch := tiled {} } localDesc u = false)
    ∧ localDesc.pages = [] ∧ (runWorld globalDesc).bring env.core 0 globalDesc.pages = some (runWorld globalDesc)
    ∧ noContention (runWorld localDesc) ∧ (runWorld globalDesc).copies.find? (fun x => x.id = 9) = some (runningCopy globalDesc)
    ∧ ∃ u ∈ globalDesc.units, (runWorld globalDesc).unitMisses { env with ch := tiled {} } globalDesc u ≠ [] :=
  ⟨by decide +kernel, by decide +kernel, by decide +kernel, by decide +kernel, by decide +kernel, by decide +kernel, noContention_of (by decide +kernel), by decide +kernel,
    by decide +kernel⟩

/-- A copy of the scratchpad's first byte to global address 0x30000, whose write is gathered and then performed; a handle that
names a copy that may be cancelled, waiting and admitted. -/
def storedCopy : CopyJob := { runningCopy localDesc with result := some (.done, 1) }

theorem witness_TensorCopies_ends : let s : State := { runWorld localDesc with copies := [storedCopy] }
    s.copies.find? (fun x => x.id = 9) = some storedCopy ∧ s.jobOpen 9 = false
      ∧ (storedCopy.desc.tile ≠ 0 → (env.ch.tile (storedCopy.desc.tile - 1)).inOrder s.now landingOrder = true) := by decide +kernel

theorem witness_Futures_cancel : ∀ admitted ∈ [true, false], let x : Future := { state := .pending, owner := 2 }
    let j : CopyJob := { runningCopy localDesc with admitted }
    let s : State := { handleWorld x with copies := [j] }
    mayRun s handleEnv 0xB8 { len := .w128, mod := 1, d := 8, a := 30 } [30] ∧ mayRun s handleEnv 0xE3 { d := 8, a := 30 } [30]
      ∧ s.future? 0 0 (BitVec.ofNat 32 (handleEnv.read s 30 0).toNat) = some (1, x) ∧ livePending x ∧ stoppable s handleEnv 1 j handleEnv := by
  intro admitted ha
  have h : [true, false].all (fun admitted => let x : Future := { state := .pending, owner := 2 }
      let j : CopyJob := { runningCopy localDesc with admitted }
      let s : State := { handleWorld x with copies := [j] }
      (may s handleEnv 0xB8 { len := .w128, mod := 1, d := 8, a := 30 } && [30].all fun r => !handleEnv.poisonIn { reg := r } [handleEnv.low])
        && (may s handleEnv 0xE3 { d := 8, a := 30 } && [30].all fun r => !handleEnv.poisonIn { reg := r } [handleEnv.low])
        && decide (s.future? 0 0 (BitVec.ofNat 32 (handleEnv.read s 30 0).toNat) = some (1, x))
        && decide (s.copies.find? (fun x => x.die = handleEnv.ch.die && x.future = 1) = some j)
        && decide (s.copies.find? (fun x => x.id = j.id) = some j) && !s.jobOpen j.id && decide (s.anyEnv? j.who = some handleEnv)) = true := by
    decide +kernel
  have h := List.all_eq_true.mp h admitted ha
  simp only [Bool.and_eq_true, decide_eq_true_eq, Bool.not_eq_true'] at h
  obtain ⟨⟨⟨⟨⟨⟨h1, h2⟩, h3⟩, h4⟩, h5⟩, h6⟩, h7⟩ := h
  refine ⟨mayRun_of ⟨rfl, rfl⟩ (by rw [Bool.and_eq_true]; exact h1), mayRun_of ⟨rfl, rfl⟩ (by rw [Bool.and_eq_true]; exact h2), h3,
    ⟨rfl, rfl, rfl, rfl⟩, h4, h5, rfl, h6, h7⟩

/-! ### Remote homes, arrival words, the chorus window -/

/-- What a remote data word meets at its source, as a test. -/
def remoteTest (i : Instr) : Bool :=
  match remoteData i with
  | some (op, f, r) =>
    WellFormed env.ranges i && may world env op f
      && ((remoteSrcs f ++ r.srcs).all fun x => !env.srcFails x && !env.poisonIn x (env.readLanes x))
      && ((lanesIn env.mask).all fun l => env.remoteAddr world f l % r.size = 0 && (env.arrival world f l).all fun w => w.toNat % 8 = 0)
      && !Fields.self f && decide ((world.core env.core).queue.length < 64) && decide (r.bad world env = 0)
      && r.low.all fun reg => !env.poisonIn { reg } (lanesIn env.mask)
  | none => false

theorem witness_RemoteOperationsQueue : ∀ x ∈ remoteWords, ∀ op f r, remoteData x.2 = some (op, f, r) →
    WellFormed env.ranges x.2 = true ∧ mayIssue world env op f ∧ sourcesPass env (remoteSrcs f ++ r.srcs)
      ∧ (∀ reg, r.low = some reg → env.poisonIn { reg } (lanesIn env.mask) = false) ∧ remoteReady world env f r.size ∧ r.bad world env = 0 := by
  have h : remoteWords.all (fun x => (remoteData x.2).isNone || remoteTest x.2) = true := by decide +kernel
  intro x hx op f r hr
  have hx := List.all_eq_true.mp h x hx
  simp only [hr, Option.isNone_some, Bool.false_or] at hx
  unfold remoteTest at hx
  simp only [hr, Bool.and_eq_true, decide_eq_true_eq, Bool.not_eq_true'] at hx
  obtain ⟨⟨⟨⟨⟨⟨⟨h1, h2⟩, h3⟩, h4⟩, h5⟩, h6⟩, h7⟩, h8⟩ := hx
  refine ⟨h1, mayIssue_of runs_world h2, sourcesPass_of h3, fun reg hl => ?_, ⟨fun l hl => ?_, fun hs => ?_, h6⟩, h7⟩
  · simpa [hl] using h8
  · have h4 := List.all_eq_true.mp h4 l hl
    simp only [Bool.and_eq_true, decide_eq_true_eq, Option.all_eq_true] at h4
    exact h4
  · rw [h5] at hs; cases hs

/-- RGET and RACC.CVT of the table, and MCAST1 to group 0, valid or not. -/
def groupWorld (g : Group) : State := { world with crucible := { ready := true, groups := [(0, g)] } }

theorem runs_group (g : Group) : runs (groupWorld g) env := ⟨rfl, rfl⟩

theorem witness_RemoteReadsAndMulticast_reads :
    let f : Fields := { len := .w128, mod := 0x20, a := 32, e := 36, f := 20 }
    let g : Fields := { len := .w128, d := 8, a := 32, e := 36, tg := 2 }
    WellFormed env.ranges (.rget f) = true ∧ mayIssue world env 0xC6 f
      ∧ sourcesPass env (remoteSrcs f ++ [{ reg := f.f.toNat, width := 2 }]) ∧ remoteReady world env f (szBytes f.sz)
      ∧ (world.xlate env.core env.l.ctx false ((lanesIn env.mask).flatMap fun l =>
        Elem.pages { lane := l, addr := env.read64 world f.f.toNat l, bytes := szBytes f.sz }) = .ok)
      ∧ WellFormed env.ranges (.raccCvt g) = true ∧ mayIssue world env 0xC8 g
      ∧ (∀ r ∈ [32, 33, 36], env.poisonIn { reg := r } (lanesIn env.mask) = false) ∧ env.remoteAddr world g env.low % 8 = 0
      ∧ (world.core env.core).queue.length < 64 ∧ (env.target world g env.low).bad = false := by
  refine ⟨by decide +kernel, mayIssue_of runs_world (by decide +kernel), sourcesPass_of (by decide +kernel),
    ⟨?_, ?_, ?_⟩, by decide +kernel, by decide +kernel, mayIssue_of runs_world (by decide +kernel), by decide +kernel,
    by decide +kernel, by decide +kernel, by decide +kernel⟩
  · have h : (lanesIn env.mask).all (fun l => env.remoteAddr world { len := .w128, mod := 0x20, a := 32, e := 36, f := 20 } l % 4 = 0) = true := by
      decide +kernel
    exact fun l hl => ⟨of_decide_eq_true (List.all_eq_true.mp h l hl), fun w hw => by cases hw⟩
  · intro h; cases h
  · decide +kernel

theorem witness_RemoteReadsAndMulticast_multicast : ∀ g ∈ [({ valid := true, members := [1, 2] } : Group), {}],
    let f : Fields := { len := .w128, mod := 0x20, d := 8, a := 32, b := 26, e := 37, f := 34 }
    let s := groupWorld g
    WellFormed env.ranges (.mcast1 f) = true ∧ mayIssue s env 0xC7 f
      ∧ sourcesPass env ({ reg := 32, width := 2 } :: wideSrc 26 (szRegs f.sz) (moveCheck f))
      ∧ env.poisonIn { reg := 37 } (lanesIn env.mask) = false ∧ env.poisonIn { reg := 34 } (lanesIn env.mask) = false
      ∧ (∀ l ∈ lanesIn env.mask, env.remoteAddr s f l % szBytes f.sz = 0) ∧ (env.read s 34 env.low).toNat % 64 = 0
      ∧ (env.localKey 1 (env.read s 34 env.low).toNat 64).isSome = true ∧ (s.core env.core).queue.length < 64
      ∧ (s.allocFuture env.ch.die env.l.ctx .multicast env.who.chorus).isSome = true ∧ env.cl.progress = .none
      ∧ (env.read s 37 env.low).toNat < 4096 ∧ groupValid g env.l.ctx = g.valid := by
  intro g hg
  have h : [({ valid := true, members := [1, 2] } : Group), {}].all (fun g => let s := groupWorld g
      let f : Fields := { len := .w128, mod := 0x20, d := 8, a := 32, b := 26, e := 37, f := 34 }
      may s env 0xC7 f && ((lanesIn env.mask).all fun l => env.remoteAddr s f l % szBytes f.sz = 0)
        && decide ((env.read s 34 env.low).toNat % 64 = 0) && (env.localKey 1 (env.read s 34 env.low).toNat 64).isSome
        && decide ((s.core env.core).queue.length < 64) && (s.allocFuture env.ch.die env.l.ctx .multicast env.who.chorus).isSome
        && decide ((env.read s 37 env.low).toNat < 4096) && decide (groupValid g env.l.ctx = g.valid)) = true := by decide +kernel
  have h := List.all_eq_true.mp h g hg
  simp only [Bool.and_eq_true, decide_eq_true_eq] at h
  obtain ⟨⟨⟨⟨⟨⟨⟨h1, h2⟩, h3⟩, h4⟩, h5⟩, h6⟩, h7⟩, h8⟩ := h
  refine ⟨by decide +kernel, mayIssue_of (runs_group g) h1, sourcesPass_of (by decide +kernel), by decide +kernel, by decide +kernel,
    fun l hl => ?_, h3, h4, h5, h6, rfl, h7, h8⟩
  simpa using List.all_eq_true.mp h2 l hl

/-- The three arrival instructions on an arrival word of the own window, whose value is 5, at a target it has reached and at one
that it has not; and on one in memory. -/
def arriving (c : Clutch) : Clutch :=
  { c with regs := (c.regs.set [] 26 (lanesOf fun _ => 5)).set [] 28 (lanesOf fun _ => 6) }
def arrivalWorld : State :=
  { worldOf arriving with choruses := [{ chorus with clutches := [arriving clutch], scratch := [(0, 5)] }], mem := [(0x10000, 5)] }
def arrivalEnv : Env := { env with ch := { chorus with clutches := [arriving clutch], scratch := [(0, 5)] }, cl := arriving clutch }

theorem arrivalReady_of {op : Nat} {f : Fields} {write : Bool} (h : (let s := arrivalWorld
      let e := arrivalEnv
      may s e op f && (f.a.toNat :: f.b.toNat :: (f.b.toNat + 1) :: (if Fields.self f then [] else [f.a.toNat + 1])).all (fun r =>
          !e.poisonIn { reg := r } [e.low]) && decide (e.arrivalAddr s f % 8 = 0)
        && !s.accessPending who (spaceOf (if Fields.self f then 1 else 0)) ([(e.low, (List.range 8).map (arrivalPlace s e f + ·))].flatMap (·.2))
        && !s.writePending who ([(e.low, (List.range 8).map (arrivalPlace s e f + ·))].flatMap (·.2))
        && if Fields.self f then e.reachesWindow (e.arrivalAddr s f) 8 && decide (windowSection (e.arrivalAddr s f) = e.ch.section_)
          else decide (s.xlate e.core e.l.ctx write [e.arrivalAddr s f] = .ok) && decide (homeOf (arrivalPlace s e f) = e.ch.die)
            && !s.poisonedAt (arrivalPlace s e f)) = true) : arrivalReady arrivalWorld arrivalEnv op f write := by
  simp only [Bool.and_eq_true, decide_eq_true_eq, Bool.not_eq_true'] at h
  obtain ⟨⟨⟨⟨⟨h1, h2⟩, h3⟩, h4⟩, h5⟩, h6⟩ := h
  refine ⟨⟨mayIssue_of ⟨rfl, rfl⟩ h1, fun r hr => by simpa using List.all_eq_true.mp h2 r hr⟩, h3,
    noContention_of (s := arrivalWorld) (by decide +kernel), rfl, ⟨h4, fun _ _ => h5⟩, ?_⟩
  split
  · rename_i hs
    rw [if_pos hs] at h6
    simpa using h6
  · rename_i hs
    rw [if_neg hs] at h6
    simpa [and_assoc] using h6

theorem witness_ArrivalWords : ∀ b ∈ [26, 28], ∀ x ∈ [(22, 1), (20, 0)],
    let f : Fields := { len := .w128, d := 8, a := x.1, b, sp := x.2 }
    WellFormed arrivalEnv.ranges (.arrwait f) = true ∧ arrivalReady arrivalWorld arrivalEnv 0xC9 f false
      ∧ WellFormed arrivalEnv.ranges (.arrtest f) = true ∧ arrivalReady arrivalWorld arrivalEnv 0xCB f false
      ∧ WellFormed arrivalEnv.ranges (.arrset f) = true ∧ arrivalReady arrivalWorld arrivalEnv 0xCA f true
      ∧ arrivalValue arrivalWorld arrivalEnv f = 5 ∧ (arrivalEnv.read64 arrivalWorld b.toNat arrivalEnv.low = if b = 26 then 5 else 6)
      ∧ (arrivalWorld.die arrivalEnv.ch.die).watches.length < 4096 := by
  intro b hb x hx
  simp only [List.mem_cons, List.not_mem_nil, or_false] at hb hx
  rcases hb with rfl | rfl <;> rcases hx with rfl | rfl <;>
    exact ⟨by decide +kernel, arrivalReady_of (by decide +kernel), by decide +kernel, arrivalReady_of (by decide +kernel),
      by decide +kernel, arrivalReady_of (by decide +kernel), by decide +kernel, by decide +kernel, by decide +kernel⟩

/-- The data words of CWIN, CWLD and CWST of the table. -/
def windowTest (i : Instr) : Bool :=
  match windowData i with
  | some (f, n, srcs, _, _) =>
    WellFormed env.ranges i && may world env 0xD8 f
      && (({ reg := f.a.toNat } :: srcs ++ (if Fields.arr f then [{ reg := f.c.toNat }] else []) : List Src).all fun x =>
        !env.srcFails x && !env.poisonIn x (env.readLanes x))
      && decide (env.departs world f = 0) && decide ((world.core env.core).queue.length < 64)
      && (lanesIn env.mask).all fun l => decide (env.windowAddr world f l % n = 0) && env.reachesWindow (env.windowAddr world f l) n
          && decide ((env.read world f.c.toNat l).toNat % 8 = 0)
  | none => false

theorem witness_ChorusWindow_data : ∀ x ∈ windowWords, ∀ f n srcs op data, windowData x.2 = some (f, n, srcs, op, data) →
    WellFormed env.ranges x.2 = true ∧ mayIssue world env 0xD8 f
      ∧ sourcesPass env ({ reg := f.a.toNat } :: srcs ++ (if Fields.arr f then [{ reg := f.c.toNat }] else []))
      ∧ env.departs world f = 0 ∧ (world.core env.core).queue.length < 64
      ∧ ∀ l ∈ lanesIn env.mask, env.windowAddr world f l % n = 0 ∧ env.reachesWindow (env.windowAddr world f l) n = true
        ∧ (Fields.arr f = true → (env.read world f.c.toNat l).toNat % 8 = 0) := by
  have h : windowWords.all (fun x => (windowData x.2).isNone || windowTest x.2) = true := by decide +kernel
  intro x hx f n srcs op data hd
  have hx := List.all_eq_true.mp h x hx
  simp only [hd, Option.isNone_some, Bool.false_or] at hx
  unfold windowTest at hx
  simp only [hd, Bool.and_eq_true, decide_eq_true_eq] at hx
  obtain ⟨⟨⟨⟨⟨h1, h2⟩, h3⟩, h4⟩, h5⟩, h6⟩ := hx
  refine ⟨h1, mayIssue_of runs_world h2, sourcesPass_of h3, h4, h5, fun l hl => ?_⟩
  have h6 := List.all_eq_true.mp h6 l hl
  simp only [Bool.and_eq_true, decide_eq_true_eq] at h6
  exact ⟨h6.1.1, h6.1.2, fun _ => h6.2⟩

theorem witness_ChorusWindow_local : let f : Fields := { len := .w128, mod := 0x20, d := 8, a := 22 }
    let g : Fields := { len := .w128, mod := 0x20, a := 22, b := 26 }
    WellFormed env.ranges (.cwld f) = true ∧ mayIssue world env 0xD9 f ∧ sourcesPass env [{ reg := 22 }]
      ∧ WellFormed env.ranges (.cwst g) = true ∧ mayIssue world env 0xDA g
      ∧ sourcesPass env [{ reg := 22 }, { reg := 26, width := szRegs g.sz, tag := moveCheck g }]
      ∧ env.departs world f = 0 ∧ env.cl.progress = .none
      ∧ (∀ l ∈ lanesIn env.mask, env.reachesWindow (env.windowAddr world f l) (szBytes f.sz) = true
        ∧ windowSection (env.windowAddr world f l) = env.ch.section_)
      ∧ world.accessPending env.who .scratch (((lanesIn env.mask).map fun l =>
          (l, (List.range (szBytes f.sz)).map (windowKey (env.windowAddr world f l) + ·))).flatMap (·.2)) = false :=
  ⟨by decide +kernel, mayIssue_of runs_world (by decide +kernel), sourcesPass_of (by decide +kernel), by decide +kernel,
    mayIssue_of runs_world (by decide +kernel), sourcesPass_of (by decide +kernel), by decide +kernel, by decide +kernel,
    by decide +kernel, by decide +kernel⟩

/-- CWIN.ATTACH in a chorus that is not linked, and in one of two sections whose peer has attached, has departed, or neither. -/
def linkedWorld (attached departed : Bool) : State :=
  { world with
    launches := [{ launch with linked := true, lid := 7, members := [0, 1], hdr := { hdr with sections := 2 } }]
    choruses := [{ chorus with peers := [(1, { attached })], departed }] }
def linkedEnv (attached departed : Bool) : Env :=
  { env with
    l := { launch with linked := true, lid := 7, members := [0, 1], hdr := { hdr with sections := 2 } }
    ch := { chorus with peers := [(1, { attached })], departed } }

theorem witness_ChorusWindow_attach : mayIssue world env 0xD8 { len := .w128, d := 8 } ∧ env.l.linked = false
    ∧ world.owesWindow env = false
    ∧ ∀ a ∈ [true, false], ∀ d ∈ [true, false], mayIssue (linkedWorld a d) (linkedEnv a d) 0xD8 { len := .w128, d := 8 }
      ∧ (linkedEnv a d).l.linked = true ∧ (linkedEnv a d).ch.departed = d ∧ (linkedEnv a d).ch.attached = false
      ∧ (linkedEnv a d).ch.attachResult = none
      ∧ ((List.range (linkedEnv a d).hdr.sections).all fun k => k = (linkedEnv a d).ch.section_
          || ((linkedEnv a d).ch.peers.get {} k).attached) = a := by
  refine ⟨mayIssue_of runs_world (by decide +kernel), rfl, by decide +kernel, fun a _ d _ => ?_⟩
  cases a <;> cases d <;> exact ⟨mayIssue_of ⟨rfl, rfl⟩ (by decide +kernel), rfl, rfl, rfl, rfl, by decide +kernel⟩

/-- A second ATTACH, after DEPARTED, and a commit that is sent again. -/
theorem test_attach_keeps : ({ chorus with departed := true, attached := true } : Chorus).settleAttach 1
      = { chorus with departed := true, attached := true, attachResult := some 1 }
    ∧ ({ chorus with attached := true, departed := true, attachResult := some 0 } : Chorus).settleAttach 1
      = { chorus with attached := true, departed := true, attachResult := some 0 } := by decide +kernel

/-- STEP.CFG with size 0, a size beyond the range, a region that is not aligned, and one that is good. -/
def stepping (w : Nat) (base : Nat) (c : Clutch) : Clutch :=
  { c with regs := (c.regs.set [] 40 (lanesOf fun _ => BitVec.ofNat 32 w)).set [] 32 (lanesOf fun _ => BitVec.ofNat 32 base) }

theorem witness_StepReplayCache_cfg : ∀ x ∈ [(0, 0x10000), (0x30, 0x10000), (0x10, 0x10100), (0x10, 0x10000)],
    let s := worldOf (stepping x.1 x.2)
    let e := envOf (stepping x.1 x.2)
    let f : Fields := { len := .w128, d := 8, a := 32, b := 40 }
    mayRun s e 0xDB f [32, 33, 40] ∧ s.stepStoring e.ch.die e.l.ctx = false ∧ (e.read s 40 e.low).toNat = x.1
      ∧ e.read64 s 32 e.low = x.2 ∧ stepSize 0x10 = some (256, 1) ∧ stepSize 0x30 = none
      ∧ s.xlate e.core e.l.ctx false (stepPages 0x10000 512) = .ok
      ∧ (∀ va ∈ stepPages 0x10000 512, pteW (s.leafOf e.core e.l.ctx va) = true ∧ homeOf (s.paOf e.core e.l.ctx va) = e.ch.die
        ∧ s.paOf e.core e.l.ctx va % 2 ^ 39 < 2 ^ 36)
      ∧ ((s.stepRelease e.ch.die e.l.ctx).die e.ch.die).stepUsed + 1 ≤ 8192 := by
  intro x hx
  simp only [List.mem_cons, List.not_mem_nil, or_false] at hx
  rcases hx with rfl | rfl | rfl | rfl <;>
    exact ⟨mayRun_of (by unfold runs; decide +kernel) (by decide +kernel), by decide +kernel, by decide +kernel, by decide +kernel,
      by decide +kernel, by decide +kernel, by decide +kernel, by decide +kernel, by decide +kernel⟩

/-- STEP.PROBE and STEP.STORE without a region, and with one of 4 entries that holds nothing. -/
def regionWorld (r : List (Nat × StepRegion)) : State :=
  { world with dies := [(0, { serving := true, steps := r, cores := [(0, { tlb := [page 0x10000] })] })] }

theorem witness_StepReplayCache_probe : ∀ r ∈ [[], [(0, ({ n := 4, base := 0x10000, tb := 256, tags := [] } : StepRegion))]],
    let s := regionWorld r
    let f : Fields := { len := .w128, mod := 0x10, d := 8, a := 22, b := 6, c := 26, e := 24, f := 4 }
    let g : Fields := { len := .w128, mod := 0x20, d := 8, a := 22, b := 6, c := 26, e := 24 }
    mayIssue s env 0xDB f ∧ mayIssue s env 0xDB g
      ∧ (∀ r ∈ [f.a.toNat, f.b.toNat, f.c.toNat, f.e.toNat, f.f.toNat], env.poisonIn { reg := r } [env.low] = false)
      ∧ env.srcFails { reg := 4, tag := some 2 } = false ∧ (env.stepTiles s f 256).isSome = true
      ∧ (s.die 0).stepRegion 0 = r.head?.map (·.2) ∧ s.scratchPending who = false
      ∧ s.accessPending who .scratch ((List.range 256).map ((env.read s 24 env.low).toNat + ·)) = false
      ∧ (∀ slot ∈ [0, 1, 2, 3], s.xlate env.core 0 true (stepPages (0x10000 + 512 * slot) 512) = .ok)
      ∧ s.hasWrite who = false ∧ s.landings = [] := by
  intro r hr
  simp only [List.mem_cons, List.not_mem_nil, or_false] at hr
  rcases hr with rfl | rfl <;>
    exact ⟨mayIssue_of ⟨rfl, rfl⟩ (by decide +kernel), mayIssue_of ⟨rfl, rfl⟩ (by decide +kernel), by decide +kernel, by decide +kernel,
      by decide +kernel, by decide +kernel, by decide +kernel, by decide +kernel, by decide +kernel, by decide +kernel, by decide +kernel⟩

/-! ### Bins, collectives, groups, register blocks -/

/-- A machine whose context 0 has the node 3, served by the launch of the clutch. -/
def nodeWorld (n : Node) : State := { world with contexts := [(0, { active := true, nnodes := 8, nodes := [n] })] }

def openNode : Node := { num := 3, launch := 1, open_ := true, count := 10, words := 2 }

/-- NREC for node 3, and for node 4, which the context has not. -/
def nrec (k : Nat) : Fields := { len := .w96, mod := 1, d := 8, b := 26, imm := BitVec.ofNat 32 k }

theorem runs_node (n : Node) : runs (nodeWorld n) env := ⟨rfl, rfl⟩

theorem witness_NodeRecords : ∀ k ∈ [3, 4], ∀ n ∈ [openNode, { openNode with closed := true, open_ := false }, { openNode with open_ := false },
      { openNode with words := 5 }, { openNode with bins := [(0, { held := [env.tag] })] },
      { openNode with bins := [(0, { recs := List.replicate 63 { words := [0, 0], entered := 0 } })] }],
    WellFormed env.ranges (.nrec (nrec k)) = true ∧ mayIssue (nodeWorld n) env 0xE0 (nrec k) ∧ (nodeWorld n).drained env = true
      ∧ (∀ i, i < 2 → env.poisonIn { reg := 26 + i } (lanesIn env.mask) = false) ∧ noContention (nodeWorld n)
      ∧ env.cl.progress = .none := by
  intro k hk n hn
  have h : [3, 4].all (fun k => [openNode, { openNode with closed := true, open_ := false }, { openNode with open_ := false },
      { openNode with words := 5 }, { openNode with bins := [(0, { held := [env.tag] })] },
      { openNode with bins := [(0, { recs := List.replicate 63 { words := [0, 0], entered := 0 } })] }].all fun n =>
      WellFormed env.ranges (.nrec (nrec k)) && may (nodeWorld n) env 0xE0 (nrec k) && (nodeWorld n).drained env) = true := by decide +kernel
  have h := List.all_eq_true.mp (List.all_eq_true.mp h k hk) n hn
  simp only [Bool.and_eq_true] at h
  exact ⟨h.1.1, mayIssue_of (runs_node n) h.1.2, h.2, by decide +kernel, noContention_of (by rfl), rfl⟩

/-- What tells the cases of NREC apart. -/
theorem witness_NodeRecords_cases :
    (nodeWorld openNode).node? 0 4 = none
      ∧ (nodeWorld openNode).node? 0 3 = some openNode ∧ 3 < ((nodeWorld openNode).context 0).nnodes
      ∧ (nodeWorld openNode).nodeOn openNode 0 = true
      ∧ (nodeWorld { openNode with open_ := false }).nodeOn { openNode with open_ := false } 0 = false
      ∧ env.tag ∉ (openNode.bin 0).held ∧ (lanesIn env.mask).length = 3
      ∧ (nodeWorld openNode).binReady openNode 0 = false ∧ ((nodeWorld openNode).die 0).walks = [] := by decide +kernel

/-- A chorus whose scratchpad holds a collective's block at 0: all zero, or with a count of 1. -/
def collWorld (count : Nat) (g : Group) : State :=
  { groupWorld g with choruses := [{ chorus with scratch := if count = 0 then [] else [(24, BitVec.ofNat 8 count)] }] }
def collEnv (count : Nat) : Env := { env with ch := { chorus with scratch := if count = 0 then [] else [(24, BitVec.ofNat 8 count)] } }

theorem runs_coll (count : Nat) (g : Group) : runs (collWorld count g) (collEnv count) := ⟨rfl, rfl⟩

theorem witness_CollectivesAndGroups_coll : ∀ n ∈ [0, 1], ∀ g ∈ [({ valid := true, members := [1, 0] } : Group), {}],
    let s := collWorld n g
    let e := collEnv n
    let f : Fields := { d := 8, a := 24 }
    let addr := (e.read s 24 e.low).toNat
    let b := CollBlock.ofNumber (e.ch.number 0 128)
    mayRun s e 0xE1 f [24] ∧ s.drained e = true ∧ addr % 128 = 0 ∧ e.localKey 1 addr 128 = some 0
      ∧ e.localKey 1 b.report 64 = some 0 ∧ s.crucible.collsOpen.length < 64
      ∧ s.crucible.colls.find? (fun x => x.tag = e.tag && x.ctx = e.l.ctx) = none
      ∧ (s.allocFuture e.ch.die e.l.ctx .collective e.who.chorus).isSome = true ∧ s.crucible.groups.get {} (b.set % 4096) = g
      ∧ groupValid g 0 = g.valid ∧ b.valid 2 = decide (n = 1) := by
  intro n hn g hg
  have h : [0, 1].all (fun n => [({ valid := true, members := [1, 0] } : Group), {}].all fun g =>
      let s := collWorld n g
      let e := collEnv n
      let b := CollBlock.ofNumber (e.ch.number 0 128)
      may s e 0xE1 { d := 8, a := 24 } && ([24].all fun r => !e.poisonIn { reg := r } [e.low]) && s.drained e
        && decide ((e.read s 24 e.low).toNat = 0) && decide (e.localKey 1 0 128 = some 0)
        && decide (e.localKey 1 b.report 64 = some 0) && decide (s.crucible.collsOpen.length < 64)
        && decide (s.crucible.colls.find? (fun x => x.tag = e.tag && x.ctx = e.l.ctx) = none)
        && (s.allocFuture e.ch.die e.l.ctx .collective e.who.chorus).isSome && decide (s.crucible.groups.get {} (b.set % 4096) = g)
        && decide (groupValid g 0 = g.valid) && decide (b.valid 2 = decide (n = 1))) = true := by decide +kernel
  have h := List.all_eq_true.mp (List.all_eq_true.mp h n hn) g hg
  simp only [Bool.and_eq_true, decide_eq_true_eq] at h
  obtain ⟨⟨⟨⟨⟨⟨⟨⟨⟨⟨⟨h1, h2⟩, h3⟩, h4⟩, h5⟩, h6⟩, h7⟩, h8⟩, h9⟩, h10⟩, h11⟩, h12⟩ := h
  refine ⟨mayRun_of (runs_coll n g) (by simp only [Bool.and_eq_true]; exact ⟨h1, h2⟩), h3, ?_, ?_, h6, h7, h8, h9, h10, h11, h12⟩
  · simp only [h4]
  · simpa only [h4] using h5

/-- GRP.JOIN and GRP.LEAVE of set 3 of owner 0, and with a reserved bit set. -/
theorem witness_CollectivesAndGroups_groups : ∀ w ∈ [3, 2 ^ 29],
    let c : Clutch := { clutch with regs := clutch.regs.set [] 24 (lanesOf fun _ => BitVec.ofNat 32 w) }
    let s : State := { worldOf (fun _ => c) with crucible := { ready := true, srcKeys := [(0, { valid := true })] } }
    let e := envOf fun _ => c
    mayRun s e 0xE5 { d := 8, a := 24 } [24] ∧ (e.read s 24 e.low).toNat = w ∧ (s.srcKey e.l.ctx 0).valid = true := by
  intro w hw
  simp only [List.mem_cons, List.not_mem_nil, or_false] at hw
  rcases hw with rfl | rfl <;> exact ⟨mayRun_of ⟨rfl, rfl⟩ (by decide +kernel), by decide +kernel, by decide +kernel⟩

/-- REGSURR and REGCLAIM of 0 and of 2 blocks; a claim that its pool covers, and one that no clutch can cover any more. -/
theorem witness_RegisterBlocks_words : ∀ k ∈ [0, 2],
    mayIssue world env 0xE7 { len := .w96, d := 8, imm := k } ∧ mayIssue world env 0xE6 { len := .w96, d := 8, imm := k }
      ∧ env.cl.progress ≠ .claiming ∧ 8 * 2 + 8 ≤ env.cl.held ∧ (∀ r ∈ env.cl.empty, ¬ (64 - 8 * 2 ≤ r ∧ r < 64))
      ∧ env.cl.held + 8 * 2 ≤ 8 * ((256 - env.hdr.uniform) / 8) := by
  intro k hk
  simp only [List.mem_cons, List.not_mem_nil, or_false] at hk
  rcases hk with rfl | rfl <;>
    exact ⟨mayIssue_of runs_world (by decide +kernel), mayIssue_of runs_world (by decide +kernel), by decide +kernel⟩

def claiming (pool : Nat) : Chorus :=
  { chorus with clutches := [{ clutch with progress := .claiming }], claims := [{ pos := 0, clutch := 0, k := 2, dst := 8, bytes := 12 }]
                pools := if pool = 0 then [] else [(0, pool)] }

/-- Two claims of one core, the second of which a pool of two blocks covers, and both of which one of no blocks leaves waiting. -/
def twoClaims (pool : Nat) : Chorus :=
  { chorus with clutches := [{ clutch with progress := .claiming }, { clutch with id := 1, progress := .claiming }]
                claims := [{ pos := 0, clutch := 0, k := 3, dst := 8, bytes := 12 }, { pos := 0, clutch := 1, k := 2, dst := 8, bytes := 12 }]
                pools := if pool = 0 then [] else [(0, pool)] }

theorem witness_RegisterBlocks_claims : ∀ c ∈ [claiming 0, claiming 2, twoClaims 0, twoClaims 2],
    let s : State := { world with choruses := [c] }
    s.chorus? c.uid = some c ∧ s.launch? c.launch = some launch ∧ c.status = .resident ∧ (s.core (c.coreAt 0)).stopped = false
      ∧ (s.core (c.coreAt 0)).dlstop = false ∧ (c.claims.map (·.clutch)).Nodup
      ∧ (∀ x ∈ c.claims, (c.clutch? x.clutch).isSome = true)
      ∧ (if c.pools = [] then (∀ x ∈ c.claims, x.pos = 0 → c.pools.get 0 0 < x.k) else ∃ x ∈ c.claims, x.pos = 0 ∧ x.k ≤ c.pools.get 0 0)
      ∧ (∃ x ∈ c.clutches, x.pos = 0 ∧ x.ended = false)
      ∧ ∀ x ∈ c.clutches, x.pos = 0 → x.ended = false → x.progress = .claiming := by decide +kernel

/-! ### Events: cores, errors, translation -/

/-- Something holds of every entry of a store and of its default. -/
theorem all_get {α : Type} {p : α → Prop} {d : α} {m : Store α} (hd : p d) (h : ∀ x ∈ m, p x.2) (k : Nat) : p (m.get d k) := by
  induction m with
  | nil => exact hd
  | cons x xs ih =>
    simp only [Store.get]
    split
    · exact h x (by simp)
    · exact ih fun y hy => h y (by simp [hy])

/-- No core rests. -/
theorem awake_of {s : State} (h : (s.dies.all fun d => d.2.cores.all fun c => !c.2.resting) = true) :
    ∀ d k, ((s.die d).core k).resting = false := by
  intro d k
  refine all_get (p := fun (x : Die) => (x.core k).resting = false) (m := s.dies) rfl (fun x hx => ?_) d
  exact all_get (p := fun (c : Core) => c.resting = false) (m := x.2.cores) rfl
    (fun c hc => by simpa using List.all_eq_true.mp (List.all_eq_true.mp h x hx) c hc) k

/-- The core of the clutch stopped by BREAK, by the clutch or by HALT, at the time given. -/
def stopWorld (stopper : Option ClutchId) (now : Nat) : State := { world with
  now, dies := [(0, { serving := true, cores := [(0, { stopped := true, slot := 0, code := 2, stopper })] })] }

theorem witness_CoreStopsAndErrors_stops : ∀ stopper ∈ [none, some who], ∀ now ∈ [329999999, 330000000],
    let s := stopWorld stopper now
    let k := s.core core0
    k.stopped = true ∧ s.coreFrozen core0 = false ∧ (∀ l ∈ s.launches, l.hdr.volCount = 0)
      ∧ (∀ d ∈ s.choruses, d.deadlocked = []) ∧ k.step = false ∧ k.stopper = stopper
      ∧ s.env? who = some env ∧ k.code = 2 ∧ k.pcWritten = false ∧ env.l.report = none ∧ env.l.ending = none := by decide +kernel

theorem witness_CoreStopsAndErrors_errors : (world.core core0).stopped = false ∧ world.anyEnv? who = some env ∧ 26 < env.cl.held
    ∧ 15 < env.hdr.moments ∧ mapped (64 * 1024) 64 = true := by decide +kernel

theorem witness_CoreStopsAndErrors_launch : let l : Launch := { launch with ending := some .faulted }
    let s : State := { world with launches := [l] }
    s.launch? l.uid = some l ∧ (s.launches.map (·.uid)).Nodup ∧ l.stopped = false ∧ (s.context l.ctx).frozen = none
      ∧ ∀ c ∈ s.choruses, c.launch = l.uid → s.writesOpen c.uid = false := by decide +kernel

/-- Scratchpad sector 0 of core position 0, sector 3 of a row, and a sector of L1. -/
theorem witness_CoreStopsAndErrors_sectors :
    let x : L1Sector := { data := [1] }
    let s := world.modCore core0 (fun k => k.putL1 5 x)
    world.chorus? chorus.uid = some chorus ∧ world.launch? chorus.launch = some launch ∧ 0 < chorus.cores.length
      ∧ 64 * 0 < launch.hdr.scratch ∧ 3 < 8 ∧ 0 < launch.hdr.accRows ∧ (s.core core0).l1Sector? 5 = some x
      ∧ (s.core core0).l1Sector? 4 = none ∧ (world.die env.ch.die).walks = [] := by decide +kernel

/-- A store of 64 bytes clears the poison of its scratchpad sector, one of 63 bytes does not (R219). -/
theorem test_scratch_poison_cleared :
    let bytes (n : Nat) : Store Byte := (List.range n).map (fun i => (64 + i, (0 : Byte)))
    ((({ chorus with scratchPoison := [1] } : Chorus).writeScratch (bytes 64)).scratchPoison = [])
      ∧ (({ chorus with scratchPoison := [1] } : Chorus).writeScratch (bytes 63)).scratchPoison = [1] := by decide +kernel

/-- Page tables of context 0 at 0x4000: a page of 1 GiB at 0, and nothing else; its kind and key index stand in the top byte and
in bits 51:50 of the leaf. -/
def tables (top kind : Nat) : Memory :=
  let leaf : List Host.Cell := [(0x6000, (0x1D : Byte))] ++ (if kind = 0 then [] else [(0x6006, BitVec.ofNat 8 (4 * kind))])
    ++ (if top = 0 then [] else [(0x6007, BitVec.ofNat 8 top)])
  [(0x4000, 0x01), (0x4001, 0x50), (0x5000, 0x01), (0x5001, 0x60)] ++ leaf

def pagedContexts : Store Context := [(0, { active := true, ptroot := 0x4000 })]

/-- A walk for the page at 0x10000, and one for a page that the tables do not have. -/
def walkWorld (page : Nat) : State := { world with
  mem := tables 0 0, contexts := pagedContexts
  dies := [(0, { serving := true, walks := [{ ctx := 0, page, waiters := [(who, 0, page * 2 ^ 16)] }] })] }

theorem witness_TranslationEvents_walks :
    (walkWorld 1).walk 0 (1 * 2 ^ 16) = .page 0 (2 ^ 30) 0x1D ∧ ((walkWorld 1).die 0).tlbPend = [] ∧ (walkWorld 1).env? who = some env
      ∧ (walkWorld (2 ^ 14)).walk 0 (2 ^ 14 * 2 ^ 16) = .none ∧ (walkWorld (2 ^ 14)).env? who = some env
      ∧ ((walkWorld (2 ^ 14)).core env.core).stopped = false ∧ ((walkWorld (2 ^ 14)).die 0).missRecs.length < 64 := by decide +kernel

/-- Eight invalidations pending, the oldest of one page; none; and miss records. -/
theorem witness_TranslationEvents_invalidations :
    let full : State := { world with dies := [(0, { tlbPend := List.replicate 8 { scope := 2, ctx := 0, page := 1 }
                                                    missRecs := [{ ctx := 0, access := 1, slot := 2, coreid := 3, va := 4 }]
                                                    tlb := [page 0x10000, page 0] })] }
    (full.die 0).tlbPend.length = 8 ∧ (world.die 0).tlbPend.length < 8 ∧ (world.die 0).missRecs = [] ∧ (full.die 0).walks = []
      ∧ full.inFlight 0 { scope := 2, ctx := 0, page := 1 } = false := by decide +kernel

theorem witness_TranslationEvents_quiet : noContention { world with dies := [(0, { tlbPend := [{ scope := 0, ctx := 0, page := 0 }] })] } :=
  noContention_of (by rfl)

/-! ### Events: remote operations -/

/-- An element from device 0, and one from device 1. -/
def element : Element :=
  { srcDev := 0, srcDie := 0, dstDev := 1, keyidx := 0, key := 5, tag := 7, lane := 2, op := .add 4, data := 9, addr := 0x20000,
    pa := none, ctx := 0, arr := none, win := none, mcast := none }
def arriving_ : Element := { element with srcDev := 1, dstDev := 0 }
def request : ReadReq :=
  { id := 3, srcDev := 1, srcDie := 0, dstDev := 0, ctx := 0, keyidx := 0, key := 5, tag := 7, lane := 2,
    kind := .get 4 0x100 none, addr := 0x20000, pa := none }

/-- One instruction in the queue of the core, with the source key valid or not. -/
def queueWorld (valid : Bool) : State := { world with
  dies := [(0, { serving := true, cores := [(0, { queue := [{ who, launch := 1, elems := [element], reqs := [{
    req := { request with srcDev := 0, dstDev := 1 }, chorus := 2, launch := 1, deadline := 0, landing := none, mask := 0 }] }] })] })]
  crucible := { ready := true, srcKeys := [(0, { valid, key := 5 })], credits := [(256, 8)] } }

theorem witness_RemoteOperationsTravel_send : ∀ valid ∈ [true, false], let s := queueWorld valid
    (s.core core0).queue.length = 1 ∧ (∀ q ∈ (s.core core0).queue, q.ctx = some 0
        ∧ (∀ x ∈ q.elems, x.mcast = none ∧ (s.leaseFor { x with key := (s.srcKey 0 x.keyidx).key }).isNone ∧ s.credited x.dstDev x.keyidx = true)
        ∧ q.elems.length + q.reqs.length ≤ s.crucible.credits.get 0 256)
      ∧ (s.context 0).frozen = none ∧ (s.srcKey 0 0).valid = valid ∧ s.routed 1 = true := by decide +kernel

/-- One element alone whose device has lost its route. -/
theorem witness_RemoteOperationsTravel_unrouted :
    let q : Queued := { who, launch := 1, elems := [element], reqs := [] }
    let s : State := { (queueWorld true).modCore core0 (fun k => { k with queue := [q] }) with
      crucible := { (queueWorld true).crucible with routes := [(1, 2)] } }
    (s.core core0).queue = [q] ∧ s.routed element.dstDev = false ∧ s.launch? q.launch = some launch ∧ (s.context 0).frozen = none := by
  decide +kernel

/-- One element alone, without a credit, and one whose region is leased to this device. -/
theorem witness_RemoteOperationsTravel_waits :
    let q : Queued := { who, launch := 1, elems := [element], reqs := [] }
    let s : State := { (queueWorld true).modCore core0 (fun k => { k with queue := [q] }) with
      crucible := { (queueWorld true).crucible with credits := [], leases := [{ lease := { homeDev := 1, homeDie := 0, lessee := 0, region := 9, view := 2 }, granted := 0, lastMerge := 0 }] } }
    (s.core core0).queue = [q] ∧ s.credited 1 0 = false ∧ (s.leaseFor { element with addr := 0x30000 }).isNone ∧ (s.leaseFor element).isSome := by
  decide +kernel

def unsettled : Unsettled := { elem := element, chorus := 2, launch := 1, deadline := 100, notBefore := 50 }

/-- An element that has not settled, before it may be sent again, after that, and past its deadline. -/
theorem witness_RemoteOperationsTravel_unsettled : ∀ now ∈ [49, 50, 100], let s : State := { queueWorld true with
      now, crucible := { (queueWorld true).crucible with unsettled := [unsettled] } }
    (s.dueOf 0 7 2 1 (fun u => u.notBefore ≤ s.now) = if now = 49 then none else some unsettled) ∧ (s.context 0).frozen = none
      ∧ (s.srcKey 0 0).valid = true ∧ s.credited 1 0 = true ∧ s.launch? unsettled.launch = some launch
      ∧ (s.dueOf 0 7 2 1 (fun u => u.deadline ≤ s.now) = if now = 100 then some unsettled else none) ∧ s.crucible.asked = [] := by decide +kernel

/-- A home with a receive key, credits granted to device 1, and context 0's page of one kind and key index. -/
def homeWorld (key : DWord) (credit top : Nat) : State := { world with
  mem := tables top 0, contexts := pagedContexts, dies := [(0, { serving := true, filter := [{ tag := 8, keyidx := 0, win := false, lanes := 4 }] })]
  crucible := { ready := true, granted := if credit = 0 then [] else [(256, credit)]
                rcvKeys := [(0, { valid := true, ctx := 0, key, quota := 1 })] } }

theorem witness_RemoteOperationsTravel_home : fromPeer (homeWorld 5 4 0) arriving_.srcDev arriving_.dstDev
    ∧ ((homeWorld 4 4 0).rcvKey 0).accepts 5 = false ∧ ((homeWorld 5 4 0).rcvKey 0).accepts 5 = true
    ∧ (homeWorld 5 0 0).crucible.granted.get 0 256 = 0 ∧ (homeWorld 5 4 0).crucible.granted.get 0 256 ≠ 0
    ∧ (homeWorld 5 4 0).spot 0 (2 ^ 30) = .miss ∧ (homeWorld 5 4 0).spot 0 0x20000 = .page 0x20000 0 0
    ∧ ((homeWorld 5 4 0).bringHome 0 [0x20000]).any (fun b => b.knowsAt 0 0 8 2 && !b.knowsAt 0 0 7 2 && noContentionTest b
      && b.spot 0 0x20000 = .page 0x20000 0 0 && b.filterRoom 0 0 7) = true
    ∧ ((homeWorld 5 4 0).bringHome 0 [2 ^ 30]).any (fun b => b.spot 0 (2 ^ 30) = .miss) = true
    ∧ (homeWorld 5 4 0).poisoned = [] ∧ (homeWorld 5 4 0).creditLeft 1 0 = true ∧ (homeWorld 5 0 0).creditLeft 1 0 = false := by
  refine ⟨⟨rfl, ?_⟩, ?_⟩ <;> decide +kernel

/-- A home whose tracker is full waits. -/
theorem witness_RemoteOperationsTravel_full : let s := (homeWorld 5 4 0).modDie 0 (fun d => { d with
      walks := (List.range 1024).map (fun i => { ctx := 3, page := i, waiters := [] }) })
    s.bringHome 0 [0x20000] = none ∧ ((homeWorld 5 4 0).rcvKey 0).accepts 5 = true := by decide +kernel

theorem witness_RemoteOperationsTravel_quiet : noContention (homeWorld 5 4 0) := noContention_of (by rfl)

/-- Demand of device 1, within the tenant's share and beyond it. -/
theorem witness_RemoteOperationsTravel_pace : let s : State := { homeWorld 5 4 0 with crucible := { (homeWorld 5 4 0).crucible with demands := [(256, 1)] } }
    let p : Pace := { srcDev := 0, dstDev := 1, keyidx := 0, key := 0, units := 1 }
    p.srcDev = s.crucible.devnum ∧ p.dstDev ≠ s.crucible.devnum ∧ (s.rcvKey p.keyidx).valid = true ∧ p.units ≤ s.crucible.demands.get 0 256
      ∧ s.pacedNow 0 + p.units ≤ s.paceShare 0 ∧ s.crucible.demands.get 0 256 < 2 := by
  refine ⟨rfl, by decide, rfl, by decide, ?_, by decide⟩
  exact Nat.le_max_left 1 _

/-- Answers from device 1 to an element and to a window read, whose lane waits. -/
def askedRead : Asked :=
  { req := { request with srcDev := 0, dstDev := 1, kind := .window 4 { lid := 0, index := 0, epoch := 0, section_ := 0 } }, chorus := 2
    launch := 1, deadline := 0, landing := some 6, mask := 4, mode := 2 }
def waitingRead : Landing := { id := 6, who, dst := .ordinary 8 1, mask := 4, awaited := 4 }
def answerWorld (backoff : Nat) : State := { queueWorld true with
  landings := [waitingRead], crucible := { (queueWorld true).crucible with unsettled := [{ unsettled with backoff }], asked := [askedRead] } }

theorem witness_RemoteOperationsTravel_answers : ∀ b ∈ [0, 3300, 3300000], let s := answerWorld b
    fromPeer s 1 0 ∧ s.unsettledOf 0 7 2 1 none = some { unsettled with backoff := b } ∧ s.launch? 1 = some launch
      ∧ (s.context 0).frozen = none ∧ s.crucible.asked.find? (fun a => a.req.id = 3 && a.req.dstDev = 1) = some askedRead
      ∧ s.landings.find? (fun q => q.id = 6) = some waitingRead ∧ (loadWords 2 5).length = 1 ∧ s.anyEnv? who = some env := by
  unfold fromPeer; decide +kernel

theorem witness_RemoteOperationsTravel_reads : fromPeer (homeWorld 5 4 0) request.srcDev request.dstDev := by unfold fromPeer; decide +kernel

/-! ### Events: leases, the fabric -/

def lease : Lease := { homeDev := 0, homeDie := 0, lessee := 1, region := 2 }
def held : Lease := { homeDev := 1, homeDie := 0, lessee := 0, region := 2 }
def contention (count : Nat) (lease : Option Lease) : Contention := { region := 2, source := 1, count, kind := 0, lease, last := 0 }

theorem witness_LeasesAndFabric_home : ∀ x ∈ [contention 4096 none, contention 0 (some lease)],
    let s : State := { world with
      crucible := { world.crucible with rcvKeys := [(0, { valid := true })] }
      dies := [(0, { serving := true, contention := [x] })] }
    lease.homeDev = s.crucible.devnum ∧ lease.lessee ≠ s.crucible.devnum ∧ (s.die 0).contention = [x] ∧ x.region = lease.region
      ∧ x.source = lease.lessee ∧ homeOf (65536 * lease.region) = 0 ∧ 0x20008 / 65536 = lease.region ∧ fromPeer s lease.lessee lease.homeDev
      ∧ (s.rcvKey lease.keyidx).accepts lease.key = true := by
  unfold fromPeer; decide +kernel

/-- A lease held with nothing merged, before and after it has lasted its time, and sixteen of them. -/
def heldWorld (n now : Nat) (entries : List FilterEntry) : State := { world with
  now, crucible := { ready := true, rcvKeys := [(0, { valid := true, key := 0, prev := some 5 })], leases := List.replicate n { lease := held, granted := 0, lastMerge := 0, entries } } }

theorem witness_LeasesAndFabric_lessee : ∀ now ∈ [32999, 33000], ∀ entries ∈ [[], [({ tag := 7, keyidx := 0, win := false, lanes := 4 } : FilterEntry)]],
    let s := heldWorld 1 now entries
    fromPeer s held.homeDev held.lessee ∧ s.crucible.leases = [{ lease := held, granted := 0, lastMerge := 0, entries }]
      ∧ ({ lease := held, granted := 0, lastMerge := 0, entries } : HeldLease).knows { element with pa := some 0x20008 } = !entries.isEmpty
      ∧ (s.rcvKey held.keyidx).accepts held.key = true ∧ (s.rcvKey 0).accepts element.key = true ∧ (now < 33000 ↔ now = 32999)
      ∧ 16 ≤ (heldWorld 16 now entries).crucible.leases.length ∧ fromPeer (heldWorld 16 now entries) held.homeDev held.lessee
      ∧ ∀ h ∈ (heldWorld 16 now entries).crucible.leases, h.lease ≠ { held with region := 3 } := by
  unfold fromPeer; decide +kernel

theorem witness_LeasesAndFabric_release : let m : Msg := .release 0 0 0 7 5
    let s : State := { world with outbox := [m], crucible := { world.crucible with rcvKeys := [(0, { valid := true, key := 5 })] } }
    s.ownRelease 0 0 7 = some 5 ∧ (s.rcvKey 0).accepts 5 = true ∧ s.ownRelease 1 0 7 = none ∧ (s.rcvKey 0).valid = true
      ∧ (s.die 0).contention = [] := by decide +kernel

/-- World with every fabric port down since time 0. -/
def cutWorld : State := { world with
  now := 33000000, crucible := { world.crucible with portDownAt := (List.range 32).map fun p => (p, 1) } }

theorem witness_LeasesAndFabric_cutOff : cutWorld.cutOff 1 = true ∧ ({ cutWorld with now := 32999999 }).cutOff 1 = false
    ∧ 1 ∉ cutWorld.crucible.lostPeers ∧ cutWorld.crucible.colls = [] ∧ cutWorld.crucible.groups = []
    ∧ cutWorld.crucible.groupWork = [] ∧ ∀ l ∈ cutWorld.launches, 1 ∉ l.members := by decide +kernel

theorem witness_LeasesAndFabric_cutOffQuiet : noContention cutWorld := noContention_of (by rfl)

theorem witness_LeasesAndFabric_reports : (world.die 0).contention = []
    ∧ 1 ∉ world.crucible.lostPeers ∧ world.crucible.colls = []
    ∧ world.crucible.groups = [] ∧ world.crucible.groupWork = [] ∧ ∀ l ∈ world.launches, 1 ∉ l.members := by decide +kernel

theorem witness_LeasesAndFabric_quiet : noContention world := noContention_of (by rfl)

/-! ### Events: linked placement -/

def linked : Launch := { launch with linked := true, lid := 6, members := [0, 1], hdr := { hdr with sections := 2 } }

/-- The coordinator with one index under way. -/
def linkWorld (k : LinkRec) (now : Nat) : State := { world with
  launches := [{ linked with links := [k] }], choruses := [], now
  crucible := { world.crucible with rcvKeys := [(0, { valid := true })] } }

/-- What device 1 says of its section. -/
def place : Place := { srcDev := 1, dstDev := 0, lid := 6, index := 0, epoch := 0, section_ := 1, attempt := 1 }

theorem witness_LinkedPlacement_coordinator :
    ∀ k ∈ [({ index := 0, attempt := 1, asking := true } : LinkRec), { index := 0, attempt := 1, asking := true, answered := [0] },
      { index := 0, attempt := 1, refuser := some 1 }], ∀ now ∈ [0, 330000, 3300000],
    let l : Launch := { linked with links := [k] }
    let s := linkWorld k now
    s.launch? l.uid = some l ∧ l.section_ = 0 ∧ l.ending = none ∧ k.index = place.index ∧ fromPeer s place.srcDev place.dstDev
      ∧ (s.rcvKey place.keyidx).accepts place.key = true ∧ s.linkedLaunch place = some l ∧ l.members.getD place.section_ 512 = place.srcDev ∧ (s.context l.ctx).places = true
      ∧ k.committed = false := by
  unfold fromPeer; decide +kernel

/-- Section 1 of a launch that device 1 coordinates, on device 0. -/
def section1 : Launch := { linked with section_ := 1, members := [1, 0], variants := [(0, { entry := 0x400, cores := 1 })] }

/-- A die that holds its first cluster for context 0, with power to place. -/
def placing : Store Die := [(0, { serving := true, pwrbud := 100, holders := [(0, { ctx := some 0 })] })]

def sectionChorus (status : Residency) : Chorus := { chorus with section_ := 1, status, attempt := 1 }

def sectionWorld (status : Option Residency) : State := { world with
  crucible := { world.crucible with rcvKeys := [(0, { valid := true })] }
  launches := [section1]
  choruses := match status with
    | some x => [sectionChorus x]
    | none => []
  contexts := [(0, { active := true, clusters := 1 })], dies := placing }

theorem witness_LinkedPlacement_reserve :
    let s := sectionWorld none
    let p : Place := { place with hdr := section1.hdr.fields, members := [1, 0] }
    fromPeer s p.srcDev p.dstDev ∧ (s.rcvKey p.keyidx).accepts p.key = true ∧ s.reservedLaunch p = some section1 ∧ s.launch? section1.uid = some section1 ∧ section1.members = p.members
      ∧ s.sectionOf section1 p.index = none ∧ section1.waits.get 0 p.index = 0
      ∧ ((s.passAll.modLaunch 1 fun l => { l with waits := l.waits.set 0 p.index (1 + s.now) }).sectionRoom section1
          { uid := s.fresh, launch := 1, index := p.index, section_ := 1, die := 0 } 0).isSome = true
      ∧ s.asleep = false ∧ s.chorus? s.fresh = none ∧ s.reservedLaunch { p with section_ := 0 } = none := by
  unfold fromPeer; decide +kernel

theorem witness_LinkedPlacement_noroom :
    let s : State := { sectionWorld none with dies := [] }
    let p : Place := { place with hdr := section1.hdr.fields, members := [1, 0] }
    fromPeer s p.srcDev p.dstDev ∧ (s.rcvKey p.keyidx).accepts p.key = true ∧ s.reservedLaunch p = some section1 ∧ s.launch? section1.uid = some section1 ∧ section1.members = p.members
      ∧ s.sectionOf section1 p.index = none ∧ section1.waits.get 0 p.index = 0
      ∧ ((s.passAll.modLaunch 1 fun l => { l with waits := l.waits.set 0 p.index (1 + s.now) }).sectionRoom section1
          { uid := s.fresh, launch := 1, index := p.index, section_ := 1, die := 0 } 0).isNone = true := by
  unfold fromPeer; decide +kernel

theorem witness_LinkedPlacement_reserve_awake : ∀ d k, (((sectionWorld none).die d).core k).resting = false := awake_of (by rfl)

theorem witness_LinkedPlacement_members : ∀ x ∈ [Residency.reserved, .resident], let s := sectionWorld (some x)
    s.reservedLaunch place = some section1 ∧ s.launch? section1.uid = some section1 ∧ s.sectionOf section1 place.index = some (sectionChorus x)
      ∧ s.chorus? (sectionChorus x).uid = some (sectionChorus x) ∧ (sectionChorus x).attempt = place.attempt ∧ s.windowHeld = []
      ∧ section1.epochs.get 0 place.index = 0 ∧ s.linkedLaunch place = some section1 ∧ (sectionChorus x).epoch = place.epoch
      ∧ section1.section_ ≠ 0 ∧ place.srcDev = section1.coordinator ∧ (s.context section1.ctx).deactivating = false := by decide +kernel

/-! ### Events: groups and collectives -/

def ownSet : GroupReq := { fromDev := 0, owner := 0, set := 3, keyidx := 0, key := 5, leave := false, ctx := 0 }

/-- A context with the key 5 both ways, a request of its own in the outbox, and an entry of set 3 under a key index. -/
def setWorld (g : Group) : State := { world with
  outbox := [.groupReq ownSet]
  crucible := { ready := true, srcKeys := [(0, { valid := true, key := 5 })], rcvKeys := [(0, { valid := true, ctx := 0, key := 5 })]
                groups := if g.valid then [(3, g)] else [] } }

theorem witness_GroupsAndCollectiveSteps_groups : ∀ g ∈ [({} : Group), { valid := true, keyidx := 0, owner := 1, members := [1] },
      { valid := true, keyidx := 4, owner := 1, members := [1] }], let s := setWorld g
    ownSet.fromDev = s.crucible.devnum ∧ Msg.groupReq ownSet ∈ s.outbox ∧ (s.rcvKey 0).accepts 5 = true
      ∧ (∀ w ∈ s.crucible.groupWork, w.set ≠ 3) ∧ s.group 3 = g ∧ fromPeer s 1 0 := by
  unfold fromPeer; decide +kernel

/-- A GRP that waits for its answer, before and at 10 ms. -/
theorem witness_GroupsAndCollectiveSteps_timeout : ∀ now ∈ [32999999, 33000000],
    let p : Landing := { id := 6, who, dst := .ordinary 8 1, mask := 7, awaited := 7 }
    let s : State := { world with now, landings := [p], crucible := { ready := true, groupAsks := [{ req := { ownSet with owner := 1 }, landing := 6, since := 0 }] } }
    (∀ w ∈ s.crucible.groupWork, w.set ≠ 3) ∧ s.landings.find? (fun q => q.id = 6) = some p ∧ p.awaited = p.mask
      ∧ s.anyEnv? who = some env := by decide +kernel

def collective : Collective := {
  die := 0, future := 1, who, launch := 1, ctx := 0, set := 3, gen := 0, keyidx := 0, seq := 0, tag := 7, members := [0, 1, 2], rank := 0
  params := { op := 1, rop := 0, dtype := 0, count := 1, root := 0, lw := 0 }
  src := 0x10000, dst := 0x10100, report := 0, pc := 0x1000, lanes := 7 }

def contribution : CollStep := { fromDev := 1, toDev := 0, keyidx := 0, key := 5, set := 3, seq := 0, body := .contribution 0 collective.params [4] }

theorem witness_GroupsAndCollectiveSteps_steps :
    let s : State := { setWorld {} with
      dies := [(0, { serving := true, futures := [(1, { state := .pending, owner := 2, kind := .collective })] })]
      crucible := { (setWorld {}).crucible with colls := [collective], lostPeers := [1] } }
    fromPeer s 1 0 ∧ (s.rcvKey 0).accepts 5 = true ∧ s.collOf 3 0 1 = some (collective, 1) ∧ (s.context 0).frozen = none
      ∧ (∀ x ∈ collective.got, x.1 ≠ 1) ∧ collective.got.length + 1 < collective.members.length ∧ 1 ∈ s.crucible.lostPeers
      ∧ collective.lost = [] ∧ collective.others = [] ∧ (∀ x ∈ collective.members.zipIdx, x.1 ∈ s.crucible.lostPeers → x.2 = 1)
      ∧ collective.begun = none ∧ (futureAt s 0 1).state = .pending ∧ (futureAt s 0 1).waiters = []
      ∧ (futureAt s 0 1).orphan = false := by
  unfold fromPeer; decide +kernel

/-! ### Events: launches -/

/-- A launch whose kernel may take core 0, with its first index granted; a machine in which that fits. -/
def ready : Launch := { launch with next := 4, variants := [(0, { entry := 0x400, cores := 1 })], grants := [{ die := 0, index := 3, since := 0 }] }
def readyWorld : State := { world with launches := [ready], choruses := [], contexts := [(0, { active := true, clusters := 1 })], dies := placing }

theorem witness_LaunchesAndPlacement_grants : ∀ n ∈ [3, 32], world.launch? launch.uid = some launch ∧ launch.node = none ∧ launch.linked = false
    ∧ launch.ending = none ∧ 0 ∈ launch.dies ∧ world.dieLive 0 = true ∧ (world.context 0).active = true ∧ (world.context 0).frozen = none
    ∧ (world.context 0).deactivating = false ∧ n ≤ 32 ∧ launch.grants.countP (fun g => g.die = 0) < 8 ∧ launch.links = [] := by decide +kernel

/-- The same launch with indices of a lost die to grant again, and none left. -/
theorem witness_LaunchesAndPlacement_grantsAgain :
    let l : Launch := { launch with next := 8, again := [(5, none), (7, some 9)] }
    let s : State := { world with launches := [l] }
    s.launch? l.uid = some l ∧ l.node = none ∧ l.linked = false ∧ l.ending = none ∧ 0 ∈ l.dies ∧ s.dieLive 0 = true
      ∧ (s.context 0).active = true ∧ (s.context 0).frozen = none ∧ (s.context 0).deactivating = false
      ∧ l.grants.countP (fun g => g.die = 0) < 8 ∧ l.links = [] ∧ l.total ≤ 2 ^ 24 ∧ l.again ≠ [] := by decide +kernel

/-- The cycle before a heartbeat is due, and the cycle that it is due in. -/
theorem witness_LaunchesAndPlacement_heartbeat : ∀ now ∈ [32999, 33000],
    let s : State := { world with now, dies := [(0, { serving := true }), (1, { serving := true, lost := true })] }
    (now < s.crucible.beatAt + 33000 ↔ now = 32999) ∧ (s.die 0).serving = true ∧ (s.die 0).lost = false
      ∧ (s.die 1).lost = true ∧ (s.die 2).serving = false := by decide +kernel

theorem witness_LaunchesAndPlacement_dieLost :
    let s : State := { world with
      launches := [{ launch with hdr := { hdr with restartable := false } }], dies := [(0, { serving := true, missed := 4 }), (1, { serving := true, missed := 3 })] }
    4 ≤ (s.die 0).missed ∧ (s.die 1).missed < 4 ∧ (s.die 0).serving = true ∧ (s.die 0).lost = false ∧ (s.launches.map (·.uid)).Nodup
      ∧ ∀ l ∈ s.launches, l.ending = none ∧ l.report = none ∧ 0 ∈ l.dies ∧ l.hdr.restartable = false := by decide +kernel

/-- Queue 3 with one record of zeros, which fails check 1. -/
def recordWorld (enabled : Bool) : State := { world with
  crucible := { ready := true, qtbase := 0x1000, queues := [(3, { ring := 0x8000, enabled, head := 15, tail := 0 })] } }

theorem witness_LaunchesAndPlacement_queues : ∀ enabled ∈ [true, false], let s := recordWorld enabled
    s.crucible.ready = true ∧ (s.queue 3).head ≠ (s.queue 3).tail ∧ (s.queue 3).enabled = enabled ∧ 15 < 2 ^ (s.queue 3).logsize
      ∧ 2 ^ (s.queue 3).logsize ≤ 16 ∧ s.mayTakeRecord 3 = enabled ∧ s.servedFirst 3 = true
      ∧ launchRecordOk (s.number ((s.queue 3).ring + 128 * (s.queue 3).head) 128) = false
      ∧ (s.die ((s.participating (s.context (s.queue 3).ctx)).headD 0)).walks = [] := by decide +kernel

theorem witness_LaunchesAndPlacement_queues_quiet : ∀ enabled, noContention (recordWorld enabled) := fun _ => noContention_of (by rfl)

theorem witness_LaunchesAndPlacement_placement :
    let t := ((readyWorld.ageAll 0).starveAll 0).passClusters 0
    readyWorld.crucible.ready = true ∧ readyWorld.dieLive 0 = true ∧ (t.firstFitting 0 48).isSome = true ∧ readyWorld.asleep = false
      ∧ (∀ x ∈ (t.firstFitting 0 48).toList, x.2.1.status ≠ .saved ∧ x.2.1.die = 0 ∧ 8 ≤ x.1.hdr.regs ∧ x.1.hdr.regs + x.1.hdr.uniform ≤ 256) := by
  decide +kernel

theorem witness_LaunchesAndPlacement_awake : ∀ d k, ((readyWorld.die d).core k).resting = false := awake_of (by rfl)

/-- A chorus whose clutch has ended; a bin with as many records as it waits for; a launch that has ended. -/
theorem witness_LaunchesAndPlacement_endings :
    let c : Chorus := { chorus with clutches := [{ clutch with ended := true }] }
    let s : State := { world with choruses := [c] }
    let n : Node := { openNode with bins := [(0, { recs := List.replicate 10 { words := [1, 2], entered := 0 }, released := 1 })] }
    let l : Launch := { launch with ending := some .badHeader, stopped := true, statusVa := 0x100 }
    let t : State := { world with launches := [l], choruses := [] }
    s.chorus? c.uid = some c ∧ s.launch? launch.uid = some launch ∧ c.launch = launch.uid ∧ s.mayRetire launch c = true ∧ launch.linked = false
      ∧ launch.node = none ∧ (s.context 0).deactivating = false
      ∧ (nodeWorld n).node? 0 3 = some n ∧ (nodeWorld n).binReady n 0 = true ∧ (n.bin 0).recs.length ≤ n.count
      ∧ t.launch? l.uid = some l ∧ t.endOf l = some .badHeader ∧ l.doneVa = 0
      ∧ t.engineSpan l.leader l.ctx l.statusVa 128 = some ((List.range 128).map (0x100 + ·)) ∧ ((List.range 128).map (0x100 + ·)).Nodup
      ∧ t.bringSpans l.leader l.ctx [(l.statusVa, 128), (l.doneVa, 0)] = some t := by
  decide +kernel

/-! ### Events: contexts -/

/-- Context 5 inactive, with a descriptor that is refused, one that is accepted, and one that lists a cluster which four other
contexts list. -/
def contextWorld (bytes : Memory) : State := { world with
  mem := bytes, contexts := (List.range 4).map fun n => (n, { active := true, clusters := 1 }) }

theorem witness_PreemptionAndContexts_inactive :
    ∀ x ∈ [(([] : Memory), false, false), ([(334, 1)], true, false), ([(328, 1), (334, 1)], true, true)],
    let s := contextWorld x.1
    let w := s.number (s.crucible.ctxbase.toNat / 64 * 64 + 64 * 5) 64
    s.crucible.ready = true ∧ s.crucible.ctxBusy = none ∧ (s.context 5).frozen = none ∧ (s.context 5).active = false
      ∧ descriptorOk w = x.2.1 ∧ s.overShared 5 (recField w 8 6) = x.2.2 ∧ nodeCount (s.crucible.ntbase.get 0 5) = 0 := by decide +kernel

/-- Context 0 active, with its chorus resident and without. -/
theorem witness_PreemptionAndContexts_active : ∀ resident ∈ [true, false],
    let s : State := if resident then world else { world with choruses := [], launches := [] }
    (s.context 0).active = true ∧ (s.context 0).deactivating = false ∧ s.anyResident 0 = resident ∧ s.crucible.groups = []
      ∧ (if resident then s.runningOf 0 = [2] ∧ s.chorus? 2 = some chorus ∧ chorus.status = .resident ∧ s.launch? chorus.launch = some launch
          ∧ launch.hdr.restartable = true ∧ launch.ending = none ∧ launch.linked = false else ∀ l ∈ s.launches, l.ctx ≠ 0) := by decide +kernel

/-- Context 0 holds cluster 0 with a quantum of 1 µs, and context 1 has a chorus that waits for it. -/
def sharedWorld (now : Nat) : State := { world with
  now
  launches := [launch, { ready with uid := 7, ctx := 1 }]
  contexts := [(0, { active := true, clusters := 1, quantum := 1 }), (1, { active := true, clusters := 1 })]
  dies := [(0, { serving := true, pwrbud := 100, holders := [(0, { ctx := some 0, since := some 0 })] })] }

theorem witness_PreemptionAndContexts_quantum : ∀ now ∈ [3299, 3300], let s := sharedWorld now
    (s.holder 0 0).ctx = some 0 ∧ (s.holder 0 0).since = some 0 ∧ (s.context 0).active = true ∧ (s.context 0).frozen = none
      ∧ (s.context 0).quantum = 1 ∧ (s.context 0).draining 0 = false ∧ (s.listing 0 0).any (fun m => m ≠ 0 && s.wants m 0 0) = true
      ∧ s.residentOn 0 0 0 = true := by decide +kernel

/-- Context 0 drains with a save area that is just large enough; the grace is 1 µs. -/
def drainWorld (now : Nat) : State := { world with
  now, contexts := [(0, { active := true, drain := 1, drains := [(0, none)], saveSize := launch.hdr.saveBytes })] }

theorem witness_PreemptionAndContexts_drain : ∀ now ∈ [3299, 3300], let s := drainWorld now
    (s.context 0).drains = [(0, none)] ∧ (s.context 0).frozen = none ∧ (s.context 0).drain = 1 ∧ (s.context 0).deactivating = false
      ∧ s.runningOf 0 = [2] ∧ s.chorus? 2 = some chorus ∧ s.launch? 1 = some launch ∧ s.besideSection chorus = false
      ∧ s.stoppedCore chorus = false ∧ s.quietFor chorus = true ∧ s.copies = [] ∧ (∀ k ∈ chorus.clutches, k.poison = [] ∧ k.mpoison = [])
      ∧ chorus.scratchPoison = [] ∧ chorus.accPoison = [] ∧ noContentionTest s = true := by
  decide +kernel

theorem witness_PreemptionAndContexts_room : ((drainWorld 0).context 0).hasRoom launch.hdr = true
    ∧ ((drainWorld 0).savePlace launch).isSome = true := by
  constructor
  · simp [drainWorld, State.context, Store.get, Context.hasRoom]
  · simp [State.savePlace, drainWorld, State.context, Store.get, launch, world, chorus, firstFit]

/-! ### Events: readiness, the host -/

/-- A machine that has been idle since 0, at a readiness level, with the tolerance given. -/
def idleWorld (now level : Nat) (lattol : Word) (wakeAt : Option Nat) : State := { world with
  now, launches := [], choruses := [], crucible := { ready := true, lattol, level, wakeAt, heldLattol := some 3, heldEvents := [.heartbeat] }
  dies := [(0, { serving := true, cores := (List.range 48).map fun k => (k, { resting := true }) })] }

theorem witness_ReadinessAndHost_cores : ∀ now ∈ [32999, 33000],
    let s : State := { idleWorld now 0 2 none with dies := [(0, { serving := true })] }
    s.dieLive 0 = true ∧ s.coreIdle core0 = true ∧ 2 ≤ s.crucible.lattol.toNat ∧ s.crucible.wakeAt = none
      ∧ ((s.core core0).idleSince + 33000 ≤ s.now ↔ now = 33000) := by decide +kernel

theorem witness_ReadinessAndHost_levels : ∀ x ∈ [(3299999, 200), (3300000, 200), (33000000, 5000)], let s := idleWorld x.1 0 (BitVec.ofNat 32 x.2) none
    s.crucible.ready = true ∧ s.deviceIdle = true ∧ s.crucible.lattol.toNat = x.2 ∧ s.crucible.level < 2 ∧ s.crucible.wakeAt = none
      ∧ s.idleFrom = 0 := by decide +kernel

theorem witness_ReadinessAndHost_wake : ∀ level ∈ [2, 3], ∀ wakeAt ∈ [none, some 660000], ∀ now ∈ [659999, 660000],
    let s := idleWorld now level 200 wakeAt
    s.crucible.wakeAt = wakeAt ∧ s.crucible.level ∈ [2, 3] ∧ (660000 ≤ s.now ↔ now = 660000) := by decide +kernel

theorem witness_ReadinessAndHost_resting :
    let s : State := { idleWorld 5 0 2 none with dies := [(0, { serving := true, cores := [(0, { resting := true })] })] }
    s.crucible.wakeAt = none ∧ s.asleep = false ∧ s.coresRest = true := by decide +kernel

theorem witness_ReadinessAndHost_awake : world.asleep = false ∧ world.coresRest = false ∧ world.crucible.ready = true
    ∧ world.crucible.wakeAt = none := by decide +kernel

/-- A register that port 1 has written in this cycle, and one cycle later. -/
theorem witness_ReadinessAndHost_ports : ∀ now ∈ [100, 101],
    let s : State := { world with now, crucible := { ready := true, portOne := (101, [(.crucible, 0x10)]) } }
    (now = 100 → s.crucible.portOne = (s.now + 1, [(.crucible, 0x10)])) ∧ (now = 101 → s.portOneWrote = [])
      ∧ s.portBusy 0 = false ∧ s.portBusy 1 = false := by decide +kernel

/-- The last byte of memory of a die, and the first beyond it. -/
theorem witness_ReadinessAndHost_host : mapped (2 ^ 36 - 1) 1 = true ∧ mapped (2 ^ 36 - 1) 2 = false ∧ mapped 0x10000 64 = true
    ∧ 0x10000 / 64 = (0x10000 + 64 - 1) / 64 ∧ world.poisoned = [] := by decide +kernel

/-! ### Events: the controller -/

/-- A command, and its argument block at 0x40. -/
def commandWorld (op : Nat) (block : Memory) : State := { world with
  mem := block, crucible := { ready := true, rfcmd := BitVec.ofNat 32 (2 ^ 31 + op), rfRun := some op, rfarg := 0x40 } }

/-- The blocks of the eight commands. -/
def commandBlocks : List (Nat × List Nat × Memory) := [
  (1, [0, 1, 2] ++ byteSpan 8 8, [(0x40, 15), (0x42, 1), (0x48, 5)]),
  (2, [0, 1, 2, 4, 5] ++ byteSpan 8 8, [(0x40, 3), (0x41, 1), (0x42, 15), (0x45, 15), (0x48, 5)]),
  (3, 0 :: byteSpan 4 4, [(0x44, 100)]),
  (4, [0, 1], []),
  (5, byteSpan 0 8, [(0x41, 1)]),
  (6, byteSpan 0 12, [(0x41, 1), (0x48, 2)]),
  (7, byteSpan 0 16, [(0x41, 1), (0x48, 64)]),
  (8, byteSpan 0 40, [(0x40, 9), (0x61, 1)])]

theorem witness_RifoldController_commands : ∀ x ∈ commandBlocks, let s := commandWorld x.1 x.2.2
    commanded s x.1 x.2.1 (s.number 0x40 64) := by
  intro x hx
  have h : commandBlocks.all (fun x => let s := commandWorld x.1 x.2.2
      decide (s.crucible.rfcmd = BitVec.ofNat 32 (2 ^ 31 + x.1)) && decide (s.crucible.rfRun = some x.1) && mapped 0x40 64
        && (List.range 64).all fun i => x.2.1.contains i || decide (recField (s.number 0x40 64) i 1 = 0)) = true := by decide +kernel
  have h := List.all_eq_true.mp h x hx
  simp only [Bool.and_eq_true, decide_eq_true_eq] at h
  have hr : (commandWorld x.1 x.2.2).crucible.rfarg.toNat / 64 * 64 = 0x40 := by simp only [commandWorld]; decide
  unfold commanded
  simp only [hr]
  refine ⟨h.1.1.1, h.1.1.2, h.1.2, trivial, fun i hi hn => ?_⟩
  have := List.all_eq_true.mp h.2 i (List.mem_range.mpr hi)
  simpa [hn] using this

/-- What the commands' arguments must meet, and a previous key that has lasted its time. -/
theorem witness_RifoldController_arguments :
    0 ≤ ((commandWorld 3 [(0x44, 100)]).modDie 0 fun d => { d with pwrbud := 100 }).headroom 0 ∧ mapped 0x100 256 = true
      ∧ mapped 0x100 (32 * 3) = true ∧ mapped 0x100 4096 = true
      ∧ (let s : State := { world with contexts := [(0, { active := true, frozen := some 0x40 })] }
        (s.context 0).frozen.isSome = true ∧ (s.context 0).deactivating = false) := by decide +kernel

theorem witness_RifoldController_expiry : ∀ now ∈ [32999999, 33000000],
    let s : State := { world with now, crucible := { ready := true, rcvKeys := [(3, { valid := true, key := 5, prev := some 4, changed := 0 })] } }
    (s.rcvKey 3).prev.isSome = true ∧ ((s.rcvKey 3).changed + 33000000 ≤ s.now ↔ now = 33000000) := by decide +kernel

/-! ### Assembly -/

/-- The kernel `scale2` of chapter 03: header bytes 6 to 13, NVAR, the words and the variant's CORES. -/
def scale2 : List Byte :=
  imageOf { clutches := 4, regs := 16, uniform := 4 }
    [{ code := [.word (encode (.fmul { len := .w96, d := 1, a := 0, tg := 2,
                                       imm := (immediate (.float fp32) (.decimal false 2 0)).getD 0 })),
                .word (encode (.exit {}))] }] []

theorem test_scale2 : (scale2.drop 6).take 8 = [0x00, 0x04, 0x10, 0x04, 0, 0, 0, 0] ∧ scale2.getD 23 0 = 1
    ∧ (scale2.drop 80).take 6 = [0xFF, 0xFF, 0xFF, 0xFF, 0xFF, 0xFF] ∧ scale2.length = 116
    ∧ (scale2.drop 104).take 4 = [0x00, 0x00, 0x00, 0x40] := by decide +kernel

/-- R79's examples: 0.5 is an FP64 immediate and 0.1 is not; IADD.i8 with 1 has IMM 0x01010101. -/
theorem test_immediates : immediate .double (.decimal false 5 (-1)) = some 0x3F000000
    ∧ immediate .double (.decimal false 1 (-1)) = none ∧ immediate (.int 6) (.decimal false 1 0) = some 0x01010101
    ∧ immediate (.int 1) (.decimal true 1 0) = none ∧ immediate (.packed fp16) (.decimal false 1 0) = some 0x3C003C00 := by
  decide +kernel

/-- R81's example: `.align 8` at offset 4 moves to offset 16, and one 12-byte filler word fills the gap. -/
theorem test_align : alignPlace 8 4 = 16 ∧ fillTo false 16 2 4 = filler12 false ∧ wordPlace 12 24 = 32 ∧ wordPlace 8 20 = 32 := by
  decide +kernel

end Sys2Proof.Tests
end

section
/-! SUPPORT. A step does not always run the event whose turn it is. -/

namespace Sys2Proof.Machine

/-- A started BUDGET, with an argument block outside the mapped ranges, at its turn in a
cycle in which die 0 has already made a placement. -/
def budgetAfterPlacement : State :=
  { crucible := { rfRun := some 3, rfarg := 0x20000000000 }, dies := [(0, { placedAt := 1 })], agenda := [.event .budget] }

/-- The command waits for the next cycle (R430). -/
theorem step_budgetAfterPlacement :
    step budgetAfterPlacement = .next { budgetAfterPlacement with agenda := [] } := rfl

/-- Run by itself, the command would end: its argument block is bad (R438). -/
theorem exec_budgetAfterPlacement :
    exec .budget { budgetAfterPlacement with agenda := [] }
      = .next (({ budgetAfterPlacement with agenda := [] } : State).rifoldDone .badArg) := rfl

end Sys2Proof.Machine

open Sys2Proof Sys2Proof.Machine Sys2Proof.Safety Sys2Proof.Claims

/-- Refutes O4: its clause on events does not except a BUDGET in a cycle that has placed a chorus, which waits for the
next cycle (R430). -/
theorem not_stepRunsTheWord : ¬ Obligations.StepRunsTheWord := by
  unfold Obligations.StepRunsTheWord
  rintro ⟨-, -, event⟩
  have ran := event budgetAfterPlacement .budget [] _ rfl (by decide) rfl exec_budgetAfterPlacement (by decide)
  rw [step_budgetAfterPlacement] at ran
  injection ran with same
  exact absurd (congrArg (fun t => t.crucible.rfRun) same) (by decide)
end

section
/-! SUPPORT. What a word meets before it issues. -/

namespace Sys2Proof.Machine

open Sys2Proof.Safety Sys2Proof.Claims

/-! ### An all-zero mask -/

section
variable {s : State} {e : Env} (hr : runs s e) (hm : e.mask = 0)
include hr hm

/-- An all-zero mask passes a word over, whatever further registers it reads (R15). -/
theorem issueWith_zero (op : Nat) (f : Fields) (more : Env → List Named) (k : Env → Out) :
    issueWith op f more s k = passOver s e f.len.bytes := by
  unfold issueWith
  rw [withClutch_eq s e _ hr.1 hr.2, if_pos hm]

theorem runAlu_zero (op : Nat) (f : Fields) (mk : State → Env → Alu) : runAlu op f mk s = passOver s e f.len.bytes :=
  issue_zero op f s e _ hr hm

theorem runMoment_zero (op : Nat) (f : Fields) (usesRho : Bool) (srcTag : Option Nat) (tag : Env → Nat) (dst : MDst)
    (srcs : List Src) (g : State → Env → Nat → MOut) :
    runMoment op f usesRho srcTag tag dst srcs g s = passOver s e f.len.bytes := by
  unfold runMoment
  rw [withClutch_eq s e _ hr.1 hr.2, if_neg (fun h => h.1 hm)]
  exact issueWith_zero hr hm ..

/-- A control word is passed over too, unless it acts on a path that is not empty (R181). -/
theorem control_zero (op : Nat) (f : Fields) (pathLevel : Bool) (k : Env → Out) (hp : pathLevel = true → e.cl.path = 0) :
    control op f pathLevel s k = passOver s e f.len.bytes := by
  unfold control
  rw [withClutch_eq s e _ hr.1 hr.2, if_pos ⟨hm, by cases pathLevel <;> simp_all⟩]

theorem execTrap_zero (f : Fields) : execTrap f s = passOver s e 12 := by
  unfold execTrap
  rw [withClutch_eq s e _ hr.1 hr.2]
  exact if_pos hm

theorem execRdcr_zero (f : Fields) : execRdcr f s = passOver s e f.len.bytes := by
  unfold execRdcr
  rw [withClutch_eq s e _ hr.1 hr.2, if_neg (fun h => h.1 hm)]
  exact runAlu_zero hr hm ..

end

/-- A word that is no reserved encoding has a length that its opcode accepts (R72, R74). -/
theorem lengthOk_of_validOp {r : Ranges} {op : Nat} {f : Fields} {x : Shape} (hx : shape op f = some x)
    (h : validOp r op f = true) : x.lengthOk f = true := by
  simp only [validOp, causeOf, hx, Bool.and_eq_true] at h
  by_contra hl
  simp only [Bool.not_eq_true] at hl
  simp only [hl] at h
  split at h
  · simp_all
  · split at h <;> simp_all

/-- TRAP has 96 bits (R180). -/
theorem trap_bytes {r : Ranges} {f : Fields} (h : WellFormed r (.trap f) = true) : f.len.bytes = 12 := by
  have hv : validOp r 0x7A f = true := (Bool.and_eq_true_iff.mp h).1
  have hl := lengthOk_of_validOp rfl hv
  cases hf : f.len <;> simp_all [Shape.lengthOk, Shape.base, Len.bytes]

/-- An all-zero mask passes over every word that a clutch executes (R15, R181). -/
theorem exec_zero {s : State} {e : Env} (hr : runs s e) (hm : e.mask = 0) {i : Instr} {op : Nat} {f : Fields} (hi : opOf i = some (op, f))
    (hw : WellFormed e.ranges i = true) (hop : op < 0xA8 ∨ 0xB0 ≤ op) (hp : actsOnPath op f = true → e.cl.path = 0) :
    exec i s = passOver s e f.len.bytes := by
  cases i with
  | nop g | mov g | sel g | iadd g | isub g | imul g | imulh g | imad g | imadw g | idiv g | irem g | iabs g | imin g
  | imax g | iaddc g | iadds g | icmp g | and g | or g | xor g | andn g | shl g | shr g | sar g | rot g | bfe g
  | bfi g | popc g | clz g | brev g | ffs g | lea g | add64 g | cmp64 g | cvti g | bymix g | vote g | ballot g
  | match_ g | redi g | scani g | shfl g | bcast g | isect g | fadd g | fsub g | fmul g | ffma g | fmin g | fmax g
  | fcmp g | fclass g | pkadd g | pkmul g | pkfma g | pkmin g | pkmax g | pkcmp g | fdiv g | fsqrt g | cvtf g
  | cvtfi g | cvtif g | fpack g | funpack g | blkq g | blkdq g | blkex g | frcp g | frsq g | fexp2 g | flog2 g
  | fsin g | fcos g | ftanh g | fsigm g | ferf g | freda g | fredm g | fscan g | frnd g | fscl g | fdot4 g | wrcr g
  | mld g | mst g | barArrive g | barWait g | barSync g | fence g | fenceOpr g | fenceQ g | promote g | ld g | st g
  | lds g | sts g | ldc g | stc g | gath g | scat g | gaths g | scats g | ldacc g | stacc g | atom g | atoms g
  | atomc g | cas g | cass g | casc g | pref g | lineop g | tcpKick g | tcpCancel g | tiledef g | tilerel g
  | tilest g | tiledrn g | radd g | raddFx g | rmin g | rmax g | ror g | rput1 g | rarr g | rget g | mcast1 g
  | raccCvt g | arrwait g | arrset g | arrtest g | cwinAttach g | cwinDetach g | cwinAdd g | cwinMin g | cwinMax g
  | cwinOr g | cwinPut1 g | cwinArr g | cwld g | cwst g | stepCfg g | stepProbe g | stepStore g | nrec g | coll g
  | ftest g | fcancel g | fread g | grpJoin g | grpLeave g | regclaim g | regsurr g =>
    cases hi
    exact issue_zero _ _ s e _ hr hm
  | madd g | msub g | mscl g | mmul g | mfma g | mrelu g | msigm g | mexp g | mset g | mcoll g | mmov g | mcvt g =>
    cases hi
    simp only [exec, execMadd, execMsub, execMscl, execMmul, execMfma, execMrelu, execMsigm, execMexp, execMset, execMcoll,
      execMmov, execMcvt, momentArith, nonlinearForm]
    exact runMoment_zero hr hm _ _ _ _ _ _ _ _
  | brc g | brcLoop g | kill g | yield g | bkpt g | rdclk g =>
    cases hi
    exact control_zero hr hm _ _ false _ nofun
  | bra g | join g | call g | ret g | emret g | brx g =>
    cases hi
    exact control_zero hr hm _ _ true _ (fun _ => hp rfl)
  | brk g | cont g | exit g =>
    cases hi
    exact control_zero hr hm _ _ _ _ (fun h => hp (by simpa [actsOnPath] using h))
  | rdcr g =>
    cases hi
    exact execRdcr_zero hr hm f
  | trap g =>
    cases hi
    rw [trap_bytes hw]
    exact execTrap_zero hr hm f
  | mma g | mmaBc g | mmaS g | mmaM g | mwait g | marrive g | mzero g | qmov g | qadd g | qbra g | mend g =>
    cases hi
    omega
  | _ => cases hi

/-! ### Empty registers -/

/-- The register instructions share one run. -/
theorem exec_registerForm {i : Instr} {op : Nat} {f : Fields} {mk : State → Env → Alu} (h : registerForm i = some (op, f, mk))
    (s : State) : exec i s = runAlu op f mk s := by
  cases i <;> cases h <;> rfl

theorem Clutch.ready_trap {c : Clutch} {reads : List Named} (writes : List Named) (h : ∃ x ∈ reads, c.isEmpty x = true ∧ x.fe = true) :
    c.ready reads writes = .trap := if_pos (by simpa using h)

theorem Clutch.ready_wait {c : Clutch} {reads writes : List Named} (hf : ∀ x ∈ reads, c.isEmpty x = true → x.fe = false)
    (h : ∃ x ∈ reads ++ writes, c.isEmpty x = true) : c.ready reads writes = .wait := by
  have hn : ¬ reads.any (fun x => c.isEmpty x && x.fe) = true := by simpa using hf
  have hw : (reads ++ writes).any c.isEmpty = true := List.any_eq_true.mpr h
  rw [Clutch.ready, if_neg hn, if_pos hw]

theorem State.core_modCore_self (s : State) (c : CoreId) (g : Core → Core) : (s.modCore c g).core c = g (s.core c) := by
  unfold State.core State.modCore
  rw [State.die_modDie_self]
  exact Store.get_modify_self ..

/-- A stop that a clutch takes stops its core with the code, unless the core is stopped already (R201). -/
theorem State.clutchStop_core {s : State} {e : Env} (code : Code) (h : (s.core e.core).stopped = false) :
    ((s.clutchStop e code).core e.core).stopped = true ∧ ((s.clutchStop e code).core e.core).code = code.num := by
  simp [State.clutchStop, State.stopWith, State.core_modCore_self, h]

end Sys2Proof.Machine

open Sys2Proof Sys2Proof.Machine Sys2Proof.Safety Sys2Proof.Claims

theorem zeroMaskPassesOver_holds : Sys2Proof.Claims.zeroMaskPassesOver := by
  intro s e i op f hi hw hr hm hop hp
  exact exec_zero hr hm hi hw hop fun h => hp (by simpa [actsOnPath, or_assoc] using h)

theorem emptySources_holds : Sys2Proof.Claims.emptySources := by
  intro s e i op f mk hi hr hm hh
  rw [exec_registerForm hi]
  refine ⟨fun hx => ?_, fun hf hx => ?_⟩
  · exact ⟨_, issue_trap op f s e _ hr hm hh (Clutch.ready_trap _ hx), rfl, State.clutchStop_core .empty⟩
  · exact issue_wait op f s e _ hr hm hh (Clutch.ready_wait hf hx)

theorem formatFault_holds : Sys2Proof.Claims.formatFault := by
  intro s e i op f mk hi hm hf
  rw [exec_registerForm hi]
  exact runAlu_format op f mk s e hm hf

/-- Settles O25, word by word for the masks and through the one run of the register instructions for the rest. -/
theorem checksBeforeIssue : Obligations.ChecksBeforeIssue :=
  ⟨zeroMaskPassesOver_holds, emptySources_holds, formatFault_holds⟩
end

section
/-! SUPPORT. The grant of chorus indices, heartbeats and lost dies: what settles the first part of O57. -/

namespace Sys2Proof.Machine

/-! ### Launches after an update -/

theorem State.launch?_modLaunch_self (s : State) (uid : Nat) (g : Launch → Launch) (hg : ∀ x, (g x).uid = x.uid) :
    (s.modLaunch uid g).launch? uid = (s.launch? uid).map g := by
  unfold State.launch? State.modLaunch
  exact find?_updateFirst_self _ g (fun x h => by simpa [hg x] using h) s.launches

theorem State.launch?_modLaunch_other (s : State) (uid k : Nat) (g : Launch → Launch) (hg : ∀ x, (g x).uid = x.uid)
    (hne : k ≠ uid) : (s.modLaunch uid g).launch? k = s.launch? k := by
  unfold State.launch? State.modLaunch
  refine find?_updateFirst_other _ _ g (fun x h => ?_) s.launches
  simp only [decide_eq_true_eq] at h
  simp [hg x, h, Ne.symm hne]

@[simp] theorem Launch.receive_uid (l : Launch) (now : Nat) (r : Report) : (l.receive now r).uid = l.uid := by
  unfold Launch.receive; dsimp only; split <;> rfl

/-- The first report that a launch receives ends it (R204). -/
theorem Launch.receive_first (l : Launch) (now : Nat) (r : Report) (hr : l.report = none) (he : l.ending = none) :
    l.receive now r = { l with report := some r, reportAt := (r.coreid / 64, now + 1), ending := some .faulted } := by
  simp [Launch.receive, hr, he]

/-! ### The grant (R22, R24) -/

/-- Without an index at or above 2^24 a grant takes every index of its run (R292). -/
theorem Launch.grantable_eq_run (l : Launch) (n : Nat) (ht : l.total ≤ 2 ^ 24) :
    l.grantable n = (List.range (min n (l.total - l.next))).map (l.next + ·) := by
  unfold Launch.grantable
  rw [List.takeWhile_eq_self_iff]
  intro j hj
  obtain ⟨i, hi, rfl⟩ := List.mem_map.mp hj
  have hi : i < min n (l.total - l.next) := List.mem_range.mp hi
  have hlt : decide (2 ^ 24 ≤ l.next + i) = false := decide_eq_false (by omega)
  simp only [hlt, Bool.false_and, Bool.not_false]

/-- A launch that takes the next indices: those of a run become live on a die. -/
def Launch.takeRun (live : List (Nat × Nat)) (die : Nat) (run : List Nat) (x : Launch) : Launch :=
  { x with next := x.next + run.length, live := live ++ run.map fun j => (j, die) }

/-- A launch that notes the grant of a run of indices to a die. -/
def Launch.noteRun (die now : Nat) (run : List Nat) (x : Launch) : Launch :=
  { x with grants := x.grants ++ run.map fun j => { die, index := j, since := now } }

theorem State.launch?_grantRun (s : State) (l : Launch) (die : Nat) (run : List Nat) (hl : s.launch? l.uid = some l) :
    ((s.modLaunch l.uid (Launch.takeRun l.live die run)).modLaunch l.uid (Launch.noteRun die s.now run)).launch? l.uid
      = some (Launch.noteRun die s.now run (Launch.takeRun l.live die run l)) := by
  rw [State.launch?_modLaunch_self _ _ _ (by intro; rfl), State.launch?_modLaunch_self _ _ _ (by intro; rfl), hl]
  rfl

theorem State.launch?_grantAgain (s : State) (l : Launch) (die n : Nat) (hl : s.launch? l.uid = some l) :
    ∃ m, (s.grantAgain l.uid die n).launch? l.uid = some m ∧ m.next = l.next ∧ m.again = l.again.drop n
      ∧ m.grants = l.grants ++ (l.again.take n).map fun x => { die, index := x.1, since := s.now, uid := x.2 } := by
  rw [State.grantAgain, State.launch?_modLaunch_self _ _ _ (by intro; rfl), hl]
  exact ⟨_, rfl, rfl, rfl, rfl⟩

/-- A launch's grant when indices of a lost die wait (R24). -/
theorem execChorusIndexGrant_again (s : State) (l : Launch) (die n : Nat) (hl : s.launch? l.uid = some l)
    (hopen : ¬ (l.node.isSome ∨ l.ending.isSome ∨ !l.dies.contains die ∨ !s.dieLive die ∨ !(s.context l.ctx).active
      ∨ (s.context l.ctx).frozen.isSome ∨ (s.context l.ctx).deactivating ∨ 32 < n ∨ 8 ≤ l.unplaced die
      ∨ (l.linked ∧ (l.section_ ≠ 0 ∨ die ≠ l.leader ∨ !(s.context l.ctx).places))))
    (ha : l.again ≠ []) : execChorusIndexGrant l.uid die n s = .next (s.grantAgain l.uid die n) := by
  have ha' : l.again.isEmpty = false := by simpa using ha
  simp only [execChorusIndexGrant, hl, if_neg hopen, ha', Bool.not_false, if_true]

/-- A launch's grant of the next indices (R22). -/
theorem execChorusIndexGrant_next (s : State) (l : Launch) (die n : Nat) (hl : s.launch? l.uid = some l)
    (hopen : ¬ (l.node.isSome ∨ l.ending.isSome ∨ !l.dies.contains die ∨ !s.dieLive die ∨ !(s.context l.ctx).active
      ∨ (s.context l.ctx).frozen.isSome ∨ (s.context l.ctx).deactivating ∨ 32 < n ∨ 8 ≤ l.unplaced die
      ∨ (l.linked ∧ (l.section_ ≠ 0 ∨ die ≠ l.leader ∨ !(s.context l.ctx).places))))
    (ha : l.again = []) (hlinked : l.linked = false) :
    execChorusIndexGrant l.uid die n s = .next
      ((s.modLaunch l.uid (Launch.takeRun l.live die (l.grantable n))).modLaunch l.uid
        (Launch.noteRun die s.now (l.grantable n))) := by
  simp only [execChorusIndexGrant, hl, if_neg hopen]
  simp only [ha, hlinked, List.isEmpty_nil, Bool.not_true, if_false, Bool.false_eq_true]
  rfl

/-! ### Heartbeats (R23) -/

/-- Reading a store whose values have been changed by a rule that keeps the default. -/
theorem Store.get_map_values {α β : Type} (d : α) (e : β) (f : Nat → α → β) (hf : ∀ k, f k d = e) (m : Store α) (i : Nat) :
    Store.get e (m.map fun x => (x.1, f x.1 x.2)) i = f i (Store.get d m i) := by
  induction m with
  | nil => exact (hf i).symm
  | cons x rest ih =>
    obtain ⟨k, v⟩ := x
    by_cases h : k = i
    · simp [Store.get, h]
    · simpa [Store.get, h] using ih

/-- What a heartbeat makes of a die (R23). -/
def Die.beat (tick d : Nat) (x : Die) : Die :=
  if !x.serving ∨ x.lost then x
  else if x.missed < 4 ∧ Config.freePick tick d = true then { x with missed := 0 } else { x with missed := x.missed + 1 }

theorem execHeartbeat_due (s : State) (h : s.crucible.beatAt + 10 * microsecond ≤ s.now) :
    execHeartbeat s = .next (State.bump { s.modCrucible (fun c => { c with beatAt := s.now }) with
      dies := s.dies.map fun x => (x.1, Die.beat s.tick x.1 x.2) }) := by
  unfold execHeartbeat
  rw [if_neg (by omega)]
  rfl

theorem Die.beat_asleep (tick d : Nat) (x : Die) (h : x.serving = false ∨ x.lost = true) : Die.beat tick d x = x := by
  unfold Die.beat
  rw [if_pos (by rcases h with h | h <;> simp [h])]

theorem Die.beat_serving (tick d : Nat) (x : Die) (hs : x.serving = true) (hl : x.lost = false) :
    Die.beat tick d x = { x with missed := 0 } ∨ Die.beat tick d x = { x with missed := x.missed + 1 } := by
  unfold Die.beat
  rw [if_neg (by simp [hs, hl])]
  split
  · exact .inl rfl
  · exact .inr rfl

/-! ### Lost dies (R24) -/

/-- A launch that has lost a die, where `l` is the launch as it was. -/
def Launch.loseDie (l : Launch) (die : Nat) (x : Launch) : Launch :=
  let dies := l.dies.filter (· ≠ die)
  { x with dies, leader := dies.foldl min (dies.headD l.leader) }

/-- A launch of a kernel that cannot restart ends when it loses a die (R24). -/
theorem State.launchLosesDie_ends (s : State) (l : Launch) (die : Nat) (hr : l.hdr.restartable = false) :
    s.launchLosesDie l die = (s.modLaunch l.uid (l.loseDie die)).launchFault l.uid { code := 0x31, section_ := l.section_ } := by
  unfold State.launchLosesDie
  dsimp only
  rw [if_pos (by simp [hr])]
  rfl

/-- What the loss of a die leaves as it was for the launches it takes with it: everything but themselves and the causes of
interrupt, of which none is cleared. -/
structure State.SameButEndings (s t : State) : Prop where
  mem : t.mem = s.mem
  choruses : t.choruses = s.choruses
  dies : t.dies = s.dies
  now : t.now = s.now
  cause : ∀ i, s.crucible.intcause.getLsbD i = true → t.crucible.intcause.getLsbD i = true

theorem State.SameButEndings.refl (s : State) : s.SameButEndings s := ⟨rfl, rfl, rfl, rfl, fun _ h => h⟩

theorem State.SameButEndings.trans {s t u : State} (h : s.SameButEndings t) (k : t.SameButEndings u) : s.SameButEndings u :=
  ⟨k.mem.trans h.mem, k.choruses.trans h.choruses, k.dies.trans h.dies, k.now.trans h.now, fun i hi => k.cause i (h.cause i hi)⟩

theorem State.launchFault_sameButEndings (s : State) (l : Nat) (r : Report) : s.SameButEndings (s.launchFault l r) := by
  refine ⟨by simp, by simp, by simp, by simp, fun i hi => ?_⟩
  unfold State.launchFault
  split
  · simp [State.interrupt, hi]
  · exact hi

theorem State.launchLosesDie_sameButEndings (s : State) (l : Launch) (die : Nat) (hr : l.hdr.restartable = false) :
    s.SameButEndings (s.launchLosesDie l die) := by
  rw [State.launchLosesDie_ends s l die hr]
  have loses : s.SameButEndings (s.modLaunch l.uid (l.loseDie die)) := ⟨rfl, rfl, rfl, rfl, fun _ h => h⟩
  exact loses.trans (State.launchFault_sameButEndings _ _ _)

theorem State.launch?_launchFault_self (s : State) (l : Nat) (r : Report) :
    (s.launchFault l r).launch? l = (s.launch? l).map (·.receive s.now r) := by
  unfold State.launchFault
  rw [State.launch?_modLaunch_self _ _ _ (fun x => by simp)]
  split <;> rfl

theorem State.launch?_launchFault_other (s : State) (l k : Nat) (r : Report) (hne : k ≠ l) :
    (s.launchFault l r).launch? k = s.launch? k := by
  unfold State.launchFault
  rw [State.launch?_modLaunch_other _ _ _ _ (fun x => by simp) hne]
  split <;> rfl

theorem State.launch?_launchLosesDie_other (s : State) (l : Launch) (die k : Nat) (hr : l.hdr.restartable = false)
    (hne : k ≠ l.uid) : (s.launchLosesDie l die).launch? k = s.launch? k := by
  rw [State.launchLosesDie_ends s l die hr, State.launch?_launchFault_other _ _ _ _ hne]
  exact State.launch?_modLaunch_other _ _ _ _ (fun _ => rfl) hne

/-- A launch that the lost die ends: its report is DIE_LOST, and the die takes part no longer. -/
theorem State.launch?_launchLosesDie_self (s : State) (l : Launch) (die : Nat) (hr : l.hdr.restartable = false)
    (hl : s.launch? l.uid = some l) (he : l.ending = none) (hrep : l.report = none) :
    ∃ m, (s.launchLosesDie l die).launch? l.uid = some m ∧ m.ending = some .faulted ∧ m.dies = l.dies.filter (· ≠ die)
      ∧ m.report = some { code := 0x31, section_ := l.section_ } := by
  rw [State.launchLosesDie_ends s l die hr, State.launch?_launchFault_self,
    State.launch?_modLaunch_self s l.uid (l.loseDie die) (fun _ => rfl), hl]
  have hfirst := Launch.receive_first (l.loseDie die l) (s.modLaunch l.uid (l.loseDie die)).now
    { code := 0x31, section_ := l.section_ } hrep he
  exact ⟨_, congrArg some hfirst, rfl, rfl, rfl⟩

theorem State.foldl_launchLosesDie_sameButEndings (ls : List Launch) (die : Nat) (s : State)
    (hr : ∀ l ∈ ls, l.hdr.restartable = false) : s.SameButEndings (ls.foldl (fun s l => s.launchLosesDie l die) s) := by
  induction ls generalizing s with
  | nil => exact .refl s
  | cons l rest ih =>
    exact (State.launchLosesDie_sameButEndings s l die (hr l (.head _))).trans (ih _ fun x hx => hr x (.tail _ hx))

theorem State.launch?_foldl_launchLosesDie_other (ls : List Launch) (die k : Nat) (s : State)
    (hr : ∀ l ∈ ls, l.hdr.restartable = false) (hne : ∀ l ∈ ls, l.uid ≠ k) :
    (ls.foldl (fun s l => s.launchLosesDie l die) s).launch? k = s.launch? k := by
  induction ls generalizing s with
  | nil => rfl
  | cons l rest ih =>
    rw [List.foldl_cons, ih _ (fun x hx => hr x (.tail _ hx)) (fun x hx => hne x (.tail _ hx))]
    exact State.launch?_launchLosesDie_other s l die k (hr l (.head _)) (hne l (.head _)).symm

/-- Each launch of a list without repeats meets the loss of the die once. -/
theorem State.launch?_foldl_launchLosesDie_self (ls : List Launch) (die : Nat) (l : Launch) (s : State)
    (hr : ∀ x ∈ ls, x.hdr.restartable = false) (hnd : (ls.map (·.uid)).Nodup) (hmem : l ∈ ls)
    (hl : s.launch? l.uid = some l) (he : l.ending = none) (hrep : l.report = none) :
    ∃ m, (ls.foldl (fun s l => s.launchLosesDie l die) s).launch? l.uid = some m ∧ m.ending = some .faulted
      ∧ m.dies = l.dies.filter (· ≠ die) ∧ m.report = some { code := 0x31, section_ := l.section_ } := by
  induction ls generalizing s with
  | nil => cases hmem
  | cons x rest ih =>
    rw [List.map_cons, List.nodup_cons] at hnd
    obtain ⟨hx, hnd⟩ := hnd
    have hr' : ∀ y ∈ rest, y.hdr.restartable = false := fun y hy => hr y (.tail _ hy)
    rw [List.foldl_cons]
    rcases List.mem_cons.mp hmem with rfl | hin
    · rw [State.launch?_foldl_launchLosesDie_other rest die _ _ hr'
        (fun y hy hyx => hx (List.mem_map.mpr ⟨y, hy, hyx⟩))]
      exact State.launch?_launchLosesDie_self s l die (hr l (.head _)) hl he hrep
    · refine ih _ hr' hnd hin ?_
      rw [State.launch?_launchLosesDie_other s x die _ (hr x (.head _))
        (fun h => hx (List.mem_map.mpr ⟨l, hin, h⟩))]
      exact hl

/-- In a list of launches with distinct numbers a number finds its launch. -/
theorem State.launch?_of_mem (s : State) (l : Launch) (hl : l ∈ s.launches) (hnd : (s.launches.map (·.uid)).Nodup) :
    s.launch? l.uid = some l := by
  have find : ∀ ls : List Launch, l ∈ ls → (ls.map (·.uid)).Nodup → ls.find? (·.uid = l.uid) = some l := by
    intro ls hl hnd
    induction ls with
    | nil => cases hl
    | cons x rest ih =>
      rw [List.map_cons, List.nodup_cons] at hnd
      rcases List.mem_cons.mp hl with rfl | hin
      · simp
      · have hne : x.uid ≠ l.uid := fun h => hnd.1 (List.mem_map.mpr ⟨l, hin, h.symm⟩)
        simpa [hne] using ih hin hnd.2
  exact find _ hl hnd

/-- DIE_LOST once four heartbeats have been missed. -/
theorem execDieLost_lost (s : State) (die : Nat) (hm : 4 ≤ (s.die die).missed) (hs : (s.die die).serving = true)
    (hl : (s.die die).lost = false) :
    execDieLost die s = .next ((s.launches.filter (fun (l : Launch) => l.dies.contains die && l.ending.isNone)).foldl
      (fun s l => s.launchLosesDie l die)
      (((s.modDie die (fun d => { d with lost := true, serving := false })).logEvent .lostDie die 0 0 die).interrupt 4)) := by
  unfold execDieLost
  rw [if_neg (by simp [hs, hl]; omega)]
  rfl

theorem dieLost_ends (s : State) (die : Nat) (hm : 4 ≤ (s.die die).missed) (hs : (s.die die).serving = true)
    (hl : (s.die die).lost = false)
    (hrst : ∀ l ∈ s.launches, l.ending = none → die ∈ l.dies → l.hdr.restartable = false)
    (hnd : (s.launches.map (·.uid)).Nodup) :
    ∃ t, exec (.dieLost die) s = .next t ∧ t.mem = s.mem ∧ t.choruses = s.choruses
      ∧ t.die die = { s.die die with lost := true, serving := false } ∧ t.crucible.intcause.getLsbD 2 = true
      ∧ ∀ l ∈ s.launches, l.ending = none → l.report = none → die ∈ l.dies → ∃ m, t.launch? l.uid = some m
        ∧ m.ending = some .faulted ∧ m.dies = l.dies.filter (· ≠ die)
        ∧ m.report = some { code := 0x31, section_ := l.section_ } := by
  refine ⟨_, execDieLost_lost s die hm hs hl, ?_⟩
  generalize hu : (((s.modDie die (fun d => { d with lost := true, serving := false })).logEvent .lostDie die 0 0 die).interrupt 4) = u
  have hlaunches : u.launches = s.launches := by rw [← hu]; rfl
  have hls : ∀ l ∈ s.launches.filter (fun (l : Launch) => l.dies.contains die && l.ending.isNone), l.hdr.restartable = false := by
    intro l h
    obtain ⟨hin, h⟩ := List.mem_filter.mp h
    simp only [Bool.and_eq_true, List.contains_iff_mem, Option.isNone_iff_eq_none] at h
    exact hrst l hin h.2 h.1
  have same := State.foldl_launchLosesDie_sameButEndings _ die u hls
  refine ⟨same.mem.trans (by rw [← hu]; rfl), same.choruses.trans (by rw [← hu]; rfl), ?_, same.cause 2 ?_, ?_⟩
  · rw [State.die, same.dies, ← hu]
    exact State.die_modDie_self s die (fun d => { d with lost := true, serving := false })
  · rw [← hu]; simp [State.interrupt]
  · intro l hin he hrep hdie
    refine State.launch?_foldl_launchLosesDie_self _ die l u hls ?_ ?_ ?_ he hrep
    · exact hnd.sublist (List.filter_sublist.map _)
    · exact List.mem_filter.mpr ⟨hin, by simp [hdie, he]⟩
    · unfold State.launch?
      rw [hlaunches]
      exact State.launch?_of_mem s l hin hnd

/-! ### The grant, heartbeats and lost dies together -/

theorem chorusIndexGrant_grants (s : State) (l : Launch) (die n : Nat) (hl : s.launch? l.uid = some l) (hnode : l.node = none)
    (hlinked : l.linked = false) (hend : l.ending = none) (hdie : die ∈ l.dies) (hlive : s.dieLive die = true)
    (hact : (s.context l.ctx).active = true) (hfro : (s.context l.ctx).frozen = none)
    (hdea : (s.context l.ctx).deactivating = false) (hn : n ≤ 32) (hheld : l.grants.countP (fun g => g.die = die) < 8)
    (hlinks : l.links = []) (htot : l.total ≤ 2 ^ 24) :
    let run := (List.range (min n (l.total - l.next))).map (l.next + ·)
    ∃ t m, exec (.chorusIndexGrant l.uid die n) s = .next t ∧ { t with launches := s.launches } = s ∧ t.launch? l.uid = some m
      ∧ (l.again = [] → m.next = l.next + run.length ∧ m.live = l.live ++ run.map (fun j => (j, die))
        ∧ m.grants = l.grants ++ run.map fun j => { die, index := j, since := s.now })
      ∧ (l.again ≠ [] → m.next = l.next ∧ m.again = l.again.drop n
        ∧ m.grants = l.grants ++ (l.again.take n).map fun x => { die, index := x.1, since := s.now, uid := x.2 }) := by
  have hunplaced : l.unplaced die < 8 := by simpa [Launch.unplaced, hlinks] using hheld
  have hopen : ¬ (l.node.isSome ∨ l.ending.isSome ∨ !l.dies.contains die ∨ !s.dieLive die ∨ !(s.context l.ctx).active
      ∨ (s.context l.ctx).frozen.isSome ∨ (s.context l.ctx).deactivating ∨ 32 < n ∨ 8 ≤ l.unplaced die
      ∨ (l.linked ∧ (l.section_ ≠ 0 ∨ die ≠ l.leader ∨ !(s.context l.ctx).places))) := by
    simp [hnode, hend, hdie, hlive, hact, hfro, hdea, hlinked]
    omega
  by_cases ha : l.again = []
  · have hexec := execChorusIndexGrant_next s l die n hl hopen ha hlinked
    rw [Launch.grantable_eq_run l n htot] at hexec
    exact ⟨_, _, hexec, rfl, State.launch?_grantRun s l die _ hl, fun _ => ⟨rfl, rfl, rfl⟩, fun h => absurd ha h⟩
  · obtain ⟨m, hm, hnew⟩ := State.launch?_grantAgain s l die n hl
    exact ⟨_, m, execChorusIndexGrant_again s l die n hl hopen ha, rfl, hm, fun h => absurd h ha, fun _ => hnew⟩

theorem heartbeat_due (s : State) (h : s.crucible.beatAt + 33000 ≤ s.now) :
    ∃ t, exec .heartbeat s = .next t
      ∧ { t with dies := s.dies, tick := s.tick, crucible := { t.crucible with beatAt := s.crucible.beatAt } } = s
      ∧ t.crucible.beatAt = s.now ∧ ∀ d, let x := s.die d
        (x.serving = false ∨ x.lost = true → t.die d = x)
        ∧ (x.serving = true → x.lost = false → t.die d = { x with missed := 0 } ∨ t.die d = { x with missed := x.missed + 1 }) := by
  refine ⟨_, execHeartbeat_due s h, rfl, rfl, fun d => ?_⟩
  have hd : Store.get {} (s.dies.map fun x => (x.1, Die.beat s.tick x.1 x.2)) d = Die.beat s.tick d (s.die d) :=
    Store.get_map_values {} {} (fun k x => Die.beat s.tick k x) (fun _ => Die.beat_asleep _ _ _ (.inl rfl)) s.dies d
  refine ⟨fun hx => hd.trans (Die.beat_asleep _ _ _ hx), fun hs hl => ?_⟩
  exact (Die.beat_serving s.tick d _ hs hl).imp hd.trans hd.trans

theorem dispatchers_holds : Claims.dispatchers := by
  refine ⟨?_, ?_, heartbeat_due, ?_⟩
  · intro s l die n hl hnode hlinked hend hdie hlive hact hfro hdea hn hheld hlinks htot
    exact chorusIndexGrant_grants s l die n hl hnode hlinked hend hdie hlive hact hfro hdea hn hheld hlinks htot
  · intro s h
    exact if_pos h
  · intro s die
    refine ⟨fun hm => if_pos (.inr (.inr hm)), fun hm hs hl hrst hnd => dieLost_ends s die hm hs hl hrst hnd⟩

end Sys2Proof.Machine
end

section
/-! SUPPORT. What a write of bytes does to memory and leaves of the rest, and that a walk which may run changes the dies alone. -/

namespace Sys2Proof.Machine

/-! ### Bytes and numbers (R1) -/

/-- A number is what its bytes make, up to their width. -/
theorem numberOf_bytesOfNat (n v : Nat) : numberOf (bytesOfNat n v) = v % 256 ^ n := by
  induction n generalizing v with
  | zero => simp [numberOf, bytesOfNat, Nat.mod_one]
  | succ n ih =>
    have htail : (List.range n).map ((fun i => BitVec.ofNat 8 (v / 2 ^ (8 * i))) ∘ Nat.succ) = bytesOfNat n (v / 256) := by
      refine List.map_congr_left fun i _ => ?_
      have hpow : 2 ^ (8 * (i + 1)) = 256 * 2 ^ (8 * i) := by rw [Nat.mul_add, Nat.pow_add]; omega
      simp only [Function.comp_apply, Nat.succ_eq_add_one, hpow, Nat.div_div_eq_div_mul]
    have hcons : bytesOfNat (n + 1) v = BitVec.ofNat 8 v :: bytesOfNat n (v / 256) := by
      rw [← htail, bytesOfNat, List.range_succ_eq_map, List.map_cons, List.map_map]
      simp
    calc numberOf (bytesOfNat (n + 1) v)
        = v % 256 + 256 * (v / 256 % 256 ^ n) := by
          rw [hcons, numberOf, List.foldr_cons, ← numberOf, ih, BitVec.toNat_ofNat]
      _ = v % (256 * 256 ^ n) := Nat.mod_mul.symm
      _ = v % 256 ^ (n + 1) := by rw [Nat.pow_succ, Nat.mul_comm]

/-- Bytes that are written under different keys read back. -/
theorem Memory.read_writeAll_self (m : Memory) (bytes : Store Byte) (x : Nat × Byte)
    (hnd : (bytes.map Prod.fst).Nodup) (hx : x ∈ bytes) : Memory.read (Memory.writeAll m bytes) x.1 = x.2 := by
  unfold Memory.writeAll
  induction bytes generalizing m with
  | nil => cases hx
  | cons y rest ih =>
    rw [List.map_cons, List.nodup_cons] at hnd
    obtain ⟨hy, hnd⟩ := hnd
    rw [List.foldl_cons]
    rcases List.mem_cons.mp hx with rfl | hin
    · have hother : ∀ z ∈ rest, z.1 ≠ x.1 := fun z hz hzx => hy (List.mem_map.mpr ⟨z, hz, hzx⟩)
      exact (Memory.read_writeAll_other _ rest x.1 hother).trans (Memory.read_write_self m x.1 x.2)
    · exact ih _ hnd hin

theorem bytesAt_keys_nodup (pa n v : Nat) : ((bytesAt pa n v).map Prod.fst).Nodup := by
  rw [bytesAt, List.map_map]
  exact (List.nodup_range).map fun a b h => Nat.add_left_cancel h

/-- Bytes written from an address on change nothing outside. -/
theorem Memory.read_writeAll_bytesAt_outside (m : Memory) (pa n v q : Nat) (h : ¬ (pa ≤ q ∧ q < pa + n)) :
    Memory.read (Memory.writeAll m (bytesAt pa n v)) q = Memory.read m q := by
  refine Memory.read_writeAll_other m _ q fun x hx hxq => ?_
  obtain ⟨i, hi, rfl⟩ := List.mem_map.mp hx
  have hi : i < n := List.mem_range.mp hi
  dsimp only at hxq
  omega

/-- A number written from an address on reads back, up to its width. -/
theorem State.number_of_writeAll_bytesAt (s t : State) (pa n v : Nat) (h : t.mem = Memory.writeAll s.mem (bytesAt pa n v)) :
    t.number pa n = v % 256 ^ n := by
  rw [← numberOf_bytesOfNat, State.number, h]
  refine congrArg numberOf (List.map_congr_left fun i hi => ?_)
  exact Memory.read_writeAll_self s.mem _ (pa + i, BitVec.ofNat 8 (v / 2 ^ (8 * i))) (bytesAt_keys_nodup pa n v)
    (List.mem_map.mpr ⟨i, hi, rfl⟩)

/-! ### A write of bytes -/

/-- The sectors of some bytes are those bytes. -/
theorem bySector_flatten (bytes : Store Byte) : (bySector bytes).flatten = bytes := by
  induction bytes with
  | nil => rfl
  | cons x rest ih =>
    unfold bySector
    split
    · rename_i h; rw [h] at ih; simp [← ih]
    · rename_i g gs h
      rw [h] at ih
      cases g with
      | nil => simp [← ih]
      | cons y ys => dsimp only; split <;> simp [← ih]

theorem State.writeSector_mem (s : State) (bytes : Store Byte) :
    (s.writeSector bytes).mem = Memory.writeAll s.mem bytes := by
  cases bytes with
  | nil => rfl
  | cons x rest => exact State.examine_mem _ _ _

/-- A write of bytes writes them all. -/
theorem State.writeBytes_mem (s : State) (bytes : Store Byte) : (s.writeBytes bytes).mem = Memory.writeAll s.mem bytes := by
  have fold : ∀ (gs : List (Store Byte)) (s : State),
      (gs.foldl State.writeSector s).mem = Memory.writeAll s.mem gs.flatten := by
    intro gs
    induction gs with
    | nil => intro s; rfl
    | cons g gs ih =>
      intro s
      rw [List.foldl_cons, ih, State.writeSector_mem, List.flatten_cons, Memory.writeAll, Memory.writeAll, Memory.writeAll,
        List.foldl_append]
  rw [State.writeBytes, fold, bySector_flatten]

/-- The tables that a write of bytes leaves alone: the crucible, the contexts and the launches. -/
structure State.SameTables (s t : State) : Prop where
  crucible : t.crucible = s.crucible
  contexts : t.contexts = s.contexts
  launches : t.launches = s.launches

theorem State.SameTables.refl (s : State) : s.SameTables s := ⟨rfl, rfl, rfl⟩

theorem State.SameTables.trans {s t u : State} (h : s.SameTables t) (k : t.SameTables u) : s.SameTables u :=
  ⟨k.crucible.trans h.crucible, k.contexts.trans h.contexts, k.launches.trans h.launches⟩

theorem State.SameTables.foldl {β : Type} (g : State → β → State) (hg : ∀ (s : State) (x : β), s.SameTables (g s x)) (xs : List β)
    (s : State) : s.SameTables (xs.foldl g s) := by
  induction xs generalizing s with
  | nil => exact .refl s
  | cons x rest ih => exact (hg s x).trans (ih (g s x))

/-- Only the dies change from one state to the other. -/
def State.OnlyDies (s t : State) : Prop := { t with dies := s.dies } = s

theorem State.OnlyDies.refl (s : State) : s.OnlyDies s := rfl

theorem State.OnlyDies.eq {s t : State} (h : s.OnlyDies t) : { t with dies := s.dies } = s := h

theorem State.OnlyDies.trans {s t u : State} (h : s.OnlyDies t) (k : t.OnlyDies u) : s.OnlyDies u :=
  (congrArg (fun x : State => { x with dies := s.dies }) k.eq :).trans h

theorem State.OnlyDies.foldl {β : Type} (g : State → β → State) (hg : ∀ (s : State) (x : β), s.OnlyDies (g s x)) (xs : List β)
    (s : State) : s.OnlyDies (xs.foldl g s) := State.foldl_dies g hg xs s

theorem State.OnlyDies.mem {s t : State} (h : s.OnlyDies t) : t.mem = s.mem :=
  (congrArg State.mem h.eq :)

theorem State.OnlyDies.choruses {s t : State} (h : s.OnlyDies t) : t.choruses = s.choruses :=
  (congrArg State.choruses h.eq :)

theorem State.OnlyDies.sameTables {s t : State} (h : s.OnlyDies t) : s.SameTables t :=
  ⟨(congrArg State.crucible h.eq :), (congrArg State.contexts h.eq :), (congrArg State.launches h.eq :)⟩

theorem State.invalidateL1_onlyDies (s : State) (c : CoreId) : s.OnlyDies (s.invalidateL1 c) := by
  unfold State.invalidateL1 State.dropL1 State.mapL1
  split <;> rfl

theorem State.invalidateL1_sameTables (s : State) (c : CoreId) : s.SameTables (s.invalidateL1 c) :=
  (State.invalidateL1_onlyDies s c).sameTables

theorem State.fireWatch_sameTables (s : State) (die : Nat) (w : Watch) (v : Nat) : s.SameTables (s.fireWatch die w v) := by
  unfold State.fireWatch
  dsimp only
  split
  · exact ⟨rfl, rfl, rfl⟩
  · split
    · exact ⟨rfl, rfl, rfl⟩
    · have h := State.invalidateL1_sameTables
      exact ⟨(h _ _).crucible, (h _ _).contexts, (h _ _).launches⟩

theorem State.examine_sameTables (s : State) (die : Nat) (p : Watch → Bool) : s.SameTables (s.examine die p) := by
  refine State.SameTables.foldl _ (fun s w => ?_) _ s
  dsimp only
  split
  · exact State.fireWatch_sameTables s die w _
  · exact .refl s

theorem State.writeSector_sameTables (s : State) (bytes : Store Byte) : s.SameTables (s.writeSector bytes) := by
  cases bytes with
  | nil => exact .refl s
  | cons x rest => exact State.SameTables.trans (t := s.putSector (x :: rest)) ⟨rfl, rfl, rfl⟩ (State.examine_sameTables _ _ _)

theorem State.writeBytes_sameTables (s : State) (bytes : Store Byte) : s.SameTables (s.writeBytes bytes) :=
  State.SameTables.foldl _ State.writeSector_sameTables _ s

/-! ### Walks that may run (R224, R225) -/

theorem State.die_modDie_field {β : Type} (f : Die → β) (s : State) (d k : Nat) (g : Die → Die) (hg : ∀ x, f (g x) = f x) :
    f ((s.modDie d g).die k) = f (s.die k) := by
  by_cases h : k = d
  · subst h; rw [State.die_modDie_self, hg]
  · rw [State.die_modDie_other s d k g h]

theorem Die.takeSector_walks (d : Die) (die sec : Nat) : (d.takeSector die sec).walks = d.walks := by
  unfold Die.takeSector
  dsimp only
  split <;> rfl

theorem State.fillCache_walks (s : State) (sectors : List Nat) (k : Nat) : ((s.fillCache sectors).die k).walks = (s.die k).walks := by
  unfold State.fillCache
  induction sectors generalizing s with
  | nil => rfl
  | cons sec rest ih =>
    rw [List.foldl_cons, ih]
    exact State.die_modDie_field Die.walks s _ k _ fun d => Die.takeSector_walks d _ sec

/-- With an empty tracker the walk that finishes has nobody waiting: it fills the TLB of the die. -/
theorem State.walkFound_idle (s : State) (die ctx page va size pte : Nat) (hw : (s.die die).walks = []) :
    s.OnlyDies (s.walkFound die ctx page va size pte) ∧ ((s.walkFound die ctx page va size pte).die die).walks = [] := by
  unfold State.walkFound
  dsimp only
  rw [hw, List.filter_nil, List.flatMap_nil, List.foldl_nil]
  split
  · exact ⟨rfl, by rw [State.die_modDie_self]; simp [Die.finishWalks, hw]⟩
  · exact ⟨rfl, by rw [State.die_modDie_self, State.die_modDie_self]; simp [Die.finishWalks, hw]⟩

/-- With an empty tracker the die side waits for no walk. -/
theorem State.bring_cons_idle (s : State) (die ctx va : Nat) (rest : List Nat) (hw : (s.die die).walks = []) :
    ∃ t, s.bring (dieSide die) ctx (va :: rest) = t.bring (dieSide die) ctx rest ∧ s.OnlyDies t ∧ (t.die die).walks = [] := by
  have hruns : (s.die (dieSide die).die).walkRuns ctx (va / 2 ^ 16) = true := by
    have hw : (s.die (dieSide die).die).walks = [] := hw
    simp [Die.walkRuns, hw]
  rw [State.bring]
  by_cases hheld : 2 ^ 57 ≤ va ∨ (s.lookup (dieSide die) ctx va).isSome
  · exact ⟨s, if_pos hheld, .refl s, hw⟩
  · rw [if_neg hheld, if_neg (by rw [hruns]; exact Bool.false_ne_true)]
    cases hwalk : s.walk ctx va with
    | page va0 size pte =>
      have hwalked : ((s.walked ctx va).die die).walks = [] := (State.fillCache_walks s _ die).trans hw
      obtain ⟨honly, hwalks⟩ := State.walkFound_idle (s.walked ctx va) die ctx (va / 2 ^ 16) va0 size pte hwalked
      exact ⟨_, rfl, State.OnlyDies.trans (State.walked_dies s ctx va) honly, hwalks⟩
    | none => exact ⟨s, rfl, .refl s, hw⟩
    | poison => exact ⟨s, rfl, .refl s, hw⟩

theorem State.bring_idle (die ctx : Nat) (vas : List Nat) (s : State) (hw : (s.die die).walks = []) :
    ∃ t, s.bring (dieSide die) ctx vas = some t ∧ s.OnlyDies t ∧ (t.die die).walks = [] := by
  induction vas generalizing s with
  | nil => exact ⟨s, rfl, .refl s, hw⟩
  | cons va rest ih =>
    obtain ⟨u, hu, hsu, hwu⟩ := State.bring_cons_idle s die ctx va rest hw
    obtain ⟨t, ht, hut, hwt⟩ := ih u hwu
    exact ⟨t, hu.trans ht, hsu.trans hut, hwt⟩

end Sys2Proof.Machine
end

section
/-! SUPPORT. Doorbells and the taking of launch records: what settles the second part of O57. -/

namespace Sys2Proof.Machine

/-! ### QDOOR (R357, R358) -/

theorem State.queue_setQueue_self (s : State) (q : Nat) (x : Queue) : (s.setQueue q x).queue q = x :=
  Store.get_set_self ({} : Queue) s.crucible.queues q x

/-- A doorbell of an enabled queue. -/
theorem execQdoor_enabled (s : State) (q v : Nat) (hready : s.crucible.ready = true) (hq : q < 64)
    (hne : (s.queue q).head ≠ (s.queue q).tail) (hen : (s.queue q).enabled = true) (hv : v < 2 ^ (s.queue q).logsize) :
    execQdoor q v s = .next ((((s.setQueue q (s.queue q)).active).setQueue q { s.queue q with tail := v }).writeBytes
      (bytesAt (s.queueAddr q + 16) 4 v)) := by
  have hguard : ¬ (!s.crucible.ready ∨ 64 ≤ q) := by simp [hready, hq]
  simp only [execQdoor, if_neg hguard, if_neg hne]
  rw [if_pos ⟨hen, hv⟩]
  rfl

/-- Any other doorbell. -/
theorem execQdoor_error (s : State) (q v : Nat) (hready : s.crucible.ready = true) (hq : q < 64)
    (hne : (s.queue q).head ≠ (s.queue q).tail) (hbad : (s.queue q).enabled = false ∨ 2 ^ (s.queue q).logsize ≤ v) :
    execQdoor q v s = .next (((s.setQueue q (s.queue q)).active).modCrucible
      (fun c => { c with qerr := c.qerr ||| BitVec.ofNat 64 (2 ^ q) })) := by
  have hguard : ¬ (!s.crucible.ready ∨ 64 ≤ q) := by simp [hready, hq]
  have hrefused : ¬ ((s.queue q).enabled ∧ v < 2 ^ (s.queue q).logsize) := by
    rintro ⟨hen, hv⟩
    rcases hbad with h | h
    · simp [h] at hen
    · omega
  simp only [execQdoor, if_neg hguard, if_neg hne]
  rw [if_neg hrefused]

theorem qdoor_enabled (s : State) (q v : Nat) (hready : s.crucible.ready = true) (hq : q < 64)
    (hne : (s.queue q).head ≠ (s.queue q).tail) (hen : (s.queue q).enabled = true) (hv : v < 2 ^ (s.queue q).logsize)
    (hlog : (s.queue q).logsize ≤ 16) :
    ∃ t, exec (.qdoor q v) s = .next t ∧ t.queue q = { s.queue q with tail := v }
      ∧ Claims.sameOutside s t (s.queueAddr q + 16) 4 ∧ t.number (s.queueAddr q + 16) 4 = v := by
  generalize hu : ((s.setQueue q (s.queue q)).active).setQueue q { s.queue q with tail := v } = u
  have hmem : u.mem = s.mem := by rw [← hu]; rfl
  have hw : (u.writeBytes (bytesAt (s.queueAddr q + 16) 4 v)).mem = Memory.writeAll s.mem (bytesAt (s.queueAddr q + 16) 4 v) := by
    rw [State.writeBytes_mem, hmem]
  refine ⟨u.writeBytes (bytesAt (s.queueAddr q + 16) 4 v), ?_, ?_, ?_, ?_⟩
  · rw [← hu]; exact execQdoor_enabled s q v hready hq hne hen hv
  · rw [State.queue, (State.writeBytes_sameTables u _).crucible, ← hu]
    exact State.queue_setQueue_self _ q _
  · intro p hp
    rw [hw]
    exact Memory.read_writeAll_bytesAt_outside s.mem _ 4 v p hp
  · rw [State.number_of_writeAll_bytesAt s _ _ 4 v hw]
    have hpow : 2 ^ (s.queue q).logsize ≤ 2 ^ 16 := Nat.pow_le_pow_right (by decide) hlog
    exact Nat.mod_eq_of_lt (by omega)

theorem qdoor_error (s : State) (q v : Nat) (hready : s.crucible.ready = true) (hq : q < 64)
    (hne : (s.queue q).head ≠ (s.queue q).tail) (hbad : (s.queue q).enabled = false ∨ 2 ^ (s.queue q).logsize ≤ v) :
    ∃ t, exec (.qdoor q v) s = .next t ∧ Claims.onlyCrucible s t ∧ t.queue q = s.queue q
      ∧ t.crucible.qerr = s.crucible.qerr ||| BitVec.ofNat 64 (2 ^ q) := by
  refine ⟨_, execQdoor_error s q v hready hq hne hbad, ?_, State.queue_setQueue_self s q (s.queue q), rfl⟩
  unfold State.modCrucible State.active State.setQueue State.modCrucible
  rfl

/-! ### LAUNCH_TAKE (R359 to R361) -/

theorem recField_eq (w i n : Nat) : recField w i n = w / 2 ^ (8 * i) % 2 ^ (8 * n) := by
  rw [recField, Nat.pow_mul, Nat.pow_mul]

/-- Without contention no lease covers a place. -/
theorem State.recall_noContention (s : State) (pas : List Nat) (h : Claims.noContention s) : s.recall pas = none := by
  have hall : (List.range 4).all (fun d => (s.die d).contention.isEmpty) = true :=
    List.all_eq_true.mpr fun d _ => by rw [h d]; rfl
  unfold State.recall
  rw [if_pos hall]

/-- The pages of an image come at once on a die whose tracker is empty. -/
theorem State.bringImage_idle (s : State) (die ctx image : Nat) (hw : (s.die die).walks = []) :
    ∃ t, s.bringImage die ctx image = some t ∧ s.OnlyDies t := by
  obtain ⟨u, hu, hsu, hwu⟩ := State.bring_idle die ctx (onePerPage ([(image, 64)].flatMap (fun x => vaRange x.1 x.2))) s hw
  unfold State.bringImage State.bringSpans
  rw [hu]
  dsimp only [Option.bind_some]
  split
  · exact ⟨u, rfl, hsu⟩
  · rename_i w _
    obtain ⟨t, ht, hut, _⟩ := State.bring_idle die ctx _ u hwu
    exact ⟨t, ht, hsu.trans hut⟩

/-- What the checks of R361 leave of a launch as its record gives it. -/
structure Launch.SameRecord (l m : Launch) : Prop where
  uid : m.uid = l.uid
  ctx : m.ctx = l.ctx
  prio : m.prio = l.prio
  queue : m.queue = l.queue
  image : m.image = l.image
  args : m.args = l.args
  statusVa : m.statusVa = l.statusVa
  doneVa : m.doneVa = l.doneVa
  lid : m.lid = l.lid

theorem State.checkRecord_sameRecord (s : State) (l m : Launch) (w : Nat) (h : s.checkRecord l w = .ok m) : l.SameRecord m := by
  unfold State.checkRecord at h
  dsimp only at h
  split at h
  · cases h
  split at h
  · cases h
  split at h
  · cases h
  split at h
  · cases h
  split at h
  · cases h
  cases h
  exact ⟨rfl, rfl, rfl, rfl, rfl, rfl, rfl, rfl, rfl⟩

theorem State.checkRecord_badHeader (s : State) (l : Launch) (w : Nat) (h : launchRecordOk w = false) :
    s.checkRecord l w = .error .badHeader := by
  unfold State.checkRecord
  dsimp only
  rw [if_pos (by rw [h]; rfl)]

/-- The launch that LAUNCH_TAKE begins: as the checks leave it, or ended by one of them. -/
def State.takenLaunch (s : State) (l : Launch) (w leader : Nat) : Launch :=
  match s.checkRecord l w with
  | .ok l => l
  | .error st => { l with ending := some st, stopped := true, leader }

theorem State.takenLaunch_sameRecord (s : State) (l : Launch) (w leader : Nat) : l.SameRecord (s.takenLaunch l w leader) := by
  unfold State.takenLaunch
  split
  · rename_i m h; exact State.checkRecord_sameRecord s l m w h
  · exact ⟨rfl, rfl, rfl, rfl, rfl, rfl, rfl, rfl, rfl⟩

theorem State.takenLaunch_badHeader (s : State) (l : Launch) (w leader : Nat) (h : launchRecordOk w = false) :
    (s.takenLaunch l w leader).ending = some .badHeader ∧ (s.takenLaunch l w leader).stopped = true := by
  unfold State.takenLaunch
  rw [State.checkRecord_badHeader s l w h]
  exact ⟨rfl, rfl⟩

/-- The state that LAUNCH_TAKE leaves once the image's pages are there. -/
def State.takeRecord (s : State) (q : Nat) (x : Queue) (head : Nat) (l : Launch) : State :=
  (({ s with fresh := s.fresh + 1, launches := s.launches ++ [l] }.setQueue q { x with head, running := some l.uid }).writeBytes
    (bytesAt (s.queueAddr q + 12) 4 head)).acquireFor l

theorem State.acquireFor_onlyDies (s : State) (l : Launch) : s.OnlyDies (s.acquireFor l) := by
  refine State.OnlyDies.foldl _ (fun s d => State.OnlyDies.foldl _ (fun s k => ?_) _ s) _ s
  split
  · exact State.invalidateL1_onlyDies s _
  · exact .refl s

theorem State.takeRecord_mem (s : State) (q : Nat) (x : Queue) (head : Nat) (l : Launch) :
    (s.takeRecord q x head l).mem = Memory.writeAll s.mem (bytesAt (s.queueAddr q + 12) 4 head) :=
  (State.acquireFor_onlyDies _ l).mem.trans (State.writeBytes_mem _ _)

theorem State.takeRecord_sameTables (s : State) (q : Nat) (x : Queue) (head : Nat) (l : Launch) :
    ({ s with fresh := s.fresh + 1, launches := s.launches ++ [l] }.setQueue q
      { x with head, running := some l.uid }).SameTables (s.takeRecord q x head l) :=
  (State.writeBytes_sameTables _ _).trans (State.acquireFor_onlyDies _ l).sameTables

/-- LAUNCH_TAKE of a record that may be taken, once the image's pages are there. -/
theorem execLaunchTake_taken (s : State) (q : Nat) (hready : s.crucible.ready = true) (hq : q < 64)
    (hmay : s.mayTakeRecord q = true) (hfirst : s.servedFirst q = true) (hnc : Claims.noContention s)
    (hw : (s.die ((s.participating (s.context (s.queue q).ctx)).headD 0)).walks = []) :
    ∃ u, s.OnlyDies u ∧ execLaunchTake q s = .next (u.takeRecord q (s.queue q) (((s.queue q).head + 1) % 2 ^ (s.queue q).logsize)
      (u.takenLaunch (Launch.ofRecord u.fresh q (s.queue q).ctx (s.queue q).prio (s.number (s.queue q).slot 128))
        (s.number (s.queue q).slot 128) ((s.participating (s.context (s.queue q).ctx)).headD 0))) := by
  have hguard : ¬ (!s.crucible.ready ∨ 64 ≤ q ∨ !s.mayTakeRecord q ∨ !s.servedFirst q) := by simp [hready, hq, hmay, hfirst]
  unfold execLaunchTake
  dsimp only
  rw [if_neg hguard, State.recall_noContention s _ hnc]
  dsimp only
  split
  · rename_i hnone
    split at hnone
    · obtain ⟨u, hu, -⟩ := State.bringImage_idle s _ (s.queue q).ctx (recField (s.number (s.queue q).slot 128) 0 8) hw
      rw [hu] at hnone; cases hnone
    · cases hnone
  · rename_i u hsome
    refine ⟨u, ?_, rfl⟩
    split at hsome
    · obtain ⟨t, ht, hst⟩ := State.bringImage_idle s _ (s.queue q).ctx (recField (s.number (s.queue q).slot 128) 0 8) hw
      rw [ht] at hsome; cases hsome; exact hst
    · cases hsome; exact .refl s

theorem launchTake_takes (s : State) (q : Nat) (hready : s.crucible.ready = true) (hq : q < 64)
    (hmay : s.mayTakeRecord q = true) (hfirst : s.servedFirst q = true) (hnc : Claims.noContention s) :
    let x := s.queue q
    (s.die ((s.participating (s.context x.ctx)).headD 0)).walks = [] →
    let w := s.number (x.ring + 128 * x.head) 128
    let head := (x.head + 1) % 2 ^ x.logsize
    ∃ t l, exec (.launchTake q) s = .next t ∧ t.launches = s.launches ++ [l] ∧ l.uid = s.fresh ∧ l.ctx = x.ctx ∧ l.prio = x.prio
      ∧ l.queue = some q ∧ l.image = w % 2 ^ 64 ∧ l.args = BitVec.ofNat 64 (w / 2 ^ 64) ∧ l.statusVa = w / 2 ^ 128 % 2 ^ 64
      ∧ l.doneVa = w / 2 ^ 192 % 2 ^ 64 ∧ l.lid = w / 2 ^ 320 % 2 ^ 16 ∧ t.queue q = { x with head, running := some s.fresh }
      ∧ Claims.sameOutside s t (s.queueAddr q + 12) 4 ∧ (x.logsize ≤ 16 → t.number (s.queueAddr q + 12) 4 = head)
      ∧ (launchRecordOk w = false → l.ending = some .badHeader ∧ l.stopped = true) := by
  intro x hwalks w head
  obtain ⟨u, hsu, hexec⟩ := execLaunchTake_taken s q hready hq hmay hfirst hnc hwalks
  have hfresh : u.fresh = s.fresh := (congrArg State.fresh hsu.eq :)
  have haddr : u.queueAddr q = s.queueAddr q := by rw [State.queueAddr, hsu.sameTables.crucible]; rfl
  generalize hl : u.takenLaunch (Launch.ofRecord u.fresh q x.ctx x.prio w) w ((s.participating (s.context x.ctx)).headD 0) = l
  have hrec : (Launch.ofRecord u.fresh q x.ctx x.prio w).SameRecord l := hl ▸ State.takenLaunch_sameRecord u _ w _
  have htables := State.takeRecord_sameTables u q x head l
  have hmem : (u.takeRecord q x head l).mem = Memory.writeAll s.mem (bytesAt (s.queueAddr q + 12) 4 head) := by
    rw [State.takeRecord_mem, hsu.mem, haddr]
  refine ⟨u.takeRecord q x head l, l, hl ▸ hexec, ?_, hrec.uid.trans hfresh, hrec.ctx, hrec.prio, hrec.queue, ?_, ?_, ?_, ?_, ?_, ?_,
    ?_, ?_, ?_⟩
  · exact htables.launches.trans (congrArg (· ++ [l]) hsu.sameTables.launches)
  · exact hrec.image.trans ((recField_eq w 0 8).trans (by rw [Nat.mul_zero, Nat.pow_zero, Nat.div_one]))
  · have hargs : BitVec.ofNat 64 (recField w 8 8) = BitVec.ofNat 64 (w / 2 ^ 64) := by
      apply BitVec.eq_of_toNat_eq
      rw [BitVec.toNat_ofNat, BitVec.toNat_ofNat, recField_eq w 8 8, Nat.mod_mod]
    exact hrec.args.trans hargs
  · exact hrec.statusVa.trans (recField_eq w 16 8)
  · exact hrec.doneVa.trans (recField_eq w 24 8)
  · rw [show 320 = 8 * 40 from rfl]
    exact hrec.lid.trans (recField_eq w 40 2)
  · have huid : l.uid = s.fresh := hrec.uid.trans hfresh
    rw [State.queue, htables.crucible, ← huid]
    exact State.queue_setQueue_self _ q _
  · intro p hp
    rw [hmem]
    exact Memory.read_writeAll_bytesAt_outside s.mem _ 4 head p hp
  · intro hlog
    rw [State.number_of_writeAll_bytesAt s _ _ 4 head hmem]
    have hpow : 2 ^ x.logsize ≤ 2 ^ 16 := Nat.pow_le_pow_right (by decide) hlog
    have hhead : head < 2 ^ x.logsize := Nat.mod_lt _ (Nat.two_pow_pos _)
    exact Nat.mod_eq_of_lt (by omega)
  · intro hbad
    exact hl ▸ State.takenLaunch_badHeader u _ w _ hbad

theorem queues_holds : Claims.queues_ := by
  refine ⟨?_, launchTake_takes⟩
  intro s q v hready hq hne
  exact ⟨qdoor_enabled s q v hready hq hne, qdoor_error s q v hready hq hne⟩

end Sys2Proof.Machine
end

section
/-! SUPPORT. What the operations on the way of a chorus off its cores leave alone: the launches, which choruses there are, and
the contexts that are being deactivated. -/

namespace Sys2Proof.Machine

/-- The same launches, the same choruses by number, and the same contexts in deactivation. -/
structure State.SameRoster (s t : State) : Prop where
  launches : t.launches = s.launches
  uids : t.choruses.map (·.uid) = s.choruses.map (·.uid)
  deactivating : ∀ n, (t.context n).deactivating = (s.context n).deactivating

theorem State.SameRoster.refl (s : State) : s.SameRoster s := ⟨rfl, rfl, fun _ => rfl⟩

theorem State.SameRoster.trans {s t u : State} (h : s.SameRoster t) (k : t.SameRoster u) : s.SameRoster u :=
  ⟨k.launches.trans h.launches, k.uids.trans h.uids, fun n => (k.deactivating n).trans (h.deactivating n)⟩

theorem State.SameRoster.foldl {β : Type} (g : State → β → State) (hg : ∀ (s : State) (x : β), s.SameRoster (g s x)) (xs : List β)
    (s : State) : s.SameRoster (xs.foldl g s) := by
  induction xs generalizing s with
  | nil => exact .refl s
  | cons x rest ih => exact (hg s x).trans (ih (g s x))

/-- A change of other fields keeps the roster. -/
theorem State.SameRoster.of_eq {s t : State} (hl : t.launches = s.launches) (hc : t.choruses = s.choruses)
    (hx : t.contexts = s.contexts) : s.SameRoster t :=
  ⟨hl, by rw [hc], fun n => by rw [State.context, State.context, hx]⟩

theorem State.OnlyDies.sameRoster {s t : State} (h : s.OnlyDies t) : s.SameRoster t :=
  .of_eq (congrArg State.launches h.eq :) (congrArg State.choruses h.eq :) (congrArg State.contexts h.eq :)

/-! ### Updates of parts -/

theorem updateFirst_map {α β : Type} (p : α → Bool) (g : α → α) (f : α → β) (hg : ∀ x, f (g x) = f x) (xs : List α) :
    (updateFirst p g xs).map f = xs.map f := by
  induction xs with
  | nil => rfl
  | cons x rest ih =>
    unfold updateFirst
    split <;> simp [hg, ih]

theorem State.modChorus_sameRoster (s : State) (uid : Nat) (g : Chorus → Chorus) (hg : ∀ x, (g x).uid = x.uid := by intro x; rfl) :
    s.SameRoster (s.modChorus uid g) := ⟨rfl, updateFirst_map _ g _ hg _, fun _ => rfl⟩

theorem State.modClutch_sameRoster (s : State) (who : ClutchId) (g : Clutch → Clutch) : s.SameRoster (s.modClutch who g) :=
  State.modChorus_sameRoster s _ _

theorem State.modDie_sameRoster (s : State) (d : Nat) (g : Die → Die) : s.SameRoster (s.modDie d g) := .of_eq rfl rfl rfl

theorem State.modCrucible_sameRoster (s : State) (g : Crucible → Crucible) : s.SameRoster (s.modCrucible g) := .of_eq rfl rfl rfl

theorem State.send_sameRoster (s : State) (m : Msg) : s.SameRoster (s.send m) := .of_eq rfl rfl rfl

theorem State.bump_sameRoster (s : State) : s.SameRoster s.bump := .of_eq rfl rfl rfl

theorem State.modContext_sameRoster (s : State) (n : Nat) (g : Context → Context)
    (hg : ∀ x, (g x).deactivating = x.deactivating := by intro x; rfl) : s.SameRoster (s.modContext n g) := by
  refine ⟨rfl, rfl, fun k => ?_⟩
  by_cases h : k = n
  · subst h; rw [State.context_modContext_self, hg]
  · rw [State.context_modContext_other s n k g h]

theorem State.invalidateL1_sameRoster (s : State) (c : CoreId) : s.SameRoster (s.invalidateL1 c) :=
  (State.invalidateL1_onlyDies s c).sameRoster

/-! ### Watches and writes to scratchpads -/

theorem State.fireWatch_sameRoster (s : State) (die : Nat) (w : Watch) (v : Nat) : s.SameRoster (s.fireWatch die w v) := by
  unfold State.fireWatch
  dsimp only
  have frees := State.modDie_sameRoster s die
  split
  · exact frees _
  · split
    · exact frees _
    · exact ((frees _).trans (State.modClutch_sameRoster _ _ _)).trans (State.invalidateL1_sameRoster _ _)

theorem State.examine_sameRoster (s : State) (die : Nat) (p : Watch → Bool) : s.SameRoster (s.examine die p) := by
  refine State.SameRoster.foldl _ (fun s w => ?_) _ s
  dsimp only
  split
  · exact State.fireWatch_sameRoster s die w _
  · exact .refl s

@[simp] theorem Chorus.mapJobs_uid (c : Chorus) (g : Job → Job) : (c.mapJobs g).uid = c.uid := by
  unfold Chorus.mapJobs
  split <;> rfl

theorem State.writeLocal_sameRoster (s : State) (uid : Nat) (bytes : Store Byte) : s.SameRoster (s.writeLocal uid bytes) := by
  unfold State.writeLocal
  split
  · exact .refl s
  · refine (State.modChorus_sameRoster s uid _ fun x => ?_).trans (State.examine_sameRoster _ _ _)
    simp [Chorus.writeScratch, Chorus.setScratch]

/-! ### Landings and futures -/

theorem State.flag_sameRoster (s : State) (uid : Nat) (w : Word) : s.SameRoster (s.flag uid w) := by
  unfold State.flag
  split
  · exact .refl s
  · exact State.modChorus_sameRoster s uid _

theorem State.setFresh_sameRoster (s : State) (n : Nat) : s.SameRoster { s with fresh := n } := .of_eq rfl rfl rfl

theorem State.setLandings_sameRoster (s : State) (ls : List Landing) : s.SameRoster { s with landings := ls } := .of_eq rfl rfl rfl

theorem State.land_sameRoster (s : State) (p : Landing) : s.SameRoster (s.land p) := by
  unfold State.land
  dsimp only
  have gone := State.setLandings_sameRoster s
  have fills := fun ls g w => ((gone ls).trans (State.modClutch_sameRoster _ p.who g)).trans (State.flag_sameRoster _ p.who.chorus w)
  split
  · exact gone _
  · split
    · exact (fills _ _ _).trans (State.modChorus_sameRoster _ _ _)
    · exact fills _ _ _

theorem State.deliver_sameRoster (s : State) (id v : Nat) : s.SameRoster (s.deliver id v) := by
  unfold State.deliver
  split
  · exact .refl s
  · dsimp only
    split
    · exact (State.land_sameRoster s _).trans (State.invalidateL1_sameRoster _ _)
    · exact State.land_sameRoster s _

theorem State.deliverAll_sameRoster (v : Nat) (xs : List (Nat × Bool)) (s : State) :
    s.SameRoster (xs.foldl (fun s w => s.deliver w.1 v) s) :=
  State.SameRoster.foldl (fun s (w : Nat × Bool) => s.deliver w.1 v) (fun s w => State.deliver_sameRoster s w.1 v) xs s

theorem State.freeFutureAt_sameRoster (s : State) (die i : Nat) : s.SameRoster (s.freeFutureAt die i) :=
  (State.modDie_sameRoster s die _).trans (State.deliverAll_sameRoster invalidValue _ _)

theorem State.completeFuture_sameRoster (s : State) (die i : Nat) (st : FutureState) (v : DWord) :
    s.SameRoster (s.completeFuture die i st v) := by
  have completes := fun g xs => (State.modDie_sameRoster s die g).trans (State.deliverAll_sameRoster v.toNat xs _)
  unfold State.completeFuture
  dsimp only
  split
  · exact .refl s
  split
  · exact State.freeFutureAt_sameRoster s die i
  split
  · exact (completes _ _).trans (State.freeFutureAt_sameRoster _ die i)
  · exact completes _ _

theorem State.retireFutures_sameRoster (s : State) (die uid : Nat) : s.SameRoster (s.retireFutures die uid) := by
  refine State.SameRoster.foldl _ (fun s x => ?_) _ s
  split
  · exact .refl s
  split
  · exact State.modDie_sameRoster s die _
  · exact State.freeFutureAt_sameRoster s die _

/-! ### Copies -/

theorem State.gather_sameRoster (s : State) (w : PlainWrite) (bytes : Store Byte) : s.SameRoster (s.gather w bytes) := by
  unfold State.gather
  refine State.SameRoster.trans (State.SameRoster.foldl _ (fun t g => ?_) _ s) (State.setFresh_sameRoster _ _)
  cases g with
  | nil => exact .refl t
  | cons x rest => exact State.modDie_sameRoster t _ _

theorem State.performUnits_sameRoster (s : State) (e : Env) (j : CopyJob) (us : List CopyUnit) :
    s.SameRoster (s.performUnits e j us).1 := by
  unfold State.performUnits
  dsimp only
  have reads : ∀ spans, s.SameRoster (if j.desc.ssp = 0 then s.readsThrough e.core e.l.ctx spans else s) := by
    intro spans
    split
    · exact State.OnlyDies.sameRoster (State.readsAt_dies s _)
    · exact .refl s
  have moves : ∀ (u : State) (local_ : Store Byte), s.SameRoster u →
      s.SameRoster (if local_.isEmpty then u else u.writeLocal e.who.chorus local_) := by
    intro u local_ hu
    split
    · exact hu
    · exact hu.trans (State.writeLocal_sameRoster u _ _)
  exact ((moves _ _ ((reads _).trans (State.gather_sameRoster _ _ _))).trans (State.modChorus_sameRoster _ _ _)).trans
    (State.bump_sameRoster _)

theorem State.dropCopy_sameRoster (s : State) (id : Nat) : s.SameRoster (s.dropCopy id) := .of_eq rfl rfl rfl

theorem State.giveBack_sameRoster (s : State) (j : CopyJob) : s.SameRoster (s.giveBack j) := by
  unfold State.giveBack
  split
  · exact .refl s
  · exact State.modChorus_sameRoster s _ _

theorem Chorus.tileEvent_uid (c : Chorus) (now order n : Nat) (g : Tile → Tile) : (c.tileEvent now order n g).uid = c.uid := by
  unfold Chorus.tileEvent Chorus.modTile
  dsimp only
  split <;> simp

/-- What the end of a copy does to its tile (R285, R286). -/
def State.settleTile (s : State) (j : CopyJob) (st : FutureState) : State :=
  if st ≠ .done then s.giveBack j
  else if j.desc.tile = 0 then s
  else s.modChorus j.who.chorus (fun c => c.tileEvent s.now landingOrder (j.desc.tile - 1) (fun t =>
    { t with remain := t.remain - j.bytes, state := if t.remain ≤ j.bytes then .ready else t.state }))

theorem State.settleTile_sameRoster (s : State) (j : CopyJob) (st : FutureState) : s.SameRoster (s.settleTile j st) := by
  unfold State.settleTile
  split
  · exact State.giveBack_sameRoster s j
  split
  · exact .refl s
  · exact State.modChorus_sameRoster s _ _ fun x => Chorus.tileEvent_uid x _ _ _ _

theorem State.endCopy_sameRoster (s : State) (j : CopyJob) (st : FutureState) (v : DWord) : s.SameRoster (s.endCopy j st v) := by
  have ends : s.endCopy j st v = (((((s.settleTile j st).modChorus j.who.chorus (fun c =>
      { c with copyNotes := c.copyNotes.set {} j.id {} })).dropCopy j.id).flag j.who.chorus
        (((s.settleTile j st).chorus? j.who.chorus).elim 0 (fun c => (c.copyNotes.get {} j.id).flags))).completeFuture j.die j.future
          st v) := rfl
  rw [ends]
  exact ((((State.settleTile_sameRoster s j st).trans (State.modChorus_sameRoster _ _ _)).trans
    (State.dropCopy_sameRoster _ _)).trans (State.flag_sameRoster _ _ _)).trans (State.completeFuture_sameRoster _ _ _ _ _)

theorem State.stopCopy_sameRoster (s : State) (j : CopyJob) (st : FutureState) (v : DWord) : s.SameRoster (s.stopCopy j st v) := by
  unfold State.stopCopy
  split
  · exact .of_eq rfl rfl rfl
  · exact State.endCopy_sameRoster s j st v

theorem State.cancelCopy_sameRoster (s : State) (j : CopyJob) : s.SameRoster (s.cancelCopy j) := by
  unfold State.cancelCopy
  split
  · exact State.dropCopy_sameRoster s _
  · dsimp only
    split
    · exact .of_eq rfl rfl rfl
    · exact .of_eq rfl rfl rfl
    · exact ((State.performUnits_sameRoster s _ _ _).trans (State.stopCopy_sameRoster _ _ _ _)).trans (State.bump_sameRoster _)

/-! ### What a retiring chorus gives up -/

theorem State.freeSlot_sameRoster (s : State) (left : List Landing) (p : Landing) : s.SameRoster (s.freeSlot left p) := by
  unfold State.freeSlot
  split
  · dsimp only
    split
    · exact .refl s
    · exact State.modDie_sameRoster s _ _
  · exact .refl s

theorem State.dropLandings_sameRoster (s : State) (p : Landing → Bool) : s.SameRoster (s.dropLandings p) := by
  unfold State.dropLandings
  dsimp only
  split
  · exact .refl s
  · exact State.SameRoster.trans (State.SameRoster.foldl _ (fun s x => State.freeSlot_sameRoster s _ x) _ s) (.of_eq rfl rfl rfl)

theorem State.dropWatches_sameRoster (s : State) (die uid : Nat) : s.SameRoster (s.dropWatches die uid) :=
  State.modDie_sameRoster s die _

theorem State.markIdle_sameRoster (s : State) (c : Chorus) : s.SameRoster (s.markIdle c) :=
  State.SameRoster.foldl _ (fun s _ => State.modDie_sameRoster s _ _) _ s

theorem State.flushReleases_sameRoster (s : State) : s.SameRoster s.flushReleases := by
  refine State.SameRoster.foldl _ (fun s p => ?_) _ s
  dsimp only
  split
  · exact .refl s
  · exact ((State.modCrucible_sameRoster s _).trans (State.modContext_sameRoster _ _ _)).trans
      (State.SameRoster.foldl _ (fun s h => State.SameRoster.foldl _ (fun s d => State.send_sameRoster s _) _ s) _ _)

theorem State.releaseChorus_sameRoster (s : State) (c : Chorus) (l : Launch) : s.SameRoster (s.releaseChorus c l) :=
  (State.modCrucible_sameRoster s _).trans (State.flushReleases_sameRoster _)

theorem State.payNotices_sameRoster (s : State) : s.SameRoster s.payNotices :=
  (State.modCrucible_sameRoster s _).trans (State.SameRoster.foldl _ (fun s p => State.send_sameRoster s (.retired p)) _ _)

/-! ### Clusters pass on (R356) -/

/-- What passing a cluster on leaves alone: the roster, memory, the crucible, and whether a core rests. -/
structure State.SameInPassing (s t : State) : Prop extends State.SameRoster s t where
  mem : t.mem = s.mem
  crucible : t.crucible = s.crucible
  resting : ∀ d n, ((t.die d).core n).resting = ((s.die d).core n).resting

theorem State.SameInPassing.refl (s : State) : s.SameInPassing s := ⟨.refl s, rfl, rfl, fun _ _ => rfl⟩

theorem State.SameInPassing.trans {s t u : State} (h : s.SameInPassing t) (k : t.SameInPassing u) : s.SameInPassing u :=
  ⟨h.toSameRoster.trans k.toSameRoster, k.mem.trans h.mem, k.crucible.trans h.crucible,
    fun d n => (k.resting d n).trans (h.resting d n)⟩

theorem State.SameInPassing.foldl {β : Type} (g : State → β → State) (hg : ∀ (s : State) (x : β), s.SameInPassing (g s x))
    (xs : List β) (s : State) : s.SameInPassing (xs.foldl g s) := by
  induction xs generalizing s with
  | nil => exact .refl s
  | cons x rest ih => exact (hg s x).trans (ih (g s x))

theorem State.modChorus_sameInPassing (s : State) (uid : Nat) (g : Chorus → Chorus) (hg : ∀ x, (g x).uid = x.uid := by intro x; rfl) :
    s.SameInPassing (s.modChorus uid g) := ⟨State.modChorus_sameRoster s uid g hg, rfl, rfl, fun _ _ => rfl⟩

theorem State.modClutch_sameInPassing (s : State) (who : ClutchId) (g : Clutch → Clutch) : s.SameInPassing (s.modClutch who g) :=
  State.modChorus_sameInPassing s _ _

theorem State.modContext_sameInPassing (s : State) (n : Nat) (g : Context → Context)
    (hg : ∀ x, (g x).deactivating = x.deactivating := by intro x; rfl) : s.SameInPassing (s.modContext n g) :=
  ⟨State.modContext_sameRoster s n g hg, rfl, rfl, fun _ _ => rfl⟩

theorem State.bump_sameInPassing (s : State) : s.SameInPassing s.bump :=
  ⟨State.bump_sameRoster s, rfl, rfl, fun _ _ => rfl⟩

theorem State.modDie_sameInPassing (s : State) (d : Nat) (g : Die → Die)
    (hg : ∀ x n, ((g x).core n).resting = (x.core n).resting := by intro x n; rfl) : s.SameInPassing (s.modDie d g) :=
  ⟨State.modDie_sameRoster s d g, rfl, rfl,
    fun k n => State.die_modDie_field (fun x => (x.core n).resting) s d k g (fun x => hg x n)⟩

theorem State.modCore_sameInPassing (s : State) (c : CoreId) (g : Core → Core)
    (hg : ∀ x, (g x).resting = x.resting := by intro x; rfl) : s.SameInPassing (s.modCore c g) := by
  refine State.modDie_sameInPassing s c.die _ fun x n => ?_
  unfold Die.core
  by_cases h : n = c.core
  · rw [h, Store.get_modify_self, hg]
  · rw [Store.get_modify_other _ _ _ _ _ h]

theorem State.invalidateL1_sameInPassing (s : State) (c : CoreId) : s.SameInPassing (s.invalidateL1 c) := by
  unfold State.invalidateL1 State.dropL1 State.mapL1
  split
  · exact .refl s
  · exact State.modCore_sameInPassing s c _

theorem Chorus.endClaims_uid (c : Chorus) (n tick pos : Nat) : (c.endClaims n tick pos).uid = c.uid := by
  have fold : ∀ (xs : List Claim) (c : Chorus), (xs.foldl (fun c x => c.completeClaim n tick x false) c).uid = c.uid := by
    intro xs
    induction xs with
    | nil => intro c; rfl
    | cons x rest ih => intro c; exact (ih _).trans rfl
  exact fold _ _

theorem State.resumeCore_sameInPassing (s : State) (c : CoreId) : s.SameInPassing (s.resumeCore c) := by
  have stopper : s.SameInPassing (match (s.core c).stopper with
      | some who => if (s.core c).code = Code.break_.num ∧ !(s.core c).pcWritten then s.modClutch who (·.advance 8) else s
      | none => s) := by
    split
    · split
      · exact State.modClutch_sameInPassing s _ _
      · exact .refl s
    · exact .refl s
  unfold State.resumeCore
  refine (((stopper.trans (State.SameInPassing.foldl _ (fun s x => ?_) _ _)).trans
    (State.SameInPassing.foldl _ (fun s ch => State.SameInPassing.foldl _ (fun s pos => ?_) _ s) _ _)).trans
    (State.modCore_sameInPassing _ _ _)).trans (State.bump_sameInPassing _)
  · dsimp only
    split
    · exact .refl s
    · exact State.modClutch_sameInPassing s _ _
  · split
    · exact State.modChorus_sameInPassing s _ _ fun x => Chorus.endClaims_uid x _ _ _
    · exact .refl s

theorem State.unfreezeCore_sameInPassing (s : State) (c : CoreId) : s.SameInPassing (s.unfreezeCore c) := by
  unfold State.unfreezeCore
  dsimp only
  split
  · exact State.resumeCore_sameInPassing s c
  · exact .refl s

/-- The context that leaves a cluster has drained it. -/
def State.endDrain (s : State) (holder : Option Nat) (bit : Nat) : State :=
  match holder with
  | some n => s.modContext n (fun c => { c with drains := c.drains.filter (fun x => x.2 ≠ some bit) })
  | none => s

/-- A cluster passes to another context: its cores forget their first-level caches and go on. -/
def State.handOver (s : State) (die cluster : Nat) (next : Option Nat) : State :=
  (List.range 4).foldl (fun s k => (s.invalidateL1 { die, core := 4 * cluster + k }).unfreezeCore { die, core := 4 * cluster + k })
    (s.modDie die (fun d => { d with holders := d.holders.set {} cluster { ctx := next } }))

/-- What becomes of a cluster that may pass on: nothing, the end of a drain, or another holder (R356). -/
theorem State.passCluster_cases (s : State) (die cluster : Nat) :
    s.passCluster die cluster = s ∨ ∃ holder bit, s.passCluster die cluster = s.endDrain holder bit
      ∨ ∃ next, s.passCluster die cluster = (s.endDrain holder bit).handOver die cluster next := by
  unfold State.passCluster
  dsimp only
  refine Or.imp id (fun h => ⟨(s.holder die cluster).ctx, clusterBit die cluster, ?_⟩) (ite_eq_or_eq _ s _)
  rw [h]
  exact Or.imp id (fun h => ⟨_, h⟩) (ite_eq_or_eq _ _ _)

theorem State.endDrain_sameInPassing (s : State) (holder : Option Nat) (bit : Nat) : s.SameInPassing (s.endDrain holder bit) := by
  cases holder with
  | none => exact .refl s
  | some n => exact State.modContext_sameInPassing s n _

theorem State.handOver_sameInPassing (s : State) (die cluster : Nat) (next : Option Nat) :
    s.SameInPassing (s.handOver die cluster next) :=
  (State.modDie_sameInPassing s die _).trans (State.SameInPassing.foldl _ (fun s _ =>
    (State.invalidateL1_sameInPassing s _).trans (State.unfreezeCore_sameInPassing _ _)) _ _)

theorem State.passCluster_sameInPassing (s : State) (die cluster : Nat) : s.SameInPassing (s.passCluster die cluster) := by
  obtain h | ⟨holder, bit, h | ⟨next, h⟩⟩ := State.passCluster_cases s die cluster <;> rw [h]
  · exact .refl s
  · exact State.endDrain_sameInPassing s holder bit
  · exact (State.endDrain_sameInPassing s holder bit).trans (State.handOver_sameInPassing _ die cluster next)

theorem State.passClusters_sameInPassing (s : State) (die : Nat) : s.SameInPassing (s.passClusters die) :=
  State.SameInPassing.foldl _ (fun s k => State.passCluster_sameInPassing s die k) _ s

/-- A context that is not being deactivated keeps its launches when a chorus or a launch of it has gone. -/
theorem State.settleContext_sameRoster (s : State) (ctx : Nat) (h : (s.context ctx).deactivating = false) :
    s.SameRoster (s.settleContext ctx) := by
  unfold State.settleContext
  dsimp only
  split
  · exact .refl s
  rw [if_neg (by simp [h])]
  split
  · exact (State.modContext_sameRoster s ctx _).trans (State.modCrucible_sameRoster _ _)
  · exact State.modContext_sameRoster s ctx _

theorem State.left_sameRoster (s : State) (l : Launch) (die : Nat) (h : (s.context l.ctx).deactivating = false) :
    s.SameRoster (s.left l die) := by
  have passes := (State.passClusters_sameInPassing s die).toSameRoster
  exact passes.trans (State.settleContext_sameRoster _ _ ((passes.deactivating _).trans h))

end Sys2Proof.Machine
end

section
/-! SUPPORT. Placement and waiting times: what settles the third part of O57. -/

namespace Sys2Proof.Machine

/-! ### The registers of a clutch at its entry (R366) -/

/-- Every lane of a register that holds one word holds it. -/
theorem lane_splat (w : Word) (i : Nat) (hi : i < 96) : lane (splat w) i = w := by
  unfold splat packLanes
  split
  · rename_i hzero
    have hmem : w ∈ lanesOf fun _ => w := List.mem_map.mpr ⟨i, List.mem_range.mpr hi, rfl⟩
    have hw : w = 0 := by simpa using List.all_eq_true.mp hzero w hmem
    rw [hw]; rfl
  · exact lane_lanesOf (fun _ => w) i hi

/-- A clutch as it enters its kernel: the registers are the arguments in 0 and 1, the uniform window is empty. -/
structure Clutch.Entering (l : Launch) (die : Nat) (c : Clutch) : Prop where
  pc : c.pc = BitVec.ofNat 32 (l.variants.get {} die).entry
  held : c.held = l.hdr.regs
  ended : c.ended = false
  path : c.path = BitVec.allOnes 96
  mask : c.mask = BitVec.allOnes 96
  exited : c.exited = 0
  stack : c.stack = []
  empty : c.empty = []
  fmode : c.fmode = 0
  mcr : c.mcr = 0
  ehbase : c.ehbase = 0
  window : c.acclim = c.accbase + BitVec.ofNat 32 l.hdr.accRows
  uni : c.uni = []

/-- The registers of an entering clutch: its launch's arguments, and zero. -/
def Launch.entryRegs (l : Launch) : Store Lanes :=
  Store.set [] (Store.set [] ([] : Store Lanes) 0 (splat (l.args.setWidth 32))) 1 (splat (l.args >>> 32 |>.setWidth 32))

theorem State.entryClutches_entering (s : State) (l : Launch) (die : Nat) (cores rows : List Nat) (c : Clutch)
    (hc : c ∈ s.entryClutches l die cores rows) : c.Entering l die ∧ c.regs = l.entryRegs := by
  unfold State.entryClutches at hc
  obtain ⟨k, -, rfl⟩ := List.mem_map.mp hc
  exact ⟨⟨rfl, rfl, rfl, rfl, rfl, rfl, rfl, rfl, rfl, rfl, rfl, BitVec.ofNat_add .., rfl⟩, rfl⟩

/-- What a clutch with the registers of the entry reads. -/
theorem Clutch.Entering.word_eq {l : Launch} {die : Nat} {c : Clutch} (h : c.Entering l die) (reg i : Nat) (hreg : reg < 253)
    (hi : i < 96) (h8 : 8 ≤ l.hdr.regs) (h256 : l.hdr.regs + l.hdr.uniform ≤ 256)
    (hregs : Store.get [] c.regs reg = Store.get [] l.entryRegs reg) :
    c.word l.hdr.uniform reg i = if reg = 0 then l.args.setWidth 32 else if reg = 1 then (l.args >>> 32).setWidth 32 else 0 := by
  have hone : Store.get [] l.entryRegs 1 = splat ((l.args >>> 32).setWidth 32) := Store.get_set_self _ _ _ _
  have hzero : Store.get [] l.entryRegs 0 = splat (l.args.setWidth 32) := by
    rw [Launch.entryRegs, Store.get_set_other _ _ _ _ _ (by decide), Store.get_set_self]
  unfold Clutch.word
  rw [if_neg (by omega), h.uni, hregs]
  by_cases h0 : reg = 0
  · subst h0
    have hprivate : isUniform l.hdr.uniform 0 = false := decide_eq_false (by omega)
    rw [hprivate, hzero, lane_splat _ i hi]
    rfl
  · by_cases h1 : reg = 1
    · subst h1
      have hprivate : isUniform l.hdr.uniform 1 = false := decide_eq_false (by omega)
      rw [hprivate, hone, lane_splat _ i hi]
      rfl
    · have hother : Store.get [] l.entryRegs reg = [] := by
        rw [Launch.entryRegs, Store.get_set_other _ _ _ _ _ h1, Store.get_set_other _ _ _ _ _ h0]
        rfl
      rw [hother, if_neg h0, if_neg h1]
      split <;> rfl

/-- One register becomes undefined. -/
def Clutch.undefineReg (tick r : Nat) (c : Clutch) : Clutch :=
  { c with
    regs := c.regs.set [] r (packLanes (lanesOf (Config.freeWord tick r)))
    tags := c.tags.set 0 r 0
    empty := setErase c.empty r
    poison := c.poison.filter (fun k => k / 96 ≠ r)
    loans := c.loans.write r }

/-- What undefined registers leave alone. -/
theorem Clutch.foldl_undefineReg_frame (tick : Nat) (rs : List Nat) (c : Clutch) :
    { rs.foldl (fun c r => c.undefineReg tick r) c with
      regs := c.regs, tags := c.tags, empty := c.empty, poison := c.poison, loans := c.loans } = c := by
  induction rs generalizing c with
  | nil => rfl
  | cons r rest ih =>
    exact (congrArg (fun x : Clutch =>
      { x with regs := c.regs, tags := c.tags, empty := c.empty, poison := c.poison, loans := c.loans }) (ih (c.undefineReg tick r)) :)

theorem Clutch.foldl_undefineReg_regs (tick : Nat) (rs : List Nat) (c : Clutch) (reg : Nat) (h : reg ∉ rs) :
    Store.get [] (rs.foldl (fun c r => c.undefineReg tick r) c).regs reg = Store.get [] c.regs reg := by
  induction rs generalizing c with
  | nil => rfl
  | cons r rest ih =>
    rw [List.mem_cons, not_or] at h
    rw [List.foldl_cons, ih _ h.2]
    exact Store.get_set_other _ _ _ _ _ h.1

theorem Clutch.undefine_eq (c : Clutch) (tick first count : Nat) :
    c.undefine tick first count = ((List.range count).map (first + ·)).foldl (fun c r => c.undefineReg tick r) c := by
  rw [List.foldl_map]
  rfl

/-- The loss of volatile registers leaves a clutch at its entry there. -/
theorem Clutch.Entering.loseVolatile {l : Launch} {die : Nat} {c : Clutch} (h : c.Entering l die) (tick : Nat) (hd : Header) :
    (c.loseVolatile tick hd).Entering l die := by
  have hframe := Clutch.foldl_undefineReg_frame tick ((List.range (min hd.volCount (c.held - hd.volFirst))).map (hd.volFirst + ·)) c
  rw [← Clutch.undefine_eq] at hframe
  obtain ⟨hpc, hheld, hended, hpath, hmask, hexited, hstack, hempty, hfmode, hmcr, hehbase, hwindow, huni⟩ := h
  unfold Clutch.loseVolatile
  generalize c.undefine tick hd.volFirst (min hd.volCount (c.held - hd.volFirst)) = x at hframe ⊢
  have field : ∀ {α : Type} (f : Clutch → α), f { x with
      regs := c.regs, tags := c.tags, empty := c.empty, poison := c.poison, loans := c.loans } = f c := fun f => congrArg f hframe
  exact ⟨(field Clutch.pc).trans hpc, (field Clutch.held).trans hheld, (field Clutch.ended).trans hended,
    (field Clutch.path).trans hpath, (field Clutch.mask).trans hmask, (field Clutch.exited).trans hexited,
    (field Clutch.stack).trans hstack, hempty, (field Clutch.fmode).trans hfmode, (field Clutch.mcr).trans hmcr,
    (field Clutch.ehbase).trans hehbase,
    ((field Clutch.acclim).trans hwindow).trans (congrArg (· + _) (field Clutch.accbase).symm), (field Clutch.uni).trans huni⟩

theorem Clutch.loseVolatile_regs (c : Clutch) (tick : Nat) (h : Header) (reg : Nat)
    (hr : ¬ (h.volFirst ≤ reg ∧ reg < h.volFirst + h.volCount)) :
    Store.get [] (c.loseVolatile tick h).regs reg = Store.get [] c.regs reg := by
  have hundef : Store.get [] (c.undefine tick h.volFirst (min h.volCount (c.held - h.volFirst))).regs reg
      = Store.get [] c.regs reg := by
    rw [Clutch.undefine_eq]
    refine Clutch.foldl_undefineReg_regs tick _ c reg fun hmem => hr ?_
    obtain ⟨i, hi, rfl⟩ := List.mem_map.mp hmem
    have hi : i < min h.volCount (c.held - h.volFirst) := List.mem_range.mp hi
    omega
  exact hundef

/-- The clutches of a chorus that enters its kernel. -/
theorem State.enter_clutches (s : State) (l : Launch) (c : Chorus) (cores : List Nat) (r : Room) (cl : Clutch)
    (hcl : cl ∈ (s.enter l c cores r).clutches) : cl.Entering l c.die
      ∧ ∀ reg, (c.restarts = true → ¬ (l.hdr.volFirst ≤ reg ∧ reg < l.hdr.volFirst + l.hdr.volCount)) →
        Store.get [] cl.regs reg = Store.get [] l.entryRegs reg := by
  obtain ⟨x, hx, rfl⟩ := List.mem_map.mp hcl
  obtain ⟨hent, hregs⟩ := State.entryClutches_entering s l c.die cores r.rows x hx
  by_cases hvol : (c.restarts && l.hdr.volCount ≠ 0) = true
  · rw [if_pos hvol]
    refine ⟨hent.loseVolatile s.tick l.hdr, fun reg hreg => ?_⟩
    have hrestarts : c.restarts = true := (Bool.and_eq_true _ _ ▸ hvol).1
    rw [Clutch.loseVolatile_regs x s.tick l.hdr reg (hreg hrestarts), hregs]
  · rw [if_neg hvol]
    exact ⟨hent, fun reg _ => by rw [hregs]⟩

theorem State.enter_clutches_length (s : State) (l : Launch) (c : Chorus) (cores : List Nat) (r : Room) :
    (s.enter l c cores r).clutches.length = l.hdr.clutches := by
  simp [State.enter, State.entryClutches]

/-! ### Putting a chorus in its place -/

theorem State.chorus?_putChorus_self (s : State) (c : Chorus) : (s.putChorus c).chorus? c.uid = some c := by
  unfold State.putChorus
  split
  · rename_i h
    obtain ⟨x, hx⟩ := Option.isSome_iff_exists.mp h
    have hfound : (updateFirst (fun y => y.uid = c.uid) (fun _ => c) s.choruses).find? (·.uid = c.uid)
        = (s.choruses.find? (·.uid = c.uid)).map fun _ => c :=
      find?_updateFirst_self _ _ (fun _ _ => by simp) _
    exact hfound.trans (by rw [State.chorus?] at hx; rw [hx]; rfl)
  · rename_i h
    have hnone : s.choruses.find? (·.uid = c.uid) = none := by
      rw [State.chorus?, Bool.not_eq_true, Option.isSome_eq_false_iff, Option.isNone_iff_eq_none] at h
      exact h
    rw [State.chorus?, List.find?_append, hnone]
    simp

theorem State.putChorus_mem (s : State) (c : Chorus) : (s.putChorus c).mem = s.mem := by
  unfold State.putChorus
  split <;> rfl

theorem State.takeCores_mem (s : State) (die : Nat) (cores : List Nat) (h : Header) : (s.takeCores die cores h).mem = s.mem := by
  refine State.foldl_mem _ (fun s k => ?_) cores s
  dsimp only
  split <;> rfl

theorem State.install_mem (s : State) (l : Launch) (c : Chorus) (cores : List Nat) (r : Room) (status : Residency) :
    (s.install l c cores r status).mem = s.mem := by
  rw [State.install, State.putChorus_mem, State.takeCores_mem]
  rfl

theorem State.started_mem (s : State) (l : Launch) (uid : Nat) : (s.started l uid).mem = s.mem := by
  unfold State.started
  split <;> rfl

theorem State.chorus?_started (s : State) (l : Launch) (uid : Nat) (c : Chorus) (h : s.chorus? uid = some c) :
    (s.started l uid).chorus? uid = some { c with placed := s.fresh } := by
  unfold State.started
  rw [h]
  have hplaced := State.chorus?_modChorus_self s uid (fun c => { c with placed := s.fresh }) (fun _ => rfl)
  rw [h] at hplaced
  exact hplaced

/-- The parts of a chorus other than its records. -/
structure Chorus.SameButRecords (c d : Chorus) : Prop where
  uid : d.uid = c.uid
  launch : d.launch = c.launch
  index : d.index = c.index
  die : d.die = c.die
  status : d.status = c.status
  forced : d.forced = c.forced

/-- The records of a chorus are copied: its other parts and memory stay. -/
theorem State.copyRecords_frame (s : State) (c : Chorus) :
    c.SameButRecords (s.copyRecords c).1 ∧ (s.copyRecords c).2.mem = s.mem := by
  unfold State.copyRecords
  split <;> exact ⟨⟨rfl, rfl, rfl, rfl, rfl, rfl⟩, rfl⟩

theorem State.chorus?_install (s : State) (l : Launch) (c : Chorus) (cores : List Nat) (r : Room) (status : Residency) :
    ∃ u : State, (s.install l c cores r status).chorus? c.uid = some { u.enter l c cores r with status } :=
  ⟨s, State.chorus?_putChorus_self _ { s.enter l c cores r with status }⟩

/-- A node chorus acquires on its cores what its records' writers released (R347). -/
theorem State.acquireRecords_onlyDies (s : State) (l : Launch) (die : Nat) (cores : List Nat) :
    s.OnlyDies (if l.node.isSome then cores.foldl (fun s k => s.invalidateL1 { die, core := k }) s else s) := by
  split
  · exact State.OnlyDies.foldl _ (fun s k => State.invalidateL1_onlyDies s _) cores s
  · exact .refl s

/-- A candidate that is not saved and has been placed: it has entered its kernel (R16). -/
theorem State.place_enters (s : State) (l : Launch) (c : Chorus) (cores : List Nat) (r : Room) (hsaved : c.status ≠ .saved) :
    (s.place l c cores r).mem = s.mem ∧ ∃ (u : State) (d : Chorus) (n : Nat), c.SameButRecords d
      ∧ (s.place l c cores r).chorus? c.uid = some { u.enter l d cores r with status := .resident, placed := n } := by
  obtain ⟨hsame, hmem⟩ := State.copyRecords_frame s c
  unfold State.place
  generalize s.copyRecords c = p at hsame hmem ⊢
  obtain ⟨d, s2⟩ := p
  dsimp only at hsame hmem ⊢
  have hunsaved : d.status ≠ .saved := hsame.status ▸ hsaved
  rw [if_neg hunsaved]
  generalize hu : ((if (s.chorus? c.uid).isSome then s2 else { s2 with fresh := s2.fresh + 1 }).modLaunch l.uid (fun l => { l with
    grants := l.grants.filter (fun (g : GrantRec) => !(g.die = d.die && g.index = d.index)) })) = u
  have humem : u.mem = s.mem := by
    rw [← hu, State.modLaunch_mem, ← hmem]
    split <;> rfl
  have hacq := State.acquireRecords_onlyDies (u.install l d cores r .resident) l d.die cores
  generalize (if l.node.isSome then cores.foldl (fun s k => s.invalidateL1 { die := d.die, core := k }) (u.install l d cores r .resident)
    else u.install l d cores r .resident) = v at hacq ⊢
  obtain ⟨w, hw⟩ := State.chorus?_install u l d cores r .resident
  have hv : v.chorus? d.uid = some { w.enter l d cores r with status := .resident } := by
    rw [← hw, State.chorus?, State.chorus?, hacq.choruses]
  refine ⟨?_, w, d, v.fresh, hsame, ?_⟩
  · rw [State.started_mem, hacq.mem, State.install_mem, humem]
  · rw [← hsame.uid]
    exact State.chorus?_started v l d.uid _ hv

/-! ### DISPATCHER_PLACEMENT (R365, R366) -/

/-- Placement by a dispatcher whose device and cores are awake. -/
theorem execDispatcherPlacement_places (s : State) (die k : Nat) (l : Launch) (c : Chorus) (cores : List Nat) (r : Room)
    (hready : s.crucible.ready = true) (hlive : s.dieLive die = true)
    (hfit : (((s.ageAll die).starveAll die).passClusters die).firstFitting die k = some (l, c, cores, r))
    (hasleep : s.asleep = false) (hrest : ∀ d n, ((s.die d).core n).resting = false) :
    execDispatcherPlacement die k s = .next ((((s.ageAll die).starveAll die).passClusters die).place l c cores r) := by
  have hguard : ¬ (!s.crucible.ready ∨ !s.dieLive die) := by simp [hready, hlive]
  have passes := State.passClusters_sameInPassing ((s.ageAll die).starveAll die) die
  generalize hu : ((s.ageAll die).starveAll die).passClusters die = u at hfit passes
  have hasleep' : u.asleep = false := by rw [State.asleep, passes.crucible]; exact hasleep
  have hawake : cores.any (fun k => (u.core { die, core := k }).resting) = false := by
    rw [List.any_eq_false]
    intro n _
    rw [State.core, passes.resting die n]
    exact Bool.eq_false_iff.mp (hrest die n)
  unfold execDispatcherPlacement
  rw [if_neg hguard, hu]
  simp only [hfit, hasleep', hawake, Bool.or_false, Bool.false_eq_true, if_false]

/-! ### Waiting times (R363, R365) -/

theorem Chorus.waitsOn_of_mem (c : Chorus) (die : Nat) (hdie : c.die = die) (h : c.status ∈ [.released, .abandoned, .saved]) :
    c.waitsOn die = true := by
  simpa [Chorus.waitsOn, hdie, or_assoc] using h

theorem placement_holds : Claims.placement := by
  refine ⟨?_, fun s die => ⟨⟨s.ageAll die, rfl, rfl, fun c hc hdie hst => ?_⟩, ⟨s.starveAll die, rfl, rfl, fun c hc hdie hst => ?_⟩⟩⟩
  · intro s die k l c cores r hready hlive hfit hsaved hdie hasleep hrest h8 h256
    have hexec := execDispatcherPlacement_places s die k l c cores r hready hlive hfit hasleep hrest
    have passes := State.passClusters_sameInPassing ((s.ageAll die).starveAll die) die
    obtain ⟨hmem, u, d, n, hsame, hd⟩ :=
      State.place_enters (((s.ageAll die).starveAll die).passClusters die) l c cores r hsaved
    refine ⟨_, _, hexec, hmem.trans passes.mem, hd, rfl, rfl, hsame.index, hsame.launch,
      State.enter_clutches_length u l d cores r, fun cl hcl => ?_⟩
    obtain ⟨hent, hregs⟩ := State.enter_clutches u l d cores r cl hcl
    rw [hsame.die, hdie] at hent
    refine ⟨hent.pc, hent.held, hent.ended, hent.path, hent.mask, hent.exited, hent.stack, hent.empty, hent.fmode, hent.mcr,
      hent.ehbase, hent.window, fun reg i hreg hi hvol => hent.word_eq reg i hreg hi h8 h256 (hregs reg ?_)⟩
    rw [Chorus.restarts, hsame.forced]
    exact hvol
  · exact List.mem_map.mpr ⟨c, hc, by rw [if_pos (Chorus.waitsOn_of_mem c die hdie hst)]; rfl⟩
  · exact List.mem_map.mpr ⟨c, hc, by rw [if_pos (Chorus.waitsOn_of_mem c die hdie hst)]; rfl⟩

end Sys2Proof.Machine
end

section
/-! SUPPORT. Retirement, the release of node choruses and the end of a launch: what settles the fourth part of O57. -/

namespace Sys2Proof.Machine

/-! ### CHORUS_RETIRE (R16, R320) -/

/-- What a chorus that retires gives up before it is buried. -/
def State.cleared (s : State) (c : Chorus) : State :=
  (((((s.copiesOf c.uid).foldl State.cancelCopy s).dropLandings (fun p => p.who.chorus = c.uid)).dropWatches c.die c.uid).retireFutures
    c.die c.uid).markIdle c

theorem State.cleared_sameRoster (s : State) (c : Chorus) : s.SameRoster (s.cleared c) :=
  ((((State.SameRoster.foldl _ State.cancelCopy_sameRoster _ s).trans (State.dropLandings_sameRoster _ _)).trans
    (State.dropWatches_sameRoster _ _ _)).trans (State.retireFutures_sameRoster _ _ _)).trans (State.markIdle_sameRoster _ _)

/-- A launch counts the retirement of a chorus. -/
def Launch.countRetired (index : Nat) (l : Launch) : Launch :=
  { l with retired := l.retired + 1, live := l.live.filter (fun x => x.1 ≠ index), links := l.links.filter (fun x => x.index ≠ index) }

theorem State.retire_ordinary (s : State) (l : Launch) (c : Chorus) (hnode : l.node = none) :
    s.retire l c = ((((s.cleared c).bury l c).modLaunch l.uid (Launch.countRetired c.index)).payNotices).left l c.die := by
  unfold State.retire
  rw [hnode]
  rfl

/-- A buried chorus is no longer among the choruses; the launches and the contexts in deactivation stay. -/
theorem State.bury_roster (s : State) (l : Launch) (c : Chorus) :
    (s.bury l c).launches = s.launches ∧ (∀ x ∈ (s.bury l c).choruses, x.uid ≠ c.uid)
      ∧ ∀ n, ((s.bury l c).context n).deactivating = (s.context n).deactivating := by
  have released := State.releaseChorus_sameRoster { s with choruses := s.choruses.filter (fun x => x.uid ≠ c.uid) } c l
  refine ⟨released.launches, fun x hx => ?_, released.deactivating⟩
  have huid : x.uid ∈ (s.choruses.filter (fun x => x.uid ≠ c.uid)).map (·.uid) :=
    released.uids ▸ List.mem_map.mpr ⟨x, hx, rfl⟩
  obtain ⟨y, hy, hyx⟩ := List.mem_map.mp huid
  rw [← hyx]
  simpa using (List.mem_filter.mp hy).2

theorem chorusRetire_retires (s : State) (l : Launch) (c : Chorus) (hc : s.chorus? c.uid = some c) (hl : s.launch? l.uid = some l)
    (hcl : c.launch = l.uid) (hmay : s.mayRetire l c = true) (hlinked : l.linked = false) (hnode : l.node = none)
    (hdea : (s.context l.ctx).deactivating = false) :
    ∃ t m, exec (.chorusRetire c.uid) s = .next t ∧ (∀ x ∈ t.choruses, x.uid ≠ c.uid) ∧ t.launch? l.uid = some m
      ∧ m.retired = l.retired + 1 := by
  have hexec : execChorusRetire c.uid s = .next (s.retire l c) := by
    simp [execChorusRetire, hc, hcl, hl, hmay, hlinked]
  have cleared := State.cleared_sameRoster s c
  obtain ⟨hlaunches, hgone, hdeact⟩ := State.bury_roster (s.cleared c) l c
  generalize hv : (s.cleared c).bury l c = v at hlaunches hgone hdeact
  have left : (v.modLaunch l.uid (Launch.countRetired c.index)).SameRoster
      (((v.modLaunch l.uid (Launch.countRetired c.index)).payNotices).left l c.die) := by
    have paid := State.payNotices_sameRoster (v.modLaunch l.uid (Launch.countRetired c.index))
    refine paid.trans (State.left_sameRoster _ l c.die ?_)
    rw [paid.deactivating]
    exact (hdeact _).trans ((cleared.deactivating _).trans hdea)
  refine ⟨_, Launch.countRetired c.index l, hexec, ?_, ?_, rfl⟩ <;> rw [State.retire_ordinary s l c hnode, hv]
  · intro x hx
    have huid : x.uid ∈ v.choruses.map (·.uid) := left.uids ▸ List.mem_map.mpr ⟨x, hx, rfl⟩
    obtain ⟨y, hy, hyx⟩ := List.mem_map.mp huid
    exact hyx ▸ hgone y hy
  · have hvl : v.launch? l.uid = some l := by rw [State.launch?, hlaunches, cleared.launches]; exact hl
    rw [State.launch?, left.launches, ← State.launch?, State.launch?_modLaunch_self v l.uid _ (by intro; rfl), hvl]
    rfl

/-! ### BIN_TIMER (R381, R382) -/

theorem State.node?_modNode (s : State) (ctx num : Nat) (g : Node → Node) (hg : ∀ n, (g n).num = n.num) :
    (s.modNode ctx num g).node? ctx num = (s.node? ctx num).map g := by
  rw [State.node?, State.node?, State.modNode, State.context_modContext_self]
  exact find?_updateFirst_self _ g (fun n h => by simpa [hg n] using h) _

theorem Node.bin_modBin (n : Node) (die : Nat) (g : Bin → Bin) : (n.modBin die g).bin die = g (n.bin die) :=
  Store.get_modify_self ({} : Bin) n.bins die g

/-- A bin without records is not ready. -/
theorem State.binReady_nil (s : State) (n : Node) (die : Nat) (h : (n.bin die).recs = []) : s.binReady n die = false := by
  simp [State.binReady, h]

/-- A release loop over a bin without records ends. -/
theorem releaseLoop_nil (ctx num die fuel : Nat) (s : State) (n : Node) (hn : s.node? ctx num = some n)
    (h : (n.bin die).recs = []) : releaseLoop ctx num die fuel s = s := by
  cases fuel with
  | zero => rfl
  | succ k => simp [releaseLoop, hn, State.binReady_nil s n die h]

/-- What a release leaves of a bin. -/
def Bin.release (k : Nat) (b : Bin) : Bin := { b with recs := b.recs.drop k, released := b.released + 1 }

theorem State.node?_releaseOne (s : State) (ctx num die : Nat) (n : Node) (hn : s.node? ctx num = some n) :
    (s.releaseOne ctx n die).node? ctx num = some (n.modBin die (Bin.release (min n.count (n.bin die).recs.length))) := by
  have hnum : n.num = num := by simpa using List.find?_some hn
  have hnode := State.node?_modNode s ctx num (fun x => x.modBin die (Bin.release (min n.count (n.bin die).recs.length)))
    (fun _ => rfl)
  rw [hn] at hnode
  rw [← hnum] at hnode ⊢
  exact hnode

theorem binTimer_releases (s : State) (ctx num die : Nat) (n : Node) (hn : s.node? ctx num = some n)
    (hready : s.binReady n die = true) (hlen : (n.bin die).recs.length ≤ n.count) :
    let b := n.bin die
    ∃ t m c, exec (.binTimer ctx num die) s = .next t ∧ t.mem = s.mem ∧ t.choruses = s.choruses ++ [c] ∧ c.launch = n.launch
      ∧ c.die = die ∧ c.status = .released ∧ c.index = (4 * b.released + die) % 2 ^ 32 ∧ c.records.length = b.recs.length
      ∧ t.node? ctx num = some m ∧ (m.bin die).recs = [] ∧ (m.bin die).released = b.released + 1 ∧ (m.bin die).held = b.held := by
  intro b
  have hmin : min n.count b.recs.length = b.recs.length := Nat.min_eq_right hlen
  have hnode := State.node?_releaseOne s ctx num die n hn
  rw [hmin] at hnode
  have hbin : (n.modBin die (Bin.release b.recs.length)).bin die = Bin.release b.recs.length b := Node.bin_modBin n die _
  have hnil : ((n.modBin die (Bin.release b.recs.length)).bin die).recs = [] := by
    rw [hbin]; exact List.drop_length
  have hexec : execBinTimer ctx num die s = .next (s.releaseOne ctx n die) := by
    unfold execBinTimer State.releaseBin
    rw [hn]
    dsimp only
    cases hrecs : b.recs.length with
    | zero => rw [State.binReady_nil s n die (List.eq_nil_of_length_eq_zero hrecs)] at hready; cases hready
    | succ k => simp only [releaseLoop, hn, hready, if_true, releaseLoop_nil ctx num die k _ _ hnode hnil]
  refine ⟨_, _, _, hexec, rfl, rfl, rfl, rfl, rfl, rfl, ?_, hnode, hnil, ?_, ?_⟩
  · rw [List.length_map, List.length_take]
    exact (Nat.min_eq_left (Nat.le_of_eq hmin)).trans hmin
  · rw [hbin]; rfl
  · rw [hbin]; rfl

/-! ### Bytes at given places -/

/-- A new key enters a store beside what the store holds. -/
theorem Store.insert_perm {α : Type} (m : Store α) (i : Nat) (x : α) (h : ∀ y ∈ m, y.1 ≠ i) :
    (Store.insert m i x).Perm ((i, x) :: m) := by
  induction m with
  | nil => exact .refl _
  | cons kv rest ih =>
    obtain ⟨k, v⟩ := kv
    have hk : k ≠ i := h (k, v) (.head _)
    unfold Store.insert
    split
    · exact .refl _
    · exact ((ih fun y hy => h y (.tail _ hy)).cons _).trans (.swap _ _ _)

/-- Bytes under different keys are gathered as they are. -/
theorem gatherBytes_perm (bytes : List (Nat × Byte)) (hnd : (bytes.map Prod.fst).Nodup) : (gatherBytes bytes).Perm bytes := by
  have fold : ∀ (bs : List (Nat × Byte)) (acc : Store Byte), ((acc ++ bs).map Prod.fst).Nodup →
      (bs.foldl (fun m x => Store.insert m x.1 x.2) acc).Perm (acc ++ bs) := by
    intro bs
    induction bs with
    | nil => intro acc _; simp
    | cons b rest ih =>
      intro acc hnd
      have hins : (Store.insert acc b.1 b.2).Perm (b :: acc) := by
        refine Store.insert_perm acc b.1 b.2 fun y hy hyb => ?_
        rw [List.map_append, List.map_cons, List.nodup_append] at hnd
        exact hnd.2.2 y.1 (List.mem_map.mpr ⟨y, hy, rfl⟩) b.1 (.head _) hyb
      have hall : (Store.insert acc b.1 b.2 ++ rest).Perm (acc ++ b :: rest) :=
        (hins.append_right rest).trans (List.perm_middle.symm)
      rw [List.foldl_cons]
      exact (ih _ ((hall.map Prod.fst).nodup_iff.mpr hnd)).trans hall
  exact fold bytes [] hnd

theorem bytesOfNat_length (n v : Nat) : (bytesOfNat n v).length = n := by simp [bytesOfNat]

theorem zip_bytesOfNat_keys (places : List Nat) (v : Nat) : ((places.zip (bytesOfNat places.length v)).map Prod.fst) = places :=
  List.map_fst_zip (by rw [bytesOfNat_length])

theorem placeBytes_perm (places : List Nat) (v : Nat) (hnd : places.Nodup) :
    (placeBytes places v).Perm (places.zip (bytesOfNat places.length v)) :=
  gatherBytes_perm _ (by rw [zip_bytesOfNat_keys]; exact hnd)

/-- A number written at different places reads back, up to its width. -/
theorem numberOf_read_placeBytes (m : Memory) (places : List Nat) (v : Nat) (hnd : places.Nodup) :
    numberOf (places.map (Memory.read (Memory.writeAll m (placeBytes places v)))) = v % 256 ^ places.length := by
  have hperm := placeBytes_perm places v hnd
  have hkeys : ((placeBytes places v).map Prod.fst).Nodup := by
    rw [(hperm.map Prod.fst).nodup_iff, zip_bytesOfNat_keys]; exact hnd
  rw [← numberOf_bytesOfNat]
  refine congrArg numberOf (List.ext_getElem (by rw [List.length_map, bytesOfNat_length]) fun i hi hi' => ?_)
  rw [List.length_map] at hi
  rw [List.getElem_map]
  refine Memory.read_writeAll_self m _ (places[i], (bytesOfNat places.length v)[i]) hkeys (hperm.mem_iff.mpr ?_)
  exact List.mem_iff_getElem.mpr ⟨i, by rw [List.length_zip, bytesOfNat_length, Nat.min_self]; exact hi, by rw [List.getElem_zip]⟩

theorem read_placeBytes_other (m : Memory) (places : List Nat) (v q : Nat) (hnd : places.Nodup) (hq : q ∉ places) :
    Memory.read (Memory.writeAll m (placeBytes places v)) q = Memory.read m q := by
  refine Memory.read_writeAll_other m _ q fun x hx hxq => hq ?_
  have hzip := (placeBytes_perm places v hnd).mem_iff.mp hx
  exact hxq ▸ (List.of_mem_zip hzip).1

theorem numberOf_append (xs ys : List Byte) : numberOf (xs ++ ys) = numberOf xs + 256 ^ xs.length * numberOf ys := by
  induction xs with
  | nil => simp [numberOf]
  | cons x xs ih =>
    simp only [numberOf, List.cons_append, List.foldr_cons, List.length_cons] at ih ⊢
    rw [ih, Nat.pow_succ]
    ring

theorem pow_256 (n : Nat) : 256 ^ n = 2 ^ (8 * n) := (Nat.pow_mul 2 8 n).symm

/-- A number that is written in two parts, the upper one first. -/
theorem numberOf_read_twoParts (m : Memory) (low high : List Nat) (v : Nat) (hnd : (low ++ high).Nodup) :
    numberOf ((low ++ high).map (Memory.read (Memory.writeAll (Memory.writeAll m (placeBytes high (v / 256 ^ low.length)))
      (placeBytes low (v % 256 ^ low.length))))) = v % 256 ^ (low ++ high).length := by
  obtain ⟨hlow, hhigh, hdis⟩ := List.nodup_append.mp hnd
  have hup : high.map (Memory.read (Memory.writeAll (Memory.writeAll m (placeBytes high (v / 256 ^ low.length)))
      (placeBytes low (v % 256 ^ low.length))))
      = high.map (Memory.read (Memory.writeAll m (placeBytes high (v / 256 ^ low.length)))) :=
    List.map_congr_left fun q hq => read_placeBytes_other _ low _ q hlow fun hql => hdis q hql q hq rfl
  rw [List.map_append, numberOf_append, hup, numberOf_read_placeBytes _ low _ hlow, numberOf_read_placeBytes _ high _ hhigh,
    List.length_map, Nat.mod_mod, ← Nat.mod_mul, List.length_append, Nat.pow_add]

/-! ### LAUNCH_COMPLETE (R348, R373) -/

theorem State.engineSpan_length (s : State) (die ctx va n : Nat) (places : List Nat)
    (h : s.engineSpan die ctx va n = some places) : places.length = n := by
  unfold State.engineSpan at h
  dsimp only at h
  split at h
  · rename_i hall
    simp only [Option.some.injEq] at h
    rw [← h, (List.filterMap_length_eq_length (f := id)).mpr (fun x hx => List.all_eq_true.mp hall x hx)]
    simp [vaRange]
  · cases h

/-- A status record whose places are there is written, bytes 8 to 127 and then 0 to 7. -/
theorem State.writeStatus_record (s : State) (die ctx va number : Nat) (places : List Nat) (hnc : Claims.noContention s)
    (h : s.engineSpan die ctx va 128 = some places) :
    s.writeStatus die ctx va 0 number = .inr ((s.writeBytes (placeBytes (places.drop 8) (number / 2 ^ 64))).writeBytes
      (placeBytes (places.take 8) (number % 2 ^ 64))) := by
  unfold State.writeStatus
  simp only [h, if_true, State.recall_noContention s _ hnc]

/-- The queue of a launch that has ended goes on. -/
def State.freeQueue (s : State) (l : Launch) (launch : Nat) : State :=
  match l.queue with
  | some q => s.modCrucible (fun c => { c with queues := c.queues.modify {} q (fun x =>
      if x.running = some launch then { x with running := none } else x) })
  | none => s

theorem State.freeQueue_sameRoster (s : State) (l : Launch) (launch : Nat) : s.SameRoster (s.freeQueue l launch) := by
  unfold State.freeQueue
  split
  · exact State.modCrucible_sameRoster s _
  · exact .refl s

theorem State.freeQueue_mem (s : State) (l : Launch) (launch : Nat) : (s.freeQueue l launch).mem = s.mem := by
  unfold State.freeQueue
  split <;> rfl

theorem State.dropHeld_sameRoster (s : State) (l : Launch) : s.SameRoster (s.dropHeld l) := by
  unfold State.dropHeld
  split
  · exact .of_eq rfl rfl rfl
  · exact .refl s

theorem State.dropHeld_mem (s : State) (l : Launch) : (s.dropHeld l).mem = s.mem := by
  unfold State.dropHeld
  split <;> rfl

theorem State.settleContext_mem (s : State) (ctx : Nat) (h : (s.context ctx).deactivating = false) :
    (s.settleContext ctx).mem = s.mem := by
  unfold State.settleContext
  dsimp only
  split
  · rfl
  · rw [if_neg (by simp [h])]
    split <;> rfl

/-- The state that a launch leaves once its record is written. -/
def State.dismiss (s : State) (l : Launch) (launch : Nat) : State :=
  ((({ s with launches := s.launches.filter (fun (x : Launch) => x.uid ≠ launch) }.freeQueue l launch).dropHeld l).active).settleContext
    l.ctx

theorem State.active_sameRoster (s : State) : s.SameRoster s.active := State.modCrucible_sameRoster s _

/-- A launch that is dismissed is gone from the launches, and memory stays. -/
theorem State.dismiss_spec (s : State) (l : Launch) (launch : Nat) (h : (s.context l.ctx).deactivating = false) :
    (s.dismiss l launch).launches = s.launches.filter (fun (x : Launch) => x.uid ≠ launch)
      ∧ (s.dismiss l launch).mem = s.mem := by
  generalize hu : { s with launches := s.launches.filter (fun (x : Launch) => x.uid ≠ launch) } = u
  have before := ((State.freeQueue_sameRoster u l launch).trans (State.dropHeld_sameRoster _ l)).trans (State.active_sameRoster _)
  have hdea : ((((u.freeQueue l launch).dropHeld l).active).context l.ctx).deactivating = false := by
    rw [before.deactivating, ← hu]; exact h
  have hmem : ((u.freeQueue l launch).dropHeld l).active.mem = s.mem := by
    rw [State.active, State.modCrucible_mem, State.dropHeld_mem, State.freeQueue_mem, ← hu]
  unfold State.dismiss
  rw [hu, State.settleContext_mem _ _ hdea, (State.settleContext_sameRoster _ _ hdea).launches, before.launches, ← hu]
  exact ⟨rfl, hu ▸ hmem⟩

/-- LAUNCH_COMPLETE of a launch that may end, without a completion word and with its translations there. -/
theorem execLaunchComplete_ends (s : State) (l : Launch) (st : LaunchEnd) (places : List Nat) (hl : s.launch? l.uid = some l)
    (hend : s.endOf l = some st) (hdone : l.doneVa = 0) (hnc : Claims.noContention s)
    (hspan : s.engineSpan l.leader l.ctx l.statusVa 128 = some places)
    (hbring : s.bringSpans l.leader l.ctx [(l.statusVa, 128), (l.doneVa, 0)] = some s) :
    execLaunchComplete l.uid s = .next (((s.writeBytes (placeBytes (places.drop 8)
      (l.statusNumber st (s.die l.leader).cycle.toNat / 2 ^ 64))).writeBytes (placeBytes (places.take 8)
        (l.statusNumber st (s.die l.leader).cycle.toNat % 2 ^ 64))).dismiss l l.uid) := by
  have hwrite := State.writeStatus_record s l.leader l.ctx l.statusVa (l.statusNumber st (s.die l.leader).cycle.toNat) places hnc hspan
  have hbring' : s.bringSpans l.leader l.ctx [(l.statusVa, 128), (l.doneVa, if l.doneVa = 0 then 0 else 8)] = some s := by
    rw [if_pos hdone]; exact hbring
  rw [← hdone] at hwrite
  simp only [execLaunchComplete, hl, hend, hbring', hwrite]
  rfl

theorem launchComplete_ends (s : State) (l : Launch) (st : LaunchEnd) (places : List Nat) (hl : s.launch? l.uid = some l)
    (hend : s.endOf l = some st) (hdone : l.doneVa = 0) (hnc : Claims.noContention s)
    (hspan : s.engineSpan l.leader l.ctx l.statusVa 128 = some places) (hnd : places.Nodup)
    (hbring : s.bringSpans l.leader l.ctx [(l.statusVa, 128), (l.doneVa, 0)] = some s)
    (hdea : (s.context l.ctx).deactivating = false) :
    ∃ t, exec (.launchComplete l.uid) s = .next t ∧ (∀ x ∈ t.launches, x.uid ≠ l.uid)
      ∧ numberOf (places.map (Memory.read t.mem)) = l.statusNumber st (s.die l.leader).cycle.toNat % 2 ^ 1024
      ∧ ∀ q, q ∉ places → Memory.read t.mem q = Memory.read s.mem q := by
  have hexec := execLaunchComplete_ends s l st places hl hend hdone hnc hspan hbring
  generalize l.statusNumber st (s.die l.leader).cycle.toNat = number at hexec ⊢
  have hlen : places.length = 128 := State.engineSpan_length s _ _ _ _ places hspan
  have hlow : (places.take 8).length = 8 := by rw [List.length_take, hlen]; rfl
  have hparts : places.take 8 ++ places.drop 8 = places := List.take_append_drop 8 places
  have hnd' : (places.take 8 ++ places.drop 8).Nodup := hparts.symm ▸ hnd
  generalize hu : (s.writeBytes (placeBytes (places.drop 8) (number / 2 ^ 64))).writeBytes
    (placeBytes (places.take 8) (number % 2 ^ 64)) = u at hexec
  have htables : s.SameTables u := hu ▸ (State.writeBytes_sameTables s _).trans (State.writeBytes_sameTables _ _)
  have humem : u.mem = Memory.writeAll (Memory.writeAll s.mem (placeBytes (places.drop 8) (number / 2 ^ 64)))
      (placeBytes (places.take 8) (number % 2 ^ 64)) := by
    rw [← hu, State.writeBytes_mem, State.writeBytes_mem]
  obtain ⟨hlaunches, hmem⟩ := State.dismiss_spec u l l.uid (by rw [State.context, htables.contexts]; exact hdea)
  refine ⟨u.dismiss l l.uid, hexec, ?_, ?_, ?_⟩
  · intro x hx
    rw [hlaunches] at hx
    simpa using (List.mem_filter.mp hx).2
  · have htwo := numberOf_read_twoParts s.mem (places.take 8) (places.drop 8) number hnd'
    rw [hlow, hparts, hlen, pow_256 128, show 8 * 128 = 1024 from rfl] at htwo
    rw [hmem, humem]
    exact htwo
  · intro q hq
    have hqlow : q ∉ places.take 8 := fun h => hq (List.mem_of_mem_take h)
    have hqhigh : q ∉ places.drop 8 := fun h => hq (List.mem_of_mem_drop h)
    rw [hmem, humem, read_placeBytes_other _ _ _ q (hnd.sublist (List.take_sublist 8 places)) hqlow,
      read_placeBytes_other _ _ _ q (hnd.sublist (List.drop_sublist 8 places)) hqhigh]

theorem endings_holds : Claims.endings :=
  ⟨chorusRetire_retires, fun s ctx num die n => binTimer_releases s ctx num die n, launchComplete_ends⟩

end Sys2Proof.Machine
end

section
/-! SUPPORT. Launches from the queue to their end: the four parts of O57 together. -/

namespace Sys2Proof.Machine

/-- Settles O57, part by part: the grant and the lost dies, the queues, placement, and endings. -/
theorem launchesAndPlacement : Obligations.LaunchesAndPlacement :=
  ⟨dispatchers_holds, queues_holds, placement_holds, endings_holds⟩

end Sys2Proof.Machine
end

section
/-! SUPPORT. A chorus after its sticky register has received flags, and after it has been replaced. -/

namespace Sys2Proof.Machine

/-- A chorus of the same uid in the place of another is found there. -/
theorem State.chorus?_modChorus_const {s : State} {uid : Nat} {c : Chorus} (d : Chorus) (hc : s.chorus? uid = some c) (hd : d.uid = uid) :
    (s.modChorus uid fun _ => d).chorus? uid = some d := by
  unfold State.chorus? at hc ⊢
  rw [State.modChorus_choruses, find?_updateFirst_self _ _ (fun _ _ => by simpa using hd), hc]
  rfl

/-- Flags change the sticky register of their chorus, and what is noted of it in the cycle (R100). -/
theorem State.chorus?_flag (s : State) (uid : Nat) (flags : Word) :
    (s.flag uid flags).chorus? uid = (s.chorus? uid).map fun c => if flags = 0 then c else c.raise s.now flags := by
  unfold State.flag
  split
  · simp
  · exact State.chorus?_modChorus_self s uid _ fun _ => rfl

@[simp] theorem State.chorus?_bump (s : State) (uid : Nat) : s.bump.chorus? uid = s.chorus? uid := rfl

end Sys2Proof.Machine
end

section
/-! SUPPORT. The completion of matrix operations: what settles O39. -/

namespace Sys2Proof.Machine

/-! ### Stores put together from parts -/

theorem Store.get_filter {α : Type} (d : α) (p : Nat → Bool) (m : Store α) (k : Nat) :
    Store.get d (m.filter fun x => p x.1) k = if p k then Store.get d m k else d := by
  induction m with
  | nil => simp [Store.get]
  | cons x rest ih =>
    obtain ⟨i, v⟩ := x
    by_cases hik : i = k
    · subst hik
      cases hp : p i <;> simp_all [Store.get]
    · cases hp : p i <;> simp [Store.get, hp, hik, ih]

/-- A key that the first of two stores does not list is read from the second. -/
theorem Store.get_append_right {α : Type} (d : α) (m n : Store α) {k : Nat} (h : ∀ x ∈ m, x.1 ≠ k) :
    Store.get d (m ++ n) k = Store.get d n k := by
  induction m with
  | nil => rfl
  | cons x rest ih =>
    obtain ⟨hx, hrest⟩ := List.forall_mem_cons.mp h
    simp [Store.get, hx, ih hrest]

theorem Store.get_of_unlisted {α : Type} (d : α) (m : Store α) {k : Nat} (h : ∀ x ∈ m, x.1 ≠ k) : Store.get d m k = d := by
  simpa [Store.get] using Store.get_append_right d m [] h

theorem Store.get_append_left {α : Type} (d : α) (m n : Store α) {k : Nat} (h : ∀ x ∈ n, x.1 ≠ k) :
    Store.get d (m ++ n) k = Store.get d m k := by
  induction m with
  | nil => exact Store.get_of_unlisted d n h
  | cons x rest ih => simp [Store.get, ih]

/-! ### Rows of accumulator cells -/

/-- Words listed from a number on, as the cells that `cellsFrom` lists. -/
theorem get_cells_zipIdx (base : Nat) (ws : List Word) (n k : Nat) :
    Store.get 0 (((ws.zipIdx n).filter fun x => x.1 ≠ 0).map fun x => (base + x.2, x.1)) k
      = if base + n ≤ k then ws.getD (k - base - n) 0 else 0 := by
  induction ws generalizing n with
  | nil => simp [Store.get]
  | cons w rest ih =>
    have hhead : Store.get 0 ((((w :: rest).zipIdx n).filter fun x => x.1 ≠ 0).map fun x => (base + x.2, x.1)) k
        = if base + n = k ∧ w ≠ 0 then w else if base + (n + 1) ≤ k then rest.getD (k - base - (n + 1)) 0 else 0 := by
      rw [← ih (n + 1), List.zipIdx_cons]
      by_cases hw : w = 0
      · simp [hw]
      · simp only [ne_eq, hw, not_false_eq_true, decide_true, List.filter_cons_of_pos, List.map_cons, Store.get, and_true]
    rw [hhead]
    rcases Nat.lt_trichotomy k (base + n) with h | h | h
    · rw [if_neg (by omega), if_neg (by omega), if_neg (by omega)]
    · subst h
      by_cases hw : w = 0
      · simp [hw]
      · rw [if_pos ⟨rfl, hw⟩]
        simp
    · rw [if_neg (by omega), if_pos (by omega), if_pos (by omega), show k - base - n = k - base - (n + 1) + 1 by omega,
        List.getD_cons_succ]

theorem get_cellsFrom (base : Nat) (ws : List Word) (k : Nat) :
    Store.get 0 (cellsFrom base ws) k = if base ≤ k then ws.getD (k - base) 0 else 0 :=
  get_cells_zipIdx base ws 0 k

/-- The cells that `cellsFrom` lists lie from its first on, as many as there are words. -/
theorem mem_cellsFrom {base : Nat} {ws : List Word} {x : Nat × Word} (h : x ∈ cellsFrom base ws) :
    base ≤ x.1 ∧ x.1 < base + ws.length := by
  simp only [cellsFrom, List.mem_map, List.mem_filter] at h
  obtain ⟨y, ⟨hy, -⟩, rfl⟩ := h
  have hlt := (List.mem_zipIdx hy).2.1
  simp only
  omega

theorem cellKey_add (pos s row n col : Nat) : cellKey pos s (row + n) col = cellKey pos s row 0 + (128 * n + col) := by
  unfold cellKey; ring

/-- Rows replaced: the cells of the rows hold the words, and every other cell is as before. -/
theorem Chorus.putRows_acc (c : Chorus) (pos s row n : Nat) (ws : List Word) (k : Nat) :
    (c.putRows pos s row n ws).acc.get 0 k =
      if cellKey pos s row 0 ≤ k ∧ k < cellKey pos s (row + n) 0 then ws.getD (k - cellKey pos s row 0) 0
      else c.acc.get 0 k := by
  simp only [Chorus.putRows, cellKey_add, Nat.add_zero]
  generalize cellKey pos s row 0 = lo
  have hmid : ∀ x ∈ cellsFrom lo (ws.take (128 * n)), lo ≤ x.1 ∧ x.1 < lo + 128 * n := by
    intro x hx
    have := mem_cellsFrom hx
    have := List.length_take_le (128 * n) ws
    omega
  have hbelow : ∀ x ∈ c.acc.filter (fun x => x.1 < lo), x.1 < lo := by simp
  have habove : ∀ x ∈ c.acc.filter (fun x => lo + 128 * n ≤ x.1), lo + 128 * n ≤ x.1 := by simp
  by_cases hlo : k < lo
  · rw [if_neg (by omega), Store.get_append_left _ _ _ fun x hx => by have := habove x hx; omega,
      Store.get_append_left _ _ _ fun x hx => by have := hmid x hx; omega, Store.get_filter 0 (fun i => decide (i < lo)),
      if_pos (by simpa using hlo)]
  · by_cases hhi : k < lo + 128 * n
    · rw [if_pos (by omega), Store.get_append_left _ _ _ fun x hx => by have := habove x hx; omega,
        Store.get_append_right _ _ _ fun x hx => by have := hbelow x hx; omega, get_cellsFrom, if_pos (by omega)]
      simp only [List.getD_eq_getElem?_getD, List.getElem?_take, if_pos (show k - lo < 128 * n by omega)]
    · rw [if_neg (by omega), List.append_assoc, Store.get_append_right _ _ _ fun x hx => by have := hbelow x hx; omega,
        Store.get_append_right _ _ _ fun x hx => by have := hmid x hx; omega,
        Store.get_filter 0 (fun i => decide (lo + 128 * n ≤ i)), if_pos (by simp; omega)]

/-- Cells that are not among those left undefined are as before. -/
theorem Chorus.freeCells_acc (c : Chorus) (tick : Nat) (cells : List Nat) {k : Nat} (hk : k ∉ cells) :
    (c.freeCells tick cells).acc.get 0 k = c.acc.get 0 k := by
  unfold Chorus.freeCells
  simp only
  generalize c.acc = m
  induction cells generalizing m with
  | nil => rfl
  | cons i rest ih =>
    simp only [List.mem_cons, not_or] at hk
    rw [List.foldl_cons, ih hk.2, Store.get_set_other _ _ _ _ _ hk.1]

/-! ### One engine's completion -/

/-- A cell lies in the rows of an operation on an engine. -/
abbrev Job.covers (j : Job) (pos n k : Nat) : Prop := cellKey pos n j.row 0 ≤ k ∧ k < cellKey pos n (j.row + j.rowCount) 0

/-- The cells that an MZERO leaves undefined are its own, and ones that a STACC has stored to (R245). -/
theorem Job.covers_of_spoiled {j : Job} {pos n k : Nat} (h : k / 65536 = 4 * pos + n) (hm : j.meets n (k / 128 % 512) = true) :
    j.covers pos n k := by
  simp only [Job.meets, Bool.and_eq_true, decide_eq_true_eq] at hm
  unfold Job.covers cellKey
  omega

/-- An MZERO leaves the cells outside its rows on its engine as they were (R273). -/
theorem Chorus.completeOn_zero_outside (c : Chorus) (hdr : Header) (pos tick : Nat) (j : Job) (n : Nat) (hop : j.op = 0xAB) {k : Nat}
    (hk : ¬ j.covers pos n k) : (c.completeOn hdr pos tick j n).1.acc.get 0 k = c.acc.get 0 k := by
  unfold Chorus.completeOn
  simp only [hop, if_true]
  rw [Chorus.freeCells_acc, Chorus.putRows_acc, if_neg hk]
  simp only [List.mem_filter, Bool.and_eq_true, decide_eq_true_eq, not_and, Bool.not_eq_true]
  intro _ h
  by_contra hm
  exact hk (Job.covers_of_spoiled h (by simpa using hm))

/-- It clears the cells of its rows that no STACC has stored to (R245, R273). -/
theorem Chorus.completeOn_zero (c : Chorus) (hdr : Header) (pos tick : Nat) (j : Job) (n : Nat) (hop : j.op = 0xAB) {k : Nat}
    (hk : j.covers pos n k) (hs : k ∉ j.spoiled) : (c.completeOn hdr pos tick j n).1.acc.get 0 k = 0 := by
  unfold Chorus.completeOn
  simp only [hop, if_true]
  rw [Chorus.freeCells_acc _ _ _ fun h => hs (List.mem_of_mem_filter h), Chorus.putRows_acc, if_pos hk]
  rfl

/-- Accumulator cells and their poison marks change on an engine that completes an operation, and no sequencer does. -/
theorem Chorus.completeOn_frame (c : Chorus) (hdr : Header) (pos tick : Nat) (j : Job) (n : Nat) :
    (c.completeOn hdr pos tick j n).1.uid = c.uid ∧ (c.completeOn hdr pos tick j n).1.seqs = c.seqs := by
  unfold Chorus.completeOn
  split
  · exact ⟨rfl, rfl⟩
  · split
    · exact ⟨rfl, rfl⟩
    · split <;> exact ⟨rfl, rfl⟩

/-! ### All engines of an operation -/

/-- What the engines of an operation leave, one after another. -/
def Chorus.completeAll (c : Chorus) (hdr : Header) (pos tick : Nat) (j : Job) (engines : List Nat) : Chorus × Word :=
  engines.foldl (fun acc n =>
    let r := acc.1.completeOn hdr pos tick j n
    (r.1, acc.2 ||| r.2)) (c, 0)

theorem Chorus.completeAll_eq_foldl (c : Chorus) (hdr : Header) (pos tick : Nat) (j : Job) (engines : List Nat) :
    (c.completeAll hdr pos tick j engines).1 = engines.foldl (fun d n => (d.completeOn hdr pos tick j n).1) c := by
  unfold Chorus.completeAll
  generalize (0 : Word) = w
  induction engines generalizing c w with
  | nil => rfl
  | cons n rest ih => exact ih _ _

theorem Chorus.completeAll_frame (c : Chorus) (hdr : Header) (pos tick : Nat) (j : Job) (engines : List Nat) :
    (c.completeAll hdr pos tick j engines).1.uid = c.uid ∧ (c.completeAll hdr pos tick j engines).1.seqs = c.seqs := by
  rw [Chorus.completeAll_eq_foldl]
  induction engines generalizing c with
  | nil => exact ⟨rfl, rfl⟩
  | cons n rest ih =>
    obtain ⟨huid, hseqs⟩ := c.completeOn_frame hdr pos tick j n
    rw [List.foldl_cons, (ih _).1, (ih _).2, huid, hseqs]
    exact ⟨rfl, rfl⟩

theorem Chorus.completeAll_zero_outside (c : Chorus) (hdr : Header) (pos tick : Nat) (j : Job) (engines : List Nat) (hop : j.op = 0xAB)
    {k : Nat} (hk : ∀ n ∈ engines, ¬ j.covers pos n k) : (c.completeAll hdr pos tick j engines).1.acc.get 0 k = c.acc.get 0 k := by
  rw [Chorus.completeAll_eq_foldl]
  induction engines generalizing c with
  | nil => rfl
  | cons n rest ih =>
    obtain ⟨hn, hrest⟩ := List.forall_mem_cons.mp hk
    rw [List.foldl_cons, ih _ hrest, Chorus.completeOn_zero_outside _ _ _ _ _ _ hop hn]

/-- A cell that no STACC has stored to is zero once an engine whose rows hold it has completed: no later engine of the MZERO
writes anything else there. -/
theorem Chorus.completeAll_zero (c : Chorus) (hdr : Header) (pos tick : Nat) (j : Job) (engines : List Nat) (hop : j.op = 0xAB)
    {k : Nat} (hs : k ∉ j.spoiled) (hk : (∃ n ∈ engines, j.covers pos n k) ∨ c.acc.get 0 k = 0) :
    (c.completeAll hdr pos tick j engines).1.acc.get 0 k = 0 := by
  rw [Chorus.completeAll_eq_foldl]
  induction engines generalizing c with
  | nil => simpa using hk
  | cons n rest ih =>
    refine ih _ ?_
    by_cases hn : j.covers pos n k
    · exact .inr (Chorus.completeOn_zero c hdr pos tick j n hop hn hs)
    · rw [Chorus.completeOn_zero_outside c hdr pos tick j n hop hn]
      simpa [hn] using hk

/-! ### MMA_COMPLETE (R269) -/

/-- The operation leaves its sequencer, and its loans end. -/
def Chorus.dropJob (c : Chorus) (pos job : Nat) : Chorus :=
  let c := c.modSeq pos fun q => { q with jobs := q.jobs.filter fun x => x.id ≠ job }
  { c with clutches := c.clutches.map (·.endLoan job) }

/-- The first operation of a sequencer, whose operands are not poisoned, completes on its engines. -/
theorem execMmaComplete_first {s : State} {c : Chorus} {l : Launch} {q : Sequencer} {j : Job} {later : List Job}
    (hc : s.chorus? c.uid = some c) (hl : s.launch? c.launch = some l) (hq : c.seqs.find? (fun x => x.pos = q.pos) = some q)
    (hj : q.jobs = j :: later) (hp : c.poisonedOperand l.hdr q.pos j = false) :
    let r := c.completeAll l.hdr q.pos s.tick j j.fields.engines
    exec (.mmaComplete c.uid q.pos j.id) s
      = .next (((s.modChorus c.uid fun _ => r.1.dropJob q.pos j.id).flag c.uid r.2).bump) := by
  show execMmaComplete c.uid q.pos j.id s = _
  unfold execMmaComplete
  simp only [hc, hl, hq, hj, List.find?_cons, decide_true, List.takeWhile_cons, ne_eq, not_true_eq_false, decide_false,
    Bool.false_eq_true, if_false, List.any_nil, hp]
  rfl

/-- What the completion leaves of the chorus: its accumulator cells as the engines leave them, the sequencer without the operation. -/
theorem mmaComplete_leaves {s : State} {c : Chorus} {l : Launch} {q : Sequencer} {j : Job} {later : List Job}
    (hc : s.chorus? c.uid = some c) (hl : s.launch? c.launch = some l) (hq : c.seqs.find? (fun x => x.pos = q.pos) = some q)
    (hj : q.jobs = j :: later) (hid : ∀ x ∈ later, x.id ≠ j.id) (hp : c.poisonedOperand l.hdr q.pos j = false) :
    ∃ t d, exec (.mmaComplete c.uid q.pos j.id) s = .next t ∧ t.chorus? c.uid = some d ∧ t.mem = s.mem
      ∧ (∃ x, d.seqs.find? (fun x => x.pos = q.pos) = some x ∧ x.jobs = later)
      ∧ d.acc = (c.completeAll l.hdr q.pos s.tick j j.fields.engines).1.acc := by
  obtain ⟨huid, hseqs⟩ := c.completeAll_frame l.hdr q.pos s.tick j j.fields.engines
  have hexec := execMmaComplete_first hc hl hq hj hp
  generalize c.completeAll l.hdr q.pos s.tick j j.fields.engines = r at huid hseqs hexec
  have hfind : (r.1.dropJob q.pos j.id).seqs.find? (fun x => x.pos = q.pos) = some { q with jobs := later } := by
    show (updateFirst _ _ r.1.seqs).find? _ = _
    rw [find?_updateFirst_self (fun x : Sequencer => decide (x.pos = q.pos))
      (fun x => { x with jobs := x.jobs.filter fun y => y.id ≠ j.id }) fun _ h => h, hseqs, hq]
    simpa [hj] using hid
  refine ⟨_, if r.2 = 0 then r.1.dropJob q.pos j.id else (r.1.dropJob q.pos j.id).raise s.now r.2, hexec, ?_, by simp,
    ⟨{ q with jobs := later }, ?_, rfl⟩, ?_⟩
  · rw [State.chorus?_bump, State.chorus?_flag, State.chorus?_modChorus_const (r.1.dropJob q.pos j.id) hc huid]
    rfl
  · split <;> exact hfind
  · split <;> rfl

/-! ### The cells of an MMA (R55, R269) -/

/-- The rows of a dense MMA in a floating format of less than 64 bits: each cell takes the sum of its old value and the products
of its row and its column. -/
theorem Chorus.mmaRows_dense (c : Chorus) (pos n : Nat) (j : Job) (x : Operands) (hform : j.fields.form = 0)
    (hint : mmaInt j.fields.tg.toNat = false) (htg : j.fields.tg ≠ 1) :
    let elems (tag v : Nat) := (List.range (mmaSizes j.fields).2.1).map (mmaFloat tag v)
    (c.mmaRows pos n j x).1 = x.a.zipIdx.map fun v => x.b.zipIdx.map fun b =>
      (mmaCell j.fields (c.cell (cellKey pos n (j.row + v.2) b.2)) (elems j.fields.tg.toNat v.1) (elems j.fields.hn.toNat b.1)).bits := by
  have htag : j.fields.tg.toNat ≠ 1 := fun h => htg (BitVec.eq_of_toNat_eq h)
  simp only [Chorus.mmaRows, hform, hint, spread, htag, if_false, ne_eq, OfNat.zero_ne_ofNat, not_false_eq_true, if_true,
    Bool.false_eq_true, List.map_map, List.zipIdx_map]
  rfl

/-- Rows of one length, one after another. -/
theorem getElem?_flatten_of_length {α : Type} {w : Nat} (rows : List (List α)) (h : ∀ x ∈ rows, x.length = w) (r : Nat) {col : Nat}
    (hcol : col < w) : rows.flatten[w * r + col]? = rows[r]?.bind (·[col]?) := by
  induction rows generalizing r with
  | nil => rfl
  | cons x rest ih =>
    obtain ⟨hx, hrest⟩ := List.forall_mem_cons.mp h
    cases r with
    | zero => simp [List.getElem?_append_left (show col < x.length by omega)]
    | succ r =>
      rw [List.flatten_cons, List.getElem?_append_right (by rw [hx, Nat.mul_succ]; omega), hx, Nat.mul_succ,
        show w * r + w + col - w = w * r + col by omega, ih hrest]
      rfl

/-- An engine whose operands stand and that nothing has overlapped puts the rows of the MMA into its tile (R269). -/
theorem Chorus.completeOn_mma (c : Chorus) (hdr : Header) (pos tick : Nat) (j : Job) (n : Nat) (x : Operands) (hop : j.op = 0xA8)
    (ht : j.touched = []) (hl : c.loanStands pos j n = true) (hx : c.operands hdr pos j n = some x) :
    (c.completeOn hdr pos tick j n).1
      = c.putRows pos n j.row j.rowCount ((c.mmaRows pos n j x).1.flatten.map (BitVec.ofNat 32)) := by
  simp [Chorus.completeOn, hop, ht, hl, hx]

/-- The cell of a dense MMA's tile at a row and a column. -/
theorem Chorus.putRows_mmaRows_dense (c : Chorus) (pos n : Nat) (j : Job) (x : Operands) (hop : j.op = 0xA8) (hform : j.fields.form = 0)
    (hint : mmaInt j.fields.tg.toNat = false) (htg : j.fields.tg ≠ 1) (ha : x.a.length = 64) (hb : x.b.length = 128) {r col : Nat}
    (hr : r < 64) (hcol : col < 128) :
    let elems (tag v : Nat) := (List.range (mmaSizes j.fields).2.1).map (mmaFloat tag v)
    (c.putRows pos n j.row j.rowCount ((c.mmaRows pos n j x).1.flatten.map (BitVec.ofNat 32))).acc.get 0 (cellKey pos n (j.row + r) col)
      = BitVec.ofNat 32 (mmaCell j.fields (c.cell (cellKey pos n (j.row + r) col)) (elems j.fields.tg.toNat (x.a.getD r 0))
          (elems j.fields.hn.toNat (x.b.getD col 0))).bits := by
  intro elems
  have hcount : j.rowCount = 64 := by
    have hmod : j.fields.mod.toNat / 16 = 0 := hform
    simp [Job.rowCount, hop, hmod]
  have hrows := c.mmaRows_dense pos n j x hform hint htg
  rw [Chorus.putRows_acc, hcount, cellKey_add, cellKey_add, if_pos (by omega), Nat.add_sub_cancel_left, hrows,
    List.getD_eq_getElem?_getD, List.getElem?_map, getElem?_flatten_of_length (w := 128) _ _ r hcol]
  · simp [ha, hb, hr, hcol, List.getD_eq_getElem?_getD, cellKey_add, elems]
  · rintro row hrow
    obtain ⟨v, -, rfl⟩ := List.mem_map.mp hrow
    simp [hb]

end Sys2Proof.Machine

open Sys2Proof Sys2Proof.Machine Sys2Proof.Safety Sys2Proof.Claims

/-- Settles O39, through what the completion leaves of the chorus: for an MZERO engine by engine, for an MMA by the rows of its one
engine. -/
theorem matrixOperationsComplete : Obligations.MatrixOperationsComplete := by
  intro s c l q j later hc hl hq hj hid inTile
  refine ⟨fun hop => ?_, fun hop hform hint htg hp ht n x hn hx hloan ha hb => ?_⟩
  · obtain ⟨t, d, he, hd, hmem, hseq, hacc⟩ := mmaComplete_leaves hc hl hq hj hid (by simp [Chorus.poisonedOperand, hop])
    refine ⟨t, d, he, hd, hmem, hseq, fun n hn k hk hs => ?_, fun k hk => ?_⟩
    · rw [hacc]
      exact Chorus.completeAll_zero c _ _ _ j _ hop hs (.inl ⟨n, hn, hk⟩)
    · rw [hacc]
      exact Chorus.completeAll_zero_outside c _ _ _ j _ hop hk
  · obtain ⟨t, d, he, hd, hmem, -, hacc⟩ := mmaComplete_leaves hc hl hq hj hid hp
    have hrows : d.acc = (c.putRows q.pos n j.row j.rowCount ((c.mmaRows q.pos n j x).1.flatten.map (BitVec.ofNat 32))).acc := by
      rw [hacc, Chorus.completeAll_eq_foldl, hn, ← Chorus.completeOn_mma c l.hdr q.pos s.tick j n x hop ht hloan hx]
      rfl
    refine ⟨t, d, he, hd, hmem, fun k hk => ?_, fun r col hr hcol => ?_⟩
    · rw [hrows, Chorus.putRows_acc, if_neg hk]
    · rw [hrows]
      have hcell := c.putRows_mmaRows_dense q.pos n j x hop hform hint htg ha hb hr hcol
      rw [hcell]
      simp only [mmaCell, htg, if_false, Chorus.cell]

end

section
/-! SUPPORT. What a register instruction that may issue answers: the words and flags of its run, in its registers or on their way.
The rules of the runs that go lane by lane or over all lanes. -/

namespace Sys2Proof.Machine

open Sys2Proof.Safety Sys2Proof.Claims

/-! ### Several registers, in words and in control -/

@[simp] theorem Clutch.put_pc (c : Clutch) (n : Nat) (m : Mask) (reg tag : Nat) (v : Nat → Word) : (c.put n m reg tag v).pc = c.pc := by
  unfold Clutch.put Clutch.setTag Clutch.write
  dsimp only
  split_ifs <;> rfl

theorem Clutch.putAll_snoc (c : Clutch) (n : Nat) (m : Mask) (dst : Nat) (tags : List Nat) (ws : List Lanes) (w : Lanes) :
    c.putAll n m dst tags (ws ++ [w]) = (c.putAll n m dst tags ws).put n m (dst + ws.length) (tags.getD ws.length 0) (lane w) := by
  simp [Clutch.putAll, List.zipIdx_append]

@[simp] theorem Clutch.putAll_id (c : Clutch) (n : Nat) (m : Mask) (dst : Nat) (tags : List Nat) (ws : List Lanes) :
    (c.putAll n m dst tags ws).id = c.id := by
  induction ws using List.reverseRecOn with
  | nil => rfl
  | append_singleton ws w ih => simp [Clutch.putAll_snoc, ih]

@[simp] theorem Clutch.putAll_pc (c : Clutch) (n : Nat) (m : Mask) (dst : Nat) (tags : List Nat) (ws : List Lanes) :
    (c.putAll n m dst tags ws).pc = c.pc := by
  induction ws using List.reverseRecOn with
  | nil => rfl
  | append_singleton ws w ih => simp [Clutch.putAll_snoc, ih]

/-- Consecutive registers hold their new words in the lanes of the mask, and every other word outside the mask triple is as before. -/
theorem Clutch.putAll_word (c : Clutch) (n : Nat) (m : Mask) (dst : Nat) (tags : List Nat) (ws : List Lanes) {k l : Nat} (hm : m ≠ 0)
    (hk : k < 253) (hl : l < laneCount) :
    (c.putAll n m dst tags ws).word n k l =
      if dst ≤ k ∧ k < dst + ws.length ∧ (isUniform n k = true ∨ inMask m l = true) then
        lane (ws.getD (k - dst) []) (if isUniform n k then lowest m else l)
      else c.word n k l := by
  generalize hsel : (if isUniform n k then lowest m else l) = sel
  by_cases hactive : isUniform n k = true ∨ inMask m l = true
  case neg =>
    simp only [hactive, and_false, if_false]
    induction ws using List.reverseRecOn with
    | nil => rfl
    | append_singleton ws w ih =>
      rw [Clutch.putAll_snoc, Clutch.put_word _ _ _ _ _ _ _ _ hm hk hl, if_neg (by rintro ⟨rfl, h⟩; exact hactive h), ih]
  case pos =>
    simp only [hactive, and_true]
    induction ws using List.reverseRecOn with
    | nil => exact (if_neg (by simp)).symm
    | append_singleton ws w ih =>
      have hput : k = dst + ws.length ∧ (isUniform n (dst + ws.length) = true ∨ inMask m l = true) ↔ k = dst + ws.length :=
        ⟨And.left, fun h => ⟨h, h ▸ hactive⟩⟩
      rw [Clutch.putAll_snoc, Clutch.put_word _ _ _ _ _ _ _ _ hm hk hl, ih, List.length_append, List.length_singleton]
      simp only [hput]
      by_cases hlast : k = dst + ws.length
      · have hlen : k - dst = ws.length := by omega
        rw [← hlast, hsel, if_pos rfl, if_pos (by omega), hlen]
        simp [List.getD_eq_getElem?_getD]
      · rw [if_neg hlast]
        by_cases hin : dst ≤ k ∧ k < dst + ws.length
        · rw [if_pos hin, if_pos (by omega)]
          simp [List.getD_eq_getElem?_getD, List.getElem?_append_left (show k - dst < ws.length by omega)]
        · rw [if_neg hin, if_neg (by omega)]

theorem lt_of_inMask {m : Mask} {l : Nat} (h : inMask m l = true) : l < laneCount := BitVec.lt_of_getLsbD h

theorem mem_lanesIn {m : Mask} {l : Nat} : l ∈ lanesIn m ↔ inMask m l = true := by
  simp only [lanesIn, List.mem_filter, List.mem_range, and_iff_right_iff_imp]
  exact lt_of_inMask

theorem lanesIn_ne_nil {m : Mask} (hm : m ≠ 0) : lanesIn m ≠ [] := by
  intro h
  refine hm (BitVec.eq_of_getLsbD_eq fun l _ => ?_)
  have hl : l ∉ lanesIn m := by simp [h]
  simpa [mem_lanesIn, inMask] using hl

/-- The lowest lane of a mask that is not zero is in it, and heads its lanes. -/
theorem lanesIn_eq_cons {m : Mask} (hm : m ≠ 0) : lanesIn m = lowest m :: (lanesIn m).drop 1 := by
  unfold lowest
  cases h : lanesIn m with
  | nil => exact absurd h (lanesIn_ne_nil hm)
  | cons x rest => rfl

theorem inMask_lowest {m : Mask} (hm : m ≠ 0) : inMask m (lowest m) = true := by
  rw [← mem_lanesIn, lanesIn_eq_cons hm]
  exact List.mem_cons_self

/-! ### The clutch and the chorus after the effect -/

theorem State.at?_flag (s : State) (who : ClutchId) (flags : Word) : (s.flag who.chorus flags).at? who = s.at? who := by
  unfold State.at?
  rw [State.chorus?_flag]
  cases s.chorus? who.chorus with
  | none => rfl
  | some c =>
    show Chorus.clutch? (if flags = 0 then c else c.raise s.now flags) who.clutch = c.clutch? who.clutch
    split <;> rfl

@[simp] theorem State.at?_bump (s : State) (who : ClutchId) : s.bump.at? who = s.at? who := rfl

/-! ### The effect of a register instruction -/

section
variable {i : Instr} {op : Nat} {f : Fields} {mk : State → Env → Alu} {s : State} {e : Env}

/-- What `issues` says of a register instruction whose form is known. -/
theorem issues_elim (hi : registerForm i = some (op, f, mk)) (h : issues i s e) :
    WellFormed e.ranges i = true ∧ mayIssue s e op f ∧ (mk s e).fails e = false ∧ (mk s e).poisoned e = false := by
  obtain ⟨op', f', mk', hi', hrest⟩ := h
  rw [hi] at hi'
  cases hi'
  exact hrest

theorem issues_exec (hi : registerForm i = some (op, f, mk)) (h : issues i s e) :
    exec i s = .next (((mk s e).effect s e ((mk s e).result s e)).bump.modClutch e.who (·.advance f.len.bytes)) := by
  obtain ⟨-, hm, hf, hp⟩ := issues_elim hi h
  rw [exec_registerForm hi, runAlu_eq op f mk s e hm hf hp]

theorem issues_mask (h : issues i s e) : e.mask ≠ 0 := by
  obtain ⟨_, _, _, _, _, ⟨_, hm, _⟩, _⟩ := h
  exact hm

/-- A register instruction that answers at once: what its run gives is what its registers hold. -/
theorem results_of_run (hi : registerForm i = some (op, f, mk)) (h : issues i s e) (hlong : (mk s e).long = false)
    (hdst : (mk s e).dst = f.d.toNat) {count : Nat} {v : Nat → Nat → Word}
    (hlen : ((mk s e).result s e).1.length = count)
    (hv : ∀ k l, k < count → inMask e.mask l = true → lane (((mk s e).result s e).1.getD k []) l = v k l) :
    results i s e f count v ((mk s e).result s e).2 := by
  have hm := issues_mask h
  obtain ⟨-, ⟨⟨-, he⟩, -⟩, -⟩ := issues_elim hi h
  have hat := State.env?_at? s e.who e he
  obtain ⟨-, hchorus, -⟩ := State.env?_some s e.who e he
  have hexec := issues_exec hi h
  unfold Alu.effect at hexec
  rw [hlong] at hexec
  generalize (mk s e).result s e = r at *
  rw [if_neg (by simp)] at hexec
  refine ⟨_, (e.cl.putAll e.hdr.uniform e.mask (mk s e).dst (mk s e).tags r.1).advance f.len.bytes, hexec, ?_, ?_, ?_, ?_⟩
  · rw [State.at?_modClutch_self _ _ (·.advance f.len.bytes) fun _ => rfl, State.at?_bump, State.at?_flag,
      State.at?_modClutch_self _ _ (fun c => c.putAll _ _ _ _ _) (by simp), hat]
    rfl
  · simp [Clutch.advance]
  · intro reg l hreg hl
    show (e.cl.putAll e.hdr.uniform e.mask (mk s e).dst (mk s e).tags r.1).word e.hdr.uniform reg l = _
    rw [Clutch.putAll_word _ _ _ _ _ _ hm hreg hl, hlen, hdst]
    split
    · rename_i hin
      refine hv _ _ (by omega) ?_
      split
      · exact inMask_lowest hm
      · simp_all
    · rfl
  · intro c d hc hd
    rw [State.chorus?_modClutch_self, State.chorus?_bump, State.chorus?_flag, State.chorus?_modClutch_self, hc] at hd
    simp only [Option.map_some, Option.some.injEq] at hd
    subst hd
    split
    · rename_i h0
      simp [h0, Chorus.modClutch]
    · rfl

/-- A long-latency register instruction: what its run gives is on its way (R91). -/
theorem lands_of_run (hi : registerForm i = some (op, f, mk)) (h : issues i s e) (hlong : (mk s e).long = true) :
    ∃ t p, exec i s = .next t ∧ t.landings = s.landings ++ [p] ∧ p.words = ((mk s e).result s e).1
      ∧ p.flags = ((mk s e).result s e).2 := by
  have hexec := issues_exec hi h
  unfold Alu.effect at hexec
  rw [hlong, if_pos rfl] at hexec
  exact ⟨_, _, hexec, by rw [State.modClutch_landings, State.bump_landings, State.produce_landings], rfl, rfl⟩

end

/-! ### Runs lane by lane -/

theorem perLane_length (m : Mask) (n : Nat) (g : Nat → List Nat × Word) : (perLane m n g).1.length = n := by simp [perLane]

theorem perLane_word (m : Mask) (n : Nat) (g : Nat → List Nat × Word) {k l : Nat} (hk : k < n) (hl : inMask m l = true) :
    lane ((perLane m n g).1.getD k []) l = BitVec.ofNat 32 ((g l).1.getD k 0) := by
  have hlt := lt_of_inMask hl
  simp [perLane, lane, lanesOf, List.getD_eq_getElem?_getD, hk, hlt, hl]

/-- Flags gathered in a list hold those of each member. -/
theorem foldl_or_and {α : Type} (g : α → Word) (xs : List α) (w : Word) :
    (∀ x ∈ xs, xs.foldl (fun a y => a ||| g y) w &&& g x = g x) ∧ xs.foldl (fun a y => a ||| g y) w &&& w = w := by
  induction xs generalizing w with
  | nil => simp
  | cons y rest ih =>
    obtain ⟨hrest, hw⟩ := ih (w ||| g y)
    rw [List.foldl_cons]
    generalize rest.foldl (fun a y => a ||| g y) (w ||| g y) = r at *
    have hparts : r &&& g y = g y ∧ r &&& w = w := by
      constructor <;> (ext i; have := congrArg (fun z : Word => z.getLsbD i) hw; simp at this ⊢; grind)
    exact ⟨fun x hx => (List.mem_cons.mp hx).elim (fun he => he ▸ hparts.1) (hrest x), hparts.2⟩

/-- The flags of a run lane by lane hold those of every active lane. -/
theorem perLane_flags (m : Mask) (n : Nat) (g : Nat → List Nat × Word) {l : Nat} (hl : inMask m l = true) :
    (perLane m n g).2 &&& (g l).2 = (g l).2 := by
  have hmem : g l ∈ lanesOf fun l => if inMask m l then g l else ([], 0) :=
    List.mem_map.mpr ⟨l, List.mem_range.mpr (lt_of_inMask hl), if_pos hl⟩
  exact (foldl_or_and (fun r : List Nat × Word => r.2) _ 0).1 _ hmem

end Sys2Proof.Machine
end

section
/-! SUPPORT. Votes, ballots, matches, shuffles and broadcasts: the first parts of O12. -/

namespace Sys2Proof.Machine

open Sys2Proof.Safety Sys2Proof.Claims

/-! ### Sources of one word -/

theorem Env.srcFmt_untagged (e : Env) {x : Src} (h : x.tag = none) : e.srcFmt x = false := by
  unfold Env.srcFmt
  rw [h]
  split <;> simp_all

/-- What a run reads of its source of a number. -/
def Alu.reads (a : Alu) (s : State) (e : Env) (i l : Nat) : Nat := (a.srcs[i]?).elim 0 fun x => e.source s x l

/-- The words of an instruction are those of its run; its flags hold those of its run. -/
theorem Alu.result_eq (a : Alu) (s : State) (e : Env) :
    a.result s e = ((a.run (a.reads s e)).1,
      if a.srcs.any e.srcFmt then (a.run (a.reads s e)).2 ||| flagFmt else (a.run (a.reads s e)).2) := by
  have hreads : a.reads s e = fun i l => match a.srcs[i]? with | some x => e.source s x l | none => 0 := by
    funext i l
    unfold Alu.reads
    cases a.srcs[i]? <;> rfl
  rw [hreads]
  rfl

/-- A run whose sources are checked against no tag sets no FMT. -/
theorem Alu.result_untagged (a : Alu) (s : State) (e : Env) (h : ∀ x ∈ a.srcs, x.tag = none) :
    a.result s e = a.run (a.reads s e) := by
  have hfmt : a.srcs.any e.srcFmt = false := by
    rw [List.any_eq_false]
    intro x hx
    simp [e.srcFmt_untagged (h x hx)]
  rw [Alu.result_eq, hfmt]
  rfl

/-- A source of one word is a word. -/
theorem Env.source_lt (e : Env) (s : State) (x : Src) (l : Nat) (hw : x.width ≠ 2) (hi : ∀ v, x.imm = some v → v < 2 ^ 32) :
    e.source s x l < 2 ^ 32 := by
  unfold Env.source
  cases h : x.imm with
  | some v => exact hi v h
  | none =>
    cases e.selected x l with
    | none => exact Nat.two_pow_pos 32
    | some k => simpa [hw] using (e.read s x.reg k).isLt

theorem Env.source_intSrc_lt (e : Env) (s : State) (f : Fields) (pos i l : Nat) : e.source s (intSrc f pos i 1) l < 2 ^ 32 := by
  refine e.source_lt s _ l (by simp [intSrc]) fun v hv => ?_
  simp only [intSrc, immValue] at hv
  split at hv
  · simp only [Nat.reduceEqDiff, false_and, if_false, Option.some.injEq] at hv
    exact hv ▸ f.imm.isLt
  · cases hv

/-- A source word's number is what its source reads. -/
theorem word_toNat (s : State) (e : Env) (f : Fields) (pos i l : Nat) : (word s e f pos i l).toNat = e.source s (intSrc f pos i 1) l := by
  rw [word, BitVec.toNat_ofNat, Nat.mod_eq_of_lt (e.source_intSrc_lt s f pos i l)]

theorem word_eq_iff (s : State) (e : Env) (f : Fields) (pos i l k : Nat) :
    word s e f pos i l = word s e f pos i k ↔ e.source s (intSrc f pos i 1) l = e.source s (intSrc f pos i 1) k := by
  rw [← word_toNat, ← word_toNat, BitVec.toNat_inj]

theorem word_ne_zero_iff (s : State) (e : Env) (f : Fields) (pos i l : Nat) :
    word s e f pos i l ≠ 0 ↔ e.source s (intSrc f pos i 1) l ≠ 0 := by
  rw [← word_toNat, ne_eq, ne_eq, ← BitVec.toNat_inj]
  rfl

/-! ### Runs over all lanes -/

theorem acrossAlu_result (f : Fields) (g : (Nat → Nat) → List Lanes × Word) (s : State) (e : Env) :
    (acrossAlu f g).result s e = g fun l => e.source s (intSrc f 0 1 1) l :=
  Alu.result_untagged _ s e (by simp [acrossAlu, intSrc])

section
variable {i : Instr} {op : Nat} {f : Fields} {mk : State → Env → Alu} {s : State} {e : Env}

/-- A run that gives one register its words. -/
theorem results_of_words (hi : registerForm i = some (op, f, mk)) (h : issues i s e) (hlong : (mk s e).long = false)
    (hdst : (mk s e).dst = f.d.toNat) {ws : Lanes} {flags : Word} (hr : (mk s e).result s e = ([ws], flags))
    {v : Nat → Nat → Word} (hv : ∀ l, inMask e.mask l = true → lane ws l = v 0 l) : results i s e f 1 v flags := by
  have hrun := results_of_run (v := v) hi h hlong hdst (count := 1) (by rw [hr]; rfl) fun k l hk hl => by
    obtain rfl : k = 0 := by omega
    rw [hr]
    exact hv l hl
  rwa [hr] at hrun

/-- A run that gives one register a word for each lane. -/
theorem results_of_lanes (hi : registerForm i = some (op, f, mk)) (h : issues i s e) (hlong : (mk s e).long = false)
    (hdst : (mk s e).dst = f.d.toNat) {g : Nat → Word} {flags : Word} (hr : (mk s e).result s e = ([lanesOf g], flags))
    {v : Nat → Nat → Word} (hv : ∀ l, inMask e.mask l = true → g l = v 0 l) : results i s e f 1 v flags :=
  results_of_words hi h hlong hdst hr fun l hl => (lane_lanesOf g l (lt_of_inMask hl)).trans (hv l hl)

/-- The same of an instruction that looks at all active lanes of A. -/
theorem results_of_across (hi : registerForm i = some (op, f, mk)) (h : issues i s e)
    {run : (Nat → Nat) → List Lanes × Word} (hmk : mk s e = acrossAlu f run) {g : Nat → Word} {flags : Word}
    (hr : run (fun l => e.source s (intSrc f 0 1 1) l) = ([lanesOf g], flags))
    {v : Nat → Nat → Word} (hv : ∀ l, inMask e.mask l = true → g l = v 0 l) : results i s e f 1 v flags :=
  results_of_lanes hi h (by rw [hmk]; rfl) (by rw [hmk]; rfl) (by rw [hmk, acrossAlu_result, hr]) hv

end

/-! ### Votes and ballots (R123) -/

theorem ofNat_predicate (b : Bool) : BitVec.ofNat 32 (predicate b) = truth b := by cases b <;> rfl

/-- The bits of a sum of distinct powers of two. -/
theorem testBit_sum_bits (p : Nat → Bool) (n k : Nat) :
    ((List.range n).foldl (fun acc i => if p i then acc + 2 ^ i else acc) 0).testBit k = (decide (k < n) && p k) := by
  have hstep : (List.range n).foldl (fun acc i => if p i then acc + 2 ^ i else acc) 0 < 2 ^ n
      ∧ ∀ k, ((List.range n).foldl (fun acc i => if p i then acc + 2 ^ i else acc) 0).testBit k = (decide (k < n) && p k) := by
    induction n with
    | zero => simp
    | succ n ih =>
      obtain ⟨hlt, hbits⟩ := ih
      rw [List.range_succ, List.foldl_append, List.foldl_cons, List.foldl_nil]
      generalize (List.range n).foldl (fun acc i => if p i then acc + 2 ^ i else acc) 0 = acc at *
      refine ⟨by split <;> omega, fun k => ?_⟩
      by_cases hk : k = n
      · subst hk
        by_cases hp : p k = true
        · simp [hp, Nat.add_comm acc, Nat.testBit_two_pow_add_eq, hbits]
        · simp [hp, hbits]
      · have hne : ((acc + if p n then 2 ^ n else 0).testBit k) = acc.testBit k := by
          split
          · rcases Nat.lt_or_gt_of_ne hk with h | h
            · rw [Nat.add_comm, Nat.testBit_two_pow_add_gt h]
            · have hpow : 2 ^ (n + 1) ≤ 2 ^ k := Nat.pow_le_pow_right (by omega) h
              rw [Nat.testBit_lt_two_pow (by omega), Nat.testBit_lt_two_pow (by omega)]
          · rw [Nat.add_zero]
        have hsplit : (if p n then acc + 2 ^ n else acc) = acc + if p n then 2 ^ n else 0 := by split <;> simp
        rw [hsplit, hne, hbits]
        simp [show k < n + 1 ↔ k < n by omega]
  exact hstep.2 k

theorem inMask_maskOf (p : Nat → Bool) (l : Nat) : inMask (maskOf p) l = (decide (l < laneCount) && p l) := by
  unfold inMask maskOf
  rw [BitVec.getLsbD_ofNat, testBit_sum_bits]
  cases p l <;> simp

/-- The word of a beat holds its active lanes that meet a test, lowest first. -/
theorem ofNat_beatWord (e : Env) (j : Nat) (p : Nat → Bool) : BitVec.ofNat 32 (beatWord e.mask j p) = beat e j p := by
  refine BitVec.eq_of_getLsbD_eq fun i hi => ?_
  unfold beatWord beat
  rw [BitVec.getLsbD_ofNat, testBit_sum_bits, BitVec.getLsbD_setWidth, BitVec.getLsbD_ushiftRight]
  have hbit := inMask_maskOf (fun k => inMask e.mask k && p k) (32 * j + i)
  unfold inMask at hbit ⊢
  rw [hbit]
  by_cases h : 32 * j + i < 96
  · simp [hi, h]
  · simp [hi, h, BitVec.getLsbD_of_ge e.mask _ (Nat.le_of_not_lt h)]

/-- The beat that a lane looks at, out of the words of the three. -/
theorem getD_beatWords (e : Env) (p : Nat → Bool) (j : Nat) :
    BitVec.ofNat 32 (((List.range 3).map fun j => beatWord e.mask j p).getD j 0) = beat e j p := by
  rw [← ofNat_beatWord, List.getD_eq_getElem?_getD, List.getElem?_map]
  by_cases hj : j < 3
  · simp [hj]
  · have hnone : beatWord e.mask j p = 0 := by
      refine Nat.eq_of_testBit_eq fun i => ?_
      unfold beatWord
      rw [testBit_sum_bits, Nat.zero_testBit]
      simp [inMask, BitVec.getLsbD_of_ge e.mask (32 * j + i) (by omega)]
    simp [hj, hnone]

theorem vote_holds (s : State) (e : Env) (f : Fields) (h : issues (.vote f) s e) :
    results (.vote f) s e f 1 fun _ _ => truth ((lanesIn e.mask).length = 1 || match f.mod.toNat / 8 with
      | 0 => (lanesIn e.mask).all fun l => word s e f 0 1 l ≠ 0
      | 1 => (lanesIn e.mask).any fun l => word s e f 0 1 l ≠ 0
      | _ => (lanesIn e.mask).all fun l => (lanesIn e.mask).all fun k => word s e f 0 1 l = word s e f 0 1 k) := by
  have hlow : e.low ∈ lanesIn e.mask := mem_lanesIn.mpr (inMask_lowest (issues_mask h))
  have huni : ((lanesIn e.mask).all fun l => (lanesIn e.mask).all fun k => word s e f 0 1 l = word s e f 0 1 k)
      = (lanesIn e.mask).all fun l => e.source s (intSrc f 0 1 1) l = e.source s (intSrc f 0 1 1) e.low := by
    rw [Bool.eq_iff_iff]
    simp only [List.all_eq_true, decide_eq_true_eq, word_eq_iff]
    exact ⟨fun hall l hl => hall l hl _ hlow, fun hall l hl k hk => (hall l hl).trans (hall k hk).symm⟩
  refine results_of_across rfl h rfl rfl fun l hl => ?_
  rw [ofNat_predicate]
  congr 2
  generalize f.mod.toNat / 8 = xm
  match xm with
  | 0 => simp only [word_ne_zero_iff]
  | 1 => simp only [word_ne_zero_iff]
  | _ + 2 => exact huni.symm

theorem ballot_holds (s : State) (e : Env) (f : Fields) (h : issues (.ballot f) s e) :
    results (.ballot f) s e f 1 fun _ l =>
      beat e (if f.mod.toNat / 8 = 3 then l / 32 else f.mod.toNat / 8) fun k => word s e f 0 1 k ≠ 0 := by
  refine results_of_across rfl h rfl rfl fun l hl => ?_
  rw [getD_beatWords]
  simp only [beatOf, word_ne_zero_iff]

theorem match_holds (s : State) (e : Env) (f : Fields) (h : issues (.match_ f) s e) :
    results (.match_ f) s e f 1 fun _ l =>
      beat e (if f.mod.toNat / 8 = 3 then l / 32 else f.mod.toNat / 8) fun k => word s e f 0 1 k = word s e f 0 1 l := by
  refine results_of_across rfl h rfl rfl fun l hl => ?_
  rw [if_pos hl, ofNat_beatWord]
  simp only [beatOf, word_eq_iff]

theorem votesAndBallots_holds : Claims.votesAndBallots := fun s e f => ⟨vote_holds s e f, ballot_holds s e f, match_holds s e f⟩

/-! ### Shuffles and broadcasts (R126, R127, R196) -/

/-- Outside a handler every lane is a member; inside, the lanes that it serves (R196). -/
theorem inMask_handlerLanes (c : Clutch) {l : Nat} (hl : l < 96) :
    inMask c.handlerLanes l = (!c.inHandler || inMask c.handlerLanes l) := by
  cases h : c.inHandler with
  | true => simp
  | false =>
    have hnone : c.stack.reverse.find? (fun x => x.kind = .handler) = none := by
      rw [List.find?_eq_none]
      simp only [Clutch.inHandler, List.any_eq_false] at h
      simpa using h
    unfold Clutch.handlerLanes inMask
    rw [hnone, BitVec.getLsbD_allOnes]
    simpa using hl

theorem foldl_range_three (g : Nat → Nat) : (List.range 3).foldl (fun acc j => acc + g j) 0 = g 0 + g 1 + g 2 := by
  simp [List.range_succ]

/-- The bits of three words, lowest word first. -/
theorem testBit_threeWords (w : Nat → Word) {l : Nat} (hl : l < 96) :
    ((List.range 3).foldl (fun acc j => acc + (w j).toNat * 2 ^ (32 * j)) 0).testBit l = (w (l / 32)).getLsbD (l % 32) := by
  have hsum : (List.range 3).foldl (fun acc j => acc + (w j).toNat * 2 ^ (32 * j)) 0
      = 2 ^ 32 * (2 ^ 32 * (w 2).toNat + (w 1).toNat) + (w 0).toNat := by
    rw [foldl_range_three fun j => (w j).toNat * 2 ^ (32 * j)]
    ring
  rw [hsum, Nat.testBit_two_pow_mul_add _ (w 0).isLt, Nat.testBit_two_pow_mul_add _ (w 1).isLt]
  have hcases : l / 32 = 0 ∧ l < 32 ∨ l / 32 = 1 ∧ ¬ l < 32 ∧ l - 32 < 32 ∨ l / 32 = 2 ∧ ¬ l < 32 ∧ ¬ l - 32 < 32 := by omega
  rcases hcases with ⟨hq, h⟩ | ⟨hq, h, h'⟩ | ⟨hq, h, h'⟩
  · rw [if_pos h, hq, show l % 32 = l by omega]
    rfl
  · rw [if_neg h, if_pos h', hq, show l % 32 = l - 32 by omega]
    rfl
  · rw [if_neg h, if_neg h', hq, show l % 32 = l - 32 - 32 by omega]
    rfl

/-- The member bits of three uniform registers (R126). -/
theorem inMask_triple (e : Env) (reg l : Nat) (hl : l < 96) : inMask (e.triple reg) l = member e reg l := by
  unfold inMask Env.triple member
  rw [BitVec.getLsbD_ofNat, testBit_threeWords (fun j => e.cl.word e.hdr.uniform (reg + j) 0) hl]
  simpa using fun _ => hl

theorem intSrc_unreplaced (f : Fields) {pos pos' i : Nat} (w : Nat) (h : pos ≠ i) (h' : pos' ≠ i) : intSrc f pos i w = intSrc f pos' i w := by
  simp [intSrc, h, h']

theorem shfl_holds (s : State) (e : Env) (f : Fields) (from_ : Nat → Int)
    (hfrom : ∀ l, from_ l = shflLane (f.mod.toNat / 8) l ((word s e f 2 2 l).toNat % 128)) (h : issues (.shfl f) s e) :
    results (.shfl f) s e f 1 fun _ l =>
      if 0 ≤ from_ l ∧ from_ l ≤ 95 ∧ member e f.c.toNat (from_ l).toNat = true
          ∧ (!e.cl.inHandler || inMask e.cl.handlerLanes (from_ l).toNat) = true then
        word s e f 2 1 (from_ l).toNat else word s e f 2 1 l := by
  refine results_of_lanes rfl h rfl rfl (Alu.result_untagged _ s e (by simp [aluShfl, intSrc])) fun l _ => ?_
  have hmember : (0 ≤ from_ l ∧ from_ l ≤ 95 ∧ inMask (e.triple f.c.toNat &&& e.cl.handlerLanes) (from_ l).toNat = true)
      ↔ 0 ≤ from_ l ∧ from_ l ≤ 95 ∧ member e f.c.toNat (from_ l).toNat = true
          ∧ (!e.cl.inHandler || inMask e.cl.handlerLanes (from_ l).toNat) = true := by
    refine and_congr_right fun h0 => and_congr_right fun h95 => ?_
    have hlt : (from_ l).toNat < 96 := by omega
    rw [← inMask_handlerLanes _ hlt, ← inMask_triple _ _ _ hlt]
    simp [inMask]
  simp only [← hmember]
  rw [hfrom, word_toNat]
  simp only [Alu.reads, aluShfl, List.getElem?_cons_zero, Option.elim_some, word, intSrc_unreplaced f 1 (show 2 ≠ 1 by decide) (show 0 ≠ 1 by decide)]
  split <;> rfl

theorem bcast_holds (s : State) (e : Env) (f : Fields) (h : issues (.bcast f) s e) :
    let n := (word s e f 2 2 e.low).toNat % 128
    results (.bcast f) s e f 1 fun _ l =>
      if 96 ≤ n ∨ (!e.cl.inHandler || inMask e.cl.handlerLanes n) = false then word s e f 2 1 l else word s e f 2 1 n := by
  intro n
  refine results_of_lanes rfl h rfl rfl (Alu.result_untagged _ s e (by simp [aluBcast, intSrc])) fun l _ => ?_
  have hn : e.source s (intSrc f 2 2 1) e.low % 128 = n := by rw [← word_toNat]
  have hown : (96 ≤ n || !inMask e.cl.handlerLanes n) = true ↔ 96 ≤ n ∨ (!e.cl.inHandler || inMask e.cl.handlerLanes n) = false := by
    by_cases h96 : 96 ≤ n
    · simp [h96]
    · rw [← inMask_handlerLanes _ (show n < 96 by omega)]
      simp
  simp only [Alu.reads, aluBcast, List.getElem?_cons_zero, Option.elim_some, word, hn, hown, ← intSrc_unreplaced f 1 (show 2 ≠ 1 by decide) (show 0 ≠ 1 by decide)]
  split <;> rfl

theorem laneMoves_holds : Claims.laneMoves := fun s e f =>
  ⟨shfl_holds s e f _ fun _ => rfl, bcast_holds s e f⟩

end Sys2Proof.Machine
end

section
/-! SUPPORT. Integers of a type as words, saturated values, and folds over the active lanes: what the reductions and scans of O12 rest on. -/

namespace Sys2Proof.Machine

open Sys2Proof.Safety Sys2Proof.Claims

/-! ### The value and the saturated word of an integer type (R35, R46) -/

/-- The value of a word in an integer type of its width. -/
theorem IntTy.ext_toNat (sg : Bool) {w : Nat} (x : BitVec w) : (IntTy.mk w sg).ext x.toNat = valueOf sg x := by
  have hmsb : x.toNat.testBit (w - 1) = x.msb := by rw [BitVec.msb_eq_getLsbD_last]; rfl
  unfold IntTy.ext valueOf
  simp only [Nat.mod_eq_of_lt x.isLt, hmsb]
  cases sg
  · rfl
  · rw [BitVec.toInt_eq_msb_cond]
    simp

theorem toNat_ofInt_intBits (w : Nat) (i : Int) : (BitVec.ofInt w i).toNat = intBits w i := by
  rw [BitVec.toNat_ofInt]
  rfl

/-- A saturated integer has the bits that `saturated` gives. -/
theorem IntTy.saturate_bits (sg : Bool) (w : Nat) (i : Int) : ((IntTy.mk w sg).saturate i).bits = (saturated sg w i).toNat := by
  have hpos : (0 : Int) < 2 ^ (w - 1) := by positivity
  have hpos' : (0 : Int) < 2 ^ w := by positivity
  unfold IntTy.saturate saturated IntTy.lo IntTy.hi
  cases sg
  · simp only [Bool.false_eq_true, if_false, toNat_ofInt_intBits, Nat.cast_pow, Nat.cast_ofNat]
    split_ifs with hlo hhi
    · rw [max_eq_left (by omega)]
    · rw [min_eq_left (by omega), max_eq_right (by omega)]
    · rw [min_eq_right (by omega), max_eq_right (by omega)]
  · simp only [if_true, toNat_ofInt_intBits, Nat.cast_pow, Nat.cast_ofNat]
    split_ifs with hlo hhi
    · rw [max_eq_left (by omega)]
    · rw [min_eq_left (by omega), max_eq_right (by omega)]
    · rw [min_eq_right (by omega), max_eq_right (by omega)]

theorem outside_iff (sg : Bool) (w : Nat) (i : Int) :
    outside sg w i = true ↔ i < (IntTy.mk w sg).lo ∨ i > (IntTy.mk w sg).hi := by
  cases sg <;> simp [outside, IntTy.lo, IntTy.hi]

/-- It raises OVF when the integer lies outside the type. -/
theorem IntTy.saturate_flags (sg : Bool) (w : Nat) (i : Int) :
    ((IntTy.mk w sg).saturate i).flags = if outside sg w i then flagOvf else 0 := by
  simp only [outside_iff, IntTy.saturate]
  by_cases hlo : i < (IntTy.mk w sg).lo
  · rw [if_pos hlo, if_pos (.inl hlo)]
  · by_cases hhi : i > (IntTy.mk w sg).hi
    · rw [if_neg hlo, if_pos hhi, if_pos (.inr hhi)]
    · rw [if_neg hlo, if_neg hhi, if_neg (not_or.mpr ⟨hlo, hhi⟩)]

/-- The type that MOD names for an instruction on words (R65). -/
theorem tyOf_word {f : Fields} (h : f.mod.toNat % 8 < 2) : tyOf (f.mod.toNat % 8) = ⟨32, signed f⟩ := by
  simp only [tyOf, h, if_true, signed, show f.mod.toNat % 8 % 2 = f.mod.toNat % 2 by omega]

/-! ### Combining what is present -/

theorem List.reduceOption_present {α : Type} (p : Nat → Bool) (v : Nat → α) (ls : List Nat) :
    (ls.map fun l => if p l then some (v l) else none).reduceOption = (ls.filter p).map v := by
  induction ls with
  | nil => rfl
  | cons l rest ih => cases hp : p l <;> simp_all [List.reduceOption_cons_of_some, List.reduceOption_cons_of_none]

/-- Folding the present values of lanes is folding the values of the lanes that are active. -/
theorem foldPresent_eq {α : Type} (op : α → α → α) (hop : ∀ x y z, op (op x y) z = op x (op y z)) (xs : List (Option α)) :
    foldPresent op xs = xs.reduceOption.head?.map fun x => (xs.reduceOption.drop 1).foldl op x := by
  have : Std.Associative op := ⟨hop⟩
  induction xs with
  | nil => rfl
  | cons x rest ih =>
    cases x with
    | none => simpa only [foldPresent, List.reduceOption_cons_of_none] using ih
    | some a =>
      simp only [foldPresent, ih, List.reduceOption_cons_of_some]
      cases rest.reduceOption with
      | nil => rfl
      | cons b more => simp [List.foldl_assoc]

/-! ### REDI (R57, R124) -/

/-- A choice between two values by a number is associative: it keeps the first of those that no other comes before. -/
theorem pick_assoc {α : Type} (key : α → Int) (x y z : α) :
    let pick (x y : α) := if key y < key x then y else x
    pick (pick x y) z = pick x (pick y z) := by
  intro pick
  simp only [pick]
  grind

/-- The operations of REDI and SCANI on numbers of words are those on words, for the operations named. -/
theorem toNat_extreme {f : Fields} (hty : f.mod.toNat % 8 < 2) (most : Bool) (x y : Word) :
    (extreme f most x y).toNat = if (if most then (tyOf (f.mod.toNat % 8)).ext x.toNat < (tyOf (f.mod.toNat % 8)).ext y.toNat
      else (tyOf (f.mod.toNat % 8)).ext y.toNat < (tyOf (f.mod.toNat % 8)).ext x.toNat) then y.toNat else x.toNat := by
  rw [tyOf_word hty, IntTy.ext_toNat, IntTy.ext_toNat]
  exact apply_ite BitVec.toNat _ _ _

/-- Folding numbers of words by an operation that stands for one on words. -/
theorem foldPresent_words (op : Nat → Nat → Nat) (g : Word → Word → Word) (hop : ∀ x y z, op (op x y) z = op x (op y z))
    (hg : ∀ x y : Word, op x.toNat y.toNat = (g x y).toNat) {m : Mask} (hm : m ≠ 0) (v : Nat → Word) :
    BitVec.ofNat 32 ((foldPresent op (presentLanes m fun l => (v l).toNat)).getD 0 % 2 ^ 32)
      = ((lanesIn m).drop 1).foldl (fun x j => g x (v j)) (v (lowest m)) := by
  rw [foldPresent_eq op hop, presentLanes, lanesOf, List.reduceOption_present,
    show (List.range laneCount).filter (inMask m) = lanesIn m from rfl, lanesIn_eq_cons hm]
  generalize (lanesIn m).drop 1 = rest
  have hhom : rest.foldl (fun x j => op x (v j).toNat) (v (lowest m)).toNat = (rest.foldl (fun x j => g x (v j)) (v (lowest m))).toNat :=
    List.foldl_hom BitVec.toNat fun x j => hg x (v j)
  simp only [List.map_cons, List.head?_cons, Option.map_some, Option.getD_some, List.drop_succ_cons, List.drop_zero, List.foldl_map, hhom]
  rw [Nat.mod_eq_of_lt (BitVec.isLt _), BitVec.ofNat_toNat, BitVec.setWidth_eq]

/-- What REDI gives, but for ADDS, from what it does with two words. -/
theorem redi_of_op {s : State} {e : Env} {f : Fields} {op : Nat → Nat → Nat} (h : issues (.redi f) s e)
    (hop : ∀ x y z, op (op x y) z = op x (op y z)) (hg : ∀ x y : Word, op x.toNat y.toNat = (foldOp f (f.mod.toNat / 8) x y).toNat)
    (hrun : ∀ a, (aluRedi f s e).run (fun _ => a) = sameLanes ((foldPresent op (presentLanes e.mask a)).getD 0 % 2 ^ 32)) :
    results (.redi f) s e f 1 fun _ _ =>
      ((lanesIn e.mask).drop 1).foldl (fun x j => foldOp f (f.mod.toNat / 8) x (word s e f 0 1 j)) (word s e f 0 1 e.low) := by
  refine results_of_across (run := fun a => (aluRedi f s e).run fun _ => a) rfl h rfl (hrun _) fun l _ => ?_
  simp only [← word_toNat]
  exact foldPresent_words op (foldOp f (f.mod.toNat / 8)) hop hg (issues_mask h) _

theorem redi_word_holds (s : State) (e : Env) (f : Fields) (h : issues (.redi f) s e) (hty : f.mod.toNat % 8 < 2) (hn : f.mod.toNat / 8 < 6) :
    results (.redi f) s e f 1 fun _ _ =>
      ((lanesIn e.mask).drop 1).foldl (fun x j => foldOp f (f.mod.toNat / 8) x (word s e f 0 1 j)) (word s e f 0 1 e.low) := by
  have hcases : f.mod.toNat / 8 = 0 ∨ f.mod.toNat / 8 = 1 ∨ f.mod.toNat / 8 = 2 ∨ f.mod.toNat / 8 = 3 ∨ f.mod.toNat / 8 = 4
      ∨ f.mod.toNat / 8 = 5 := by omega
  rcases hcases with hn | hn | hn | hn | hn | hn
  · exact redi_of_op (op := fun x y => (x + y) % 2 ^ 32) h (by intros; omega) (by intros; simp [foldOp, hn]) (by intros; simp [aluRedi, acrossAlu, hn])
  · exact redi_of_op (op := fun x y => if (tyOf (f.mod.toNat % 8)).ext y < (tyOf (f.mod.toNat % 8)).ext x then y else x) h
      (pick_assoc _) (fun x y => by simp [foldOp, hn, toNat_extreme hty]) (by intros; simp [aluRedi, acrossAlu, hn])
  · exact redi_of_op (op := fun x y => if (tyOf (f.mod.toNat % 8)).ext x < (tyOf (f.mod.toNat % 8)).ext y then y else x) h
      (by simpa using pick_assoc fun x => -(tyOf (f.mod.toNat % 8)).ext x) (fun x y => by simp [foldOp, hn, toNat_extreme hty])
      (by intros; simp [aluRedi, acrossAlu, hn])
  · exact redi_of_op (op := fun x y => x &&& y) h Nat.and_assoc (by intros; simp [foldOp, hn]) (by intros; simp [aluRedi, acrossAlu, hn])
  · exact redi_of_op (op := fun x y => x ||| y) h Nat.or_assoc (by intros; simp [foldOp, hn]) (by intros; simp [aluRedi, acrossAlu, hn])
  · exact redi_of_op (op := fun x y => x ^^^ y) h Nat.xor_assoc (by intros; simp [foldOp, hn]) (by intros; simp [aluRedi, acrossAlu, hn])

end Sys2Proof.Machine
end

section
/-! SUPPORT. The tree of REDI.ADDS, the scans and the intersections: the last parts of O12. -/

namespace Sys2Proof.Machine

open Sys2Proof.Safety Sys2Proof.Claims

/-! ### The tree (R57) -/

/-- Neighbours of the values at the first numbers combine level by level. -/
theorem pairUp_range {α : Type} (g : α → α → α) (h : Nat → α) (n : Nat) :
    pairUp g ((List.range (2 * n)).map h) = (List.range n).map fun i => g (h (2 * i)) (h (2 * i + 1)) := by
  induction n generalizing h with
  | zero => rfl
  | succ n ih =>
    have hstep : (List.range (2 * (n + 1))).map h = h 0 :: h 1 :: (List.range (2 * n)).map fun i => h (i + 2) := by
      rw [show 2 * (n + 1) = 2 * n + 1 + 1 by ring, List.range_succ_eq_map, List.range_succ_eq_map]
      simp [Function.comp_def]
    rw [hstep, pairUp, ih, List.range_succ_eq_map, List.map_cons, List.map_map]
    rfl

/-- A level of the tree over the values at all numbers. -/
def treeLevel {α : Type} (g : α → α → α) (h : Nat → α) (i : Nat) : α := g (h (2 * i)) (h (2 * i + 1))

/-- The tree of R57 over 96 lanes, level by level. -/
theorem reduceTree_lanes {α : Type} (op : α → α → α × Word) (x : Nat → Option α) :
    let g := combineOpt op
    let t := treeLevel g (treeLevel g (treeLevel g (treeLevel g (treeLevel g fun l => (x l, 0)))))
    reduceTree op (lanesOf x) = g (g (t 0) (t 1)) (t 2) := by
  intro g t
  have hlevels : pairUp g (pairUp g (pairUp g (pairUp g (pairUp g ((lanesOf x).map fun y => (y, 0)))))) = [t 0, t 1, t 2] := by
    rw [lanesOf, List.map_map]
    show pairUp g (pairUp g (pairUp g (pairUp g (pairUp g ((List.range (2 * 48)).map fun l => (x l, 0)))))) = _
    rw [pairUp_range g (fun l => (x l, 0)) 48]
    show pairUp g (pairUp g (pairUp g (pairUp g ((List.range (2 * 24)).map _)))) = _
    rw [pairUp_range g _ 24]
    show pairUp g (pairUp g (pairUp g ((List.range (2 * 12)).map _))) = _
    rw [pairUp_range g _ 12]
    show pairUp g (pairUp g ((List.range (2 * 6)).map _)) = _
    rw [pairUp_range g _ 6]
    show pairUp g ((List.range (2 * 3)).map _) = _
    rw [pairUp_range g _ 3]
    rfl
  unfold reduceTree
  simp only
  rw [hlevels]

/-! ### REDI.ADDS (R46, R57, R124) -/

/-- A value of the tree as the model holds it: a number, and its flags as a word. -/
def asNumber (x : Option Word × Bool) : Option Nat × Word := (x.1.map BitVec.toNat, if x.2 then flagOvf else 0)

/-- Saturating addition of two numbers of words, as REDI.ADDS combines them. -/
def addsOp (f : Fields) (x y : Nat) : Nat × Word :=
  let r := (tyOf (f.mod.toNat % 8)).saturate ((tyOf (f.mod.toNat % 8)).ext x + (tyOf (f.mod.toNat % 8)).ext y)
  (r.bits, r.flags)

theorem combineOpt_asNumber {f : Fields} (hty : f.mod.toNat % 8 < 2) (x y : Option Word × Bool) :
    combineOpt (addsOp f) (asNumber x) (asNumber y) = asNumber (joined f x y) := by
  obtain ⟨a, p⟩ := x
  obtain ⟨b, q⟩ := y
  have hor : ∀ p q : Bool, ((if p then flagOvf else 0) ||| if q then flagOvf else 0) = if p || q then flagOvf else (0 : Word) := by decide
  cases a with
  | none =>
    simp only [asNumber, joined, combineOpt, Option.map_none, hor]
    rfl
  | some a =>
    cases b with
    | none =>
      simp only [asNumber, joined, combineOpt, Option.map_none, Option.map_some, hor]
      rfl
    | some b =>
      simp only [asNumber, joined, combineOpt, addsOp, Option.map_some, tyOf_word hty, IntTy.ext_toNat, IntTy.saturate_bits,
        IntTy.saturate_flags, hor]
      rfl

theorem treeLevel_asNumber {f : Fields} (hty : f.mod.toNat % 8 < 2) (h : Nat → Option Word × Bool) :
    treeLevel (combineOpt (addsOp f)) (fun i => asNumber (h i)) = fun i => asNumber (halved f h i) := by
  funext i
  exact combineOpt_asNumber hty _ _

theorem redi_adds_holds (s : State) (e : Env) (f : Fields) (h : issues (.redi f) s e) (hty : f.mod.toNat % 8 < 2) (hn : f.mod.toNat / 8 = 6) :
    let sum := treeOf f fun l => (if inMask e.mask l then some (word s e f 0 1 l) else none, false)
    results (.redi f) s e f 1 (fun _ _ => sum.1.getD 0) (if sum.2 then flagOvf else 0) := by
  intro sum
  have htree : reduceTree (addsOp f) (presentLanes e.mask fun l => e.source s (intSrc f 0 1 1) l) = asNumber sum := by
    have hleaf : (fun l => ((if inMask e.mask l then some (e.source s (intSrc f 0 1 1) l) else none : Option Nat), (0 : Word)))
        = fun l => asNumber (if inMask e.mask l then some (word s e f 0 1 l) else none, false) := by
      funext l
      cases hl : inMask e.mask l <;> simp [asNumber, word_toNat]
    rw [presentLanes, reduceTree_lanes, hleaf]
    simp only [treeLevel_asNumber hty, combineOpt_asNumber hty]
    rfl
  have hrun : (aluRedi f s e).run (fun _ l => e.source s (intSrc f 0 1 1) l)
      = ([lanesOf fun _ => BitVec.ofNat 32 ((asNumber sum).1.getD 0)], (asNumber sum).2) := by
    rw [← htree]
    simp only [aluRedi, acrossAlu, hn]
    rfl
  refine results_of_across (run := fun a => (aluRedi f s e).run fun _ => a) rfl h rfl hrun fun l _ => ?_
  cases hs : sum.1 <;> simp [asNumber, hs]

end Sys2Proof.Machine
end

section
/-! SUPPORT. Scans and intersections, and the lane instructions together: what settles O12. -/

namespace Sys2Proof.Machine

open Sys2Proof.Safety Sys2Proof.Claims

/-! ### What a well-formed word's MOD and tag may be (R74) -/

/-- A well-formed word holds no reserved field value (R74, cause 2). -/
theorem valuesBad_of_wellFormed {r : Ranges} {i : Instr} {op : Nat} {f : Fields} {x : Shape} (hi : opOf i = some (op, f))
    (hx : shape op f = some x) (hw : WellFormed r i = true) : x.valuesBad r f = false := by
  simp only [WellFormed, hi, validOp, causeOf, hx, Bool.and_eq_true] at hw
  by_contra hv
  simp only [Bool.not_eq_false] at hv
  simp only [hv, if_true] at hw
  split at hw <;> simp_all

theorem modOk_of_wellFormed {r : Ranges} {i : Instr} {op : Nat} {f : Fields} {x : Shape} (hi : opOf i = some (op, f))
    (hx : shape op f = some x) (hw : WellFormed r i = true) : x.modOk = true := by
  have hv := valuesBad_of_wellFormed hi hx hw
  simp only [Shape.valuesBad, Bool.or_eq_false_iff] at hv
  simp_all

theorem tagOk_of_wellFormed {r : Ranges} {i : Instr} {op : Nat} {f : Fields} {x : Shape} (hi : opOf i = some (op, f))
    (hx : shape op f = some x) (hw : WellFormed r i = true) : x.tagOk = true := by
  have hv := valuesBad_of_wellFormed hi hx hw
  simp only [Shape.valuesBad, Bool.or_eq_false_iff] at hv
  simp_all

/-- An integer instruction on words of either sign names a type of 32 bits. -/
theorem ty_of_tyXm {f : Fields} {xm : List Nat} (h : tyXm f [0, 1] xm = true) : f.mod.toNat % 8 < 2 := by
  simp only [tyXm, Bool.and_eq_true, List.contains_eq_mem, List.mem_cons, List.not_mem_nil, or_false, decide_eq_true_eq] at h
  omega

/-! ### Running combinations -/

/-- The values of some lanes combined from the left; none where there is no lane. -/
def foldLanes {α : Type} (op : α → α → α × Word) (v : Nat → α) (ls : List Nat) : Option α :=
  (ls.map v).head?.map fun x => ((ls.map v).drop 1).foldl (fun a b => (op a b).1) x

/-- What a scan holds after some values, with the flags it has raised. -/
def runningOf {α : Type} (op : α → α → α × Word) (xs : List (Option α)) : Option α × Word :=
  xs.foldl (fun acc x => let n := combineOpt op (acc.1, 0) (x, 0); (n.1, acc.2 ||| n.2)) (none, 0)

theorem runningOf_snoc {α : Type} (op : α → α → α × Word) (xs : List (Option α)) (x : Option α) :
    runningOf op (xs ++ [x]) = ((combineOpt op ((runningOf op xs).1, 0) (x, 0)).1,
      (runningOf op xs).2 ||| (combineOpt op ((runningOf op xs).1, 0) (x, 0)).2) := by
  simp [runningOf]

theorem runningOf_eq {α : Type} (op : α → α → α × Word) (xs : List (Option α)) :
    (runningOf op xs).1 = xs.reduceOption.head?.map fun x => (xs.reduceOption.drop 1).foldl (fun a b => (op a b).1) x := by
  induction xs using List.reverseRecOn with
  | nil => rfl
  | append_singleton xs x ih =>
    rw [runningOf_snoc, ih, List.reduceOption_append]
    cases x with
    | none => cases xs.reduceOption <;> simp [combineOpt]
    | some b => cases xs.reduceOption <;> simp [combineOpt]

/-- What a scan holds before and after each of some values. -/
def scanned {α : Type} (op : α → α → α × Word) (xs : List (Option α)) : List (Option α × Option α) :=
  (List.range xs.length).map fun l => ((runningOf op (xs.take l)).1, (runningOf op (xs.take (l + 1))).1)

theorem scanned_snoc {α : Type} (op : α → α → α × Word) (xs : List (Option α)) (x : Option α) :
    scanned op (xs ++ [x]) = scanned op xs ++ [((runningOf op xs).1, (runningOf op (xs ++ [x])).1)] := by
  have hbefore : ∀ l ∈ List.range xs.length,
      ((runningOf op ((xs ++ [x]).take l)).1, (runningOf op ((xs ++ [x]).take (l + 1))).1)
        = ((runningOf op (xs.take l)).1, (runningOf op (xs.take (l + 1))).1) := by
    intro l hl
    have := List.mem_range.mp hl
    rw [List.take_append_of_le_length (by omega), List.take_append_of_le_length (by omega)]
  have hlast : (xs ++ [x]).take (xs.length + 1) = xs ++ [x] := List.take_of_length_le (by simp)
  rw [scanned, List.length_append, List.length_singleton, List.range_succ, List.map_append, List.map_congr_left hbefore]
  simp [scanned, hlast]

/-- What a scan notes of one value. -/
def scanStep {α : Type} (op : α → α → α × Word) (acc : List (Option α × Option α) × Option α × Word) (x : Option α) :
    List (Option α × Option α) × Option α × Word :=
  let n := combineOpt op (acc.2.1, 0) (x, 0)
  (acc.1 ++ [(acc.2.1, n.1)], n.1, acc.2.2 ||| n.2)

theorem foldl_scanStep {α : Type} (op : α → α → α × Word) (xs : List (Option α)) :
    xs.foldl (scanStep op) ([], none, 0) = (scanned op xs, runningOf op xs) := by
  induction xs using List.reverseRecOn with
  | nil => rfl
  | append_singleton xs x ih =>
    rw [List.foldl_append, ih, scanned_snoc, runningOf_snoc]
    rfl

theorem scanLanes_eq {α : Type} (op : α → α → α × Word) (xs : List (Option α)) :
    scanLanes op xs = (scanned op xs, (runningOf op xs).2) := by
  have hfold : scanLanes op xs = ((xs.foldl (scanStep op) ([], none, 0)).1, (xs.foldl (scanStep op) ([], none, 0)).2.2) := rfl
  rw [hfold, foldl_scanStep]

/-- The active lanes below a lane. -/
theorem lanesIn_below (m : Mask) {n : Nat} (hn : n ≤ 96) : (List.range n).filter (inMask m) = (lanesIn m).filter fun k => k < n := by
  have hsplit : List.range laneCount = List.range n ++ (List.range (96 - n)).map (n + ·) := by
    rw [← List.range_add, Nat.add_sub_cancel' hn]
  have hlow : ((List.range n).filter (inMask m)).filter (fun k => decide (k < n)) = (List.range n).filter (inMask m) := by
    rw [List.filter_eq_self]
    intro k hk
    simpa using (List.mem_range.mp (List.mem_of_mem_filter hk))
  have hhigh : (((List.range (96 - n)).map (n + ·)).filter (inMask m)).filter (fun k => decide (k < n)) = [] := by
    rw [List.filter_eq_nil_iff]
    intro k hk
    obtain ⟨i, -, rfl⟩ := List.mem_map.mp (List.mem_of_mem_filter hk)
    simp
  rw [lanesIn, hsplit, List.filter_append, List.filter_append, hlow, hhigh, List.append_nil]

theorem runningOf_take_present {α : Type} (op : α → α → α × Word) (m : Mask) (v : Nat → α) {n : Nat} (hn : n ≤ 96) :
    (runningOf op ((presentLanes m v).take n)).1 = foldLanes op v ((lanesIn m).filter fun k => k < n) := by
  have htake : (presentLanes m v).take n = (List.range n).map fun l => if inMask m l then some (v l) else none := by
    rw [presentLanes, lanesOf, ← List.map_take, List.take_range, show min n laneCount = n by simpa using hn]
  rw [runningOf_eq, htake, List.reduceOption_present, lanesIn_below m hn]
  rfl

/-- What a scan over the active lanes lists for a lane. -/
theorem scanLanes_present {α : Type} (op : α → α → α × Word) (m : Mask) (v : Nat → α) {l : Nat} (hl : l < 96) :
    (scanLanes op (presentLanes m v)).1[l]?
      = some (foldLanes op v ((lanesIn m).filter fun k => k < l), foldLanes op v ((lanesIn m).filter fun k => k ≤ l)) := by
  have hlen : (presentLanes m v).length = 96 := by simp [presentLanes, lanesOf]
  rw [scanLanes_eq]
  simp only [scanned, hlen, List.getElem?_map, List.getElem?_range hl, Option.map_some]
  rw [runningOf_take_present op m v (by omega), runningOf_take_present op m v (by omega)]
  simp only [Nat.lt_succ_iff]

/-! ### SCANI (R125) -/

/-- The combination of SCANI, on numbers of words. -/
def scanOp (f : Fields) (x y : Nat) : Nat :=
  match f.mod.toNat / 8 % 4 with
  | 0 => (x + y) % 2 ^ 32
  | 1 => if (tyOf (f.mod.toNat % 8)).ext y < (tyOf (f.mod.toNat % 8)).ext x then y else x
  | 2 => if (tyOf (f.mod.toNat % 8)).ext x < (tyOf (f.mod.toNat % 8)).ext y then y else x
  | _ => x ||| y

theorem scanOp_words {f : Fields} (hty : f.mod.toNat % 8 < 2) (x y : Word) :
    scanOp f x.toNat y.toNat = (foldOp f ([0, 1, 2, 4].getD (f.mod.toNat / 8 % 4) 0) x y).toNat := by
  have hcases : f.mod.toNat / 8 % 4 = 0 ∨ f.mod.toNat / 8 % 4 = 1 ∨ f.mod.toNat / 8 % 4 = 2 ∨ f.mod.toNat / 8 % 4 = 3 := by omega
  rcases hcases with h | h | h | h <;> simp [scanOp, foldOp, h, toNat_extreme hty]

/-- What SCANI gives where no lane comes before (R125). -/
def scanIdentity (f : Fields) : Nat :=
  match f.mod.toNat / 8 % 4 with
  | 1 => intBits 32 (tyOf (f.mod.toNat % 8)).hi
  | 2 => intBits 32 (tyOf (f.mod.toNat % 8)).lo
  | _ => 0

theorem foldLanes_words {f : Fields} (hty : f.mod.toNat % 8 < 2) (v : Nat → Word) (k : Nat) (rest : List Nat) :
    foldLanes (fun x y => (scanOp f x y, 0)) (fun l => (v l).toNat) (k :: rest)
      = some (rest.foldl (fun x j => foldOp f ([0, 1, 2, 4].getD (f.mod.toNat / 8 % 4) 0) x (v j)) (v k)).toNat := by
  simp only [foldLanes, List.map_cons, List.head?_cons, Option.map_some, List.drop_succ_cons, List.drop_zero, List.foldl_map]
  exact congrArg some (List.foldl_hom BitVec.toNat fun x j => scanOp_words hty x (v j))

/-- The run of SCANI lists for each lane what the scan holds before it or after it. -/
theorem aluScani_run (f : Fields) (s : State) (e : Env) (a : Nat → Nat) : (aluScani f s e).run (fun _ => a)
    = ([(scanLanes (fun x y => (scanOp f x y, 0)) (presentLanes e.mask a)).1.map fun x =>
        BitVec.ofNat 32 ((if (f.mod.toNat / 8).testBit 2 then x.1 else x.2).getD (scanIdentity f))], 0) := rfl

theorem scani_holds (s : State) (e : Env) (f : Fields) (h : issues (.scani f) s e) (combined : List Nat → Word)
    (hnil : combined [] = BitVec.ofNat 32 (scanIdentity f))
    (hcons : ∀ k rest, combined (k :: rest)
      = rest.foldl (fun x j => foldOp f ([0, 1, 2, 4].getD (f.mod.toNat / 8 % 4) 0) x (word s e f 0 1 j)) (word s e f 0 1 k)) :
    results (.scani f) s e f 1 fun _ l =>
      combined ((lanesIn e.mask).filter fun k => if 4 ≤ f.mod.toNat / 8 then k < l else k ≤ l) := by
  have hty := ty_of_tyXm (modOk_of_wellFormed rfl rfl (issues_elim rfl h).1)
  have hcomb : ∀ ls, BitVec.ofNat 32 ((foldLanes (fun x y => (scanOp f x y, 0)) (fun l => (word s e f 0 1 l).toNat) ls).getD (scanIdentity f))
      = combined ls := by
    intro ls
    cases ls with
    | nil => exact hnil.symm
    | cons k rest => rw [foldLanes_words hty, hcons, Option.getD_some, BitVec.ofNat_toNat, BitVec.setWidth_eq]
  have hbit : (f.mod.toNat / 8).testBit 2 = decide (4 ≤ f.mod.toNat / 8) := by
    have : f.mod.toNat / 8 < 8 := by omega
    generalize f.mod.toNat / 8 = n at *
    interval_cases n <;> rfl
  refine results_of_words rfl h rfl rfl 
    ((acrossAlu_result f (fun a => (aluScani f s e).run fun _ => a) s e).trans (aluScani_run f s e _)) fun l hl => ?_
  simp only [lane, List.getD_eq_getElem?_getD, List.getElem?_map, scanLanes_present _ _ _ (lt_of_inMask hl), Option.map_some,
    Option.getD_some, ← word_toNat, hbit, ← hcomb]
  by_cases h4 : 4 ≤ f.mod.toNat / 8 <;> simp [h4]

theorem foldsAndScans_holds : Claims.foldsAndScans := by
  intro s e f a n sum scan identity combined
  refine ⟨fun h => ?_, fun h => ?_⟩
  · have hty := ty_of_tyXm (modOk_of_wellFormed rfl rfl (issues_elim rfl h).1)
    exact ⟨redi_word_holds s e f h hty, redi_adds_holds s e f h hty⟩
  · have hty := ty_of_tyXm (modOk_of_wellFormed rfl rfl (issues_elim rfl h).1)
    refine scani_holds s e f h combined ?_ fun k rest => rfl
    show identity = _
    simp only [identity, n, scanIdentity, tyOf_word hty]
    generalize f.mod.toNat / 8 % 4 = m
    match m with
    | 1 => cases signed f <;> rfl
    | 2 => cases signed f <;> rfl
    | 0 | _ + 3 => rfl

/-! ### ISECT (R128) -/

theorem ascending_range (n : Nat) (x : Nat → Nat) (h : ∀ i, i + 1 < n → x i < x (i + 1)) : ascending ((List.range n).map x) = true := by
  induction n generalizing x with
  | zero => rfl
  | succ n ih =>
    cases n with
    | zero => rfl
    | succ n =>
      have hrest := ih (fun i => x (i + 1)) fun i hi => h (i + 1) (by omega)
      rw [List.range_succ_eq_map] at hrest ⊢
      rw [List.range_succ_eq_map]
      simp only [List.map_cons, List.map_map, ascending, Bool.and_eq_true, decide_eq_true_eq] at hrest ⊢
      exact ⟨h 0 (by omega), hrest⟩

theorem findIdx?_range (p : Nat → Bool) (n : Nat) : (List.range n).findIdx? p = (List.range n).find? p := by
  induction n with
  | zero => rfl
  | succ n ih =>
    rw [List.range_succ, List.findIdx?_append, List.find?_append, ih]
    cases (List.range n).find? p <;> cases hp : p n <;> simp [hp]

theorem findIdx?_map_range (p : Nat → Bool) (y : Nat → Nat) (n : Nat) :
    ((List.range n).map y).findIdx? p = (List.range n).find? fun j => p (y j) := by
  rw [List.findIdx?_map, findIdx?_range]
  rfl

theorem zipIdx_map_range {α : Type} (x : Nat → α) (n : Nat) : ((List.range n).map x).zipIdx = (List.range n).map fun i => (x i, i) := by
  refine List.ext_getElem (by simp) fun i h _ => ?_
  simp

theorem getLastD_map_range (x : Nat → Nat) {n : Nat} (h : n ≠ 0) : ((List.range n).map x).getLastD 0 = x (n - 1) := by
  obtain ⟨m, rfl⟩ := Nat.exists_eq_succ_of_ne_zero h
  simp [List.range_succ]

/-- The pairs of equal coordinates, as the model finds them in two windows. -/
theorem hits_eq (x y : Nat → Nat) (nx ny : Nat) :
    ((List.range nx).map x).zipIdx.filterMap (fun z => (((List.range ny).map y).findIdx? (· = z.1)).map fun j => (z.2, j))
      = (List.range nx).filterMap fun i => ((List.range ny).find? fun j => x i = y j).map fun j => (i, j) := by
  rw [zipIdx_map_range, List.filterMap_map]
  refine List.filterMap_congr fun i _ => ?_
  simp only [Function.comp_apply, findIdx?_map_range, eq_comm]

/-- The run of ISECT outside a handler, on two ascending windows. -/
theorem aluIsect_run {f : Fields} {s : State} {e : Env} (hh : e.cl.inHandler = false) (v : Nat → Nat → Nat) {nx ny : Nat}
    (hnx : nx = min (e.source s (intSrc f 0 3 1) e.low % 256) 96) (hny : ny = min (e.source s (intSrc f 0 3 1) e.low / 256 % 256) 96)
    (hx : ∀ i, i + 1 < nx → v 0 i < v 0 (i + 1)) (hy : ∀ j, j + 1 < ny → v 1 j < v 1 (j + 1)) :
    let hits := (List.range nx).filterMap fun i => ((List.range ny).find? fun j => v 0 i = v 1 j).map fun j => (i, j)
    let lim := min (v 0 (nx - 1)) (v 1 (ny - 1))
    let adv (n : Nat) (z : Nat → Nat) : Nat := if nx = 0 ∨ ny = 0 then 0 else ((List.range n).filter fun i => z i ≤ lim).length
    (aluIsect f s e).run v = ([lanesOf fun l =>
      BitVec.ofNat 32 ((hits.getD l (127, 127)).1 + (hits.getD l (127, 127)).2 * 2 ^ 7 + adv nx (v 0) * 2 ^ 14 + adv ny (v 1) * 2 ^ 21)], 0) := by
  intro hits lim adv
  have hmembers : (List.range (max nx ny)).any (fun l => !inMask e.cl.handlerLanes l) = false := by
    rw [List.any_eq_false]
    intro l hl
    have hlt := List.mem_range.mp hl
    rw [inMask_handlerLanes e.cl (by omega), hh]
    simp
  simp only [aluIsect, ← hnx, ← hny, hmembers, ascending_range nx (v 0) hx, ascending_range ny (v 1) hy, hits_eq]
  by_cases h0 : nx = 0 ∨ ny = 0
  · have hnone : hits = [] := by
      rcases h0 with h | h <;> simp [hits, h]
    simp [h0, hnone, adv]
  · obtain ⟨hx0, hy0⟩ := not_or.mp h0
    simp only [h0, if_false, adv, getLastD_map_range (v 0) hx0, getLastD_map_range (v 1) hy0, List.filter_map, List.length_map]
    rfl

theorem intersections_holds : Claims.intersections := by
  intro s e f x y c nx ny hits lim adv h hh hx hy
  have hsrc : ∀ i l, e.source s (intSrc f 0 i 1) l = (word s e f 0 i l).toNat := fun i l => (word_toNat s e f 0 i l).symm
  have hrun := aluIsect_run (v := (aluIsect f s e).reads s e) (nx := nx) (ny := ny) hh (by rw [hsrc]) (by rw [hsrc])
    (fun i hi => by simpa [Alu.reads, aluIsect, hsrc] using hx i hi) (fun j hj => by simpa [Alu.reads, aluIsect, hsrc] using hy j hj)
  refine results_of_lanes rfl h rfl rfl ((Alu.result_untagged _ s e (by simp [aluIsect, intSrc])).trans hrun) fun l _ => ?_
  simp only [Alu.reads, aluIsect, List.getElem?_cons_zero, List.getElem?_cons_succ, Option.elim_some, hsrc]
  simp only [Nat.mul_comm _ (2 ^ _)]
  rfl

/-- Settles O12: what each lane instruction's run gives, by its own argument over the active lanes. -/
theorem laneInstructions : Obligations.LaneInstructions :=
  ⟨votesAndBallots_holds, laneMoves_holds, foldsAndScans_holds, intersections_holds⟩

end Sys2Proof.Machine
end

section
/-! SUPPORT. The six floating formats, and what sums, products, quotients, roots and conversions give where a value is a NaN, an
infinity or a zero, or the terms cancel (R33, R44 to R47): what the floating claims of O13 rest on. -/

namespace Sys2Proof.Machine

open Sys2Proof.Safety Sys2Proof.Claims

/-! ### Values -/

@[simp] theorem FVal.isNan_nan : FVal.nan.isNan = true := rfl
@[simp] theorem FVal.isNan_inf (a : Bool) : (FVal.inf a).isNan = false := rfl
@[simp] theorem FVal.isNan_fin (a : Bool) (m : Nat) (e : Int) : (FVal.fin a m e).isNan = false := rfl
@[simp] theorem FVal.isInf_nan : FVal.nan.isInf = false := rfl
@[simp] theorem FVal.isInf_inf (a : Bool) : (FVal.inf a).isInf = true := rfl
@[simp] theorem FVal.isInf_fin (a : Bool) (m : Nat) (e : Int) : (FVal.fin a m e).isInf = false := rfl
@[simp] theorem FVal.sign_nan : FVal.nan.sign = false := rfl
@[simp] theorem FVal.sign_inf (a : Bool) : (FVal.inf a).sign = a := rfl
@[simp] theorem FVal.sign_fin (a : Bool) (m : Nat) (e : Int) : (FVal.fin a m e).sign = a := rfl
@[simp] theorem FVal.isZero_nan : FVal.nan.isZero = false := rfl
@[simp] theorem FVal.isZero_inf (a : Bool) : (FVal.inf a).isZero = false := rfl
@[simp] theorem FVal.isZero_fin (a : Bool) (m : Nat) (e : Int) : (FVal.fin a m e).isZero = decide (m = 0) := by
  cases m <;> rfl

/-! ### The formats -/

/-- The binary floating formats (R33). -/
def Fmt.all : List Fmt := [fp64, fp32, fp16, bf16, e4m3, e5m2]

theorem Fmt.ofTag_mem (t : Nat) : Fmt.ofTag t ∈ Fmt.all := by
  unfold Fmt.ofTag
  split <;> decide

theorem fp32_mem : fp32 ∈ Fmt.all := by decide

theorem Fmt.isSubnormal_nan : ∀ fm ∈ Fmt.all, fm.isSubnormal fm.nan = false := by decide +kernel
theorem Fmt.isSubnormal_signBit : ∀ fm ∈ Fmt.all, ∀ neg, fm.isSubnormal (fm.signBit neg) = false := by decide +kernel
theorem Fmt.isSubnormal_infinite : ∀ fm ∈ Fmt.all, ∀ neg, fm.isSubnormal (infinite fm neg).1 = false := by decide +kernel
theorem Fmt.isSubnormal_max : ∀ fm ∈ Fmt.all, ∀ neg, fm.isSubnormal (fm.signBit neg + fm.maxBits) = false := by decide +kernel
theorem Fmt.isSubnormal_one : ∀ fm ∈ Fmt.all, ∀ neg, fm.isSubnormal (fm.signBit neg + fm.bias * 2 ^ fm.fb) = false := by decide +kernel

theorem Fmt.nan_lt : ∀ fm ∈ Fmt.all, fm.nan < 2 ^ fm.width := by decide +kernel
theorem Fmt.signBit_lt : ∀ fm ∈ Fmt.all, ∀ neg, fm.signBit neg < 2 ^ fm.width := by decide +kernel
theorem Fmt.max_lt : ∀ fm ∈ Fmt.all, ∀ neg, fm.signBit neg + fm.maxBits < 2 ^ fm.width := by decide +kernel
theorem Fmt.inf_lt : ∀ fm ∈ Fmt.all, ∀ neg, fm.signBit neg + fm.infBits < 2 ^ fm.width := by decide +kernel

theorem Fmt.flush_of_not_subnormal (fm : Fmt) (on : Bool) {b : Nat} (h : fm.isSubnormal b = false) : fm.flush on b = b := by
  simp [Fmt.flush, h]

/-! ### Results that a case gives -/

/-- A result is the one that a case gives, where it gives one: the same bits, which no flushing changes, and its flags at least. -/
def Fmt.answers (fm : Fmt) (r : FRes) (given : Option (Nat × Word)) : Prop :=
  ∀ b fl, given = some (b, fl) → r.bits = b ∧ r.flags &&& fl = fl ∧ fm.isSubnormal b = false

theorem Fmt.answers_none (fm : Fmt) (r : FRes) : fm.answers r none := nofun

theorem Fmt.answers_some {fm : Fmt} {r : FRes} {b : Nat} {fl : Word} (hb : r.bits = b) (hf : r.flags &&& fl = fl)
    (hs : fm.isSubnormal b = false) : fm.answers r (some (b, fl)) := by
  rintro b' fl' h
  cases h
  exact ⟨hb, hf, hs⟩

/-- Flush outputs leaves what a case gives. -/
theorem Fmt.answers_flushOut {fm : Fmt} {r : FRes} {given : Option (Nat × Word)} (md : Modes) (h : fm.answers r given) :
    fm.answers (fm.flushOut md r) given := by
  intro b fl hg
  obtain ⟨hb, hf, hs⟩ := h b fl hg
  refine ⟨?_, hf, hs⟩
  simp only [Fmt.flushOut, hb]
  exact fm.flush_of_not_subnormal md.fo hs

section
variable {fm : Fmt} (hfm : fm ∈ Fmt.all)
include hfm

theorem Fmt.answers_nan {r : FRes} (h : r.bits = fm.nan) : fm.answers r (some (fm.nan, 0)) :=
  Fmt.answers_some h (by simp) (Fmt.isSubnormal_nan fm hfm)

theorem Fmt.answers_invalid : fm.answers fm.invalid (some (fm.nan, flagInv)) :=
  Fmt.answers_some rfl (by simp [Fmt.invalid]) (Fmt.isSubnormal_nan fm hfm)

theorem Fmt.answers_infinity (neg : Bool) : fm.answers (fm.infinity neg) (some (infinite fm neg)) := by
  have hs := Fmt.isSubnormal_infinite fm hfm neg
  unfold infinite at hs ⊢
  unfold Fmt.infinity
  split at hs <;> simp_all [Fmt.answers_some]

theorem Fmt.answers_zero (neg : Bool) : fm.answers (fm.zero neg) (some (fm.signBit neg, 0)) :=
  Fmt.answers_some rfl (by simp) (Fmt.isSubnormal_signBit fm hfm neg)

end

/-! ### Sums of two products (R44, R47) -/

/-- The sum of two values that are products of no NaN and not invalid (R44, R47). -/
def Fmt.sumOfTwo (fm : Fmt) (rm : RM) : FVal → FVal → FRes
  | .inf a, .inf b => if a = b then fm.infinity a else fm.invalid
  | .inf a, _ => fm.infinity a
  | _, .inf b => fm.infinity b
  | v, w =>
    let e := minExp [v, w]
    let sum := sumAt e [v, w]
    if sum = 0 then fm.zero (zeroSign rm [v, w]) else fm.round rm (sum < 0) sum.natAbs e

theorem Fmt.sumProducts_two {fm : Fmt} (rm : RM) (perTerm : Bool) {t u : List FVal} {v w : FVal}
    (hnan : (t ++ u).any FVal.isNan = false) (ht : mulVals t = (v, false)) (hu : mulVals u = (w, false)) :
    fm.sumProducts rm perTerm [t, u] = fm.sumOfTwo rm v w := by
  have hany : [t, u].any (fun x => x.any FVal.isNan) = false := by simpa using hnan
  unfold Fmt.sumProducts Fmt.sumOfTwo
  simp only [hany, List.map_cons, List.map_nil, ht, hu, List.any_cons, List.any_nil]
  cases v with
  | nan => cases w <;> simp [List.filter_cons]
  | inf a => cases w with
    | inf b => cases a <;> cases b <;> simp [List.filter_cons]
    | _ => simp [List.filter_cons]
  | fin a m x => cases w <;> simp [List.filter_cons]

/-- The exact sum of two finite values, where both are zeros or they cancel, and the sign that it has. -/
theorem zeroSum_of_zeros (rm : RM) (a b : Bool) (x y : Int) :
    sumAt (minExp [.fin a 0 x, .fin b 0 y]) [.fin a 0 x, .fin b 0 y] = 0
      ∧ zeroSign rm [.fin a 0 x, .fin b 0 y] = if a = b then a else decide (rm = .rdn) := by
  constructor
  · simp [sumAt]
  · cases a <;> cases b <;> simp [zeroSign]

theorem zeroSum_of_cancel (rm : RM) (a : Bool) {m : Nat} (x : Int) (hm : m ≠ 0) :
    sumAt (minExp [.fin a m x, .fin (!a) m x]) [.fin a m x, .fin (!a) m x] = 0
      ∧ zeroSign rm [.fin a m x, .fin (!a) m x] = decide (rm = .rdn) := by
  constructor
  · cases a <;> simp [sumAt, minExp]
  · simp [zeroSign, hm]

theorem Fmt.sumOfTwo_inf (fm : Fmt) (rm : RM) (a b : Bool) :
    fm.sumOfTwo rm (.inf a) (.inf b) = if a = b then fm.infinity a else fm.invalid := rfl

theorem Fmt.sumOfTwo_zero (fm : Fmt) (rm : RM) {a b : Bool} {m n : Nat} {x y : Int}
    (h : sumAt (minExp [.fin a m x, .fin b n y]) [.fin a m x, .fin b n y] = 0) :
    fm.sumOfTwo rm (.fin a m x) (.fin b n y) = fm.zero (zeroSign rm [.fin a m x, .fin b n y]) := if_pos h

theorem sumCorner_inf (fm : Fmt) (rdn a b : Bool) :
    sumCorner fm rdn (.inf a) (.inf b) = some (if a = b then infinite fm a else (fm.nan, flagInv)) := rfl

theorem sumCorner_fin (fm : Fmt) (rdn a b : Bool) (m n : Nat) (x y : Int) : sumCorner fm rdn (.fin a m x) (.fin b n y) =
    if m = 0 ∧ n = 0 then some (fm.signBit (if a = b then a else rdn), 0)
    else if a ≠ b ∧ m = n ∧ x = y then some (fm.signBit rdn, 0) else none := rfl

/-- A sum of two values in its corner cases. -/
theorem Fmt.sumOfTwo_answers {fm : Fmt} (hfm : fm ∈ Fmt.all) (rm : RM) {v w : FVal} (hv : v.isNan = false) (hw : w.isNan = false) :
    fm.answers (fm.sumOfTwo rm v w) (sumCorner fm (rm = .rdn) v w) := by
  match v, w with
  | .inf a, .inf b =>
    rw [Fmt.sumOfTwo_inf, sumCorner_inf]
    by_cases hab : a = b
    · rw [if_pos hab, if_pos hab]
      exact Fmt.answers_infinity hfm a
    · rw [if_neg hab, if_neg hab]
      exact Fmt.answers_invalid hfm
  | .inf a, .fin _ _ _ => exact Fmt.answers_infinity hfm a
  | .fin _ _ _, .inf b => exact Fmt.answers_infinity hfm b
  | .fin a m x, .fin b n y =>
    rw [sumCorner_fin]
    by_cases hmn : m = 0 ∧ n = 0
    · obtain ⟨rfl, rfl⟩ := hmn
      obtain ⟨hsum, hsign⟩ := zeroSum_of_zeros rm a b x y
      rw [if_pos ⟨rfl, rfl⟩, Fmt.sumOfTwo_zero fm rm hsum, hsign]
      exact Fmt.answers_zero hfm _
    · rw [if_neg hmn]
      by_cases hcancel : a ≠ b ∧ m = n ∧ x = y
      · rw [if_pos hcancel]
        obtain ⟨hab, rfl, rfl⟩ := hcancel
        obtain rfl : b = !a := by cases a <;> simpa using hab.symm
        obtain ⟨hsum, hsign⟩ := zeroSum_of_cancel rm a x (m := m) (by tauto)
        rw [Fmt.sumOfTwo_zero fm rm hsum, hsign]
        exact Fmt.answers_zero hfm _
      · rw [if_neg hcancel]
        exact Fmt.answers_none _ _

/-- A sum of products with a NaN among its sources is the canonical NaN (R47). -/
theorem Fmt.sumProducts_nan {fm : Fmt} (rm : RM) (perTerm : Bool) {terms : List (List FVal)}
    (h : terms.any (fun t => t.any FVal.isNan) = true) : (fm.sumProducts rm perTerm terms).bits = fm.nan := by
  unfold Fmt.sumProducts
  simp only [h, if_true]

/-- A sum with an invalid product and no NaN among its sources is invalid (R47). -/
theorem Fmt.sumProducts_invalid {fm : Fmt} (rm : RM) (perTerm : Bool) {terms : List (List FVal)}
    (hnan : terms.any (fun t => t.any FVal.isNan) = false) (h : (terms.map mulVals).any Prod.snd = true) :
    fm.sumProducts rm perTerm terms = fm.invalid := by
  unfold Fmt.sumProducts
  simp only [hnan, h, Bool.true_or, Bool.false_eq_true, if_false, if_true]

theorem mulVals_one (x : FVal) : mulVals [x] = (x, false) := by cases x <;> simp [mulVals]

/-- The sum of FADD, FSUB and the packed sums in its corner cases (R44, R47, R135). -/
theorem Fmt.addVals_answers {fm : Fmt} (hfm : fm ∈ Fmt.all) (md : Modes) (x y : FVal) :
    fm.answers (addVals fm md [x, y]) (sumCorner fm (md.rm = .rdn) x y) := by
  show fm.answers (fm.sumProducts md.rm false [[x], [y]]) _
  by_cases hnan : (x.isNan || y.isNan) = true
  · have hcorner : sumCorner fm (md.rm = .rdn) x y = some (fm.nan, 0) := by
      cases x <;> cases y <;> simp_all [sumCorner]
    rw [hcorner]
    exact Fmt.answers_nan hfm (Fmt.sumProducts_nan _ _ (by simpa using hnan))
  · obtain ⟨hx, hy⟩ : x.isNan = false ∧ y.isNan = false := by simpa using hnan
    rw [Fmt.sumProducts_two md.rm false (by simp [hx, hy]) (mulVals_one x) (mulVals_one y)]
    exact Fmt.sumOfTwo_answers hfm md.rm hx hy

/-! ### Products -/

/-- The product of two values that are no NaN (R47): invalid for a zero and an infinity, an infinity for an infinity, else finite. -/
theorem mulVals_two_invalid {x y : FVal} (h : (x.isInf && y.isZero || x.isZero && y.isInf) = true) : mulVals [x, y] = (.nan, true) := by
  match x, y with
  | .inf _, .fin _ 0 _ => simp [mulVals]
  | .fin _ 0 _, .inf _ => simp [mulVals]

theorem mulVals_two_inf {x y : FVal} (hx : x.isNan = false) (hy : y.isNan = false)
    (hz : (x.isInf && y.isZero || x.isZero && y.isInf) = false) (h : (x.isInf || y.isInf) = true) :
    mulVals [x, y] = (.inf (x.sign != y.sign), false) := by
  match x, y with
  | .inf a, .inf b => simp [mulVals]
  | .inf a, .fin b n e => simp_all [mulVals]
  | .fin a m e, .inf b => simp_all [mulVals]

theorem mulVals_two_fin (a b : Bool) (m n : Nat) (x y : Int) :
    mulVals [.fin a m x, .fin b n y] = (.fin (a != b) (m * n) (x + y), false) := by
  simp [mulVals]

theorem Fmt.sumProducts_one_inf {fm : Fmt} (rm : RM) {t : List FVal} {a : Bool} (hnan : t.any FVal.isNan = false)
    (ht : mulVals t = (.inf a, false)) : fm.sumProducts rm false [t] = fm.infinity a := by
  cases a <;> simp [Fmt.sumProducts, ht, hnan, List.filter_cons]

theorem Fmt.sumProducts_one_zero {fm : Fmt} (rm : RM) {t : List FVal} {a : Bool} {e : Int} (hnan : t.any FVal.isNan = false)
    (ht : mulVals t = (.fin a 0 e, false)) : fm.sumProducts rm false [t] = fm.zero a := by
  cases a <;> simp [Fmt.sumProducts, ht, hnan, sumAt, zeroSign]

/-- One product, alone (R44, R47, R135). -/
theorem Fmt.mulVals2_answers {fm : Fmt} (hfm : fm ∈ Fmt.all) (md : Modes) (x y : FVal) :
    fm.answers (mulVals2 fm md [x, y]) (productCorner fm x y) := by
  show fm.answers (fm.sumProducts md.rm false [[x, y]]) _
  have hinvalid (hnan : [x, y].any FVal.isNan = false) (h : (x.isInf && y.isZero || x.isZero && y.isInf) = true) :
      fm.answers (fm.sumProducts md.rm false [[x, y]]) (some (fm.nan, flagInv)) := by
    rw [Fmt.sumProducts_invalid md.rm false (by simpa using hnan) (by simp [mulVals_two_invalid h])]
    exact Fmt.answers_invalid hfm
  have hinf (hx : x.isNan = false) (hy : y.isNan = false) (hz : (x.isInf && y.isZero || x.isZero && y.isInf) = false)
      (h : (x.isInf || y.isInf) = true) :
      fm.answers (fm.sumProducts md.rm false [[x, y]]) (some (infinite fm (x.sign != y.sign))) := by
    rw [Fmt.sumProducts_one_inf md.rm (by simp [hx, hy]) (mulVals_two_inf hx hy hz h)]
    exact Fmt.answers_infinity hfm _
  match x, y with
  | .nan, _ => exact Fmt.answers_nan hfm (Fmt.sumProducts_nan _ _ rfl)
  | .inf _, .nan => exact Fmt.answers_nan hfm (Fmt.sumProducts_nan _ _ rfl)
  | .fin _ _ _, .nan => exact Fmt.answers_nan hfm (Fmt.sumProducts_nan _ _ rfl)
  | .inf a, .inf b => exact hinf rfl rfl rfl rfl
  | .inf a, .fin b n e =>
    by_cases hn : n = 0
    · simpa [productCorner, hn] using hinvalid rfl (by simp [hn])
    · simpa [productCorner, hn] using hinf rfl rfl (by simp [hn]) rfl
  | .fin a m e, .inf b =>
    by_cases hm : m = 0
    · simpa [productCorner, hm] using hinvalid rfl (by simp [hm])
    · simpa [productCorner, hm] using hinf rfl rfl (by simp [hm]) rfl
  | .fin a m e, .fin b n e' =>
    by_cases hmn : m = 0 ∨ n = 0
    · have hzero : mulVals [.fin a m e, .fin b n e'] = (.fin (a != b) 0 (e + e'), false) := by
        rw [mulVals_two_fin, Nat.mul_eq_zero.mpr hmn]
      rw [Fmt.sumProducts_one_zero md.rm rfl hzero, productCorner, if_pos hmn]
      exact Fmt.answers_zero hfm _
    · rw [productCorner, if_neg hmn]
      exact Fmt.answers_none _ _

/-- A product and a sum, fused (R47, R135). -/
theorem Fmt.fmaVals_answers {fm : Fmt} (hfm : fm ∈ Fmt.all) (md : Modes) (x y z : FVal) :
    fm.answers (fmaVals fm md [x, y, z]) (fusedCorner fm x y z) := by
  show fm.answers (fm.sumProducts md.rm false [[x, y], [z]]) _
  unfold fusedCorner
  by_cases hnan : (x.isNan || y.isNan || z.isNan) = true
  · rw [if_pos hnan]
    exact Fmt.answers_nan hfm (Fmt.sumProducts_nan _ _ (by simpa using hnan))
  · rw [if_neg hnan]
    obtain ⟨⟨hx, hy⟩, hz⟩ : (x.isNan = false ∧ y.isNan = false) ∧ z.isNan = false := by simpa using hnan
    have hterms : ([x, y] ++ [z]).any FVal.isNan = false := by simp [hx, hy, hz]
    by_cases hbad : (x.isInf && y.isZero || x.isZero && y.isInf) = true
    · rw [if_pos hbad, Fmt.sumProducts_invalid md.rm false (by simp [hx, hy, hz]) (by simp [mulVals_two_invalid hbad])]
      exact Fmt.answers_invalid hfm
    · rw [if_neg hbad]
      have hsum := fun v (hv : mulVals [x, y] = (v, false)) => Fmt.sumProducts_two (fm := fm) md.rm false hterms hv (mulVals_one z)
      have hone := Fmt.sumOfTwo_answers hfm md.rm (v := .inf (x.sign != y.sign)) rfl hz
      by_cases hinf : (x.isInf || y.isInf) = true
      · rw [if_pos hinf, hsum _ (mulVals_two_inf hx hy (by simpa using hbad) hinf)]
        refine cast (congrArg _ ?_) hone
        cases z with
        | nan => exact absurd hz (by simp)
        | inf c =>
          rw [sumCorner_inf]
          by_cases hc : (x.sign != y.sign) = c
          · simp [hc]
          · simp [hc, Ne.symm hc]
        | fin c k g => simp [sumCorner]
      · rw [if_neg hinf]
        match x, y, z with
        | .fin a m e, .fin b n e', .inf c =>
          rw [hsum _ (mulVals_two_fin a b m n e e')]
          exact Fmt.sumOfTwo_answers hfm md.rm (v := .fin _ _ _) (w := .inf c) rfl rfl
        | .fin a m e, .fin b n e', .fin c k g => exact Fmt.answers_none _ _

/-! ### Quotients, roots and conversions -/

theorem Fmt.div_fin (fm : Fmt) (rm : RM) (a b : Bool) (m n : Nat) (x y : Int) : fm.div rm (.fin a m x) (.fin b n y) =
    if n = 0 then if m = 0 then fm.invalid else { bits := fm.signBit (a != b) + fm.maxBits, flags := flagDz }
    else if m = 0 then fm.zero (a != b) else fm.roundQuot rm (a != b) m n (x - y) := rfl

theorem quotientCorner_fin (fm : Fmt) (a b : Bool) (m n : Nat) (x y : Int) : quotientCorner fm (.fin a m x) (.fin b n y) =
    if n = 0 then some (if m = 0 then (fm.nan, flagInv) else (fm.signBit (a != b) + fm.maxBits, flagDz))
    else if m = 0 then some (fm.signBit (a != b), 0) else none := rfl

/-- A quotient in its corner cases (R47, R140). -/
theorem Fmt.div_answers {fm : Fmt} (hfm : fm ∈ Fmt.all) (rm : RM) (x y : FVal) : fm.answers (fm.div rm x y) (quotientCorner fm x y) := by
  match x, y with
  | .nan, _ => exact Fmt.answers_nan hfm rfl
  | .inf _, .nan => exact Fmt.answers_nan hfm rfl
  | .fin _ _ _, .nan => exact Fmt.answers_nan hfm rfl
  | .inf _, .inf _ => exact Fmt.answers_invalid hfm
  | .inf _, .fin _ _ _ => exact Fmt.answers_infinity hfm _
  | .fin _ _ _, .inf _ => exact Fmt.answers_zero hfm _
  | .fin a m e, .fin b n e' =>
    rw [Fmt.div_fin, quotientCorner_fin]
    by_cases hn : n = 0
    · rw [if_pos hn, if_pos hn]
      by_cases hm : m = 0
      · rw [if_pos hm, if_pos hm]
        exact Fmt.answers_invalid hfm
      · rw [if_neg hm, if_neg hm]
        exact Fmt.answers_some rfl (by simp) (Fmt.isSubnormal_max fm hfm _)
    · rw [if_neg hn, if_neg hn]
      by_cases hm : m = 0
      · rw [if_pos hm, if_pos hm]
        exact Fmt.answers_zero hfm _
      · rw [if_neg hm, if_neg hm]
        exact Fmt.answers_none _ _

theorem Fmt.sqrt_fin (fm : Fmt) (rm : RM) (a : Bool) (m : Nat) (x : Int) : fm.sqrt rm (.fin a m x) =
    if m = 0 then fm.zero a else if a then fm.invalid else fm.roundSqrt rm m x := rfl

theorem rootCorner_fin (fm : Fmt) (a : Bool) (m : Nat) (x : Int) : rootCorner fm (.fin a m x) =
    if m = 0 then some (fm.signBit a, 0) else if a then some (fm.nan, flagInv) else none := rfl

/-- A square root in its corner cases (R47, R140). -/
theorem Fmt.sqrt_answers {fm : Fmt} (hfm : fm ∈ Fmt.all) (rm : RM) (x : FVal) : fm.answers (fm.sqrt rm x) (rootCorner fm x) := by
  match x with
  | .nan => exact Fmt.answers_nan hfm rfl
  | .inf true => exact Fmt.answers_invalid hfm
  | .inf false => exact Fmt.answers_infinity hfm false
  | .fin a m e =>
    rw [Fmt.sqrt_fin, rootCorner_fin]
    by_cases hm : m = 0
    · rw [if_pos hm, if_pos hm]
      exact Fmt.answers_zero hfm a
    · rw [if_neg hm, if_neg hm]
      cases a
      · exact Fmt.answers_none _ _
      · exact Fmt.answers_invalid hfm

/-- A value rounded into a format, where it is a NaN, an infinity or a zero (R47, R49). -/
theorem Fmt.convert_answers {fm : Fmt} (hfm : fm ∈ Fmt.all) (rm : RM) (x : FVal) : fm.answers (fm.convert rm x) (convertCorner fm x) := by
  match x with
  | .nan => exact Fmt.answers_nan hfm rfl
  | .inf a => exact Fmt.answers_infinity hfm a
  | .fin a 0 e => exact Fmt.answers_zero hfm a
  | .fin a (m + 1) e => exact Fmt.answers_none _ _

/-! ### Every result fits its format -/

theorem Fmt.flush_lt (fm : Fmt) (on : Bool) {b : Nat} (hw : 0 < fm.width) (h : b < 2 ^ fm.width) : fm.flush on b < 2 ^ fm.width := by
  unfold Fmt.flush
  split
  · have hpow : 2 ^ fm.width = 2 ^ (fm.width - 1) * 2 := (Nat.two_pow_pred_mul_two hw).symm
    have hmod : b / 2 ^ (fm.width - 1) % 2 ≤ 1 := by omega
    have hpos : 0 < 2 ^ (fm.width - 1) := Nat.two_pow_pos _
    nlinarith
  · exact h

section
variable {fm : Fmt} (hfm : fm ∈ Fmt.all)
include hfm

theorem Fmt.width_pos : 0 < fm.width := by
  have h : ∀ fm ∈ Fmt.all, 0 < fm.width := by decide
  exact h fm hfm

theorem Fmt.flushOut_lt (md : Modes) {r : FRes} (h : r.bits < 2 ^ fm.width) : (fm.flushOut md r).bits < 2 ^ fm.width :=
  fm.flush_lt md.fo (Fmt.width_pos hfm) h

theorem Fmt.round_lt (rm : RM) (neg : Bool) (m : Nat) (e : Int) (sticky : Bool) : (fm.round rm neg m e sticky).bits < 2 ^ fm.width := by
  have hmax := Fmt.max_lt fm hfm neg
  have hcapped : ∀ bits : Nat, (if bits > fm.maxBits then { bits := fm.signBit neg + fm.maxBits, flags := flagOvf }
      else { bits := fm.signBit neg + bits } : FRes).bits < 2 ^ fm.width := by
    intro bits
    split
    · exact hmax
    · exact lt_of_le_of_lt (Nat.add_le_add_left (by omega) _) hmax
  exact hcapped _

theorem Fmt.infinity_lt (neg : Bool) : (fm.infinity neg).bits < 2 ^ fm.width := by
  unfold Fmt.infinity
  split
  · exact Fmt.max_lt fm hfm neg
  · exact Fmt.inf_lt fm hfm neg

theorem Fmt.convert_lt (rm : RM) (x : FVal) : (fm.convert rm x).bits < 2 ^ fm.width := by
  match x with
  | .nan => exact Fmt.nan_lt fm hfm
  | .inf a => exact Fmt.infinity_lt hfm a
  | .fin a 0 e => exact Fmt.signBit_lt fm hfm a
  | .fin a (m + 1) e => exact Fmt.round_lt hfm rm a (m + 1) e false

theorem Fmt.sumProducts_lt (rm : RM) (perTerm : Bool) (terms : List (List FVal)) :
    (fm.sumProducts rm perTerm terms).bits < 2 ^ fm.width := by
  unfold Fmt.sumProducts
  simp only
  split
  · exact Fmt.nan_lt fm hfm
  · split
    · exact Fmt.nan_lt fm hfm
    · split
      · exact Fmt.infinity_lt hfm _
      · split
        · exact Fmt.signBit_lt fm hfm _
        · exact Fmt.round_lt hfm _ _ _ _ _

end

end Sys2Proof.Machine
end

section
/-! SUPPORT. What a floating instruction gives from what its function gives of the values in a lane; the scalar floating
instructions in the cases that O13 names. -/

namespace Sys2Proof.Machine

open Sys2Proof.Safety Sys2Proof.Claims

/-! ### Sources -/

/-- A source that no immediate takes the place of is the same for every position. -/
theorem floatSrc_unreplaced (f : Fields) {pos pos' i : Nat} (tag : Nat) (h : pos ≠ i) (h' : pos' ≠ i) :
    floatSrc f pos i tag = floatSrc f pos' i tag := by
  simp [floatSrc, h, h']

/-! ### What a run gives -/

/-- A result has the bits that are given, where some are, and the flags given with them. -/
def FRes.meets (r : FRes) (given : Option (Nat × Word)) : Prop := ∀ b fl, given = some (b, fl) → r.bits = b ∧ r.flags &&& fl = fl

theorem FRes.meets_none (r : FRes) : r.meets none := nofun

theorem FRes.meets_some {r : FRes} {b : Nat} {fl : Word} (hb : r.bits = b) (hf : r.flags &&& fl = fl) : r.meets (some (b, fl)) := by
  rintro b' fl' h
  cases h
  exact ⟨hb, hf⟩

theorem FRes.meets_of_answers {fm : Fmt} {r : FRes} {given : Option (Nat × Word)} (h : fm.answers r given) : r.meets given := by
  intro b fl hg
  obtain ⟨hb, hf, -⟩ := h b fl hg
  exact ⟨hb, hf⟩

/-- The result of a register instruction holds the words that are given for its active lanes, and their flags. -/
def Alu.gives (a : Alu) (s : State) (e : Env) (count : Nat) (given : Nat → Option (Nat × Word)) : Prop :=
  ∀ l, inMask e.mask l = true → ∀ b fl, given l = some (b, fl) →
    (∀ k, k < count → lane ((a.result s e).1.getD k []) l = BitVec.ofNat 32 (b / 2 ^ (32 * k))) ∧ (a.result s e).2 &&& fl = fl

theorem Alu.result_words (a : Alu) (s : State) (e : Env) : (a.result s e).1 = (a.run (a.reads s e)).1 := by rw [Alu.result_eq]

/-- The flags of a result hold those of its run. -/
theorem Alu.result_flags {a : Alu} {s : State} {e : Env} {fl : Word} (h : (a.run (a.reads s e)).2 &&& fl = fl) :
    (a.result s e).2 &&& fl = fl := by
  rw [Alu.result_eq]
  dsimp only
  split
  · rw [BitVec.and_or_distrib_right, h]
    ext i
    simp +contextual
  · exact h

section
variable {i : Instr} {op : Nat} {f : Fields} {mk : State → Env → Alu} {s : State} {e : Env} {count : Nat}

theorem yields_of_gives (hi : registerForm i = some (op, f, mk)) (h : issues i s e) (hlong : (mk s e).long = false)
    (hdst : (mk s e).dst = f.d.toNat) (hlen : ((mk s e).result s e).1.length = count) {given : Nat → Option (Nat × Word)}
    (hg : (mk s e).gives s e count given) : yields i s e f count given :=
  ⟨_, _, results_of_run (v := fun k l => lane (((mk s e).result s e).1.getD k []) l) hi h hlong hdst hlen fun _ _ _ _ => rfl,
    fun l _ hl => hg l hl⟩

theorem yieldsLater_of_gives (hi : registerForm i = some (op, f, mk)) (h : issues i s e) (hlong : (mk s e).long = true)
    {given : Nat → Option (Nat × Word)} (hg : (mk s e).gives s e count given) : yieldsLater i s e count given := by
  obtain ⟨t, p, hexec, hland, hwords, hflags⟩ := lands_of_run hi h hlong
  refine ⟨t, p, hexec, hland, fun l _ hl => ?_⟩
  rw [hwords, hflags]
  exact hg l hl

end

/-! ### Runs lane by lane on floating values -/

/-- The words of a result in a format are the bits of one number. -/
theorem fmtResult_word (tag : Nat) (r : FRes) {k : Nat} (hk : k < fmtWords tag) :
    BitVec.ofNat 32 ((fmtResult tag r).1.getD k 0) = BitVec.ofNat 32 (r.bits / 2 ^ (32 * k)) := by
  unfold fmtWords at hk
  unfold fmtResult
  split at hk
  · rw [if_pos (by assumption)]
    interval_cases k <;> simp [twoWords, ← BitVec.toNat_inj]
  · rw [if_neg (by assumption)]
    obtain rfl : k = 0 := by omega
    simp

theorem perLane_gives {a : Alu} {s : State} {e : Env} {n : Nat} {g : Nat → List Nat × Word} {given : Nat → Option (Nat × Word)}
    (hrun : a.run (a.reads s e) = perLane e.mask n g) (hg : ∀ l, inMask e.mask l = true → ∀ b fl, given l = some (b, fl) →
      (∀ k, k < n → BitVec.ofNat 32 ((g l).1.getD k 0) = BitVec.ofNat 32 (b / 2 ^ (32 * k))) ∧ (g l).2 &&& fl = fl) :
    a.gives s e n given := by
  intro l hl b fl hgiven
  obtain ⟨hwords, hflags⟩ := hg l hl b fl hgiven
  refine ⟨fun k hk => ?_, Alu.result_flags ?_⟩
  · rw [Alu.result_words, hrun, perLane_word _ _ _ hk hl, hwords k hk]
  · rw [hrun, ← hflags, ← BitVec.and_assoc, perLane_flags _ _ _ hl]

section
variable {f : Fields} {s : State} {e : Env} {srcs : List Src} {dst : Nat} {g : List Nat → FRes} {given : Nat → Option (Nat × Word)}

theorem floatAlu_run (f : Fields) (s : State) (e : Env) (srcs : List Src) (dst : Nat) (g : List Nat → FRes) :
    (floatAlu f e.mask srcs dst g).run ((floatAlu f e.mask srcs dst g).reads s e)
      = perLane e.mask (fmtWords dst) fun l => fmtResult dst (g (srcs.map fun x => e.source s x l)) := by
  have hreads : ∀ l, (List.range srcs.length).map (fun i => (floatAlu f e.mask srcs dst g).reads s e i l)
      = srcs.map fun x => e.source s x l := by
    intro l
    refine List.ext_getElem (by simp) fun i h _ => ?_
    have hi : i < srcs.length := by simpa using h
    simp [Alu.reads, floatAlu, hi]
  show perLane e.mask (fmtWords dst) (fun l => fmtResult dst (g ((List.range srcs.length).map
    fun i => (floatAlu f e.mask srcs dst g).reads s e i l))) = _
  simp only [hreads]

theorem floatAlu_gives (hg : ∀ l, inMask e.mask l = true → (g (srcs.map fun x => e.source s x l)).meets (given l)) :
    (floatAlu f e.mask srcs dst g).gives s e (fmtWords dst) given := by
  refine perLane_gives (floatAlu_run f s e srcs dst g) fun l hl b fl hgiven => ?_
  obtain ⟨rfl, hflags⟩ := hg l hl b fl hgiven
  exact ⟨fun k hk => fmtResult_word dst _ hk, hflags⟩

theorem floatAlu_length : ((floatAlu f e.mask srcs dst g).result s e).1.length = fmtWords dst := by
  rw [Alu.result_words, floatAlu_run, perLane_length]

variable {i : Instr} {op : Nat} {mk : State → Env → Alu}

/-- A floating instruction that works lane by lane. -/
theorem floatAlu_yields (hi : registerForm i = some (op, f, mk)) (h : issues i s e) (hmk : mk s e = floatAlu f e.mask srcs dst g)
    (hg : ∀ l, inMask e.mask l = true → (g (srcs.map fun x => e.source s x l)).meets (given l)) :
    yields i s e f (fmtWords dst) given :=
  yields_of_gives hi h (by rw [hmk]; rfl) (by rw [hmk]; rfl) (by rw [hmk]; exact floatAlu_length) (hmk ▸ floatAlu_gives hg)

/-- The same where the results land later. -/
theorem floatAlu_yieldsLater (hi : registerForm i = some (op, f, mk)) (h : issues i s e)
    (hmk : mk s e = { floatAlu f e.mask srcs dst g with long := true })
    (hg : ∀ l, inMask e.mask l = true → (g (srcs.map fun x => e.source s x l)).meets (given l)) :
    yieldsLater i s e (fmtWords dst) given := by
  refine yieldsLater_of_gives hi h (by rw [hmk]) ?_
  rw [hmk]
  exact floatAlu_gives (f := f) hg

end

/-! ### Arithmetic (R135, R140) -/

section
variable {i : Instr} {op : Nat} {f : Fields} {mk : State → Env → Alu} {s : State} {e : Env}
variable {fields : List Nat} {g : Fmt → Modes → List FVal → FRes} {given : Nat → Option (Nat × Word)}

/-- What an arithmetic instruction does with the bits of its sources. -/
def arithStep (e : Env) (f : Fields) (g : Fmt → Modes → List FVal → FRes) (v : List Nat) : FRes :=
  let fm := Fmt.ofTag (tagOr f 2)
  let md := e.modes f.mod.toNat
  fm.flushOut md (g fm md (v.map (fm.read md)))

theorem arithAlu_eq (f : Fields) (e : Env) (fields : List Nat) (g : Fmt → Modes → List FVal → FRes) :
    arithAlu f e fields g = floatAlu f e.mask (fields.map fun i => floatSrc f 2 i (tagOr f 2)) (tagOr f 2) (arithStep e f g) := rfl

/-- What an arithmetic instruction computes of its values in a lane, before it flushes. -/
def arithOf (s : State) (e : Env) (f : Fields) (fields : List Nat) (g : Fmt → Modes → List FVal → FRes) (l : Nat) : FRes :=
  g (Fmt.ofTag (tagOr f 2)) (e.modes f.mod.toNat)
    (fields.map fun i => (Fmt.ofTag (tagOr f 2)).read (e.modes f.mod.toNat) (e.source s (floatSrc f 2 i (tagOr f 2)) l))

theorem arithStep_meets (hans : ∀ l, (Fmt.ofTag (tagOr f 2)).answers (arithOf s e f fields g l) (given l)) (l : Nat) :
    (arithStep e f g ((fields.map fun i => floatSrc f 2 i (tagOr f 2)).map fun x => e.source s x l)).meets (given l) := by
  refine FRes.meets_of_answers (Fmt.answers_flushOut _ ?_)
  rw [List.map_map, List.map_map]
  exact hans l

theorem arith_yields (hi : registerForm i = some (op, f, mk)) (h : issues i s e) (hmk : mk s e = arithAlu f e fields g)
    (hans : ∀ l, (Fmt.ofTag (tagOr f 2)).answers (arithOf s e f fields g l) (given l)) :
    yields i s e f (fmtWords (tagOr f 2)) given :=
  floatAlu_yields hi h (hmk.trans (arithAlu_eq f e fields g)) fun l _ => arithStep_meets hans l

theorem arith_yieldsLater (hi : registerForm i = some (op, f, mk)) (h : issues i s e)
    (hmk : mk s e = { arithAlu f e fields g with long := true })
    (hans : ∀ l, (Fmt.ofTag (tagOr f 2)).answers (arithOf s e f fields g l) (given l)) :
    yieldsLater i s e (fmtWords (tagOr f 2)) given :=
  floatAlu_yieldsLater hi h (by rw [hmk, arithAlu_eq]) fun l _ => arithStep_meets hans l

end

end Sys2Proof.Machine
end

section
/-! SUPPORT. The scalar floating instructions in the cases that O13 names (R44, R46, R47, R135 to R138, R140 to R142). -/

namespace Sys2Proof.Machine

open Sys2Proof.Safety Sys2Proof.Claims

/-! ### Minimum and maximum (R136) -/

/-- The first value comes before the second, -0 before +0. -/
theorem FVal.lt0_iff (a b : FVal) :
    FVal.lt0 a b = true ↔ a.cmp b = .lt ∨ (a.cmp b = .eq ∧ a.sign = true ∧ b.sign = false) := by
  unfold FVal.lt0
  cases a.cmp b <;> simp

theorem Fmt.minMax_meets (fm : Fmt) (md : Modes) (most : Bool) (a b : Nat) {first : Prop} [Decidable (first = (most = false))]
    (hfirst : FVal.lt0 (fm.read md a) (fm.read md b) = true ↔ first) (n : Nat → Nat) (h1 : n 1 = a) (h2 : n 2 = b) :
    (fm.minMax md most a b).meets (some (if (fm.read md a).isNan || (fm.read md b).isNan then (fm.nan, 0)
      else (fm.flush md.fo (fm.flush md.fi (n (if first = (most = false) then 1 else 2) % 2 ^ fm.width)), 0))) := by
  subst h1 h2
  have hmin : fm.minMax md most (n 1) (n 2) = if (fm.read md (n 1)).isNan || (fm.read md (n 2)).isNan then { bits := fm.nan }
      else fm.flushOut md ⟨if FVal.lt0 (fm.read md (n 1)) (fm.read md (n 2)) != most
        then fm.flush md.fi (n 1 % 2 ^ fm.width) else fm.flush md.fi (n 2 % 2 ^ fm.width), 0⟩ := rfl
  have hchoice : (FVal.lt0 (fm.read md (n 1)) (fm.read md (n 2)) != most) = true ↔ first = (most = false) := by
    rw [eq_iff_iff, ← hfirst]
    cases most <;> simp
  rw [hmin]
  by_cases hnan : ((fm.read md (n 1)).isNan || (fm.read md (n 2)).isNan) = true
  · rw [if_pos hnan, if_pos hnan]
    exact FRes.meets_some rfl (by simp)
  · rw [if_neg hnan, if_neg hnan]
    refine FRes.meets_some ?_ (by simp)
    by_cases hf : first = (most = false)
    · rw [if_pos (hchoice.mpr hf), if_pos hf]
      rfl
    · rw [if_neg (hchoice.not.mpr hf), if_neg hf]
      rfl

/-! ### Comparison and class (R137, R138) -/

theorem floatCondition_eq {c : Nat} (hc : c < 8) (x y : FVal) : floatCondition c x y = holdsOf c x y := by
  unfold floatCondition holdsOf
  split
  · rfl
  · generalize x.cmp y = o
    interval_cases c <;> cases o <;> rfl

theorem predicate_lt (b : Bool) : predicate b < 2 ^ 32 := by cases b <;> decide

theorem condition_lt (f : Fields) : f.mod.toNat / 8 < 8 := by omega

/-- The value of an encoding by its fields (R33). -/
theorem Fmt.decode_fields {fm : Fmt} (hfm : fm ∈ Fmt.all) (b : Nat) : fm.decode b =
    if b / 2 ^ fm.fb % 2 ^ fm.eb = 2 ^ fm.eb - 1 ∧ (if fm.one7F then b % 2 ^ fm.fb = 7 else b % 2 ^ fm.fb ≠ 0) then .nan
    else if b / 2 ^ fm.fb % 2 ^ fm.eb = 2 ^ fm.eb - 1 ∧ fm.one7F = false then .inf (b.testBit (fm.width - 1))
    else if b / 2 ^ fm.fb % 2 ^ fm.eb = 0 then .fin (b.testBit (fm.width - 1)) (b % 2 ^ fm.fb) fm.emin
    else .fin (b.testBit (fm.width - 1)) (2 ^ fm.fb + b % 2 ^ fm.fb) (fm.emin + ((b / 2 ^ fm.fb % 2 ^ fm.eb : Nat) - 1)) := by
  unfold Fmt.decode
  cases hone : fm.one7F with
  | true =>
    obtain rfl : fm = e4m3 := by
      have h : ∀ fm ∈ Fmt.all, fm.one7F = true → fm = e4m3 := by decide
      exact h fm hfm hone
    have hnan : b % 128 = 127 ↔ b / 2 ^ e4m3.fb % 2 ^ e4m3.eb = 2 ^ e4m3.eb - 1 ∧ b % 2 ^ e4m3.fb = 7 := by
      show _ ↔ b / 2 ^ 3 % 2 ^ 4 = 2 ^ 4 - 1 ∧ b % 2 ^ 3 = 7
      omega
    simp [hnan]
  | false =>
    generalize b / 2 ^ fm.fb % 2 ^ fm.eb = ex
    by_cases hex : ex = 2 ^ fm.eb - 1
    · by_cases hfr : b % 2 ^ fm.fb = 0 <;> simp [hex, hfr]
    · simp [hex]

/-- The class by an encoding's fields is the class of its value (R138). -/
theorem classBit_eq {fm : Fmt} (hfm : fm ∈ Fmt.all) (bits : Nat) : classBit fm bits = classOf fm (bits % 2 ^ fm.width) := by
  unfold classBit classOf Fmt.isSubnormal
  generalize bits % 2 ^ fm.width = b
  have hpos : 0 < 2 ^ fm.fb := Nat.two_pow_pos _
  dsimp only
  rw [Fmt.decode_fields hfm]
  generalize b / 2 ^ fm.fb % 2 ^ fm.eb = ex at *
  by_cases hnan : ex = 2 ^ fm.eb - 1 ∧ (if fm.one7F then b % 2 ^ fm.fb = 7 else b % 2 ^ fm.fb ≠ 0)
  · simp only [if_pos hnan]
  · simp only [if_neg hnan]
    by_cases hinf : ex = 2 ^ fm.eb - 1 ∧ fm.one7F = false
    · simp only [if_pos hinf]
    · simp only [if_neg hinf]
      by_cases hex : ex = 0
      · by_cases hfr : b % 2 ^ fm.fb = 0 <;> simp [hex, hfr]
      · simp [hex]

/-! ### Rounding to an integral value and scaling (R141, R142) -/

theorem roundToInt_zero (rm : RM) (neg : Bool) (e : Int) : roundToInt rm neg 0 e = 0 := by
  have hshift : ∀ sh, roundShift rm neg 0 sh false = 0 := by
    intro sh
    cases rm <;> simp [roundShift]
  cases neg <;> simp [roundToInt, hshift]

/-- The function of FRND (R141). -/
def roundVals (fm : Fmt) (md : Modes) (v : List FVal) : FRes :=
  match v.getD 0 .nan with
  | .fin s m x =>
    let i := roundToInt md.rm s m x
    if i = 0 then fm.zero s else fm.round .rne s i.natAbs 0
  | w => fm.convert md.rm w

theorem Fmt.roundVals_answers {fm : Fmt} (hfm : fm ∈ Fmt.all) (md : Modes) (x : FVal) :
    fm.answers (roundVals fm md [x]) (convertCorner fm x) := by
  match x with
  | .nan => exact Fmt.convert_answers hfm md.rm .nan
  | .inf a => exact Fmt.convert_answers hfm md.rm (.inf a)
  | .fin a 0 e =>
    have hzero : roundVals fm md [.fin a 0 e] = fm.zero a := if_pos (roundToInt_zero md.rm a e)
    rw [hzero]
    exact Fmt.answers_zero hfm a
  | .fin a (m + 1) e => exact Fmt.answers_none _ _

/-- The function of FSCL (R142). -/
def scaleStep (fm : Fmt) (md : Modes) (v : List Nat) : FRes :=
  let n : Int := max (-4000) (min 4000 ((IntTy.mk 32 true).ext (v.getD 1 0)))
  fm.flushOut md (match fm.read md (v.getD 0 0) with
    | .fin s m x => fm.convert md.rm (.fin s m (x + n))
    | w => fm.convert md.rm w)

theorem Fmt.scaleStep_answers {fm : Fmt} (hfm : fm ∈ Fmt.all) (md : Modes) (v : List Nat) :
    fm.answers (scaleStep fm md v) (convertCorner fm (fm.read md (v.getD 0 0))) := by
  unfold scaleStep
  refine Fmt.answers_flushOut md ?_
  match fm.read md (v.getD 0 0) with
  | .nan => exact Fmt.convert_answers hfm md.rm .nan
  | .inf a => exact Fmt.convert_answers hfm md.rm (.inf a)
  | .fin a 0 e => exact Fmt.convert_answers hfm md.rm (.fin a 0 _)
  | .fin a (m + 1) e => exact Fmt.answers_none _ _

/-! ### The scalar floating instructions -/


section
variable {s : State} {e : Env} {f : Fields}

/-- What a lane reads of a source in the format of an instruction (R45). -/
def scalarOf (s : State) (e : Env) (f : Fields) (i l : Nat) : FVal :=
  (Fmt.ofTag (tagOr f 2)).read (e.modes f.mod.toNat) (e.source s (floatSrc f 2 i (tagOr f 2)) l)

theorem fadd_yields (h : issues (.fadd f) s e) : yields (.fadd f) s e f (fmtWords (tagOr f 2)) fun l =>
    sumCorner (Fmt.ofTag (tagOr f 2)) ((e.modes f.mod.toNat).rm = .rdn) (scalarOf s e f 1 l) (scalarOf s e f 2 l) :=
  arith_yields rfl h rfl fun _ => Fmt.addVals_answers (Fmt.ofTag_mem _) _ _ _

theorem fsub_yields (h : issues (.fsub f) s e) : yields (.fsub f) s e f (fmtWords (tagOr f 2)) fun l =>
    sumCorner (Fmt.ofTag (tagOr f 2)) ((e.modes f.mod.toNat).rm = .rdn) (scalarOf s e f 1 l) (scalarOf s e f 2 l).neg :=
  arith_yields rfl h rfl fun _ => Fmt.addVals_answers (Fmt.ofTag_mem _) _ _ _

theorem fmul_yields (h : issues (.fmul f) s e) : yields (.fmul f) s e f (fmtWords (tagOr f 2)) fun l =>
    productCorner (Fmt.ofTag (tagOr f 2)) (scalarOf s e f 1 l) (scalarOf s e f 2 l) :=
  arith_yields rfl h rfl fun _ => Fmt.mulVals2_answers (Fmt.ofTag_mem _) _ _ _

theorem ffma_yields (h : issues (.ffma f) s e) : yields (.ffma f) s e f (fmtWords (tagOr f 2)) fun l =>
    fusedCorner (Fmt.ofTag (tagOr f 2)) (scalarOf s e f 1 l) (scalarOf s e f 2 l) (scalarOf s e f 3 l) :=
  arith_yields rfl h rfl fun _ => Fmt.fmaVals_answers (Fmt.ofTag_mem _) _ _ _ _

theorem fdiv_yields (h : issues (.fdiv f) s e) : yieldsLater (.fdiv f) s e (fmtWords (tagOr f 2)) fun l =>
    quotientCorner (Fmt.ofTag (tagOr f 2)) (scalarOf s e f 1 l) (scalarOf s e f 2 l) :=
  arith_yieldsLater rfl h rfl fun _ => Fmt.div_answers (Fmt.ofTag_mem _) _ _ _

theorem fsqrt_yields (h : issues (.fsqrt f) s e) : yieldsLater (.fsqrt f) s e (fmtWords (tagOr f 2)) fun l =>
    rootCorner (Fmt.ofTag (tagOr f 2)) (scalarOf s e f 1 l) :=
  arith_yieldsLater rfl h rfl fun _ => Fmt.sqrt_answers (Fmt.ofTag_mem _) _ _

theorem frnd_yields (h : issues (.frnd f) s e) : yields (.frnd f) s e f (fmtWords (tagOr f 2)) fun l =>
    convertCorner (Fmt.ofTag (tagOr f 2)) (scalarOf s e f 1 l) :=
  arith_yields (fields := [1]) (g := roundVals) rfl h rfl fun _ => Fmt.roundVals_answers (Fmt.ofTag_mem _) _ _

theorem fscl_yields (h : issues (.fscl f) s e) : yields (.fscl f) s e f (fmtWords (tagOr f 2)) fun l =>
    convertCorner (Fmt.ofTag (tagOr f 2)) (scalarOf s e f 1 l) :=
  floatAlu_yields (g := scaleStep (Fmt.ofTag (tagOr f 2)) (e.modes f.mod.toNat)) rfl h rfl fun _ _ =>
    FRes.meets_of_answers (Fmt.scaleStep_answers (Fmt.ofTag_mem _) _ _)

/-- The function of FCMP (R137). -/
def compareStep (c : Nat) (fm : Fmt) (md : Modes) (v : List Nat) : FRes :=
  { bits := predicate (floatCondition c (fm.read md (v.getD 0 0)) (fm.read md (v.getD 1 0))) }

theorem compareStep_meets {c : Nat} (hc : c < 8) (fm : Fmt) (md : Modes) (a b : Nat) :
    (compareStep c fm md [a, b]).meets (some ((truth (holdsOf c (fm.read md a) (fm.read md b))).toNat, 0)) := by
  refine FRes.meets_some ?_ (by simp)
  rw [← floatCondition_eq hc, ← ofNat_predicate, BitVec.toNat_ofNat, Nat.mod_eq_of_lt (predicate_lt _)]
  rfl

theorem fcmp_yields (h : issues (.fcmp f) s e) : yields (.fcmp f) s e f 1 fun l =>
    some ((truth (holdsOf (f.mod.toNat / 8)
      ((Fmt.ofTag (tagOr f 2)).read (e.modes (f.mod.toNat % 8)) (e.source s (floatSrc f 2 1 (tagOr f 2)) l))
      ((Fmt.ofTag (tagOr f 2)).read (e.modes (f.mod.toNat % 8)) (e.source s (floatSrc f 2 2 (tagOr f 2)) l)))).toNat, 0) :=
  floatAlu_yields (dst := 0) (g := compareStep (f.mod.toNat / 8) (Fmt.ofTag (tagOr f 2)) (condModes e f)) rfl h rfl
    fun _ _ => compareStep_meets (condition_lt f) _ _ _ _

/-- The function of FCLASS (R138). -/
def classStep (fm : Fmt) (v : List Nat) : FRes := { bits := 2 ^ classBit fm (v.getD 0 0) }

theorem classStep_meets {fm : Fmt} (hfm : fm ∈ Fmt.all) (a : Nat) :
    (classStep fm [a]).meets (some (2 ^ classOf fm (a % 2 ^ fm.width), 0)) :=
  FRes.meets_some (by rw [← classBit_eq hfm]; rfl) (by simp)

theorem fclass_yields (h : issues (.fclass f) s e) : yields (.fclass f) s e f 1 fun l =>
    some (2 ^ classOf (Fmt.ofTag (tagOr f 2)) (e.source s (floatSrc f 2 1 (tagOr f 2)) l % 2 ^ (Fmt.ofTag (tagOr f 2)).width), 0) := by
  refine floatAlu_yields (dst := 0) (g := classStep (Fmt.ofTag (tagOr f 2))) rfl h rfl fun l _ => ?_
  rw [floatSrc_unreplaced f _ (show 2 ≠ 1 by decide) (show 0 ≠ 1 by decide)]
  exact classStep_meets (Fmt.ofTag_mem _) _

/-- The function of FMIN and FMAX (R136). -/
def extremeStep (most : Bool) (fm : Fmt) (md : Modes) (v : List Nat) : FRes := fm.minMax md most (v.getD 0 0) (v.getD 1 0)

theorem minMax_yields {i : Instr} {op : Nat} {mk : State → Env → Alu} {most : Bool} (hi : registerForm i = some (op, f, mk))
    (h : issues i s e) (hmk : mk s e = minMaxAlu f e most) {given : Nat → Option (Nat × Word)}
    (hgiven : ∀ l, ((Fmt.ofTag (tagOr f 2)).minMax (e.modes f.mod.toNat) most (e.source s (floatSrc f 2 1 (tagOr f 2)) l)
      (e.source s (floatSrc f 2 2 (tagOr f 2)) l)).meets (given l)) : yields i s e f (fmtWords (tagOr f 2)) given :=
  floatAlu_yields (g := extremeStep most (Fmt.ofTag (tagOr f 2)) (e.modes f.mod.toNat)) hi h hmk fun l _ => hgiven l

end

theorem floatingCases_holds : Claims.floatingCases := by
  intro s e f tag fm md rdn n bits x compared chosen
  have hchosen (most : Bool) (l : Nat) : (fm.minMax md most (e.source s (floatSrc f 2 1 tag) l)
      (e.source s (floatSrc f 2 2 tag) l)).meets (chosen most l) :=
    fm.minMax_meets md most _ _ (FVal.lt0_iff _ _) (fun i => e.source s (floatSrc f 2 i tag) l) rfl rfl
  exact ⟨fadd_yields, fsub_yields, fmul_yields, ffma_yields, fun h => minMax_yields rfl h rfl (hchosen false),
    fun h => minMax_yields rfl h rfl (hchosen true), fcmp_yields, fclass_yields, fdiv_yields, fsqrt_yields, frnd_yields, fscl_yields⟩

end Sys2Proof.Machine
end

section
/-! SUPPORT. The packed floating instructions, element by element, and the conversions in the cases that O13 names (R46, R47, R139,
R143 to R147). -/

namespace Sys2Proof.Machine

open Sys2Proof.Safety Sys2Proof.Claims

/-! ### Tags and codes of well-formed words (R74, R133) -/

theorem tagOr_mem_range {f : Fields} {lo hi d : Nat} (h : (decide (f.tg = 0) || (decide (lo ≤ f.tg.toNat) && decide (f.tg.toNat ≤ hi))) = true)
    (hlo : lo ≤ d) (hhi : d ≤ hi) : lo ≤ tagOr f d ∧ tagOr f d ≤ hi := by
  unfold tagOr
  split
  · exact ⟨hlo, hhi⟩
  · simp_all

/-- The code in C of a well-formed word is an accepted one. -/
theorem code_of_wellFormed {r : Ranges} {i : Instr} {op : Nat} {f : Fields} {x : Shape} {ok : Bool} (hi : opOf i = some (op, f))
    (hx : shape op f = some x) (hw : WellFormed r i = true) (hc : x.c = .code ok) (himm : x.imm = 0) : ok = true := by
  have hv := valuesBad_of_wellFormed hi hx hw
  simp only [Shape.valuesBad, Bool.or_eq_false_iff, Shape.classes, hc, himm, List.any_cons] at hv
  simpa [Cls.valueBad] using hv.1.2.2.2.2.1

/-! ### Elements of a word (R36) -/

theorem elem16_ofNat {lo hi n : Nat} (hn : n < 2) (hlo : lo < 2 ^ 16) :
    elem 16 (BitVec.ofNat 32 (lo + 2 ^ 16 * hi)) n = BitVec.ofNat 16 (if n = 0 then lo else hi) := by
  unfold elem
  rw [← BitVec.toNat_inj]
  interval_cases n
  · simp
  · simp [Nat.shiftRight_eq_div_pow]
    omega

section
variable {i : Instr} {op : Nat} {f : Fields} {mk : State → Env → Alu} {s : State} {e : Env}

/-- A floating instruction whose one word holds elements. -/
theorem floatAlu_yieldsElements {srcs : List Src} {dst : Nat} {g : List Nat → FRes} {w : Nat} {given : Nat → Nat → Option (Nat × Word)}
    (hi : registerForm i = some (op, f, mk)) (h : issues i s e) (hmk : mk s e = floatAlu f e.mask srcs dst g) (hdst : dst ≠ 1)
    (hg : ∀ l n b fl, w * n < 32 → given n l = some (b, fl) →
      elem w (BitVec.ofNat 32 (g (srcs.map fun x => e.source s x l)).bits) n = BitVec.ofNat w b
        ∧ (g (srcs.map fun x => e.source s x l)).flags &&& fl = fl) : yieldsElements i s e f w given := by
  have hn : fmtWords dst = 1 := if_neg hdst
  obtain ⟨v, flags, hres, hall⟩ := floatAlu_yields (given := fun l => some ((g (srcs.map fun x => e.source s x l)).bits,
    (g (srcs.map fun x => e.source s x l)).flags)) hi h hmk fun l _ => FRes.meets_some rfl (by simp)
  rw [hn] at hres hall
  refine ⟨v, flags, hres, fun l hl hmask n b fl hw hgiven => ?_⟩
  obtain ⟨hword, hflags⟩ := hall l hl hmask _ _ rfl
  obtain ⟨helem, hfl⟩ := hg l n b fl hw hgiven
  have hv : v 0 l = BitVec.ofNat 32 (g (srcs.map fun x => e.source s x l)).bits := by simpa using hword 0 (by decide)
  exact ⟨hv ▸ helem, by rw [← hfl, ← BitVec.and_assoc, hflags]⟩

/-! ### Packed instructions (R139) -/

/-- What a packed instruction does with the bits of its sources. -/
def packedStep (f : Fields) (g : Fmt → List Nat → FRes) (v : List Nat) : FRes :=
  let lo := g (Fmt.ofTag (tagOr f 3)) (v.map (· % 2 ^ 16))
  let hi := g (Fmt.ofTag (tagOr f 3)) (v.map (· / 2 ^ 16 % 2 ^ 16))
  { bits := lo.bits + 2 ^ 16 * hi.bits, flags := lo.flags ||| hi.flags }

theorem packedAlu_yields {fields : List Nat} {dst : Option Nat} {g : Fmt → List Nat → FRes} {given : Nat → Nat → Option (Nat × Word)}
    (hi : registerForm i = some (op, f, mk)) (h : issues i s e) (hmk : mk s e = packedAlu f e fields dst g)
    (hdst : dst.getD (tagOr f 3) ≠ 1) (hlt : ∀ v, (g (Fmt.ofTag (tagOr f 3)) v).bits < 2 ^ 16)
    (hg : ∀ n l, (g (Fmt.ofTag (tagOr f 3)) (fields.map fun i => e.source s (floatSrc f 2 i (tagOr f 3)) l / 2 ^ (16 * n) % 2 ^ 16)).meets
      (given n l)) : yieldsElements i s e f 16 given := by
  refine floatAlu_yieldsElements (srcs := fields.map fun i => floatSrc f 2 i (tagOr f 3)) (g := packedStep f g) hi h hmk hdst
    fun l n b fl hn hgiven => ?_
  obtain ⟨hbits, hflags⟩ := hg n l b fl hgiven
  simp only [packedStep, List.map_map, Function.comp_def]
  rw [elem16_ofNat (by omega) (hlt _)]
  have hflag (x y : Word) (h : (if n = 0 then x else y) &&& fl = fl) : (x ||| y) &&& fl = fl := by
    rw [BitVec.and_or_distrib_right]
    split at h <;> rw [h] <;> (ext; simp +contextual)
  have hcases : n = 0 ∨ n = 1 := by omega
  rcases hcases with rfl | rfl
  · simp only [Nat.mul_zero, Nat.pow_zero, Nat.div_one] at hbits hflags
    exact ⟨by rw [if_pos rfl, hbits], hflag _ _ hflags⟩
  · exact ⟨by rw [if_neg (by decide)]; exact congrArg _ hbits, hflag _ _ hflags⟩

/-- What a packed instruction does with an element of each of its sources. -/
def elementStep (md : Modes) (g : Fmt → Modes → List FVal → FRes) (fm : Fmt) (v : List Nat) : FRes :=
  fm.flushOut md (g fm md (v.map (fm.read md)))

theorem packedFmt_width {tag : Nat} (h : 3 ≤ tag ∧ tag ≤ 4) : (Fmt.ofTag tag).width = 16 := by
  obtain rfl | rfl : tag = 3 ∨ tag = 4 := by omega
  · rfl
  · rfl

/-- A packed instruction that computes and rounds its values (R135, R139). -/
theorem packedArith_yields {fields : List Nat} {g : Fmt → Modes → List FVal → FRes} {given : Nat → Nat → Option (Nat × Word)}
    (hi : registerForm i = some (op, f, mk)) (h : issues i s e) (hmk : mk s e = packedArith f e fields g)
    (htag : 3 ≤ tagOr f 3 ∧ tagOr f 3 ≤ 4)
    (hlt : ∀ v, (g (Fmt.ofTag (tagOr f 3)) (e.modes f.mod.toNat) v).bits < 2 ^ (Fmt.ofTag (tagOr f 3)).width)
    (hans : ∀ n l, (Fmt.ofTag (tagOr f 3)).answers (g (Fmt.ofTag (tagOr f 3)) (e.modes f.mod.toNat) (fields.map fun i =>
      (Fmt.ofTag (tagOr f 3)).read (e.modes f.mod.toNat) (e.source s (floatSrc f 2 i (tagOr f 3)) l / 2 ^ (16 * n) % 2 ^ 16)))
        (given n l)) : yieldsElements i s e f 16 given := by
  have hwidth := packedFmt_width htag
  have hmk' : mk s e = packedAlu f e fields none (elementStep (e.modes f.mod.toNat) g) := hmk
  refine packedAlu_yields hi h hmk' ?_ (fun v => ?_) fun n l => ?_
  · rw [Option.getD_none]
    omega
  · have hout := Fmt.flushOut_lt (Fmt.ofTag_mem (tagOr f 3)) (e.modes f.mod.toNat)
      (hlt (v.map ((Fmt.ofTag (tagOr f 3)).read (e.modes f.mod.toNat))))
    rwa [hwidth] at hout
  · refine FRes.meets_of_answers (Fmt.answers_flushOut _ ?_)
    rw [List.map_map]
    exact hans n l

/-- The function of PKCMP: the condition in every bit of an element (R139). -/
def maskStep (c : Nat) (md : Modes) (fm : Fmt) (v : List Nat) : FRes :=
  { bits := if floatCondition c (fm.read md (v.getD 0 0)) (fm.read md (v.getD 1 0)) then 0xFFFF else 0 }

end

section
variable {s : State} {e : Env} {f : Fields}

/-- The tag of a packed instruction is that of a 16-bit format (R139). -/
theorem packedTag {op : Nat} {i : Instr} {m : Bool} {d a b c : Cls} {imm : Nat} {r : Ranges} (hi : opOf i = some (op, f))
    (hx : shape op f = some (floatShape f 3 4 m d a b c imm)) (hw : WellFormed r i = true) : 3 ≤ tagOr f 3 ∧ tagOr f 3 ≤ 4 :=
  tagOr_mem_range (tagOk_of_wellFormed hi hx hw) (by decide) (by decide)

/-- An element of a source, as a packed instruction reads it. -/
def packedOf (s : State) (e : Env) (f : Fields) (md : Modes) (i n l : Nat) : FVal :=
  (Fmt.ofTag (tagOr f 3)).read md (e.source s (floatSrc f 2 i (tagOr f 3)) l / 2 ^ (16 * n) % 2 ^ 16)

theorem pkadd_yields (h : issues (.pkadd f) s e) : yieldsElements (.pkadd f) s e f 16 fun n l =>
    sumCorner (Fmt.ofTag (tagOr f 3)) ((e.modes f.mod.toNat).rm = .rdn) (packedOf s e f (e.modes f.mod.toNat) 1 n l)
      (packedOf s e f (e.modes f.mod.toNat) 2 n l) :=
  packedArith_yields (g := addVals) rfl h rfl (packedTag rfl rfl (issues_elim rfl h).1)
    (fun _ => Fmt.sumProducts_lt (Fmt.ofTag_mem _) _ _ _) fun _ _ => Fmt.addVals_answers (Fmt.ofTag_mem _) _ _ _

theorem pkmul_yields (h : issues (.pkmul f) s e) : yieldsElements (.pkmul f) s e f 16 fun n l =>
    productCorner (Fmt.ofTag (tagOr f 3)) (packedOf s e f (e.modes f.mod.toNat) 1 n l) (packedOf s e f (e.modes f.mod.toNat) 2 n l) :=
  packedArith_yields (g := mulVals2) rfl h rfl (packedTag rfl rfl (issues_elim rfl h).1)
    (fun _ => Fmt.sumProducts_lt (Fmt.ofTag_mem _) _ _ _) fun _ _ => Fmt.mulVals2_answers (Fmt.ofTag_mem _) _ _ _

theorem pkfma_yields (h : issues (.pkfma f) s e) : yieldsElements (.pkfma f) s e f 16 fun n l =>
    fusedCorner (Fmt.ofTag (tagOr f 3)) (packedOf s e f (e.modes f.mod.toNat) 1 n l) (packedOf s e f (e.modes f.mod.toNat) 2 n l)
      (packedOf s e f (e.modes f.mod.toNat) 3 n l) :=
  packedArith_yields (g := fmaVals) rfl h rfl (packedTag rfl rfl (issues_elim rfl h).1)
    (fun _ => Fmt.sumProducts_lt (Fmt.ofTag_mem _) _ _ _) fun _ _ => Fmt.fmaVals_answers (Fmt.ofTag_mem _) _ _ _ _

theorem pkcmp_yields (h : issues (.pkcmp f) s e) : yieldsElements (.pkcmp f) s e f 16 fun n l =>
    some (if holdsOf (f.mod.toNat / 8) (packedOf s e f (e.modes (f.mod.toNat % 8)) 1 n l)
      (packedOf s e f (e.modes (f.mod.toNat % 8)) 2 n l) then 0xFFFF else 0, 0) := by
  refine packedAlu_yields (g := maskStep (f.mod.toNat / 8) (condModes e f)) (dst := some 0) rfl h rfl (show 0 ≠ 1 by decide) (fun v => ?_)
    fun n l => FRes.meets_some ?_ (by simp)
  · unfold maskStep
    split <;> decide
  · rw [← floatCondition_eq (condition_lt f)]
    rfl

/-! ### Conversions between formats (R144, R147) -/

/-- The function of CVTF (R144). -/
def convertStep (dst src : Fmt) (md : Modes) (v : List Nat) : FRes := dst.flushOut md (dst.convert md.rm (src.read md (v.getD 0 0)))

theorem cvtf_yields (h : issues (.cvtf f) s e) : yields (.cvtf f) s e f (fmtWords (tagOr f 2)) fun l =>
    convertCorner (Fmt.ofTag (tagOr f 2))
      ((Fmt.ofTag f.c.toNat).read (e.modes f.mod.toNat) (e.source s (floatSrc f 0 1 f.c.toNat) l)) :=
  floatAlu_yields (g := convertStep (Fmt.ofTag (tagOr f 2)) (Fmt.ofTag f.c.toNat) (e.modes f.mod.toNat)) rfl h rfl
    fun _ _ => FRes.meets_of_answers (Fmt.answers_flushOut _ (Fmt.convert_answers (Fmt.ofTag_mem _) _ _))

/-- The function of FUNPACK: the element that the second word names (R147). -/
def unpackStep (fm : Fmt) (md : Modes) (v : List Nat) : FRes :=
  fp32.flushOut md (fp32.convert .rne (fm.read md (v.getD 0 0 / 2 ^ (fm.width * (v.getD 1 0 % (32 / fm.width))) % 2 ^ fm.width)))

/-- A source that is not read as a floating value is a word. -/
theorem source_plainSrc (s : State) (e : Env) (f : Fields) (pos i l : Nat) :
    e.source s (plainSrc f pos i 1 none) l = (word s e f pos i l).toNat := by
  rw [word_toNat]
  unfold plainSrc intSrc immValue
  simp

theorem funpack_yields (h : issues (.funpack f) s e) : yields (.funpack f) s e f 1 fun l =>
    convertCorner fp32 ((Fmt.ofTag (tagOr f 3)).read (e.modes f.mod.toNat) (e.source s (floatSrc f 2 1 (tagOr f 3)) l
      / 2 ^ ((Fmt.ofTag (tagOr f 3)).width * ((word s e f 2 2 l).toNat % (32 / (Fmt.ofTag (tagOr f 3)).width)))
        % 2 ^ (Fmt.ofTag (tagOr f 3)).width)) := by
  refine floatAlu_yields (dst := 2) (g := unpackStep (Fmt.ofTag (tagOr f 3)) (e.modes f.mod.toNat)) rfl h rfl fun l _ => ?_
  rw [floatSrc_unreplaced f _ (show 2 ≠ 1 by decide) (show 0 ≠ 1 by decide), ← source_plainSrc]
  exact FRes.meets_of_answers (Fmt.answers_flushOut _ (Fmt.convert_answers fp32_mem _ _))

/-- The function of FDOT4 (R143). -/
def dotStep (fm : Fmt) (md : Modes) (v : List Nat) : FRes :=
  fp32.flushOut md (fp32.sumProducts md.rm true ([fp32.read md (v.getD 2 0)]
    :: (List.range 4).map fun j => [fm.read md (v.getD 0 0 / 2 ^ (8 * j) % 256), fm.read md (v.getD 1 0 / 2 ^ (8 * j) % 256)]))

theorem fdot4_yields (h : issues (.fdot4 f) s e) : yields (.fdot4 f) s e f 1 fun l =>
    if (fp32.read (e.modes f.mod.toNat) (e.source s (floatSrc f 0 3 2) l)).isNan || (List.range 4).any (fun n =>
      ((Fmt.ofTag (tagOr f 5)).read (e.modes f.mod.toNat) (e.source s (floatSrc f 0 1 (tagOr f 5)) l / 2 ^ (8 * n) % 256)).isNan
      || ((Fmt.ofTag (tagOr f 5)).read (e.modes f.mod.toNat) (e.source s (floatSrc f 0 2 (tagOr f 5)) l / 2 ^ (8 * n) % 256)).isNan)
    then some (fp32.nan, 0) else none := by
  refine floatAlu_yields (dst := 2) (g := dotStep (Fmt.ofTag (tagOr f 5)) (e.modes f.mod.toNat)) rfl h rfl fun l _ => ?_
  split
  · rename_i hnan
    refine FRes.meets_of_answers (Fmt.answers_flushOut _ (Fmt.answers_nan fp32_mem (Fmt.sumProducts_nan _ _ ?_)))
    simpa [List.any_map, Function.comp_def] using hnan
  · exact FRes.meets_none _

end

end Sys2Proof.Machine
end

section
/-! SUPPORT. Packing, and the conversions between floating values and integers, in the cases that O13 names (R46, R47, R145 to R147). -/

namespace Sys2Proof.Machine

open Sys2Proof.Safety Sys2Proof.Claims

/-! ### FPACK (R147) -/

section
variable {s : State} {e : Env} {f : Fields}

/-- The sources of FPACK: the third is read only under an 8-bit format. -/
def packSrcs (f : Fields) : List Src :=
  if tagOr f 3 ≤ 4 then [floatSrc f 0 1 2, floatSrc f 0 2 2] else [floatSrc f 0 1 2, floatSrc f 0 2 2] ++ [floatSrc f 0 3 (tagOr f 3)]

/-- The function of FPACK. -/
def packStep (tag : Nat) (md : Modes) (v : List Nat) : FRes :=
  let x := convertStep (Fmt.ofTag tag) fp32 md [v.getD 0 0]
  let y := convertStep (Fmt.ofTag tag) fp32 md [v.getD 1 0]
  { bits := if tag ≤ 4 then x.bits + 2 ^ 16 * y.bits else v.getD 2 0 / 2 ^ 16 % 2 ^ 16 + 2 ^ 16 * x.bits + 2 ^ 24 * y.bits
    flags := x.flags ||| y.flags }

theorem aluFpack_eq (f : Fields) (s : State) (e : Env) :
    aluFpack f s e = floatAlu f e.mask (packSrcs f) (tagOr f 3) (packStep (tagOr f 3) (e.modes f.mod.toNat)) := rfl

theorem convertStep_lt {dst : Fmt} (hdst : dst ∈ Fmt.all) (src : Fmt) (md : Modes) (v : List Nat) :
    (convertStep dst src md v).bits < 2 ^ dst.width :=
  Fmt.flushOut_lt hdst md (Fmt.convert_lt hdst _ _)

theorem convertStep_meets {dst : Fmt} (hdst : dst ∈ Fmt.all) (src : Fmt) (md : Modes) (b : Nat) :
    (convertStep dst src md [b]).meets (convertCorner dst (src.read md b)) :=
  FRes.meets_of_answers (Fmt.answers_flushOut _ (Fmt.convert_answers hdst _ _))

/-- The flags of two results hold those of each. -/
theorem or_and_left {x y fl : Word} (h : x &&& fl = fl) : (x ||| y) &&& fl = fl := by
  rw [BitVec.and_or_distrib_right, h]
  ext
  simp +contextual

theorem or_and_right {x y fl : Word} (h : y &&& fl = fl) : (x ||| y) &&& fl = fl := by
  rw [BitVec.or_comm]
  exact or_and_left h

theorem elem8_ofNat {z x y n : Nat} (hn : n < 4) (hz : z < 2 ^ 16) (hx : x < 2 ^ 8) :
    elem 8 (BitVec.ofNat 32 (z + 2 ^ 16 * x + 2 ^ 24 * y)) n
      = BitVec.ofNat 8 (if n < 2 then z / 2 ^ (8 * n) % 2 ^ 8 else if n = 2 then x else y) := by
  unfold elem
  rw [← BitVec.toNat_inj]
  interval_cases n <;> simp [Nat.shiftRight_eq_div_pow] <;> omega

theorem fpack_halves_yield (h : issues (.fpack f) s e) (htag : 3 ≤ tagOr f 3 ∧ tagOr f 3 ≤ 4) :
    yieldsElements (.fpack f) s e f 16 fun n l => convertCorner (Fmt.ofTag (tagOr f 3))
      (fp32.read (e.modes f.mod.toNat) (e.source s (floatSrc f 0 (n + 1) 2) l)) := by
  have hsrcs : packSrcs f = [floatSrc f 0 1 2, floatSrc f 0 2 2] := if_pos htag.2
  refine floatAlu_yieldsElements rfl h (aluFpack_eq f s e) (by omega) fun l n b fl hn hgiven => ?_
  have hlt := convertStep_lt (Fmt.ofTag_mem (tagOr f 3)) fp32 (e.modes f.mod.toNat) [e.source s (floatSrc f 0 1 2) l]
  rw [packedFmt_width htag] at hlt
  obtain ⟨hbits, hflags⟩ := convertStep_meets (Fmt.ofTag_mem (tagOr f 3)) fp32 (e.modes f.mod.toNat) _ b fl hgiven
  simp only [hsrcs, List.map_cons, List.map_nil, packStep, htag.2, if_true, List.getD_cons_zero, List.getD_cons_succ]
  rw [elem16_ofNat (by omega) hlt]
  have hcases : n = 0 ∨ n = 1 := by omega
  rcases hcases with rfl | rfl
  · exact ⟨by rw [if_pos rfl]; exact congrArg _ hbits, or_and_left hflags⟩
  · exact ⟨by rw [if_neg (by decide)]; exact congrArg _ hbits, or_and_right hflags⟩

theorem fpack_bytes_yield (h : issues (.fpack f) s e) (htag : 5 ≤ tagOr f 3 ∧ tagOr f 3 ≤ 6) :
    yieldsElements (.fpack f) s e f 8 fun n l =>
      if n < 2 then some (e.source s (floatSrc f 2 3 (tagOr f 3)) l / 2 ^ (8 * (n + 2)) % 2 ^ 8, 0)
      else convertCorner (Fmt.ofTag (tagOr f 3)) (fp32.read (e.modes f.mod.toNat) (e.source s (floatSrc f 0 (n - 1) 2) l)) := by
  have hwide : ¬ tagOr f 3 ≤ 4 := by omega
  have hsrcs : packSrcs f = [floatSrc f 0 1 2, floatSrc f 0 2 2, floatSrc f 2 3 (tagOr f 3)] := by
    rw [floatSrc_unreplaced f _ (show 2 ≠ 3 by decide) (show 0 ≠ 3 by decide)]
    exact if_neg hwide
  have hwidth : (Fmt.ofTag (tagOr f 3)).width = 8 := by
    obtain hf | hf : tagOr f 3 = 5 ∨ tagOr f 3 = 6 := by omega
    · rw [hf]; rfl
    · rw [hf]; rfl
  refine floatAlu_yieldsElements rfl h (aluFpack_eq f s e) (by omega) fun l n b fl hn hgiven => ?_
  have hlt := convertStep_lt (Fmt.ofTag_mem (tagOr f 3)) fp32 (e.modes f.mod.toNat) [e.source s (floatSrc f 0 1 2) l]
  rw [hwidth] at hlt
  simp only [hsrcs, List.map_cons, List.map_nil, packStep, hwide, if_false, List.getD_cons_zero, List.getD_cons_succ]
  rw [elem8_ofNat (by omega) (Nat.mod_lt _ (by decide)) hlt]
  by_cases hkept : n < 2
  · rw [if_pos hkept] at hgiven ⊢
    cases hgiven
    refine ⟨congrArg _ ?_, by simp⟩
    have hcases : n = 0 ∨ n = 1 := by omega
    rcases hcases with rfl | rfl <;> omega
  · rw [if_neg hkept] at hgiven ⊢
    obtain ⟨hbits, hflags⟩ := convertStep_meets (Fmt.ofTag_mem (tagOr f 3)) fp32 (e.modes f.mod.toNat) _ b fl hgiven
    have hcases : n = 2 ∨ n = 3 := by omega
    rcases hcases with rfl | rfl
    · exact ⟨by rw [if_pos rfl]; exact congrArg _ hbits, or_and_left hflags⟩
    · exact ⟨by rw [if_neg (by decide)]; exact congrArg _ hbits, or_and_right hflags⟩

end

/-! ### Floating values into integers (R145) -/

/-- The type of an accepted code (R145). -/
theorem codeTy_eq {c : Nat} (hc : c ≤ 9) : (codeTy c).1 = ⟨(integerOf c).1, (integerOf c).2⟩ := by
  interval_cases c <;> rfl

theorem integerOf_width_pos {c : Nat} (hc : c ≤ 9) : 0 < (integerOf c).1 := by
  interval_cases c <;> decide

theorem integerCorner_fin (w : Nat) (sg a : Bool) (m : Nat) {x : Int} (hx : 0 ≤ x) (rm : RM) : integerCorner w sg (.fin a m x)
    = some ((saturated sg w (roundToInt rm a m x)).toNat, if outside sg w (roundToInt rm a m x) then flagOvf else 0) := by
  have hround : roundToInt rm a m x = if a then -(m * 2 ^ x.toNat : Int) else m * 2 ^ x.toNat := by
    simp [roundToInt, hx]
  rw [hround]
  exact if_pos hx

/-- A value that is a NaN, an infinity or integral, into an integer type (R46, R47, R145). -/
theorem IntTy.ofFloat_meets (sg : Bool) {w : Nat} (hw : 0 < w) (rm : RM) (v : FVal) :
    ((IntTy.mk w sg).ofFloat rm v).meets (integerCorner w sg v) := by
  have hsat : ∀ i, ((IntTy.mk w sg).saturate i).meets (some ((saturated sg w i).toNat, if outside sg w i then flagOvf else 0)) :=
    fun i => FRes.meets_some (IntTy.saturate_bits sg w i) (by rw [IntTy.saturate_flags]; simp)
  have hpow : (2 : Int) ^ w = 2 ^ (w - 1) * 2 := (pow_sub_one_mul hw.ne' 2).symm
  have hpos : (0 : Int) < 2 ^ (w - 1) := by positivity
  match v with
  | .nan => exact FRes.meets_some rfl (by simp [IntTy.ofFloat])
  | .inf a =>
    refine FRes.meets_some ?_ (by simp [IntTy.ofFloat])
    rw [← IntTy.saturate_bits]
    cases a with
    | true =>
      have hlo : -2 ^ w < (IntTy.mk w sg).lo := by
        cases sg <;> simp only [IntTy.lo, Bool.false_eq_true, if_false, if_true] <;> push_cast <;> omega
      simp only [IntTy.saturate, if_true, if_pos hlo]
      rfl
    | false =>
      have hlo : ¬ (2 : Int) ^ w < (IntTy.mk w sg).lo := by
        cases sg <;> simp only [IntTy.lo, Bool.false_eq_true, if_false, if_true] <;> push_cast <;> omega
      have hhi : (2 : Int) ^ w > (IntTy.mk w sg).hi := by
        cases sg <;> simp only [IntTy.hi, Bool.false_eq_true, if_false, if_true] <;> push_cast <;> omega
      simp only [IntTy.saturate, Bool.false_eq_true, if_false, if_neg hlo, if_pos hhi]
      rfl
  | .fin a m x =>
    by_cases hx : 0 ≤ x
    · rw [integerCorner_fin w sg a m hx rm]
      exact hsat _
    · have hnone : integerCorner w sg (.fin a m x) = none := if_neg hx
      rw [hnone]
      exact FRes.meets_none _

/-- One or two words of a number. -/
theorem words_word (b : Nat) {n k : Nat} (hn : n = 1 ∨ n = 2) (hk : k < n) :
    BitVec.ofNat 32 ((if n = 2 then twoWords b else [b]).getD k 0) = BitVec.ofNat 32 (b / 2 ^ (32 * k)) :=
  hn.elim (fun h => by subst h; exact fmtResult_word 2 ⟨b, 0⟩ hk) fun h => by subst h; exact fmtResult_word 1 ⟨b, 0⟩ hk

section
variable {s : State} {e : Env} {f : Fields}

theorem aluCvtfi_run (f : Fields) (s : State) (e : Env) : (aluCvtfi f s e).run ((aluCvtfi f s e).reads s e)
    = perLane e.mask (if (codeTy f.c.toNat).1.width = 64 then 2 else 1) fun l =>
      let r := (codeTy f.c.toNat).1.ofFloat (e.modes f.mod.toNat).rm
        ((Fmt.ofTag (tagOr f 2)).read (e.modes f.mod.toNat) (e.source s (floatSrc f 0 1 (tagOr f 2)) l))
      (if (if (codeTy f.c.toNat).1.width = 64 then 2 else 1) = 2 then twoWords r.bits else [r.bits], r.flags) := rfl

theorem cvtfi_yields (h : issues (.cvtfi f) s e) :
    yields (.cvtfi f) s e f (if (integerOf f.c.toNat).1 = 64 then 2 else 1) fun l =>
      integerCorner (integerOf f.c.toNat).1 (integerOf f.c.toNat).2
        ((Fmt.ofTag (tagOr f 2)).read (e.modes f.mod.toNat) (e.source s (floatSrc f 0 1 (tagOr f 2)) l)) := by
  have hc : f.c.toNat ≤ 9 := of_decide_eq_true (code_of_wellFormed rfl rfl (issues_elim rfl h).1 rfl rfl)
  have hrun := aluCvtfi_run f s e
  rw [codeTy_eq hc] at hrun
  refine yields_of_gives rfl h rfl rfl ?_ (perLane_gives hrun fun l hl b fl hgiven => ?_)
  · rw [Alu.result_words]
    exact (congrArg (fun r : List Lanes × Word => r.1.length) hrun).trans (perLane_length _ _ _)
  · obtain ⟨rfl, hflags⟩ := IntTy.ofFloat_meets _ (integerOf_width_pos hc) (e.modes f.mod.toNat).rm _ b fl hgiven
    exact ⟨fun k hk => words_word _ (by split <;> simp) hk, hflags⟩

/-! ### Integers into floating values (R146) -/

theorem IntTy.ext_congr (sg : Bool) {w a b : Nat} (h : a % 2 ^ w = b % 2 ^ w) : (IntTy.mk w sg).ext a = (IntTy.mk w sg).ext b := by
  simp only [IntTy.ext, h]

/-- Zero, one and minus one in a floating format. -/
theorem Fmt.ofInt_answers {fm : Fmt} (hfm : fm ∈ Fmt.all) (rm : RM) (n : Int) : fm.answers (fm.ofInt rm n)
    (if n = 0 then some (0, 0) else if n = 1 ∨ n = -1 then some (fm.signBit (n < 0) + fm.bias * 2 ^ fm.fb, 0) else none) := by
  have hone : ∀ fm ∈ Fmt.all, ∀ rm ∈ [RM.rne, .rtz, .rup, .rdn], ∀ neg,
      (fm.round rm neg 1 0).bits = fm.signBit neg + fm.bias * 2 ^ fm.fb := by decide +kernel
  have hround (neg : Bool) : (fm.round rm neg 1 0).bits = fm.signBit neg + fm.bias * 2 ^ fm.fb := hone fm hfm rm (by cases rm <;> decide) neg
  by_cases h0 : n = 0
  · rw [if_pos h0, h0]
    exact Fmt.answers_zero hfm false
  · rw [if_neg h0]
    by_cases h1 : n = 1 ∨ n = -1
    · rw [if_pos h1]
      refine Fmt.answers_some ?_ (by simp) (Fmt.isSubnormal_one fm hfm _)
      rw [← hround]
      rcases h1 with rfl | rfl <;> rfl
    · rw [if_neg h1]
      exact Fmt.answers_none _ _

/-- The function of CVTIF. -/
def ofIntStep (fm : Fmt) (md : Modes) (t : IntTy) (v : List Nat) : FRes := fm.flushOut md (fm.ofInt md.rm (t.ext (v.getD 0 0)))

/-- The source of CVTIF: a pair for the types of 64 bits. -/
def ofIntSrc (f : Fields) : Src :=
  plainSrc f 0 1 (if (codeTy f.c.toNat).1.width = 64 then 2 else 1) (if (codeTy f.c.toNat).2 = 0 then none else some (codeTy f.c.toNat).2)

theorem aluCvtif_eq (f : Fields) (s : State) (e : Env) : aluCvtif f s e
    = floatAlu f e.mask [ofIntSrc f] (tagOr f 2) (ofIntStep (Fmt.ofTag (tagOr f 2)) (e.modes f.mod.toNat) (codeTy f.c.toNat).1) := rfl

/-- A source that nothing replaces reads the same whatever its tag. -/
theorem source_plainSrc_unreplaced (s : State) (e : Env) (f : Fields) {pos i : Nat} (w : Nat) (tag : Option Nat) (h : pos ≠ i) (l : Nat) :
    e.source s (plainSrc f pos i w tag) l = e.source s (intSrc f pos i w) l := by
  simp [Env.source, Env.selected, plainSrc, intSrc, h]

/-- The integer that CVTIF reads in a lane. -/
theorem ext_ofIntSrc (hc : f.c.toNat ≤ 9) (l : Nat) : (codeTy f.c.toNat).1.ext (e.source s (ofIntSrc f) l)
    = valueOf (integerOf f.c.toNat).2 ((if (integerOf f.c.toNat).1 = 64 then dword s e f 0 1 l
      else (word s e f 0 1 l).setWidth 64).setWidth (integerOf f.c.toNat).1) := by
  have hle : (integerOf f.c.toNat).1 = 64 ∨ (integerOf f.c.toNat).1 ≤ 32 := by
    generalize f.c.toNat = c at *
    interval_cases c <;> decide
  rw [← IntTy.ext_toNat, ofIntSrc, codeTy_eq hc, source_plainSrc_unreplaced s e f _ _ (by decide)]
  refine IntTy.ext_congr _ ?_
  generalize (integerOf f.c.toNat).1 = w at *
  rw [BitVec.toNat_setWidth, Nat.mod_mod]
  rcases hle with rfl | hle
  · simp [dword]
  · have hne : w ≠ 64 := by omega
    rw [if_neg hne, if_neg hne, ← word_toNat, BitVec.toNat_setWidth_of_le (by decide)]

theorem cvtif_yields (h : issues (.cvtif f) s e) : yields (.cvtif f) s e f (fmtWords (tagOr f 2)) fun l =>
    let ty := integerOf f.c.toNat
    let n := valueOf ty.2 ((if ty.1 = 64 then dword s e f 0 1 l else (word s e f 0 1 l).setWidth 64).setWidth ty.1)
    if n = 0 then some (0, 0)
    else if n = 1 ∨ n = -1 then some ((Fmt.ofTag (tagOr f 2)).signBit (n < 0) + (Fmt.ofTag (tagOr f 2)).bias * 2 ^ (Fmt.ofTag (tagOr f 2)).fb, 0)
    else none := by
  have hc : f.c.toNat ≤ 9 := of_decide_eq_true (code_of_wellFormed rfl rfl (issues_elim rfl h).1 rfl rfl)
  refine floatAlu_yields rfl h (aluCvtif_eq f s e) fun l _ => FRes.meets_of_answers (Fmt.answers_flushOut _ ?_)
  dsimp only
  rw [← ext_ofIntSrc hc]
  exact Fmt.ofInt_answers (Fmt.ofTag_mem _) _ _

end

theorem packedAndConverted_holds : Claims.packedAndConverted := by
  intro s e f md rdn packed half y compared dest wide eighth
  refine ⟨pkadd_yields, pkmul_yields, pkfma_yields, pkcmp_yields, cvtf_yields, cvtfi_yields, cvtif_yields, fun h => ?_, funpack_yields,
    fdot4_yields⟩
  have htag : 3 ≤ tagOr f 3 ∧ tagOr f 3 ≤ 6 :=
    tagOr_mem_range (tagOk_of_wellFormed rfl rfl (issues_elim rfl h).1) (by decide) (by decide)
  exact ⟨fun h4 => fpack_halves_yield h ⟨htag.1, h4⟩, fun h5 => fpack_bytes_yield h ⟨h5, htag.2⟩⟩

end Sys2Proof.Machine
end

section
/-! SUPPORT. The special functions: a function of the word read and the subnormal modes (R152), with the exact values of R151. -/

namespace Sys2Proof.Machine

open Sys2Proof.Safety Sys2Proof.Claims

/-- What a special function does with the bits of its source (R150). -/
def specialStep (op : Nat) (md : Modes) (v : List Nat) : FRes := fp32.flushOut md (specialFn op (fp32.read md (v.getD 0 0)))

theorem specialStep_congr (op : Nat) {md md' : Modes} (hfi : md.fi = md'.fi) (hfo : md.fo = md'.fo) (v : List Nat) :
    specialStep op md v = specialStep op md' v := by
  simp only [specialStep, Fmt.flushOut, Fmt.read, hfi, hfo]

theorem specialAlu_eq (op : Nat) (f : Fields) (e : Env) : specialAlu op f e
    = { floatAlu f e.mask [floatSrc f 0 1 2] 2 (specialStep op (e.modes f.mod.toNat)) with long := true } := rfl

/-- The instructions of the opcodes 0x48 to 0x50 are the special functions. -/
theorem special_form {i : Instr} {op : Nat} {f : Fields} {mk : State → Env → Alu} (hi : registerForm i = some (op, f, mk))
    (hlo : 0x48 ≤ op) (hhi : op ≤ 0x50) (s : State) (e : Env) : mk s e = specialAlu op f e := by
  have hop : (registerForm i).elim 0 Prod.fst = op := by rw [hi]; rfl
  cases i with
  | frcp _ | frsq _ | fexp2 _ | flog2 _ | fsin _ | fcos _ | ftanh _ | fsigm _ | ferf _ =>
    cases hi
    rfl
  | _ =>
    simp only [registerForm, Option.elim] at hop
    omega

/-- A source that nothing replaces reads the same word as a floating value or an integer. -/
theorem source_floatSrc_word (s : State) (e : Env) (f : Fields) {pos i tag : Nat} (htag : tag ≠ 1) (h : pos ≠ i) (l : Nat) :
    e.source s (floatSrc f pos i tag) l = e.source s (intSrc f pos i 1) l := by
  simp [Env.source, Env.selected, floatSrc, intSrc, h, fmtWords, htag]

theorem specialFunctionsAreFunctions_holds : Claims.specialFunctionsAreFunctions := by
  intro i op f mk s t e d l k hi hlo hhi hs ht hl hk hel hdk hsrc hfi hfo
  have hland (s : State) (e : Env) (h : issues i s e) := floatAlu_yieldsLater
    (given := fun l => some ((specialStep op (e.modes f.mod.toNat) [e.source s (floatSrc f 0 1 2) l]).bits, 0)) hi h
    ((special_form hi hlo hhi s e).trans (specialAlu_eq op f e)) fun l _ => FRes.meets_some rfl (by simp)
  obtain ⟨s', p, hexec, hp, hword⟩ := hland s e hs
  obtain ⟨t', q, hexec', hq, hword'⟩ := hland t d ht
  refine ⟨s', t', p, q, hexec, hp, hexec', hq, ?_⟩
  rw [(hword l hl hel _ _ rfl).1 0 (by decide), (hword' k hk hdk _ _ rfl).1 0 (by decide), specialStep_congr op hfi hfo,
    source_floatSrc_word s e f (by decide) (by decide), source_floatSrc_word t d f (by decide) (by decide), hsrc]

/-! ### The exact values (R151) -/

section
variable (x : Word) (md : Modes)

theorem testBit_msb : x.toNat.testBit 31 = x.msb := by rw [BitVec.msb_eq_getLsbD_last]; rfl

/-- The value of an FP32 encoding by its fields (R33). -/
theorem fp32_decode_fields (n : Nat) : fp32.decode n =
    if n / 2 ^ 23 % 256 = 255 ∧ n % 2 ^ 23 ≠ 0 then .nan
    else if n / 2 ^ 23 % 256 = 255 then .inf (n.testBit 31)
    else if n / 2 ^ 23 % 256 = 0 then .fin (n.testBit 31) (n % 2 ^ 23) fp32.emin
    else .fin (n.testBit 31) (2 ^ 23 + n % 2 ^ 23) (fp32.emin + ((n / 2 ^ 23 % 256 : Nat) - 1)) := by
  have hand : ∀ p : Prop, (p ∧ fp32.one7F = false) = p := fun p => propext (and_iff_left rfl)
  rw [Fmt.decode_fields fp32_mem]
  simp only [hand]
  rfl

theorem fp32_decode_word : fp32.decode x.toNat =
    if x.toNat / 2 ^ 23 % 256 = 255 ∧ x.toNat % 2 ^ 23 ≠ 0 then .nan
    else if x.toNat / 2 ^ 23 % 256 = 255 then .inf x.msb
    else if x.toNat / 2 ^ 23 % 256 = 0 then .fin x.msb (x.toNat % 2 ^ 23) fp32.emin
    else .fin x.msb (2 ^ 23 + x.toNat % 2 ^ 23) (fp32.emin + ((x.toNat / 2 ^ 23 % 256 : Nat) - 1)) := by
  rw [← testBit_msb]
  exact fp32_decode_fields _

theorem fp32_isSubnormal_word : fp32.isSubnormal x.toNat = (decide (x.toNat / 2 ^ 23 % 256 = 0) && decide (x.toNat % 2 ^ 23 ≠ 0)) := rfl

theorem fp32_not_subnormal (h : x.toNat / 2 ^ 23 % 256 = 255) : fp32.isSubnormal x.toNat = false := by
  rw [fp32_isSubnormal_word, h]
  rfl

/-- A word that no flush changes reads as the value of its fields. -/
theorem fp32_read_unflushed (h : (md.fi && fp32.isSubnormal x.toNat) = false) : fp32.read md x.toNat = fp32.decode x.toNat := by
  have hlt : x.toNat % 2 ^ fp32.width = x.toNat := Nat.mod_eq_of_lt x.isLt
  rw [Fmt.read, hlt, Fmt.flush, h]
  rfl

/-- A subnormal word that is flushed reads as a zero of its sign (R45). -/
theorem fp32_read_flushed (h : (md.fi && fp32.isSubnormal x.toNat) = true) : fp32.read md x.toNat = .fin x.msb 0 fp32.emin := by
  have hlt : x.toNat % 2 ^ fp32.width = x.toNat := Nat.mod_eq_of_lt x.isLt
  rw [Fmt.read, hlt, Fmt.flush, if_pos h, ← testBit_msb, Nat.testBit_eq_decide_div_mod_eq]
  have hbit : x.toNat / 2 ^ (fp32.width - 1) % 2 = 0 ∨ x.toNat / 2 ^ (fp32.width - 1) % 2 = 1 := by omega
  show fp32.decode _ = .fin (decide (x.toNat / 2 ^ (fp32.width - 1) % 2 = 1)) 0 fp32.emin
  rcases hbit with h | h <;> rw [h] <;> decide

end

theorem specialFn_nan (op : Nat) : fp32.answers (specialFn op .nan) (some (0x7FC00000, 0)) := by
  refine Fmt.answers_nan fp32_mem ?_
  unfold specialFn
  split <;> rfl

/-- The reciprocal root and the logarithm of a negative number are invalid. -/
theorem specialFn_negative {op m : Nat} {e : Int} (hop : op = 0x49 ∨ op = 0x4B) (hm : m ≠ 0) :
    specialFn op (.fin true m e) = nanInv := by
  rcases hop with rfl | rfl
  · exact if_neg hm
  · exact if_neg hm

/-- A word that is no NaN, infinity or zero reads as a finite number of its sign. -/
theorem fp32_read_finite (x : Word) (md : Modes) (hex : x.toNat / 2 ^ 23 % 256 ≠ 255)
    (hzero : ¬ (x.toNat / 2 ^ 23 % 256 = 0 ∧ (x.toNat % 2 ^ 23 = 0 ∨ md.fi = true))) :
    ∃ m e, m ≠ 0 ∧ fp32.read md x.toNat = .fin x.msb m e := by
  have hflush : (md.fi && fp32.isSubnormal x.toNat) = false := by
    rw [fp32_isSubnormal_word]
    by_contra h
    simp only [Bool.not_eq_false, Bool.and_eq_true, decide_eq_true_eq] at h
    exact hzero ⟨h.2.1, .inr h.1⟩
  rw [fp32_read_unflushed x md hflush, fp32_decode_word, if_neg fun h => hex h.1, if_neg hex]
  by_cases h0 : x.toNat / 2 ^ 23 % 256 = 0
  · exact ⟨_, _, fun hfr => hzero ⟨h0, .inl hfr⟩, if_pos h0⟩
  · exact ⟨_, _, by omega, if_neg h0⟩

theorem specialValue_answers {op : Nat} (hlo : 0x48 ≤ op) (hhi : op ≤ 0x50) (md : Modes) (x : Word) :
    fp32.answers (specialFn op (fp32.read md x.toNat)) (specialValue op md.fi x) := by
  by_cases hnan : x.toNat / 2 ^ 23 % 256 = 255 ∧ x.toNat % 2 ^ 23 ≠ 0
  · have hvalue : specialValue op md.fi x = some (0x7FC00000, 0) := if_pos hnan
    rw [fp32_read_unflushed x md (by simp [fp32_not_subnormal x hnan.1]), fp32_decode_word, if_pos hnan, hvalue]
    exact specialFn_nan op
  by_cases hinf : x.toNat / 2 ^ 23 % 256 = 255
  · have hvalue : specialValue op md.fi x = some _ := (if_neg hnan).trans (if_pos hinf)
    rw [fp32_read_unflushed x md (by simp [fp32_not_subnormal x hinf]), fp32_decode_word, if_neg hnan, if_pos hinf, hvalue]
    generalize x.msb = neg
    interval_cases op <;> cases neg <;> exact Fmt.answers_some rfl (by decide) (by decide)
  by_cases hzero : x.toNat / 2 ^ 23 % 256 = 0 ∧ (x.toNat % 2 ^ 23 = 0 ∨ md.fi = true)
  · have hvalue : specialValue op md.fi x = some _ := (if_neg hnan).trans ((if_neg hinf).trans (if_pos hzero))
    have hread : fp32.read md x.toNat = .fin x.msb 0 fp32.emin := by
      obtain ⟨hex, hfr⟩ := hzero
      by_cases hflush : (md.fi && fp32.isSubnormal x.toNat) = true
      · exact fp32_read_flushed x md hflush
      · have hfr' : x.toNat % 2 ^ 23 = 0 := by
          rw [fp32_isSubnormal_word] at hflush
          simp only [hex] at hflush
          rcases hfr with h | h
          · exact h
          · simpa [h] using hflush
        rw [fp32_read_unflushed x md (by simpa using hflush), fp32_decode_word, if_neg hnan, if_neg hinf, if_pos hex, hfr']
    rw [hread, hvalue]
    generalize x.msb = neg
    interval_cases op <;> cases neg <;> exact Fmt.answers_some rfl (by decide) (by decide)
  by_cases hneg : x.msb = true ∧ (op = 0x49 ∨ op = 0x4B)
  · have hvalue : specialValue op md.fi x = some (0x7FC00000, flagInv) :=
      (if_neg hnan).trans ((if_neg hinf).trans ((if_neg hzero).trans (if_pos hneg)))
    obtain ⟨m, e, hm, hread⟩ := fp32_read_finite x md hinf hzero
    rw [hread, hvalue, hneg.1, specialFn_negative hneg.2 hm]
    exact Fmt.answers_invalid fp32_mem
  · have hvalue : specialValue op md.fi x = none :=
      (if_neg hnan).trans ((if_neg hinf).trans ((if_neg hzero).trans (if_neg hneg)))
    rw [hvalue]
    exact Fmt.answers_none _ _

theorem specialValues_holds : Claims.specialValues := by
  intro i op f mk s e hi hlo hhi h
  refine floatAlu_yieldsLater (dst := 2) hi h ((special_form hi hlo hhi s e).trans (specialAlu_eq op f e)) fun l _ => ?_
  rw [List.map_cons, source_floatSrc_word s e f (by decide) (by decide), ← word_toNat]
  exact FRes.meets_of_answers (Fmt.answers_flushOut _ (specialValue_answers hlo hhi _ _))

end Sys2Proof.Machine
end

section
/-! SUPPORT. Floating reductions and scans: what the tree of R57 keeps of its values, and the sums and scans of O13 (R153, R154). -/

namespace Sys2Proof.Machine

open Sys2Proof.Safety Sys2Proof.Claims

/-! ### An induction over the tree (R57) -/

/-- The present values of some numbers from one on. -/
def chunk {α : Type} (x : Nat → Option α) (from_ n : Nat) : List α := ((List.range n).map fun j => x (from_ + j)).reduceOption

theorem chunk_append {α : Type} (x : Nat → Option α) (from_ n k : Nat) : chunk x from_ n ++ chunk x (from_ + n) k = chunk x from_ (n + k) := by
  unfold chunk
  rw [← List.reduceOption_append, List.range_add, List.map_append, List.map_map]
  simp only [Function.comp_def, Nat.add_assoc]

section
variable {α : Type} {op : α → α → α × Word} {P : List α → Option α × Word → Prop}
variable (hcomb : ∀ xs ys p q, P xs p → P ys q → P (xs ++ ys) (combineOpt op p q))
include hcomb

theorem treeLevel_induction {x : Nat → Option α} {h : Nat → Option α × Word} (n : Nat) (hh : ∀ i, P (chunk x (i * n) n) (h i)) (i : Nat) :
    P (chunk x (i * (n + n)) (n + n)) (treeLevel (combineOpt op) h i) := by
  have hleft : i * (n + n) = 2 * i * n := by ring
  have hright : 2 * i * n + n = (2 * i + 1) * n := by ring
  rw [hleft, ← chunk_append, hright]
  exact hcomb _ _ _ _ (hh _) (hh _)

/-- What holds of no value and of one, and is kept when two parts combine, holds of the active lanes' values and their reduction. -/
theorem reduceTree_induction (hnil : P [] (none, 0)) (hone : ∀ a, P [a] (some a, 0)) (m : Mask) (v : Nat → α) :
    P ((lanesIn m).map v) (reduceTree op (presentLanes m v)) := by
  rw [presentLanes, reduceTree_lanes, lanesIn, ← List.reduceOption_present]
  generalize hx : (fun l => if inMask m l then some (v l) else none) = x
  have hleaf : ∀ i, P (chunk x (i * 1) 1) (x i, 0) := by
    intro i
    cases h : x i with
    | none => simpa [chunk, h, List.reduceOption_cons_of_none] using hnil
    | some a => simpa [chunk, h, List.reduceOption_cons_of_some] using hone a
  have hlevels := treeLevel_induction hcomb 16 (treeLevel_induction hcomb 8 (treeLevel_induction hcomb 4 (treeLevel_induction hcomb 2
    (treeLevel_induction hcomb 1 hleaf))))
  have hall := hcomb _ _ _ _ (hcomb _ _ _ _ (hlevels 0) (hlevels 1)) (hlevels 2)
  have hchunk : chunk x (0 * 32) 32 ++ chunk x (1 * 32) 32 ++ chunk x (2 * 32) 32 = ((List.range 96).map x).reduceOption := by
    rw [Nat.zero_mul, Nat.one_mul, show chunk x 32 32 = chunk x (0 + 32) 32 from rfl, chunk_append,
      show chunk x (2 * 32) 32 = chunk x (0 + (32 + 32)) 32 from rfl, chunk_append]
    simp [chunk]
  subst hx
  rw [← hchunk]
  exact hall

end

/-! ### NaNs and few values in the tree -/

/-- An encoding of a NaN. -/
def Fmt.nanBits (fm : Fmt) (b : Nat) : Bool := (fm.decode b).isNan

theorem Fmt.nanBits_nan : ∀ fm ∈ Fmt.all, fm.nanBits fm.nan = true := by decide +kernel
theorem Fmt.nanBits_signBit : ∀ fm ∈ Fmt.all, ∀ neg, fm.nanBits (fm.signBit neg) = false := by decide +kernel
theorem Fmt.nanBits_infinite : ∀ fm ∈ Fmt.all, ∀ neg, fm.nanBits (infinite fm neg).1 = false := by decide +kernel

/-- A reduction keeps a NaN, where its operation does (R153). -/
theorem reduceTree_nan {fm : Fmt} {op : Nat → Nat → Nat × Word}
    (hop : ∀ x y, (fm.nanBits x || fm.nanBits y) = true → fm.nanBits (op x y).1 = true) (m : Mask) (v : Nat → Nat)
    (h : (lanesIn m).any (fun l => fm.nanBits (v l)) = true) :
    fm.nanBits ((reduceTree op (presentLanes m v)).1.getD 0) = true := by
  have htree := reduceTree_induction (op := op) (P := fun xs p => xs.any fm.nanBits = true → p.1.any fm.nanBits = true)
    (fun xs ys p q hp hq hany => ?_) (by simp) (by simp) m v (by simpa [Function.comp_def] using h)
  · cases hr : (reduceTree op (presentLanes m v)).1 with
    | none => simp [hr] at htree
    | some b => simpa [hr] using htree
  · rw [List.any_append, Bool.or_eq_true] at hany
    have hparts : p.1.any fm.nanBits = true ∨ q.1.any fm.nanBits = true := hany.imp hp hq
    obtain ⟨_ | x, fp⟩ := p
    · obtain ⟨y, fq⟩ := q
      simpa [combineOpt] using hparts
    · obtain ⟨_ | y, fq⟩ := q
      · simpa [combineOpt] using hparts
      · exact hop x y (by simpa using hparts)

/-- Up to two values combined. -/
def combined (op : Nat → Nat → Nat × Word) : List Nat → Option Nat × Word
  | [x, y] => (some (op x y).1, (op x y).2)
  | [x] => (some x, 0)
  | _ => (none, 0)

theorem combineOpt_absent {α : Type} (op : α → α → α × Word) (p : Option α × Word) : combineOpt op p (none, 0) = p := by
  obtain ⟨_ | a, fl⟩ := p <;> simp [combineOpt]

/-- A reduction of up to two values combines them alone. -/
theorem reduceTree_few (op : Nat → Nat → Nat × Word) (m : Mask) (v : Nat → Nat) (h : (lanesIn m).length ≤ 2) :
    reduceTree op (presentLanes m v) = combined op ((lanesIn m).map v) := by
  refine reduceTree_induction (op := op) (P := fun xs p => xs.length ≤ 2 → p = combined op xs) (fun xs ys p q hp hq hlen => ?_)
    (fun _ => rfl) (fun _ _ => rfl) m v (by simpa using h)
  rw [List.length_append] at hlen
  rw [hp (by omega), hq (by omega)]
  cases xs with
  | nil => simp [combined, combineOpt]
  | cons x xs =>
    cases ys with
    | nil => rw [show combined op [] = (none, 0) from rfl, combineOpt_absent, List.append_nil]
    | cons y ys =>
      simp only [List.length_cons] at hlen
      obtain rfl := List.eq_nil_of_length_eq_zero (show xs.length = 0 by omega)
      obtain rfl := List.eq_nil_of_length_eq_zero (show ys.length = 0 by omega)
      simp [combined, combineOpt]

/-! ### Additions of encodings (R57, R153, R154) -/

theorem Fmt.addBits_nan {fm : Fmt} (hfm : fm ∈ Fmt.all) (md : Modes) {x y : Nat} (h : (fm.nanBits x || fm.nanBits y) = true) :
    (fm.addBits md x y).1 = fm.nan := by
  have hsum : (addVals fm md [fm.decode x, fm.decode y]).bits = fm.nan :=
    Fmt.sumProducts_nan md.rm false (by simpa [Fmt.nanBits] using h)
  show fm.flush md.fo (addVals fm md [fm.decode x, fm.decode y]).bits = fm.nan
  rw [hsum, Fmt.flush_of_not_subnormal _ _ (Fmt.isSubnormal_nan fm hfm)]

theorem Fmt.nanBits_addBits {fm : Fmt} (hfm : fm ∈ Fmt.all) (md : Modes) (x y : Nat) (h : (fm.nanBits x || fm.nanBits y) = true) :
    fm.nanBits (fm.addBits md x y).1 = true := by
  rw [Fmt.addBits_nan hfm md h]
  exact Fmt.nanBits_nan fm hfm

theorem Fmt.pass_of_nan {fm : Fmt} (md : Modes) {b : Nat} (h : fm.nanBits b = true) : fm.pass md b = fm.nan := if_pos h

theorem Fmt.pass_of_not_nan {fm : Fmt} (md : Modes) {b : Nat} (h : fm.nanBits b = false) : fm.pass md b = fm.flush md.fo b :=
  if_neg (by simpa [Fmt.nanBits] using h)

/-- The bits that a sum has in its corner cases. -/
theorem sumCorner_bits {fm : Fmt} {rdn : Bool} {x y : FVal} {b : Nat} {fl : Word} (h : sumCorner fm rdn x y = some (b, fl)) :
    b = fm.nan ∨ ∃ neg, b = (infinite fm neg).1 ∨ b = fm.signBit neg := by
  have hpick (p : Nat × Word) (hp : some p = some (b, fl)) : b = p.1 := by cases hp; rfl
  match x, y with
  | .nan, _ => exact .inl (hpick _ h)
  | .inf _, .nan => exact .inl (hpick _ h)
  | .fin _ _ _, .nan => exact .inl (hpick _ h)
  | .inf a, .inf c =>
    rw [sumCorner_inf] at h
    split at h
    · exact .inr ⟨a, .inl (hpick _ h)⟩
    · exact .inl (hpick _ h)
  | .inf a, .fin _ _ _ => exact .inr ⟨a, .inl (hpick _ h)⟩
  | .fin _ _ _, .inf c => exact .inr ⟨c, .inl (hpick _ h)⟩
  | .fin a m u, .fin c n v =>
    rw [sumCorner_fin] at h
    split at h
    · exact .inr ⟨_, .inr (hpick _ h)⟩
    · split at h
      · exact .inr ⟨rdn, .inr (hpick _ h)⟩
      · cases h

/-- Passing on leaves the bits of a sum's corner cases. -/
theorem Fmt.pass_sumCorner {fm : Fmt} (hfm : fm ∈ Fmt.all) (md : Modes) {rdn : Bool} {x y : FVal} {b : Nat} {fl : Word}
    (h : sumCorner fm rdn x y = some (b, fl)) (hs : fm.isSubnormal b = false) : fm.pass md b = b := by
  rcases sumCorner_bits h with rfl | ⟨neg, rfl | rfl⟩
  · exact Fmt.pass_of_nan md (Fmt.nanBits_nan fm hfm)
  · rw [Fmt.pass_of_not_nan md (Fmt.nanBits_infinite fm hfm neg), Fmt.flush_of_not_subnormal _ _ hs]
  · rw [Fmt.pass_of_not_nan md (Fmt.nanBits_signBit fm hfm neg), Fmt.flush_of_not_subnormal _ _ hs]

/-! ### Reductions (R153) -/

section
variable {i : Instr} {op : Nat} {f : Fields} {mk : State → Env → Alu} {s : State} {e : Env}

/-- The bits that a reduction reads in a lane, with its subnormal modes. -/
def reducedBits (s : State) (e : Env) (f : Fields) (md : Modes) (l : Nat) : Nat :=
  (Fmt.ofTag (tagOr f 2)).flush md.fi (e.source s (floatSrc f 0 1 (tagOr f 2)) l % 2 ^ (Fmt.ofTag (tagOr f 2)).width)

/-- A reduction gives every lane the word that the tree leaves. -/
theorem reduce_yields {md : Modes} {g : Fmt → Nat → Nat → Nat × Word} (hi : registerForm i = some (op, f, mk)) (h : issues i s e)
    (hmk : mk s e = reduceAlu f e md g) {given : Option (Nat × Word)} (hg : ∀ b fl, given = some (b, fl) →
      let r := reduceTree (g (Fmt.ofTag (tagOr f 2))) (presentLanes e.mask (reducedBits s e f md))
      (Fmt.ofTag (tagOr f 2)).pass md (r.1.getD 0) = b ∧ r.2 &&& fl = fl) :
    yields i s e f (fmtWords (tagOr f 2)) fun _ => given := by
  have hrun : (mk s e).run ((mk s e).reads s e) =
      let r := reduceTree (g (Fmt.ofTag (tagOr f 2))) (presentLanes e.mask (reducedBits s e f md))
      let w := (Fmt.ofTag (tagOr f 2)).pass md (r.1.getD 0)
      ((if tagOr f 2 = 1 then twoWords w else [w]).map fun x => lanesOf fun _ => BitVec.ofNat 32 x, r.2) := by
    rw [hmk]
    rfl
  refine yields_of_gives hi h (by rw [hmk]; rfl) (by rw [hmk]; rfl) ?_ fun l hl b fl hgiven => ?_
  · rw [Alu.result_words, hrun]
    unfold fmtWords
    split <;> rfl
  · obtain ⟨hb, hfl⟩ := hg b fl hgiven
    refine ⟨fun k hk => ?_, Alu.result_flags (by rw [hrun]; exact hfl)⟩
    rw [Alu.result_words, hrun]
    dsimp only
    rw [hb, ← fmtResult_word (tagOr f 2) ⟨b, 0⟩ hk]
    unfold fmtWords at hk
    unfold fmtResult
    split at hk
    · rw [if_pos (by assumption)]
      interval_cases k <;> simp [twoWords, lane_lanesOf _ _ (lt_of_inMask hl)]
    · rw [if_neg (by assumption)]
      obtain rfl : k = 0 := by omega
      simp [lane_lanesOf _ _ (lt_of_inMask hl)]

end

/-- The sum of lanes of which one holds a NaN (R153). -/
theorem freda_nan {fm : Fmt} (hfm : fm ∈ Fmt.all) (md : Modes) {m : Mask} {v : Nat → Nat}
    (h : (lanesIn m).any (fun l => fm.nanBits (v l)) = true) :
    fm.pass md ((reduceTree (fm.addBits md) (presentLanes m v)).1.getD 0) = fm.nan :=
  Fmt.pass_of_nan md (reduceTree_nan (Fmt.nanBits_addBits hfm md) _ _ h)

/-- The sum of one lane is its value (R153). -/
theorem freda_one {fm : Fmt} (md : Modes) {m : Mask} {v : Nat → Nat} {k : Nat} (hl : lanesIn m = [k]) (h : fm.nanBits (v k) = false) :
    fm.pass md ((reduceTree (fm.addBits md) (presentLanes m v)).1.getD 0) = fm.flush md.fo (v k) := by
  have hfew := reduceTree_few (fm.addBits md) m v
  rw [hl] at hfew
  rw [hfew (by simp)]
  exact Fmt.pass_of_not_nan md h

/-- The sum of two lanes in its corner cases (R44, R47, R153). -/
theorem freda_two {fm : Fmt} (hfm : fm ∈ Fmt.all) (md : Modes) {m : Mask} {v : Nat → Nat} {j k : Nat} (hl : lanesIn m = [j, k])
    {b : Nat} {fl : Word} (h : sumCorner fm (md.rm = .rdn) (fm.decode (v j)) (fm.decode (v k)) = some (b, fl)) :
    fm.pass md ((reduceTree (fm.addBits md) (presentLanes m v)).1.getD 0) = b
      ∧ (reduceTree (fm.addBits md) (presentLanes m v)).2 &&& fl = fl := by
  have hfew := reduceTree_few (fm.addBits md) m v
  rw [hl] at hfew
  rw [hfew (by simp)]
  obtain ⟨hb, hfl, hs⟩ := Fmt.answers_flushOut md (Fmt.addVals_answers hfm md _ _) b fl h
  refine ⟨?_, hfl⟩
  show fm.pass md (fm.flushOut md _).bits = b
  rw [hb]
  exact Fmt.pass_sumCorner hfm md h hs

/-! ### Scans (R154) -/

/-- A running sum keeps a NaN. -/
theorem foldLanes_nan {fm : Fmt} {op : Nat → Nat → Nat × Word}
    (hop : ∀ x y, (fm.nanBits x || fm.nanBits y) = true → fm.nanBits (op x y).1 = true) (v : Nat → Nat) (ls : List Nat)
    (h : ls.any (fun l => fm.nanBits (v l)) = true) : ∃ b, foldLanes op v ls = some b ∧ fm.nanBits b = true := by
  induction ls using List.reverseRecOn with
  | nil => simp at h
  | append_singleton ls l ih =>
    rw [List.any_append, Bool.or_eq_true] at h
    cases ls with
    | nil => exact ⟨v l, rfl, by simpa using h⟩
    | cons k rest =>
      refine ⟨(op (rest.foldl (fun a b => (op a (v b)).1) (v k)) (v l)).1, by simp [foldLanes, List.foldl_map], hop _ _ ?_⟩
      rw [Bool.or_eq_true]
      refine h.imp (fun hk => ?_) fun hl => by simpa using hl
      obtain ⟨b, hb, hnan⟩ := ih hk
      simp only [foldLanes, List.map_cons, List.head?_cons, Option.map_some, List.drop_succ_cons, List.drop_zero, List.foldl_map,
        Option.some.injEq] at hb
      rwa [hb]

/-- What FSCAN reads in a lane. -/
def scannedBits (s : State) (e : Env) (f : Fields) (l : Nat) : Nat :=
  fp32.flush (e.modes (f.mod.toNat / 8 * 8)).fi (e.source s (floatSrc f 0 1 2) l)

/-- The lanes whose sum FSCAN gives a lane: those up to it, or those before it. -/
def scannedLanes (e : Env) (f : Fields) (l : Nat) : List Nat :=
  (lanesIn e.mask).filter fun k => if f.mod.getLsbD 2 then k < l else k ≤ l

/-- The word that FSCAN gives for a sum, if there is one. -/
def scanWord (md : Modes) (x : Option Nat) : Nat := x.elim 0 (fp32.pass md)

theorem aluFscan_word {s : State} {e : Env} {f : Fields} {l : Nat} (hl : l < 96) :
    lane (((aluFscan f s e).result s e).1.getD 0 []) l = BitVec.ofNat 32 (scanWord (e.modes (f.mod.toNat / 8 * 8))
      (foldLanes (fp32.addBits (e.modes (f.mod.toNat / 8 * 8))) (scannedBits s e f) (scannedLanes e f l))) := by
  have hrun : ((aluFscan f s e).run ((aluFscan f s e).reads s e)).1
      = [(scanLanes (fp32.addBits (e.modes (f.mod.toNat / 8 * 8))) (presentLanes e.mask (scannedBits s e f))).1.map fun x =>
        BitVec.ofNat 32 (scanWord (e.modes (f.mod.toNat / 8 * 8)) (if f.mod.getLsbD 2 then x.1 else x.2))] := by
    show [List.map _ _] = [List.map _ _]
    congr 2
    funext x
    obtain ⟨before, after⟩ := x
    dsimp only
    generalize (if f.mod.getLsbD 2 = true then before else after) = x
    cases x <;> rfl
  rw [Alu.result_words, hrun]
  simp only [lane, List.getD_eq_getElem?_getD, List.getElem?_cons_zero, Option.getD_some, List.getElem?_map,
    scanLanes_present _ _ _ hl, Option.map_some, scannedLanes]
  split <;> simp_all

/-- Every active lane but the lowest lies above it. -/
theorem lowest_lt {m : Mask} (hm : m ≠ 0) {k : Nat} (hk : k ∈ (lanesIn m).drop 1) : lowest m < k := by
  have hsorted : (lanesIn m).Pairwise (· < ·) := List.pairwise_lt_range.filter _
  rw [lanesIn_eq_cons hm] at hsorted
  exact (List.pairwise_cons.mp hsorted).1 k hk

/-- The lowest lane sums no lane before it, and itself alone. -/
theorem scannedLanes_low {e : Env} (hm : e.mask ≠ 0) (f : Fields) : scannedLanes e f e.low = if f.mod.getLsbD 2 then [] else [e.low] := by
  unfold scannedLanes
  rw [lanesIn_eq_cons hm]
  have habove : ∀ k ∈ (lanesIn e.mask).drop 1, ¬ k ≤ e.low := fun k hk => Nat.not_le.mpr (lowest_lt hm hk)
  cases f.mod.getLsbD 2 with
  | true =>
    simp only [if_true, List.filter_eq_nil_iff, List.mem_cons, decide_eq_true_eq]
    rintro k (rfl | hk) hlt
    · exact lt_irrefl _ hlt
    · exact habove k hk hlt.le
  | false =>
    have hrest : ((lanesIn e.mask).drop 1).filter (fun k => decide (k ≤ e.low)) = [] := by
      simpa [List.filter_eq_nil_iff] using habove
    simp only [Bool.false_eq_true, if_false]
    rw [show lowest e.mask = e.low from rfl, List.filter_cons, hrest, if_pos (decide_eq_true (le_refl e.low))]

/-- A scan of FSCAN: the NaN of any lane that it sums, and the value of the first lane (R154). -/
theorem fscan_yields {s : State} {e : Env} {f : Fields} (h : issues (.fscan f) s e) : yields (.fscan f) s e f 1 fun l =>
    if (scannedLanes e f l).any (fun k => fp32.nanBits (scannedBits s e f k)) then some (fp32.nan, 0)
    else if l = e.low then
      some (if f.mod.getLsbD 2 then 0 else fp32.flush (e.modes (f.mod.toNat / 8 * 8)).fo (scannedBits s e f l), 0)
    else none := by
  refine yields_of_gives rfl h rfl rfl (by rw [Alu.result_words]; rfl) fun l hl b fl hgiven => ?_
  have hword : BitVec.ofNat 32 (scanWord (e.modes (f.mod.toNat / 8 * 8))
      (foldLanes (fp32.addBits (e.modes (f.mod.toNat / 8 * 8))) (scannedBits s e f) (scannedLanes e f l))) = BitVec.ofNat 32 b ∧ fl = 0 := by
    by_cases hnan : (scannedLanes e f l).any (fun k => fp32.nanBits (scannedBits s e f k)) = true
    · rw [if_pos hnan] at hgiven
      obtain ⟨c, hc, hcnan⟩ := foldLanes_nan (Fmt.nanBits_addBits fp32_mem (e.modes (f.mod.toNat / 8 * 8))) _ _ hnan
      cases hgiven
      rw [hc]
      exact ⟨congrArg _ (Fmt.pass_of_nan _ hcnan), rfl⟩
    · rw [if_neg hnan] at hgiven
      by_cases hlow : l = e.low
      · rw [if_pos hlow] at hgiven
        subst hlow
        rw [scannedLanes_low (issues_mask h)] at hnan ⊢
        cases hgiven
        cases hex : f.mod.getLsbD 2 with
        | true => exact ⟨rfl, rfl⟩
        | false =>
          rw [hex] at hnan
          exact ⟨congrArg _ (Fmt.pass_of_not_nan _ (by simpa using hnan)), rfl⟩
      · rw [if_neg hlow] at hgiven
        cases hgiven
  obtain ⟨hb, rfl⟩ := hword
  refine ⟨fun k hk => ?_, by simp⟩
  obtain rfl : k = 0 := by omega
  rw [Nat.mul_zero, Nat.pow_zero, Nat.div_one, ← hb]
  exact aluFscan_word (lt_of_inMask hl)

end Sys2Proof.Machine
end

section
/-! SUPPORT. The order of the encodings of a floating format, and the least and the greatest of the active lanes (R136, R153). -/

namespace Sys2Proof.Machine

open Sys2Proof.Safety Sys2Proof.Claims

/-! ### Magnitudes of encodings -/

/-- The magnitude of an encoding without its sign, in units of the least subnormal. -/
def Fmt.units (fm : Fmt) (n : Nat) : Nat :=
  if n / 2 ^ fm.fb = 0 then n % 2 ^ fm.fb else (2 ^ fm.fb + n % 2 ^ fm.fb) * 2 ^ (n / 2 ^ fm.fb - 1)

/-- A higher encoding has a higher magnitude. -/
theorem Fmt.units_strictMono (fm : Fmt) : StrictMono fm.units := by
  refine strictMono_nat_of_lt_succ fun n => ?_
  have hpos : 0 < 2 ^ fm.fb := Nat.two_pow_pos _
  unfold Fmt.units
  generalize 2 ^ fm.fb = F at *
  have hdiv := Nat.div_add_mod n F
  have hmod := Nat.mod_lt n hpos
  generalize hq : n / F = q at *
  generalize hr : n % F = r at *
  by_cases hcarry : r + 1 = F
  · have hnext : n + 1 = F * (q + 1) := by rw [mul_add]; omega
    have hdiv' : (n + 1) / F = q + 1 := by rw [hnext, Nat.mul_div_cancel_left _ hpos]
    have hmod' : (n + 1) % F = 0 := by rw [hnext, Nat.mul_mod_right]
    rw [hdiv', hmod', if_neg (Nat.succ_ne_zero q), Nat.add_sub_cancel, Nat.add_zero]
    cases q with
    | zero => simpa using hmod
    | succ q =>
      rw [if_neg (Nat.succ_ne_zero q), Nat.add_sub_cancel, pow_succ]
      have hpow := Nat.two_pow_pos q
      nlinarith
  · have hnext : n + 1 = r + 1 + F * q := by omega
    have hdiv' : (n + 1) / F = q := by rw [hnext, Nat.add_mul_div_left _ _ hpos, Nat.div_eq_of_lt (by omega), Nat.zero_add]
    have hmod' : (n + 1) % F = r + 1 := by rw [hnext, Nat.add_mul_mod_self_left, Nat.mod_eq_of_lt (by omega)]
    rw [hdiv', hmod']
    split
    · omega
    · exact Nat.mul_lt_mul_of_pos_right (by omega) (Nat.two_pow_pos _)

/-- A number of units with its sign. -/
def signedUnits (neg : Bool) (n : Nat) : Int := if neg then -(n : Int) else n

/-- Scaling keeps a comparison. -/
theorem compare_scaled (s t : Bool) (n k : Nat) {c : Nat} (hc : 0 < c) :
    compare (signedUnits s (n * c)) (signedUnits t (k * c)) = compare (signedUnits s n) (signedUnits t k) := by
  have hscale (s : Bool) (n : Nat) : signedUnits s (n * c) = signedUnits s n * c := by
    cases s <;> simp [signedUnits]
  have hc' : (0 : Int) < c := by exact_mod_cast hc
  rw [hscale, hscale]
  rcases lt_trichotomy (signedUnits s n) (signedUnits t k) with h | h | h
  · rw [compare_lt_iff_lt.mpr h, compare_lt_iff_lt.mpr (Int.mul_lt_mul_of_pos_right h hc')]
  · rw [h]
    simp
  · rw [compare_gt_iff_gt.mpr h, compare_gt_iff_gt.mpr (Int.mul_lt_mul_of_pos_right h hc')]

/-- A finite value of a sign and a number of units, each 2 to a power. -/
def FVal.isUnits (v : FVal) (neg : Bool) (n : Nat) (e : Int) : Prop := ∃ m g, v = .fin neg m g ∧ e ≤ g ∧ n = m * 2 ^ (g - e).toNat

/-- Finite values compare as their numbers of units. -/
theorem FVal.cmp_units {v w : FVal} {s t : Bool} {n k : Nat} {e : Int} (hv : v.isUnits s n e) (hw : w.isUnits t k e) :
    v.cmp w = compare (signedUnits s n) (signedUnits t k) := by
  obtain ⟨m, g, rfl, hg, rfl⟩ := hv
  obtain ⟨m', g', rfl, hg', rfl⟩ := hw
  have hcmp : (FVal.fin s m g).cmp (.fin t m' g')
      = compare (signedUnits s (m * 2 ^ (g - min g g').toNat)) (signedUnits t (m' * 2 ^ (g' - min g g').toNat)) := by
    simp [FVal.cmp, minExp, sumAt, signedUnits]
  have hsplit (m : Nat) (g₀ : Int) (h : min g g' ≤ g₀) :
      m * 2 ^ (g₀ - e).toNat = m * 2 ^ (g₀ - min g g').toNat * 2 ^ (min g g' - e).toNat := by
    rw [mul_assoc, ← pow_add]
    congr 2
    omega
  rw [hcmp, hsplit m g (min_le_left _ _), hsplit m' g' (min_le_right _ _), compare_scaled _ _ _ _ (Nat.two_pow_pos _)]

/-! ### The order of encodings -/

/-- The sign bit of an encoding, and the encoding without it. -/
def Fmt.negative (fm : Fmt) (b : Nat) : Bool := b.testBit (fm.width - 1)
def Fmt.mag (fm : Fmt) (b : Nat) : Nat := b % 2 ^ (fm.width - 1)

section
variable {fm : Fmt} (hfm : fm ∈ Fmt.all) {x y : Nat}
include hfm

theorem Fmt.mag_fields (b : Nat) : b / 2 ^ fm.fb % 2 ^ fm.eb = fm.mag b / 2 ^ fm.fb ∧ b % 2 ^ fm.fb = fm.mag b % 2 ^ fm.fb := by
  have hwidth : ∀ fm ∈ Fmt.all, fm.width - 1 = fm.fb + fm.eb := by decide
  rw [Fmt.mag, hwidth fm hfm, pow_add]
  exact ⟨(Nat.mod_mul_right_div_self _ _ _).symm, (Nat.mod_mul_right_mod _ _ _).symm⟩

theorem Fmt.infBits_pos : 0 < fm.infBits := by
  have h : ∀ fm ∈ Fmt.all, 0 < fm.infBits := by decide +kernel
  exact h fm hfm

/-- An encoding that is no NaN holds an infinity or a finite value of as many units as its magnitude gives. -/
theorem Fmt.decode_units (hnan : fm.nanBits x = false) :
    (fm.decode x = .inf (fm.negative x) ∧ fm.mag x = fm.infBits ∧ fm.one7F = false)
      ∨ ((fm.decode x).isUnits (fm.negative x) (fm.units (fm.mag x)) fm.emin ∧ (fm.one7F = false → fm.mag x < fm.infBits)) := by
  obtain ⟨hex, hfr⟩ := Fmt.mag_fields hfm x
  have hpos : 0 < 2 ^ fm.fb := Nat.two_pow_pos _
  have hex' : fm.mag x / 2 ^ fm.fb < 2 ^ fm.eb := hex ▸ Nat.mod_lt _ (Nat.two_pow_pos _)
  have hdiv := Nat.div_add_mod (fm.mag x) (2 ^ fm.fb)
  have hmod := Nat.mod_lt (fm.mag x) hpos
  have hdec := Fmt.decode_fields hfm x
  rw [hex, hfr] at hdec
  unfold Fmt.nanBits at hnan
  unfold Fmt.units Fmt.infBits
  rw [hdec] at hnan ⊢
  by_cases hn : fm.mag x / 2 ^ fm.fb = 2 ^ fm.eb - 1 ∧ (if fm.one7F then fm.mag x % 2 ^ fm.fb = 7 else fm.mag x % 2 ^ fm.fb ≠ 0)
  · rw [if_pos hn] at hnan
    cases hnan
  rw [if_neg hn]
  by_cases hinf : fm.mag x / 2 ^ fm.fb = 2 ^ fm.eb - 1 ∧ fm.one7F = false
  · obtain ⟨hones, hone⟩ := hinf
    left
    rw [if_pos ⟨hones, hone⟩]
    have hzero : fm.mag x % 2 ^ fm.fb = 0 := by simpa [hones, hone] using hn
    refine ⟨rfl, ?_, hone⟩
    rw [hones, hzero] at hdiv
    rw [mul_comm]
    exact hdiv.symm
  · right
    rw [if_neg hinf]
    refine ⟨?_, fun hone => ?_⟩
    · by_cases h0 : fm.mag x / 2 ^ fm.fb = 0
      · rw [if_pos h0, if_pos h0]
        exact ⟨_, _, rfl, le_refl _, by simp⟩
      · rw [if_neg h0, if_neg h0]
        refine ⟨_, _, rfl, by omega, ?_⟩
        congr 2
        omega
    · have hlt : fm.mag x / 2 ^ fm.fb < 2 ^ fm.eb - 1 := by
        have hne : fm.mag x / 2 ^ fm.fb ≠ 2 ^ fm.eb - 1 := fun h => hinf ⟨h, hone⟩
        omega
      exact (Nat.div_lt_iff_lt_mul hpos).mp hlt

/-- Encodings that are no NaNs compare as their signs and magnitudes in units do. -/
theorem Fmt.cmp_exact (hx : fm.nanBits x = false) (hy : fm.nanBits y = false) : (fm.decode x).cmp (fm.decode y)
    = compare (signedUnits (fm.negative x) (fm.units (fm.mag x))) (signedUnits (fm.negative y) (fm.units (fm.mag y))) := by
  have hmono := fm.units_strictMono
  have hinf : 0 < fm.units fm.infBits := by
    have := hmono (Fmt.infBits_pos hfm)
    omega
  have hbound (s : Bool) (n : Nat) : -(n : Int) ≤ signedUnits s n ∧ signedUnits s n ≤ n := by
    cases s <;> simp [signedUnits]
  rcases Fmt.decode_units hfm hx with ⟨hdx, hmx, hone⟩ | ⟨hux, hltx⟩ <;> rcases Fmt.decode_units hfm hy with ⟨hdy, hmy, hone'⟩ | ⟨huy, hlty⟩
  · rw [hdx, hdy, hmx, hmy]
    cases fm.negative x <;> cases fm.negative y
    · simp [FVal.cmp, signedUnits]
    · exact (compare_gt_iff_gt.mpr (show -(fm.units fm.infBits : Int) < fm.units fm.infBits by omega)).symm
    · exact (compare_lt_iff_lt.mpr (show -(fm.units fm.infBits : Int) < fm.units fm.infBits by omega)).symm
    · simp [FVal.cmp, signedUnits]
  · obtain ⟨m, g, hdy, -, -⟩ := huy
    have hlt := hmono (hlty hone)
    obtain ⟨hlo, hhi⟩ := hbound (fm.negative y) (fm.units (fm.mag y))
    rw [hdx, hdy, hmx]
    cases fm.negative x
    · exact (compare_gt_iff_gt.mpr (show signedUnits (fm.negative y) (fm.units (fm.mag y)) < fm.units fm.infBits by omega)).symm
    · exact (compare_lt_iff_lt.mpr (show -(fm.units fm.infBits : Int) < signedUnits (fm.negative y) (fm.units (fm.mag y)) by omega)).symm
  · obtain ⟨m, g, hdx, -, -⟩ := hux
    have hlt := hmono (hltx hone')
    obtain ⟨hlo, hhi⟩ := hbound (fm.negative x) (fm.units (fm.mag x))
    rw [hdx, hdy, hmy]
    cases fm.negative y
    · exact (compare_lt_iff_lt.mpr (show signedUnits (fm.negative x) (fm.units (fm.mag x)) < fm.units fm.infBits by omega)).symm
    · exact (compare_gt_iff_gt.mpr (show -(fm.units fm.infBits : Int) < signedUnits (fm.negative x) (fm.units (fm.mag x)) by omega)).symm
  · exact FVal.cmp_units hux huy

theorem Fmt.sign_decode (hx : fm.nanBits x = false) : (fm.decode x).sign = fm.negative x := by
  rcases Fmt.decode_units hfm hx with ⟨hdx, -, -⟩ | ⟨⟨m, g, hdx, -, -⟩, -⟩ <;> rw [hdx] <;> rfl

omit hfm in
/-- The place of an encoding in the order of its format's values, -0 just below +0. -/
def Fmt.rank (fm : Fmt) (b : Nat) : Int := if fm.negative b then -(fm.mag b : Int) - 1 else fm.mag b

/-- The order of minimum and maximum is that of the ranks (R136). -/
theorem Fmt.lt0_iff_rank (hx : fm.nanBits x = false) (hy : fm.nanBits y = false) :
    FVal.lt0 (fm.decode x) (fm.decode y) = true ↔ fm.rank x < fm.rank y := by
  rw [FVal.lt0_iff, Fmt.cmp_exact hfm hx hy, Fmt.sign_decode hfm hx, Fmt.sign_decode hfm hy, compare_lt_iff_lt, compare_eq_iff_eq]
  have hlt : fm.units (fm.mag x) < fm.units (fm.mag y) ↔ fm.mag x < fm.mag y := fm.units_strictMono.lt_iff_lt
  have hgt : fm.units (fm.mag y) < fm.units (fm.mag x) ↔ fm.mag y < fm.mag x := fm.units_strictMono.lt_iff_lt
  unfold Fmt.rank signedUnits
  cases fm.negative x <;> cases fm.negative y <;> simp <;> omega

end

/-! ### Flushing and the order -/

theorem Fmt.negative_eq (fm : Fmt) (b : Nat) : fm.negative b = decide (b / 2 ^ (fm.width - 1) % 2 = 1) := Nat.testBit_eq_decide_div_mod_eq

/-- An encoding is its rank's alone. -/
theorem Fmt.rank_inj {fm : Fmt} (hw : 0 < fm.width) {x y : Nat} (hx : x < 2 ^ fm.width) (hy : y < 2 ^ fm.width) (h : fm.rank x = fm.rank y) :
    x = y := by
  have hpow : 2 ^ fm.width = 2 ^ (fm.width - 1) * 2 := (Nat.two_pow_pred_mul_two hw).symm
  rw [hpow] at hx hy
  unfold Fmt.rank at h
  simp only [Fmt.negative_eq, Fmt.mag] at h
  have hpos : 0 < 2 ^ (fm.width - 1) := Nat.two_pow_pos _
  generalize 2 ^ (fm.width - 1) = H at *
  have hqx : x / H < 2 := (Nat.div_lt_iff_lt_mul hpos).mpr (by omega)
  have hqy : y / H < 2 := (Nat.div_lt_iff_lt_mul hpos).mpr (by omega)
  have hdx := Nat.div_add_mod x H
  have hdy := Nat.div_add_mod y H
  generalize x / H = p at *
  generalize y / H = q at *
  interval_cases p <;> interval_cases q <;> simp at h hdx hdy <;> omega

section
variable {fm : Fmt} (hfm : fm ∈ Fmt.all) (on : Bool)
include hfm

theorem Fmt.isSubnormal_mag (b : Nat) : fm.isSubnormal b = true ↔ 0 < fm.mag b ∧ fm.mag b < 2 ^ fm.fb := by
  obtain ⟨hex, hfr⟩ := Fmt.mag_fields hfm b
  have hpos : 0 < 2 ^ fm.fb := Nat.two_pow_pos _
  unfold Fmt.isSubnormal
  rw [hex, hfr]
  simp only [ne_eq, decide_not, Bool.and_eq_true, decide_eq_true_eq, Bool.not_eq_eq_eq_not, Bool.not_true, decide_eq_false_iff_not,
    Nat.div_eq_zero_iff_lt hpos]
  constructor
  · rintro ⟨hlt, hne⟩
    rw [Nat.mod_eq_of_lt hlt] at hne
    omega
  · rintro ⟨hne, hlt⟩
    rw [Nat.mod_eq_of_lt hlt]
    omega

/-- The rank of a flushed encoding. -/
theorem Fmt.rank_flush (b : Nat) : fm.rank (fm.flush on b)
    = if on = true ∧ 0 < fm.mag b ∧ fm.mag b < 2 ^ fm.fb then (if fm.negative b then -1 else 0) else fm.rank b := by
  have hcond : (on && fm.isSubnormal b) = true ↔ on = true ∧ 0 < fm.mag b ∧ fm.mag b < 2 ^ fm.fb := by
    rw [Bool.and_eq_true, Fmt.isSubnormal_mag hfm]
  unfold Fmt.flush
  by_cases h : on = true ∧ 0 < fm.mag b ∧ fm.mag b < 2 ^ fm.fb
  · have hpos : 0 < 2 ^ (fm.width - 1) := Nat.two_pow_pos _
    rw [if_pos (hcond.mpr h), if_pos h]
    simp [Fmt.rank, Fmt.negative_eq, Fmt.mag, Nat.mul_div_cancel _ hpos]
  · rw [if_neg (hcond.not.mpr h), if_neg h]

/-- Flushing keeps the order. -/
theorem Fmt.rank_flush_mono {x y : Nat} (h : fm.rank x ≤ fm.rank y) : fm.rank (fm.flush on x) ≤ fm.rank (fm.flush on y) := by
  rw [Fmt.rank_flush hfm, Fmt.rank_flush hfm]
  cases on
  · simpa using h
  · unfold Fmt.rank at *
    revert h
    cases fm.negative x <;> cases fm.negative y <;> simp only [Bool.false_eq_true, if_false, if_true, true_and] <;> intro h <;>
      split_ifs <;> omega

omit hfm in
/-- What flushing changes becomes a zero. -/
theorem Fmt.flush_cases (fm : Fmt) (on : Bool) (b : Nat) : fm.flush on b = b ∨ ∃ neg, fm.flush on b = fm.signBit neg := by
  unfold Fmt.flush
  split
  · have hbit : b / 2 ^ (fm.width - 1) % 2 = 0 ∨ b / 2 ^ (fm.width - 1) % 2 = 1 := by omega
    rcases hbit with hbit | hbit
    · exact .inr ⟨false, by rw [hbit, Nat.zero_mul]; rfl⟩
    · exact .inr ⟨true, by rw [hbit, Nat.one_mul]; rfl⟩
  · exact .inl rfl

theorem Fmt.flush_flush (b : Nat) : fm.flush on (fm.flush on b) = fm.flush on b := by
  rcases fm.flush_cases on b with h | ⟨neg, h⟩
  · rw [h, h]
  · rw [h, Fmt.flush_of_not_subnormal _ _ (Fmt.isSubnormal_signBit fm hfm neg)]

theorem Fmt.nanBits_flush {b : Nat} (h : fm.nanBits b = false) : fm.nanBits (fm.flush on b) = false := by
  rcases fm.flush_cases on b with hb | ⟨neg, hb⟩
  · rw [hb, h]
  · rw [hb, Fmt.nanBits_signBit fm hfm neg]

end

end Sys2Proof.Machine
end

section
/-! SUPPORT. The least and the greatest of the active lanes, and the floating reductions together (R153, R154). -/

namespace Sys2Proof.Machine

open Sys2Proof.Safety Sys2Proof.Claims

/-! ### The first of some encodings by flushed rank -/

/-- The order in which FREDM seeks its first value, after flushing: rising, or falling for the greatest. -/
def Fmt.key (fm : Fmt) (fo most : Bool) (b : Nat) : Int := if most then -fm.rank (fm.flush fo b) else fm.rank (fm.flush fo b)

/-- An encoding, no NaN, that flushes to one of a list and comes before none of it in that order. -/
structure Fmt.Leads (fm : Fmt) (fo most : Bool) (xs : List Nat) (b : Nat) : Prop where
  lt : b < 2 ^ fm.width
  notNan : fm.nanBits b = false
  among : ∃ x ∈ xs, fm.flush fo b = fm.flush fo x
  first : ∀ x ∈ xs, fm.key fo most b ≤ fm.key fo most x

/-- The operation of FREDM (R136, R153). -/
def Fmt.pick (fm : Fmt) (md : Modes) (most : Bool) (x y : Nat) : Nat × Word := ((fm.minMax { md with fi := false } most x y).bits, 0)

theorem Fmt.pick_eq (fm : Fmt) (md : Modes) (most : Bool) {x y : Nat} (hx : x < 2 ^ fm.width) (hy : y < 2 ^ fm.width) :
    (fm.pick md most x y).1 = if fm.nanBits x || fm.nanBits y then fm.nan
      else fm.flush md.fo (if FVal.lt0 (fm.decode x) (fm.decode y) != most then x else y) := by
  have hflush (b : Nat) (h : b < 2 ^ fm.width) : fm.flush false (b % 2 ^ fm.width) = b := Nat.mod_eq_of_lt h
  simp only [Fmt.pick, Fmt.minMax, hflush x hx, hflush y hy, Fmt.nanBits]
  exact apply_ite FRes.bits _ _ _

section
variable {fm : Fmt} (hfm : fm ∈ Fmt.all) (md : Modes) (most : Bool)
include hfm

/-- Whether an encoding is a NaN is told by its magnitude. -/
theorem Fmt.nanBits_mag (b : Nat) : fm.nanBits b = true ↔ fm.mag b / 2 ^ fm.fb = 2 ^ fm.eb - 1
    ∧ (if fm.one7F then fm.mag b % 2 ^ fm.fb = 7 else fm.mag b % 2 ^ fm.fb ≠ 0) := by
  obtain ⟨hex, hfr⟩ := Fmt.mag_fields hfm b
  unfold Fmt.nanBits
  rw [Fmt.decode_fields hfm, hex, hfr]
  by_cases h : fm.mag b / 2 ^ fm.fb = 2 ^ fm.eb - 1 ∧ (if fm.one7F then fm.mag b % 2 ^ fm.fb = 7 else fm.mag b % 2 ^ fm.fb ≠ 0)
  · rw [if_pos h]
    exact iff_of_true rfl h
  · rw [if_neg h]
    refine iff_of_false ?_ h
    split_ifs <;> simp

theorem Fmt.nanBits_mod (b : Nat) : fm.nanBits (b % 2 ^ fm.width) = fm.nanBits b := by
  have hmag : fm.mag (b % 2 ^ fm.width) = fm.mag b := Nat.mod_mod_of_dvd _ (pow_dvd_pow 2 (Nat.sub_le _ _))
  rw [Bool.eq_iff_iff, Fmt.nanBits_mag hfm, Fmt.nanBits_mag hfm, hmag]

theorem Fmt.nanBits_pick (x y : Nat) (h : (fm.nanBits x || fm.nanBits y) = true) : fm.nanBits (fm.pick md most x y).1 = true := by
  rw [← Fmt.nanBits_mod hfm x, ← Fmt.nanBits_mod hfm y] at h
  have hnan : (fm.pick md most x y).1 = fm.nan := congrArg FRes.bits (if_pos h)
  rw [hnan]
  exact Fmt.nanBits_nan fm hfm

theorem Fmt.key_flush (b : Nat) : fm.key md.fo most (fm.flush md.fo b) = fm.key md.fo most b := by
  rw [Fmt.key, Fmt.flush_flush hfm]
  rfl

/-- The order of the ranks is kept by the flushed order. -/
theorem Fmt.key_le {x y : Nat} (h : if most then fm.rank y ≤ fm.rank x else fm.rank x ≤ fm.rank y) :
    fm.key md.fo most x ≤ fm.key md.fo most y := by
  unfold Fmt.key
  cases most with
  | true => exact Int.neg_le_neg (Fmt.rank_flush_mono hfm md.fo h)
  | false => exact Fmt.rank_flush_mono hfm md.fo h

theorem Fmt.leads_flush {xs : List Nat} {b : Nat} (h : fm.Leads md.fo most xs b) : fm.Leads md.fo most xs (fm.flush md.fo b) where
  lt := fm.flush_lt md.fo (Fmt.width_pos hfm) h.lt
  notNan := Fmt.nanBits_flush hfm md.fo h.notNan
  among := by rw [Fmt.flush_flush hfm]; exact h.among
  first := by rw [Fmt.key_flush hfm]; exact h.first

omit hfm in
theorem Fmt.leads_append {xs ys : List Nat} {b c : Nat} (hb : fm.Leads md.fo most xs b) (hc : fm.Leads md.fo most ys c)
    (h : fm.key md.fo most b ≤ fm.key md.fo most c) : fm.Leads md.fo most (xs ++ ys) b ∧ fm.Leads md.fo most (ys ++ xs) b := by
  obtain ⟨x, hx, hbx⟩ := hb.among
  have hfirst : ∀ z, z ∈ xs ∨ z ∈ ys → fm.key md.fo most b ≤ fm.key md.fo most z := fun z hz =>
    hz.elim (hb.first z) fun hz => h.trans (hc.first z hz)
  exact ⟨⟨hb.lt, hb.notNan, ⟨x, List.mem_append_left _ hx, hbx⟩, fun z hz => hfirst z (List.mem_append.mp hz)⟩,
    ⟨hb.lt, hb.notNan, ⟨x, List.mem_append_right _ hx, hbx⟩, fun z hz => hfirst z (List.mem_append.mp hz).symm⟩⟩

/-- The operation picks the first of two parts. -/
theorem Fmt.leads_pick {xs ys : List Nat} {b c : Nat} (hb : fm.Leads md.fo most xs b) (hc : fm.Leads md.fo most ys c) :
    fm.Leads md.fo most (xs ++ ys) (fm.pick md most b c).1 := by
  rw [Fmt.pick_eq fm md most hb.lt hc.lt, hb.notNan, hc.notNan]
  refine Fmt.leads_flush hfm md most ?_
  have hlt := Fmt.lt0_iff_rank hfm hb.notNan hc.notNan
  by_cases h : (FVal.lt0 (fm.decode b) (fm.decode c) != most) = true
  · rw [if_pos h]
    refine (Fmt.leads_append md most hb hc (Fmt.key_le hfm md most ?_)).1
    have hpick : FVal.lt0 (fm.decode b) (fm.decode c) = !most := Bool.eq_not_of_ne (by simpa using h)
    rw [hpick] at hlt
    cases most <;> simp at hlt ⊢ <;> omega
  · rw [if_neg h]
    refine (Fmt.leads_append md most hc hb (Fmt.key_le hfm md most ?_)).2
    have hpick : FVal.lt0 (fm.decode b) (fm.decode c) = most := by simpa using h
    rw [hpick] at hlt
    cases most <;> simp at hlt ⊢ <;> omega

/-- A reduction by FREDM's operation leaves the first of the lanes' values. -/
theorem reduceTree_leads {m : Mask} (hm : m ≠ 0) {v : Nat → Nat} (hv : ∀ l, v l < 2 ^ fm.width)
    (hnan : ∀ l ∈ lanesIn m, fm.nanBits (v l) = false) :
    fm.Leads md.fo most ((lanesIn m).map v) ((reduceTree (fm.pick md most) (presentLanes m v)).1.getD 0) := by
  have htree := reduceTree_induction (op := fm.pick md most)
    (P := fun xs p => (∀ x ∈ xs, x < 2 ^ fm.width ∧ fm.nanBits x = false) →
      (∀ b, p.1 = some b → fm.Leads md.fo most xs b) ∧ (p.1 = none → xs = []))
    (fun xs ys p q hp hq hall => ?_) (fun _ => ⟨nofun, fun _ => rfl⟩)
    (fun a ha => ⟨fun b hb => ?_, nofun⟩) m v ?_
  · cases hr : (reduceTree (fm.pick md most) (presentLanes m v)).1 with
    | none => exact absurd (List.map_eq_nil_iff.mp (htree.2 hr)) (lanesIn_ne_nil hm)
    | some b => exact htree.1 b hr
  · obtain ⟨hsome, hnone⟩ := hp fun x hx => hall x (List.mem_append_left _ hx)
    obtain ⟨hsome', hnone'⟩ := hq fun x hx => hall x (List.mem_append_right _ hx)
    obtain ⟨_ | b, fp⟩ := p
    · obtain rfl := hnone rfl
      exact ⟨fun c hc => hsome' c (by simpa [combineOpt] using hc), fun hc => hnone' (by simpa [combineOpt] using hc)⟩
    · obtain ⟨_ | c, fq⟩ := q
      · obtain rfl := hnone' rfl
        rw [List.append_nil]
        exact ⟨fun d hd => hsome d (by simpa [combineOpt] using hd), fun hd => by simp [combineOpt] at hd⟩
      · refine ⟨fun d hd => ?_, fun hd => by simp [combineOpt] at hd⟩
        obtain rfl : (fm.pick md most b c).1 = d := by simpa [combineOpt] using hd
        exact Fmt.leads_pick hfm md most (hsome b rfl) (hsome' c rfl)
  · obtain ⟨hlt, hn⟩ := ha a (List.mem_singleton_self a)
    obtain rfl : a = b := by simpa using hb
    exact ⟨hlt, hn, ⟨a, List.mem_singleton_self a, rfl⟩, fun x hx => by rw [List.mem_singleton.mp hx]⟩
  · intro x hx
    obtain ⟨l, hl, rfl⟩ := List.mem_map.mp hx
    exact ⟨hv l, hnan l hl⟩

/-- It passes on the flushed bits of any lane that no other comes before. -/
theorem fredm_first {m : Mask} (hm : m ≠ 0) {v : Nat → Nat} (hv : ∀ l, v l < 2 ^ fm.width)
    (hnan : ∀ l ∈ lanesIn m, fm.nanBits (v l) = false) {k : Nat} (hk : k ∈ lanesIn m)
    (hfirst : ∀ l ∈ lanesIn m, if most then fm.rank (v l) ≤ fm.rank (v k) else fm.rank (v k) ≤ fm.rank (v l)) :
    fm.pass md ((reduceTree (fm.pick md most) (presentLanes m v)).1.getD 0) = fm.flush md.fo (v k) := by
  have hleads := reduceTree_leads hfm md most hm hv hnan
  generalize (reduceTree (fm.pick md most) (presentLanes m v)).1.getD 0 = b at *
  rw [Fmt.pass_of_not_nan md hleads.notNan]
  obtain ⟨x, hx, hbx⟩ := hleads.among
  obtain ⟨l, hl, rfl⟩ := List.mem_map.mp hx
  have hle := hleads.first _ (List.mem_map_of_mem hk)
  have hge := Fmt.key_le hfm md most (hfirst l hl)
  unfold Fmt.key at hle hge
  rw [← hbx] at hge
  refine Fmt.rank_inj (Fmt.width_pos hfm) (fm.flush_lt _ (Fmt.width_pos hfm) hleads.lt) (fm.flush_lt _ (Fmt.width_pos hfm) (hv k)) ?_
  cases most <;> simp at hle hge <;> omega

end

/-! ### The floating reductions and the scan together -/

theorem reducedBits_lt (s : State) (e : Env) (f : Fields) (md : Modes) (l : Nat) :
    reducedBits s e f md l < 2 ^ (Fmt.ofTag (tagOr f 2)).width :=
  Fmt.flush_lt _ _ (Fmt.width_pos (Fmt.ofTag_mem _)) (Nat.mod_lt _ (Nat.two_pow_pos _))

theorem reductions_holds : Claims.reductions := by
  intro s e f fm bits x sum most below scan added
  have hfm : fm ∈ Fmt.all := Fmt.ofTag_mem _
  refine ⟨fun h => ?_, fun h => ?_, fscan_yields⟩
  · refine reduce_yields (g := fun fm x y => fm.addBits sum x y) rfl h rfl fun b fl hgiven => ?_
    by_cases hnan : (lanesIn e.mask).any (fun l => fm.nanBits (bits sum l)) = true
    · cases (if_pos hnan).symm.trans hgiven
      exact ⟨freda_nan hfm sum hnan, by simp⟩
    · replace hgiven := (if_neg hnan).symm.trans hgiven
      split at hgiven
      case h_1 k hl =>
        have hk : fm.nanBits (bits sum k) = false := by simpa [hl] using hnan
        cases hgiven
        exact ⟨freda_one sum hl hk, by simp⟩
      case h_2 j k hl => exact freda_two hfm sum hl hgiven
      case h_3 => cases hgiven
  · refine reduce_yields (g := fun fm => fm.pick most (f.mod = 1)) rfl h rfl fun b fl hgiven => ?_
    by_cases hnan : (lanesIn e.mask).any (fun l => fm.nanBits (bits most l)) = true
    · cases (if_pos hnan).symm.trans hgiven
      exact ⟨Fmt.pass_of_nan most (reduceTree_nan (Fmt.nanBits_pick hfm most _) _ _ hnan), by simp⟩
    · replace hgiven := (if_neg hnan).symm.trans hgiven
      obtain ⟨k, hk, hkgiven⟩ := Option.map_eq_some_iff.mp hgiven
      cases hkgiven
      have hnone : ∀ l ∈ lanesIn e.mask, fm.nanBits (bits most l) = false := by simpa using hnan
      have hmem := List.mem_of_find?_eq_some hk
      have hbelow (j l : Nat) (hj : j ∈ lanesIn e.mask) (hl : l ∈ lanesIn e.mask) : (!below (x most j) (x most l)) = true
          ↔ fm.rank (bits most l) ≤ fm.rank (bits most j) := by
        rw [← not_lt, ← Fmt.lt0_iff_rank hfm (hnone j hj) (hnone l hl), FVal.lt0_iff]
        exact (Bool.not_eq_true' _).to_iff.trans decide_eq_false_iff_not
      refine ⟨fredm_first hfm most (f.mod = 1) (issues_mask h) (reducedBits_lt s e f most) hnone hmem fun l hl => ?_, by simp⟩
      have hkept := List.find?_some hk
      have hall := List.all_eq_true.mp hkept l hl
      by_cases hmod : f.mod = 1
      · rw [if_pos hmod] at hall
        rw [if_pos (decide_eq_true hmod)]
        exact (hbelow k l hmem hl).mp hall
      · rw [if_neg hmod] at hall
        rw [if_neg (by simpa using hmod)]
        exact (hbelow l k hl hmem).mp hall

end Sys2Proof.Machine
end

section
/-! SUPPORT. The block forms on zeros, infinities and NaNs, and all the floating claims together: what settles O13 (R37 to R41, R148, R149). -/

namespace Sys2Proof.Machine

open Sys2Proof.Safety Sys2Proof.Claims

/-! ### Zeros, infinities and NaNs of FP32 -/

/-- A NaN or an infinity. -/
def FVal.special : FVal → Bool
  | .fin _ _ _ => false
  | _ => true

theorem fp32_special (x : Nat) : (fp32.decode x).special = decide (x / 2 ^ 23 % 256 = 255) := by
  rw [fp32_decode_fields]
  split_ifs <;> simp_all [FVal.special]

theorem fp32_isInf (x : Nat) : (fp32.decode x).isInf = decide (x % 2 ^ 31 = 0x7F800000) := by
  have hfields : x % 2 ^ 31 = 0x7F800000 ↔ x / 2 ^ 23 % 256 = 255 ∧ x % 2 ^ 23 = 0 := by omega
  rw [fp32_decode_fields]
  simp only [hfields]
  split_ifs <;> simp_all

theorem fp32Units_zero {x : Nat} (h : x % 2 ^ 31 = 0) : fp32Units x = 0 := by
  have hfields : x / 2 ^ 23 % 256 = 0 ∧ x % 2 ^ 23 = 0 := by omega
  unfold fp32Units
  rw [fp32_decode_fields, hfields.1, hfields.2]
  simp

/-! ### Blocks of zeros, infinities and NaNs (R40) -/

/-- The magnitudes of the finite words of a block, in units of 2 to the -200. -/
def blockMags (xs : List Nat) : List Nat := (xs.filter fun x => !(fp32.decode x).special).map fun x => fp32Units x * 2 ^ 51

/-- The distance of two numbers, as R40 takes it. -/
def distance (a b : Nat) : Nat := if a ≥ b then a - b else b - a

/-- A magnitude is held by an exponent (R40). -/
def heldBy (k ex a : Nat) : Bool := 2 * distance a (txQuant k a ex * txStep k ex) ≤ txStep k (txOwn k a)

/-- The higher exponent of a block (R40). -/
def highExp (k : Nat) (xs : List Nat) : Nat := txOwn k ((blockMags xs).foldl max 0)

theorem txQuantise_pair (t : Nat) (free : Nat → Nat) (xs : List Nat) : (txQuantise t free xs).pair =
    (if xs.any (fun x => (fp32.decode x).special) then 255
      else if ((blockMags xs).filter fun a => !heldBy (txK t) (highExp (txK t) xs) a).isEmpty then highExp (txK t) xs
      else txOwn (txK t) (((blockMags xs).filter fun a => !heldBy (txK t) (highExp (txK t) xs) a).foldl max 0))
      + 256 * highExp (txK t) xs := rfl

/-- The element of a finite word under a choice of its exponent (R40). -/
def finiteElem (k x : Nat) (sel : Bool) (ex : Nat) : Nat :=
  (if sel then 2 ^ (k + 1) else 0) + (if x.testBit 31 then 2 ^ k else 0) + txQuant k (fp32Units x * 2 ^ 51) ex

theorem txQuantise_elems (t : Nat) (free : Nat → Nat) (xs : List Nat) : ∃ low : Nat, (txQuantise t free xs).elems =
    xs.zipIdx.map fun z => if (fp32.decode z.1).special then free z.2 % 2 ^ txK t
      else finiteElem (txK t) z.1 (xs.any (fun x => (fp32.decode x).special) || heldBy (txK t) (highExp (txK t) xs) (fp32Units z.1 * 2 ^ 51))
        (if xs.any (fun x => (fp32.decode x).special) || heldBy (txK t) (highExp (txK t) xs) (fp32Units z.1 * 2 ^ 51)
          then highExp (txK t) xs else low) := ⟨_, rfl⟩

theorem txQuantise_flags (t : Nat) (free : Nat → Nat) (xs : List Nat) :
    (txQuantise t free xs).flags &&& (if xs.any (fun x => (fp32.decode x).isInf) then flagInv else 0)
      = if xs.any (fun x => (fp32.decode x).isInf) then flagInv else 0 := or_and_right (by simp)

theorem foldl_max_zero {xs : List Nat} (h : ∀ x ∈ xs, x = 0) : xs.foldl max 0 = 0 := by
  induction xs with
  | nil => rfl
  | cons x xs ih =>
    obtain rfl := h x List.mem_cons_self
    exact ih fun y hy => h y (List.mem_cons_of_mem _ hy)

theorem txStep_pos (k ex : Nat) : 0 < txStep k ex := Nat.two_pow_pos _

theorem txOwn_zero (k : Nat) : txOwn k 0 = 0 := by
  have hpos : 0 < (2 ^ (k + 1) - 1) * txStep k 0 := by
    have hpow : 2 ≤ 2 ^ (k + 1) := by rw [pow_succ]; have := Nat.two_pow_pos k; omega
    exact Nat.mul_pos (by omega) (txStep_pos k 0)
  have hfirst : (decide (2 * 0 < (2 ^ (k + 1) - 1) * txStep k 0)) = true := decide_eq_true hpos
  rw [txOwn, List.range_succ_eq_map]
  simp only [List.find?_cons, hfirst]
  rfl

theorem txQuant_zero (k ex : Nat) : txQuant k 0 ex = 0 := by
  have hpos := txStep_pos k ex
  unfold txQuant
  simp only [Nat.zero_div, Nat.zero_mod, Nat.mul_zero]
  rw [if_neg (by omega), if_neg (by omega), Nat.zero_min]

theorem heldBy_zero (k ex : Nat) : heldBy k ex 0 = true := by
  simp [heldBy, distance, txQuant_zero]

section
variable {t : Nat} {free : Nat → Nat} {xs : List Nat}
variable (hxs : ∀ x ∈ xs, x % 2 ^ 31 = 0 ∨ (fp32.decode x).special = true)
include hxs

theorem blockMags_zero : ∀ a ∈ blockMags xs, a = 0 := by
  intro a ha
  obtain ⟨x, hx, rfl⟩ := List.mem_map.mp ha
  obtain ⟨hmem, hfin⟩ := List.mem_filter.mp hx
  rcases hxs x hmem with h | h
  · rw [fp32Units_zero h, Nat.zero_mul]
  · simp [h] at hfin

theorem highExp_zero (k : Nat) : highExp k xs = 0 := by rw [highExp, foldl_max_zero (blockMags_zero hxs), txOwn_zero]

/-- Such a block has the exponents 0, and 255 for its NaN elements. -/
theorem txQuantise_pair_zero : (txQuantise t free xs).pair = if xs.any (fun x => (fp32.decode x).special) then 255 else 0 := by
  have hloose : ((blockMags xs).filter fun a => !heldBy (txK t) (highExp (txK t) xs) a) = [] := by
    rw [List.filter_eq_nil_iff]
    intro a ha
    rw [blockMags_zero hxs a ha, heldBy_zero]
    decide
  rw [txQuantise_pair, hloose, highExp_zero hxs]
  rfl

/-- A zero of such a block keeps its sign. -/
theorem txQuantise_elem_zero {i : Nat} (hi : i < xs.length) (hfin : (fp32.decode xs[i]).special = false) :
    (txQuantise t free xs).elems.getD i 0 = 2 ^ (txK t + 1) + if xs[i].testBit 31 then 2 ^ txK t else 0 := by
  have hzero : xs[i] % 2 ^ 31 = 0 := (hxs _ (List.getElem_mem hi)).resolve_right (by simp [hfin])
  obtain ⟨low, helems⟩ := txQuantise_elems t free xs
  rw [helems]
  simp [List.getD_eq_getElem?_getD, hi, hfin, finiteElem, fp32Units_zero hzero, txQuant_zero, heldBy_zero]

end

/-! ### The blocks of a clutch (R148) -/

/-- The words of a beat: an inactive lane counts as +0. -/
def beatValues (m : Mask) (j : Nat) (v : Nat → Nat) : List Nat :=
  (List.range 32).map fun i => if inMask m (32 * j + i) then v (32 * j + i) else 0

/-- The active lanes of the beat of a lane. -/
def beatLanes (m : Mask) (l : Nat) : List Nat := (lanesIn m).filter fun i => i / 32 = l / 32

theorem mem_beatLanes {m : Mask} {l i : Nat} : i ∈ beatLanes m l ↔ inMask m i = true ∧ i / 32 = l / 32 := by
  simp [beatLanes, mem_lanesIn]

/-- A word of a beat is that of an active lane, or +0. -/
theorem mem_beatValues {m : Mask} {l x : Nat} {v : Nat → Nat} (h : x ∈ beatValues m (l / 32) v) :
    x = 0 ∨ ∃ i ∈ beatLanes m l, x = v i := by
  obtain ⟨i, hi, rfl⟩ := List.mem_map.mp h
  have hlt := List.mem_range.mp hi
  split
  · rename_i hmask
    exact .inr ⟨_, mem_beatLanes.mpr ⟨hmask, by omega⟩, rfl⟩
  · exact .inl rfl

theorem mem_beatValues_of_lane {m : Mask} {l i : Nat} {v : Nat → Nat} (h : i ∈ beatLanes m l) : v i ∈ beatValues m (l / 32) v := by
  obtain ⟨hmask, hbeat⟩ := mem_beatLanes.mp h
  have hi : 32 * (l / 32) + i % 32 = i := by omega
  refine List.mem_map.mpr ⟨i % 32, List.mem_range.mpr (Nat.mod_lt _ (by decide)), ?_⟩
  rw [hi, if_pos hmask]

/-- Some word of a beat meets a test that +0 does not, when that of some active lane does. -/
theorem any_beatValues {m : Mask} {l : Nat} {v : Nat → Nat} {p : Nat → Bool} (h0 : p 0 = false) :
    (beatValues m (l / 32) v).any p = (beatLanes m l).any fun i => p (v i) := by
  rw [Bool.eq_iff_iff, List.any_eq_true, List.any_eq_true]
  constructor
  · rintro ⟨x, hx, hp⟩
    rcases mem_beatValues hx with rfl | ⟨i, hi, rfl⟩
    · simp [h0] at hp
    · exact ⟨i, hi, hp⟩
  · rintro ⟨i, hi, hp⟩
    exact ⟨v i, mem_beatValues_of_lane hi, hp⟩

/-- An active lane's place in its beat. -/
theorem getElem_beatValues {m : Mask} {l : Nat} {v : Nat → Nat} (hl : inMask m l = true) (h : l % 32 < (beatValues m (l / 32) v).length) :
    (beatValues m (l / 32) v)[l % 32] = v l := by
  have hi : 32 * (l / 32) + l % 32 = l := by omega
  simp [beatValues, hi, hl]

/-- The block of a lane's beat. -/
def laneBlock (t : Nat) (free : Nat → Nat) (m : Mask) (v : Nat → Nat) (l : Nat) : TxBlock :=
  txQuantise t (fun i => free (32 * (l / 32) + i)) (beatValues m (l / 32) v)

/-- A beat with an active lane is quantised. -/
theorem beatBlocks_lane (t : Nat) (free : Nat → Nat) {m : Mask} (v : Nat → Nat) {l : Nat} (hl : inMask m l = true) :
    (beatBlocks t free m v)[l / 32]? = some (laneBlock t free m v l) := by
  have hlt : l < 96 := lt_of_inMask hl
  have hbit : (beatWord m (l / 32) fun _ => true).testBit (l % 32) = true := by
    have hi : 32 * (l / 32) + l % 32 = l := by omega
    have hlow : l % 32 < 32 := Nat.mod_lt _ (by decide)
    unfold beatWord
    rw [testBit_sum_bits, hi, hl]
    simp [hlow]
  have hne : (beatWord m (l / 32) fun _ => true) ≠ 0 := by
    intro h0
    simp [h0] at hbit
  simp only [beatBlocks, List.getElem?_map, List.getElem?_range (show l / 32 < 3 by omega), Option.map_some, if_neg hne]
  rfl

section
variable {t : Nat} {free : Nat → Nat} {m : Mask} {v : Nat → Nat} {l : Nat}

/-- Every active lane of a beat holds a zero, an infinity or a NaN. -/
def plainBeat (m : Mask) (v : Nat → Nat) (l : Nat) : Bool :=
  (beatLanes m l).all fun i => v i % 2 ^ 31 = 0 || decide (v i / 2 ^ 23 % 256 = 255)

/-- The pair of such a beat. -/
def plainPair (m : Mask) (v : Nat → Nat) (l : Nat) : Nat :=
  if (beatLanes m l).any fun i => decide (v i / 2 ^ 23 % 256 = 255) then 255 else 0

theorem beatValues_plain (h : plainBeat m v l = true) :
    ∀ x ∈ beatValues m (l / 32) v, x % 2 ^ 31 = 0 ∨ (fp32.decode x).special = true := by
  intro x hx
  rcases mem_beatValues hx with rfl | ⟨i, hi, rfl⟩
  · exact .inl rfl
  · rw [fp32_special]
    simpa using List.all_eq_true.mp h i hi

theorem laneBlock_pair (h : plainBeat m v l = true) : (laneBlock t free m v l).pair = plainPair m v l := by
  rw [laneBlock, txQuantise_pair_zero (beatValues_plain h), any_beatValues (by decide), plainPair]
  simp only [fp32_special]

theorem laneBlock_elem (h : plainBeat m v l = true) (hl : inMask m l = true) (hfin : v l / 2 ^ 23 % 256 ≠ 255) (hlt : v l < 2 ^ 32) :
    (laneBlock t free m v l).elems.getD (l % 32) 0 = 2 ^ (txK t + 1) + v l / 2 ^ 31 * 2 ^ txK t := by
  have hlen : l % 32 < (beatValues m (l / 32) v).length := by
    rw [beatValues, List.length_map, List.length_range]
    exact Nat.mod_lt _ (by decide)
  rw [laneBlock, txQuantise_elem_zero (beatValues_plain h) hlen (by rw [getElem_beatValues hl, fp32_special]; simpa using hfin),
    getElem_beatValues hl, Nat.testBit_eq_decide_div_mod_eq]
  have hsign : v l / 2 ^ 31 = 0 ∨ v l / 2 ^ 31 = 1 := by omega
  rcases hsign with hs | hs <;> rw [hs] <;> simp

theorem laneBlock_flags : (laneBlock t free m v l).flags
      &&& (if (beatLanes m l).any (fun i => decide (v i % 2 ^ 31 = 0x7F800000)) then flagInv else 0)
    = if (beatLanes m l).any (fun i => decide (v i % 2 ^ 31 = 0x7F800000)) then flagInv else 0 := by
  have hflags := txQuantise_flags t (fun i => free (32 * (l / 32) + i)) (beatValues m (l / 32) v)
  rw [any_beatValues (by decide)] at hflags
  unfold laneBlock
  simpa only [fp32_isInf] using hflags

end

/-! ### BLKEX and BLKQ (R148) -/

section
variable {s : State} {e : Env} {f : Fields}

/-- What a block form reads in a lane. -/
def blockSource (s : State) (e : Env) (f : Fields) (l : Nat) : Nat := e.source s (floatSrc f 0 1 2) l

theorem blockSource_lt (l : Nat) : blockSource s e f l < 2 ^ 32 := by
  rw [blockSource, source_floatSrc_word s e f (by decide) (by decide)]
  exact e.source_intSrc_lt s f 0 1 l

/-- Flushing changes no word of a plain beat. -/
theorem flush_plain {m : Mask} {v : Nat → Nat} {l i : Nat} (on : Bool) (h : plainBeat m v l = true) (hi : i ∈ beatLanes m l) :
    fp32.flush on (v i) = v i := by
  refine Fmt.flush_of_not_subnormal _ _ ?_
  have hv : v i % 2 ^ 31 = 0 ∨ v i / 2 ^ 23 % 256 = 255 := by simpa using List.all_eq_true.mp h i hi
  show (decide (v i / 2 ^ 23 % 256 = 0) && decide (v i % 2 ^ 23 ≠ 0)) = false
  rw [Bool.and_eq_false_iff, decide_eq_false_iff_not, decide_eq_false_iff_not]
  omega

/-- The blocks of BLKEX. -/
def blkexBlocks (s : State) (e : Env) (f : Fields) : List TxBlock :=
  beatBlocks (tagOr f 12) (fun _ => 0) e.mask fun l => fp32.flush (e.modes f.mod.toNat).fi (blockSource s e f l)

theorem aluBlkex_word {l : Nat} (hl : l < laneCount) : lane (((aluBlkex f s e).result s e).1.getD 0 []) l
    = BitVec.ofNat 32 (((blkexBlocks s e f).map TxBlock.pair).getD (l / 32) 0) := by
  have hrun : ((aluBlkex f s e).run ((aluBlkex f s e).reads s e)).1
      = [lanesOf fun l => BitVec.ofNat 32 (((blkexBlocks s e f).map TxBlock.pair).getD (l / 32) 0)] := rfl
  rw [Alu.result_words, hrun]
  exact lane_lanesOf (fun l => BitVec.ofNat 32 (((blkexBlocks s e f).map TxBlock.pair).getD (l / 32) 0)) l hl

theorem blkex_yields (h : issues (.blkex f) s e) : yields (.blkex f) s e f 1 fun l =>
    if plainBeat e.mask (blockSource s e f) l then some (plainPair e.mask (blockSource s e f) l, 0) else none := by
  refine yields_of_gives rfl h rfl rfl (by rw [Alu.result_words]; rfl) fun l hl b fl hgiven => ?_
  by_cases hplain : plainBeat e.mask (blockSource s e f) l = true
  · rw [if_pos hplain] at hgiven
    cases hgiven
    refine ⟨fun k hk => ?_, by simp⟩
    obtain rfl : k = 0 := by omega
    have hsame : beatValues e.mask (l / 32) (fun i => fp32.flush (e.modes f.mod.toNat).fi (blockSource s e f i))
        = beatValues e.mask (l / 32) (blockSource s e f) := by
      refine List.map_congr_left fun i hi => ?_
      have hlt := List.mem_range.mp hi
      split
      · rename_i hmask
        exact flush_plain _ hplain (mem_beatLanes.mpr ⟨hmask, by omega⟩)
      · rfl
    have hblock : (blkexBlocks s e f)[l / 32]? = some (laneBlock (tagOr f 12) (fun _ => 0) e.mask (blockSource s e f) l) := by
      rw [laneBlock, ← hsame]
      exact beatBlocks_lane _ _ _ hl
    refine (aluBlkex_word (lt_of_inMask hl)).trans ?_
    rw [List.getD_eq_getElem?_getD, List.getElem?_map, hblock]
    show BitVec.ofNat 32 (laneBlock (tagOr f 12) (fun _ => 0) e.mask (blockSource s e f) l).pair = _
    rw [laneBlock_pair hplain, Nat.mul_zero, Nat.pow_zero, Nat.div_one]
  · rw [if_neg hplain] at hgiven
    cases hgiven

/-- The mantissas that BLKQ gives NaN elements, by lane. -/
def blkqFree (s : State) (f : Fields) (l : Nat) : Nat := (Config.freeWord s.tick f.d.toNat l).toNat

/-- The blocks of BLKQ, and that of a lane. -/
def blkqBlocks (s : State) (e : Env) (f : Fields) : List TxBlock := beatBlocks (tagOr f 12) (blkqFree s f) e.mask (blockSource s e f)
def blkqAt (s : State) (e : Env) (f : Fields) (l : Nat) : TxBlock := (blkqBlocks s e f).getD (l / 32) { pair := 0, elems := [], flags := 0 }

theorem aluBlkq_run (s : State) (e : Env) (f : Fields) : (aluBlkq f s e).run ((aluBlkq f s e).reads s e)
    = ([lanesOf fun l => BitVec.ofNat 32 ((blkqAt s e f l).elems.getD (l % 32) 0),
        lanesOf fun l => BitVec.ofNat 32 (blkqAt s e f l).pair], (blkqBlocks s e f).foldl (fun a b => a ||| b.flags) 0) := rfl

theorem aluBlkq_words {l : Nat} (hl : l < laneCount) :
    lane (((aluBlkq f s e).result s e).1.getD 0 []) l = BitVec.ofNat 32 ((blkqAt s e f l).elems.getD (l % 32) 0)
      ∧ lane (((aluBlkq f s e).result s e).1.getD 1 []) l = BitVec.ofNat 32 (blkqAt s e f l).pair := by
  rw [Alu.result_words, aluBlkq_run]
  exact ⟨lane_lanesOf (fun l => BitVec.ofNat 32 ((blkqAt s e f l).elems.getD (l % 32) 0)) l hl,
    lane_lanesOf (fun l => BitVec.ofNat 32 (blkqAt s e f l).pair) l hl⟩

section
variable {l : Nat} (hl : inMask e.mask l = true)
include hl

theorem blkqBlocks_lane : (blkqBlocks s e f)[l / 32]? = some (laneBlock (tagOr f 12) (blkqFree s f) e.mask (blockSource s e f) l) :=
  beatBlocks_lane _ _ _ hl

theorem blkqAt_eq : blkqAt s e f l = laneBlock (tagOr f 12) (blkqFree s f) e.mask (blockSource s e f) l := by
  rw [blkqAt, List.getD_eq_getElem?_getD, blkqBlocks_lane hl, Option.getD_some]

/-- The flags of BLKQ hold those of every lane's block. -/
theorem aluBlkq_flags {fl : Word} (h : (blkqAt s e f l).flags &&& fl = fl) : ((aluBlkq f s e).result s e).2 &&& fl = fl := by
  refine Alu.result_flags ?_
  have hmem : blkqAt s e f l ∈ blkqBlocks s e f := by
    rw [blkqAt_eq hl]
    exact List.mem_of_getElem? (blkqBlocks_lane hl)
  rw [aluBlkq_run, ← h, ← BitVec.and_assoc, (foldl_or_and (fun b : TxBlock => b.flags) _ 0).1 _ hmem]

end

theorem txK_le (t : Nat) : txK t ≤ 6 := by
  unfold txK
  split <;> decide

/-- An element of a block of zeros fits a byte. -/
theorem plainElem_lt (t : Nat) {sign : Nat} (h : sign < 2) : 2 ^ (txK t + 1) + sign * 2 ^ txK t < 2 ^ 32 := by
  have hk := txK_le t
  interval_cases txK t <;> omega

theorem blkq_yields (h : issues (.blkq f) s e) : yields (.blkq f) s e f 2 fun l =>
    if plainBeat e.mask (blockSource s e f) l ∧ decide (blockSource s e f l / 2 ^ 23 % 256 = 255) = false then
      some (2 ^ (txK (tagOr f 12) + 1) + blockSource s e f l / 2 ^ 31 * 2 ^ txK (tagOr f 12) + 2 ^ 32 * plainPair e.mask (blockSource s e f) l,
        if (beatLanes e.mask l).any (fun i => blockSource s e f i % 2 ^ 31 = 0x7F800000) then flagInv else 0)
    else none := by
  refine yields_of_gives rfl h rfl rfl (by rw [Alu.result_words]; rfl) fun l hl b fl hgiven => ?_
  by_cases hplain : plainBeat e.mask (blockSource s e f) l = true ∧ decide (blockSource s e f l / 2 ^ 23 % 256 = 255) = false
  case neg =>
    rw [if_neg hplain] at hgiven
    cases hgiven
  rw [if_pos hplain] at hgiven
  cases hgiven
  obtain ⟨hplain, hfin⟩ := hplain
  have hsource : blockSource s e f l < 2 ^ 32 := blockSource_lt l
  obtain ⟨helem, hpair⟩ := aluBlkq_words (s := s) (e := e) (f := f) (lt_of_inMask hl)
  rw [blkqAt_eq hl, laneBlock_elem hplain hl (by simpa using hfin) hsource] at helem
  rw [blkqAt_eq hl, laneBlock_pair hplain] at hpair
  have hlt := plainElem_lt (tagOr f 12) (show blockSource s e f l / 2 ^ 31 < 2 by omega)
  refine ⟨fun k hk => ?_, aluBlkq_flags hl (by rw [blkqAt_eq hl]; exact laneBlock_flags)⟩
  generalize 2 ^ (txK (tagOr f 12) + 1) + blockSource s e f l / 2 ^ 31 * 2 ^ txK (tagOr f 12) = el at *
  have hcases : k = 0 ∨ k = 1 := by omega
  rcases hcases with rfl | rfl
  · refine helem.trans ?_
    rw [← BitVec.toNat_inj]
    simp
  · refine hpair.trans (congrArg _ ?_)
    omega

/-! ### BLKDQ (R41, R149) -/

/-- The function of BLKDQ. -/
def expandStep (t : Nat) (fm : Fmt) (md : Modes) (v : List Nat) : FRes := txExpand fm md t (v.getD 1 0 % 2 ^ 16) (v.getD 0 0)

/-- The format that BLKDQ expands into. -/
def expandTag (f : Fields) : Nat := if f.c = 0 then 2 else f.c.toNat

theorem blkdq_yields (h : issues (.blkdq f) s e) : yields (.blkdq f) s e f 1 fun l =>
    convertCorner (Fmt.ofTag (expandTag f)) (txDecode (tagOr f 12) ((word s e f 0 2 l).toNat % 2 ^ 16) (word s e f 0 1 l).toNat) := by
  have hcode := code_of_wellFormed rfl rfl (issues_elim rfl h).1 rfl rfl
  have hone : fmtWords (expandTag f) = 1 := by
    have htag : expandTag f ≠ 1 := by
      unfold expandTag
      split
      · decide
      · rename_i hc
        intro hone
        simp [hone] at hcode
    exact if_neg htag
  refine hone.subst (motive := fun n => yields (.blkdq f) s e f n _) ?_
  refine floatAlu_yields (g := expandStep (tagOr f 12) (Fmt.ofTag (expandTag f)) (e.modes f.mod.toNat)) rfl h rfl fun l _ => ?_
  rw [← source_plainSrc, word_toNat, ← source_plainSrc_unreplaced s e f 1 (some (tagOr f 12)) (by decide)]
  exact FRes.meets_of_answers (Fmt.answers_flushOut _ (Fmt.convert_answers (Fmt.ofTag_mem _) _ _))

end

/-! ### The claims together -/

theorem blockCorners_holds : Claims.blockCorners := fun _ _ _ => ⟨blkdq_yields, blkex_yields, blkq_yields⟩

/-- Settles O13: each floating instruction's function of the values that a lane reads, in the cases named. -/
theorem specialFunctionsAreFunctions : Obligations.SpecialFunctionsAreFunctions :=
  ⟨specialFunctionsAreFunctions_holds, specialValues_holds, floatingCases_holds, packedAndConverted_holds, reductions_holds,
    blockCorners_holds⟩

end Sys2Proof.Machine
end

section
/-! SUPPORT. Instruction words (R58 to R70): the fields of a word, the word of some fields, and words as bytes. -/

namespace Sys2Proof

open Machine

/-! ### The 64-bit layout (R60) -/

theorem bitsAt_toNat (n k w : Nat) : (bitsAt n k w).toNat = w / 2 ^ k % 2 ^ n := BitVec.toNat_ofNat ..

/-- The bits up to the end of a field are the bits below it and the field. -/
theorem mod_eq_add_bitsAt (n k w : Nat) : w % 2 ^ (k + n) = w % 2 ^ k + 2 ^ k * (bitsAt n k w).toNat := by
  rw [bitsAt_toNat, Nat.pow_add, Nat.mod_mul]

theorem opAt_lt (w : Nat) : opAt w < 0x100 := Nat.mod_lt _ (by decide)

/-- No bit of the low 64 is left out of the layout. -/
theorem encode64_layout64 (w : Nat) : w % 4 + encode64 (opAt w) (layout64 w) = w % 2 ^ 64 := by
  have hop : w % 2 ^ 10 = w % 4 + 4 * opAt w := Nat.mod_mul (a := 4) (b := 256)
  have hmod := mod_eq_add_bitsAt 6 10 w
  have hd := mod_eq_add_bitsAt 8 16 w
  have ha := mod_eq_add_bitsAt 8 24 w
  have hb := mod_eq_add_bitsAt 8 32 w
  have hc := mod_eq_add_bitsAt 8 40 w
  have hfe := mod_eq_add_bitsAt 3 48 w
  have hna := mod_eq_add_bitsAt 2 51 w
  have hnb := mod_eq_add_bitsAt 2 53 w
  have htg := mod_eq_add_bitsAt 5 55 w
  have htop := mod_eq_add_bitsAt 4 60 w
  simp only [encode64, layout64]
  omega

theorem encode64_mod (op : Nat) (f : Fields) : encode64 op f % 4 = 0 := by
  unfold encode64
  omega

/-- The fields that a 64-bit word holds, the others zero. -/
def Fields.low (f : Fields) : Fields :=
  { f with len := .w64, imm := 0, e := 0, f := 0, sp := 0, hn := 0, fx := 0, top2 := 0 }

theorem Fields.low_eq {f : Fields} (hlen : f.len = .w64) (hf : f.canonical = true) : f.low = f := by
  simp only [Fields.canonical, hlen, Bool.and_eq_true, decide_eq_true_eq] at hf
  unfold Fields.low
  cases f
  simp_all

section
variable {w code op : Nat} {f : Fields} (hcode : code < 4) (hop : op < 0x100)
include hcode hop

theorem encode64_lt : code + encode64 op f < 2 ^ 64 := by
  unfold encode64
  omega

variable (hw : w % 2 ^ 64 = code + encode64 op f)
include hw

theorem opAt_of_low : opAt w = op := by
  unfold encode64 at hw
  unfold opAt
  omega

/-- Each field is found where it was put. -/
theorem layout64_of_low : layout64 w = f.low := by
  unfold encode64 at hw
  simp only [layout64, Fields.low, Fields.mk.injEq, ← BitVec.toNat_inj, bitsAt_toNat, and_true, true_and]
  refine ⟨?_, ?_, ?_, ?_, ?_, ?_, ?_, ?_, ?_, ?_⟩ <;> omega

end

/-! ### Single words of every length (R58, R66, R67) -/

/-- The fields of a single word, by its length code. -/
def wordFields (w : Nat) : Fields :=
  match w % 4 with
  | 0 => layout64 w
  | 1 => layout96 w
  | _ => layout128 w

theorem decodeWord_single (r : Ranges) {w : Nat} (h : w % 4 ≠ 3) : decodeWord r w = decodeSingle r (opAt w) (wordFields w) := by
  have hcode : w % 4 = 0 ∨ w % 4 = 1 ∨ w % 4 = 2 := by omega
  rcases hcode with hcode | hcode | hcode <;> simp only [decodeWord, wordFields, hcode]

theorem decodeStream_single (r : Ranges) {w : Nat} (h : w % 4 ≠ 3) (hop : 0xA8 ≤ opAt w ∧ opAt w < 0xB0)
    (hcause : causeOf r true (opAt w) (wordFields w) = none) : decodeStream r w = instrOf (opAt w) (wordFields w) := by
  have hcode : w % 4 = 0 ∨ w % 4 = 1 ∨ w % 4 = 2 := by omega
  rcases hcode with hcode | hcode | hcode <;> simp only [wordFields, hcode] at hcause <;>
    simp only [decodeStream, wordFields, hcode, hop, and_self, if_true, hcause]

theorem lenCode_lt (l : Len) : lenCode l false < 4 := by cases l <;> decide

/-- The bits of a single word above bit 63. -/
def Fields.upper (f : Fields) : Nat :=
  match f.len with
  | .w64 => 0
  | .w96 => f.imm.toNat
  | .w128 => f.imm.toNat + 2 ^ 32 * f.e.toNat + 2 ^ 40 * f.f.toNat + 2 ^ 48 * f.sp.toNat + 2 ^ 52 * f.hn.toNat
      + 2 ^ 56 * f.fx.toNat + 2 ^ 58 * f.top2.toNat

theorem encodeSingle_eq (op : Nat) (f : Fields) : encodeSingle op f = lenCode f.len false + encode64 op f + 2 ^ 64 * f.upper := by
  unfold encodeSingle lenCode Fields.upper
  cases f.len <;> simp only [Bool.false_eq_true, if_false] <;> omega

theorem encodeSingle_mod (op : Nat) (f : Fields) : encodeSingle op f % 4 = lenCode f.len false := by
  have hmod := encode64_mod op f
  have hcode := lenCode_lt f.len
  rw [encodeSingle_eq]
  omega

theorem encodeSingle_not_pair (op : Nat) (f : Fields) : encodeSingle op f % 4 ≠ 3 := by
  rw [encodeSingle_mod]
  cases f.len <;> decide

theorem lengthOf_encodeSingle (op : Nat) (f : Fields) : lengthOf (encodeSingle op f) = f.len.bytes := by
  unfold lengthOf
  rw [encodeSingle_mod]
  cases f.len <;> rfl

section
variable {op : Nat} (hop : op < 0x100) (f : Fields)
include hop

theorem encodeSingle_low : encodeSingle op f % 2 ^ 64 = lenCode f.len false + encode64 op f := by
  rw [encodeSingle_eq, Nat.add_mul_mod_self_left, Nat.mod_eq_of_lt (encode64_lt (lenCode_lt f.len) hop)]

theorem encodeSingle_upper : encodeSingle op f / 2 ^ 64 = f.upper := by
  rw [encodeSingle_eq, Nat.add_mul_div_left _ _ (by decide), Nat.div_eq_of_lt (encode64_lt (lenCode_lt f.len) hop), Nat.zero_add]

theorem opAt_encodeSingle : opAt (encodeSingle op f) = op := opAt_of_low (lenCode_lt f.len) hop (encodeSingle_low hop f)

theorem layout64_encodeSingle : layout64 (encodeSingle op f) = f.low :=
  layout64_of_low (lenCode_lt f.len) hop (encodeSingle_low hop f)

theorem encodeSingle_lt : encodeSingle op f < 2 ^ (8 * lengthOf (encodeSingle op f)) := by
  have hlow := encode64_lt (f := f) (lenCode_lt f.len) hop
  rw [lengthOf_encodeSingle, encodeSingle_eq]
  unfold Len.bytes Fields.upper
  cases hl : f.len <;> simp only [hl] at hlow ⊢ <;> omega

/-- The fields of a word are those it was made from, when its length holds all of them. -/
theorem wordFields_encodeSingle (hf : f.canonical = true) : wordFields (encodeSingle op f) = f := by
  have hlow := layout64_encodeSingle hop f
  have hupper := encodeSingle_upper hop f
  unfold wordFields
  rw [encodeSingle_mod]
  generalize encodeSingle op f = w at *
  cases hl : f.len with
  | w64 =>
    simp only [lenCode, Bool.false_eq_true, if_false, hlow, Fields.low_eq hl hf]
  | w96 =>
    simp only [Fields.canonical, hl, Bool.and_eq_true, decide_eq_true_eq] at hf
    simp only [Fields.upper, hl] at hupper
    have himm : bitsAt 32 64 w = f.imm := by
      rw [← BitVec.toNat_inj, bitsAt_toNat]
      omega
    simp only [lenCode, Bool.false_eq_true, if_false, layout96, hlow, himm, Fields.low]
    cases f
    simp_all
  | w128 =>
    simp only [Fields.upper, hl] at hupper
    have hfields : bitsAt 32 64 w = f.imm ∧ bitsAt 8 96 w = f.e ∧ bitsAt 8 104 w = f.f ∧ bitsAt 4 112 w = f.sp
        ∧ bitsAt 4 116 w = f.hn ∧ bitsAt 2 120 w = f.fx ∧ bitsAt 6 122 w = f.top2 := by
      simp only [← BitVec.toNat_inj, bitsAt_toNat]
      refine ⟨?_, ?_, ?_, ?_, ?_, ?_, ?_⟩ <;> omega
    obtain ⟨himm, he, hF, hsp, hhn, hfx, htop2⟩ := hfields
    simp only [lenCode, Bool.false_eq_true, if_false, layout128, hlow, himm, he, hF, hsp, hhn, hfx, htop2, Fields.low, ← hl]

end

/-- The word of the fields of a word is that word: its layout leaves out no bit. -/
theorem encodeSingle_wordFields {w : Nat} (h : w % 4 ≠ 3) (hw : w < 2 ^ (8 * lengthOf w)) :
    encodeSingle (opAt w) (wordFields w) = w := by
  have hlow := encode64_layout64 w
  have hcode : w % 4 = 0 ∨ w % 4 = 1 ∨ w % 4 = 2 := by omega
  rcases hcode with hcode | hcode | hcode <;> simp only [lengthOf, hcode] at hw <;> simp only [wordFields, hcode]
  · show encode64 (opAt w) (layout64 w) = w
    omega
  · have himm := mod_eq_add_bitsAt 32 64 w
    show 1 + encode64 (opAt w) (layout64 w) + 2 ^ 64 * (bitsAt 32 64 w).toNat = w
    omega
  · have himm := mod_eq_add_bitsAt 32 64 w
    have he := mod_eq_add_bitsAt 8 96 w
    have hf := mod_eq_add_bitsAt 8 104 w
    have hsp := mod_eq_add_bitsAt 4 112 w
    have hhn := mod_eq_add_bitsAt 4 116 w
    have hfx := mod_eq_add_bitsAt 2 120 w
    have htop2 := mod_eq_add_bitsAt 6 122 w
    show 2 + encode64 (opAt w) (layout64 w) + 2 ^ 64 * (bitsAt 32 64 w).toNat + 2 ^ 96 * (bitsAt 8 96 w).toNat
      + 2 ^ 104 * (bitsAt 8 104 w).toNat + 2 ^ 112 * (bitsAt 4 112 w).toNat + 2 ^ 116 * (bitsAt 4 116 w).toNat
      + 2 ^ 120 * (bitsAt 2 120 w).toNat + 2 ^ 122 * (bitsAt 6 122 w).toNat = w
    omega

/-! ### Pair words (R68) -/

/-- The word of a pair of operations. -/
def pairWord (x y : PairOp) : Nat := 3 + encode64 x.op.toNat x.f + 2 ^ 64 * encode64 y.op.toNat y.f

/-- The operation that the layout of a 64-bit word holds. -/
def pairOpAt (w : Nat) : PairOp := { op := BitVec.ofNat 8 (opAt w), f := layout64 w }

theorem pairOpAt_of_low {w code : Nat} {x : PairOp} (hcode : code < 4) (hw : w % 2 ^ 64 = code + encode64 x.op.toNat x.f)
    (hlen : x.f.len = .w64) (hf : x.f.canonical = true) : pairOpAt w = x := by
  rw [pairOpAt, opAt_of_low hcode x.op.isLt hw, layout64_of_low hcode x.op.isLt hw, Fields.low_eq hlen hf, BitVec.ofNat_toNat,
    BitVec.setWidth_eq]

/-- Both halves of a pair word, the length code of each, and its size. -/
theorem pairWord_halves (x y : PairOp) : pairWord x y % 4 = 3 ∧ pairWord x y % 2 ^ 64 = 3 + encode64 x.op.toNat x.f
    ∧ pairWord x y / 2 ^ 64 = encode64 y.op.toNat y.f ∧ encode64 y.op.toNat y.f % 4 = 0 ∧ pairWord x y < 2 ^ 128 := by
  have hx := encode64_lt (f := x.f) (show 3 < 4 by decide) x.op.isLt
  have hy := encode64_lt (f := y.f) (show 3 < 4 by decide) y.op.isLt
  have hx4 := encode64_mod x.op.toNat x.f
  have hy4 := encode64_mod y.op.toNat y.f
  unfold pairWord
  omega

theorem pairWord_pairOpAt {w : Nat} (hcode : w % 4 = 3) (hsecond : w / 2 ^ 64 % 4 = 0) (hw : w < 2 ^ 128) :
    pairWord (pairOpAt w) (pairOpAt (w / 2 ^ 64)) = w := by
  have hop (v : Nat) : (pairOpAt v).op.toNat = opAt v := Nat.mod_eq_of_lt (opAt_lt v)
  have hx := encode64_layout64 w
  have hy := encode64_layout64 (w / 2 ^ 64)
  rw [pairWord, hop, hop]
  show 3 + encode64 (opAt w) (layout64 w) + 2 ^ 64 * encode64 (opAt (w / 2 ^ 64)) (layout64 (w / 2 ^ 64)) = w
  omega

/-! ### Words as bytes (R1, R58) -/

theorem natOf_bytesOf (n w : Nat) : natOf (bytesOf n w) = w % 2 ^ (8 * n) := by
  induction n generalizing w with
  | zero => simp [bytesOf, natOf, Nat.mod_one]
  | succ n ih =>
    rw [bytesOf, natOf, ih, BitVec.toNat_ofNat, Nat.mul_succ, Nat.add_comm (8 * n), Nat.pow_add, Nat.mod_mul]

theorem bytesOf_length (n w : Nat) : (bytesOf n w).length = n := by
  induction n generalizing w with
  | zero => rfl
  | succ n ih => rw [bytesOf, List.length_cons, ih]

theorem lengthOf_pos (w : Nat) : 0 < lengthOf w := by
  unfold lengthOf
  split <;> decide

/-- The first byte of a word gives its length. -/
theorem lengthOf_head {n : Nat} (hn : 0 < n) (w : Nat) (rest : List Byte) :
    lengthOf (natOf ((bytesOf n w ++ rest).take 1)) = lengthOf w := by
  obtain ⟨n, rfl⟩ := Nat.exists_eq_add_of_lt hn
  have hfirst : (w % 2 ^ 8 + 256 * 0) % 4 = w % 4 := by omega
  unfold lengthOf
  simp only [bytesOf, List.cons_append, List.take_succ_cons, List.take_zero, natOf, BitVec.toNat_ofNat, hfirst]

section
variable {w : Nat} (hw : w < 2 ^ (8 * lengthOf w)) (r : Ranges) (rest : List Byte)
include hw

/-- The bytes of a word and what follows them: they hold a whole word, and are told apart. -/
theorem bytesOf_whole : let bs := bytesOf (lengthOf w) w ++ rest
    lengthOf (natOf (bs.take 1)) = lengthOf w ∧ ¬ (bs.length < lengthOf w ∨ bs.isEmpty) ∧ natOf (bs.take (lengthOf w)) = w
      ∧ bs.drop (lengthOf w) = rest := by
  have hbytes := bytesOf_length (lengthOf w) w
  have hpos := lengthOf_pos w
  refine ⟨lengthOf_head hpos w rest, ?_, ?_, List.drop_left' hbytes⟩
  · rw [List.isEmpty_iff_length_eq_zero, List.length_append, hbytes]
    omega
  · rw [List.take_left' hbytes, natOf_bytesOf, Nat.mod_eq_of_lt hw]

theorem decodeBytes_bytesOf : decodeBytes r (bytesOf (lengthOf w) w ++ rest) = .ok (decodeWord r w, rest) := by
  obtain ⟨hlen, hwhole, htake, hdrop⟩ := bytesOf_whole hw rest
  simp only [decodeBytes, hlen, hwhole, htake, hdrop, if_false]

theorem decodeStreamBytes_bytesOf {i : Instr} (hi : decodeStream r w = some i) :
    decodeStreamBytes r (bytesOf (lengthOf w) w ++ rest) = .ok (i, rest) := by
  obtain ⟨hlen, hwhole, htake, hdrop⟩ := bytesOf_whole hw rest
  simp only [decodeStreamBytes, hlen, hwhole, htake, hdrop, hi, if_false]

end

end Sys2Proof
end

section
/-! SUPPORT. The opcodes that R71 assigns, and the two ways between words and instructions: what settles O1, O2 and O3. -/

namespace Sys2Proof

open Machine

/-! ### Assigned opcodes (R71) -/

/-- R71 assigns no instruction to the opcode. -/
abbrev unassigned (op : Nat) : Prop :=
  op ∈ [0x2E, 0x2F, 0x57, 0x58, 0x59, 0x5A, 0x5B, 0x5C, 0x5D, 0x5E, 0x5F, 0x6E, 0x6F, 0x7E, 0x7F] ∨
    (0x84 ≤ op ∧ op < 0x88) ∨ (0x9C ≤ op ∧ op < 0xA8) ∨ (0xB0 ≤ op ∧ op < 0xB8) ∨
    (0xBD ≤ op ∧ op < 0xC0) ∨ (0xCC ≤ op ∧ op < 0xD8) ∨ (0xDC ≤ op ∧ op < 0xE0) ∨
    0xE8 ≤ op

section
variable {op : Nat} (hop : op < 0x100) (f : Fields)
include hop

/-- The field rules name a shape for the assigned opcodes alone. -/
theorem shape_isNone : (shape op f).isNone = decide (unassigned op) := by
  interval_cases op <;> rfl

/-- The opcode map names an instruction for the assigned opcodes alone, and that instruction has the opcode and the fields. Where
MOD tells the forms of an opcode apart, this holds of every form. -/
theorem map_opOf_instrOf : (instrOf op f).map opOf = if unassigned op then none else some (some (op, f)) := by
  interval_cases op
  all_goals
    conv => lhs; arg 2; whnf
    conv => rhs; whnf
    try split
    all_goals rfl

theorem shape_eq_none_iff : shape op f = none ↔ unassigned op := by
  rw [← Option.isNone_iff_eq_none, shape_isNone hop, decide_eq_true_eq]

variable {f}

theorem instrOf_of_shape {x : Shape} (hx : shape op f = some x) : ∃ i, instrOf op f = some i ∧ opOf i = some (op, f) := by
  have hassigned : ¬ unassigned op := fun h => by simp [(shape_eq_none_iff hop f).mpr h] at hx
  have hmap := map_opOf_instrOf hop f
  rw [if_neg hassigned] at hmap
  simpa using hmap

end

theorem lt_of_shape {op : Nat} {f : Fields} {x : Shape} (hx : shape op f = some x) : op < 0x100 := by
  by_contra hop
  have hqueue : shape op f = queueShapes op f := by
    rw [shape, if_neg, if_neg, if_neg, if_neg, if_neg, if_neg, if_neg] <;> omega
  have hnone : queueShapes op f = none := by
    unfold queueShapes
    split
    case h_9 => rfl
    all_goals omega
  rw [hqueue, hnone] at hx
  cases hx

/-! ### Causes (R74) -/

theorem causeOf_eq_zero_iff (r : Ranges) (stream : Bool) (op : Nat) (f : Fields) :
    causeOf r stream op f = some 0 ↔ shape op f = none := by
  unfold causeOf
  split
  · simp [*]
  · split_ifs <;> simp [*]

theorem shape_of_causeOf {r : Ranges} {stream : Bool} {op : Nat} {f : Fields} (h : causeOf r stream op f = none) :
    ∃ x, shape op f = some x := by
  cases hx : shape op f with
  | none => simp [causeOf, hx] at h
  | some x => exact ⟨x, rfl⟩

/-- A single word that a clutch meets is a reserved encoding with its cause, or the instruction of its opcode and fields. -/
theorem decodeSingle_cases (r : Ranges) {op : Nat} (hop : op < 0x100) (f : Fields) :
    (∃ cause, causeOf r false op f = some cause
        ∧ decodeSingle r op f = .reservedEncoding cause f.len.bytes (BitVec.ofNat 8 op) f false false)
      ∨ (causeOf r false op f = none ∧ opOf (decodeSingle r op f) = some (op, f)) := by
  unfold decodeSingle
  cases hcause : causeOf r false op f with
  | some cause => exact .inl ⟨cause, rfl, rfl⟩
  | none =>
    obtain ⟨x, hx⟩ := shape_of_causeOf hcause
    obtain ⟨i, hi, hopOf⟩ := instrOf_of_shape hop hx
    simp only [hi, Option.getD_some, hopOf, and_self, or_true]

/-- A pair word is a reserved encoding, or runs the operations of its halves, whose length codes are those of R68. -/
theorem decodePair_cases (r : Ranges) (w : Nat) :
    (∃ cause bytes op f pair second, decodePair r w = .reservedEncoding cause bytes op f pair second)
      ∨ (decodePair r w = .pairWord (pairOpAt w) (pairOpAt (w / 2 ^ 64)) ∧ w / 2 ^ 64 % 4 = 0) := by
  unfold decodePair
  generalize w / 2 ^ 64 = v
  simp only
  split
  case h_1 h =>
    refine .inr ⟨rfl, ?_⟩
    by_contra hbits
    simp [hbits] at h
  case h_2 => exact .inl ⟨_, _, _, _, _, _, rfl⟩

theorem decodePair_valid {r : Ranges} {w : Nat} {x y : PairOp} (hx : pairOpAt w = x) (hy : pairOpAt (w / 2 ^ 64) = y)
    (hsecond : w / 2 ^ 64 % 4 = 0) (hcx : pairCause r x = none) (hcy : pairCause r y = none) (hok : pairOk x y = true) :
    decodePair r w = .pairWord x y := by
  unfold decodePair
  unfold pairOpAt at hx hy
  generalize w / 2 ^ 64 = v at *
  simp only [hx, hy, hsecond, hcx, hcy, hok]
  rfl

/-! ### From instructions to words and back -/

theorem validOp_iff {r : Ranges} {op : Nat} {f : Fields} :
    validOp r op f = true ↔ f.canonical = true ∧ causeOf r (0xA8 ≤ op && op < 0xB0) op f = none := by
  simp [validOp, Option.isNone_iff_eq_none]

theorem canonical_of_validOp {r : Ranges} {op : Nat} {f : Fields} (h : validOp r op f = true) : f.canonical = true :=
  (validOp_iff.mp h).1

/-- A clutch meets no cause in a valid operation of an opcode outside the matrix stream. -/
theorem causeOf_clutch {r : Ranges} {op : Nat} {f : Fields} (h : validOp r op f = true) (hop : op < 0xA8 ∨ 0xB0 ≤ op) :
    causeOf r false op f = none := by
  have hclutch : (decide (0xA8 ≤ op) && decide (op < 0xB0)) = false := by
    rw [Bool.and_eq_false_iff, decide_eq_false_iff_not, decide_eq_false_iff_not]
    omega
  rw [← hclutch]
  exact (validOp_iff.mp h).2

/-- A sequencer meets none in one of an opcode of the stream. -/
theorem causeOf_sequencer {r : Ranges} {op : Nat} {f : Fields} (h : validOp r op f = true) (hop : 0xA8 ≤ op ∧ op < 0xB0) :
    causeOf r true op f = none := by
  have hcause := (validOp_iff.mp h).2
  simpa only [hop, decide_true, Bool.and_self] using hcause

/-- A well-formed single word is a valid operation of an assigned opcode, and the opcode map gives it back. -/
theorem wellFormed_single {r : Ranges} {i : Instr} {op : Nat} {f : Fields} (h : WellFormed r i = true) (hi : opOf i = some (op, f)) :
    op < 0x100 ∧ validOp r op f = true ∧ instrOf op f = some i := by
  simp only [WellFormed, hi, Bool.and_eq_true, decide_eq_true_eq] at h
  obtain ⟨hvalid, hinstr⟩ := h
  obtain ⟨x, hx⟩ := shape_of_causeOf (validOp_iff.mp hvalid).2
  exact ⟨lt_of_shape hx, hvalid, hinstr⟩

theorem encode_single {i : Instr} {op : Nat} {f : Fields} (hi : opOf i = some (op, f)) :
    encode i = bytesOf (lengthOf (encodeSingle op f)) (encodeSingle op f) := by
  simp [encode, encodeWord, hi]

/-- A well-formed word of a clutch decodes to its instruction. -/
theorem decodeBytes_encode (r : Ranges) {i : Instr} {op : Nat} {f : Fields} (rest : List Byte) (h : WellFormed r i = true)
    (hi : opOf i = some (op, f)) (hstream : op < 0xA8 ∨ 0xB0 ≤ op) : decodeBytes r (encode i ++ rest) = .ok (i, rest) := by
  obtain ⟨hop, hvalid, hinstr⟩ := wellFormed_single h hi
  rw [encode_single hi, decodeBytes_bytesOf (encodeSingle_lt hop f), decodeWord_single r (encodeSingle_not_pair op f),
    opAt_encodeSingle hop, wordFields_encodeSingle hop f (canonical_of_validOp hvalid)]
  simp only [decodeSingle, causeOf_clutch hvalid hstream, hinstr, Option.getD_some]

/-- A well-formed word of a matrix stream decodes to its instruction (R73). -/
theorem decodeStreamBytes_encode (r : Ranges) {i : Instr} {op : Nat} {f : Fields} (rest : List Byte) (h : WellFormed r i = true)
    (hi : opOf i = some (op, f)) (hstream : 0xA8 ≤ op ∧ op < 0xB0) : decodeStreamBytes r (encode i ++ rest) = .ok (i, rest) := by
  obtain ⟨hop, hvalid, hinstr⟩ := wellFormed_single h hi
  rw [encode_single hi]
  refine decodeStreamBytes_bytesOf (encodeSingle_lt hop f) r rest ?_
  have hopAt := opAt_encodeSingle hop f
  have hfields := wordFields_encodeSingle hop f (canonical_of_validOp hvalid)
  have hcause : causeOf r true (opAt (encodeSingle op f)) (wordFields (encodeSingle op f)) = none := by
    rw [hopAt, hfields]
    exact causeOf_sequencer hvalid hstream
  rw [decodeStream_single r (encodeSingle_not_pair op f) (by rwa [hopAt]) hcause, hopAt, hfields, hinstr]

theorem pairCause_eq_none {r : Ranges} {x : PairOp} (hv : validOp r x.op.toNat x.f = true) (hp : pairable x.op.toNat = true) :
    pairCause r x = none := by
  have hlow : x.op.toNat < 0x60 := by
    simp only [pairable, Bool.and_eq_true, decide_eq_true_eq] at hp
    exact hp.1
  simp only [pairCause, causeOf_clutch hv (.inl (by omega)), hp, if_true]

/-- A well-formed pair word decodes to its two operations (R68, R69). -/
theorem decodeBytes_encode_pairWord (r : Ranges) (x y : PairOp) (rest : List Byte) (h : WellFormed r (.pairWord x y) = true) :
    decodeBytes r (encode (.pairWord x y) ++ rest) = .ok (.pairWord x y, rest) := by
  have hparts : (validPairOp r x = true ∧ validPairOp r y = true) ∧ pairOk x y = true := by
    have hdef : WellFormed r (.pairWord x y) = (validPairOp r x && validPairOp r y && pairOk x y) := rfl
    rwa [hdef, Bool.and_eq_true, Bool.and_eq_true] at h
  obtain ⟨⟨hx, hy⟩, hok⟩ := hparts
  simp only [validPairOp, Bool.and_eq_true, decide_eq_true_eq] at hx hy
  obtain ⟨hxlen, hxvalid⟩ := hx
  obtain ⟨hylen, hyvalid⟩ := hy
  have hpairable : pairable x.op.toNat = true ∧ pairable y.op.toNat = true := by
    simp only [pairOk, Bool.and_eq_true] at hok
    simp only [hok, and_self]
  obtain ⟨hcode, hfirst, hupper, hsecond, hlt⟩ := pairWord_halves x y
  have hlen : lengthOf (pairWord x y) = 16 := by simp only [lengthOf, hcode]
  have hxat : pairOpAt (pairWord x y) = x := pairOpAt_of_low (by decide) hfirst hxlen (canonical_of_validOp hxvalid)
  have hyat : pairOpAt (pairWord x y / 2 ^ 64) = y := by
    refine pairOpAt_of_low (code := 0) (by decide) ?_ hylen (canonical_of_validOp hyvalid)
    rw [hupper]
    omega
  have hdecode : decodePair r (pairWord x y) = .pairWord x y :=
    decodePair_valid hxat hyat (hupper ▸ hsecond) (pairCause_eq_none hxvalid hpairable.1)
      (pairCause_eq_none hyvalid hpairable.2) hok
  show decodeBytes r (bytesOf (lengthOf (pairWord x y)) (pairWord x y) ++ rest) = _
  rw [decodeBytes_bytesOf (by rwa [hlen])]
  simp only [decodeWord, hcode, hdecode]

end Sys2Proof

open Sys2Proof Sys2Proof.Machine Sys2Proof.Safety Sys2Proof.Claims

/-- Settles O2, one form of word at a time: each field is read where it was written. -/
theorem decodeOfEncode : Obligations.DecodeOfEncode :=
  ⟨fun r _ _ _ rest h hi hop => decodeBytes_encode r rest h hi hop,
    fun r _ _ _ rest h hi hlo hhi => decodeStreamBytes_encode r rest h hi ⟨hlo, hhi⟩, decodeBytes_encode_pairWord⟩

theorem encodeOfDecode_holds : Sys2Proof.Claims.encodeOfDecode := by
  intro r w hw
  by_cases hcode : w % 4 = 3
  · have hlen : lengthOf w = 16 := by simp only [lengthOf, hcode]
    have hpair : decodeWord r w = decodePair r w := by simp only [decodeWord, hcode]
    rw [hpair]
    refine (decodePair_cases r w).imp id fun ⟨hi, hsecond⟩ => ?_
    rw [hi]
    exact congrArg some (pairWord_pairOpAt hcode hsecond (by rwa [hlen] at hw))
  · rw [decodeWord_single r hcode]
    refine (decodeSingle_cases r (opAt_lt w) (wordFields w)).imp (fun ⟨_, _, hi⟩ => ⟨_, _, _, _, _, _, hi⟩) fun ⟨_, hi⟩ => ?_
    simp only [encodeWord, hi, encodeSingle_wordFields hcode hw]

theorem unassignedOpcodes_holds : Sys2Proof.Claims.unassignedOpcodes := by
  intro r w hcode
  rw [decodeWord_single r hcode]
  refine Iff.trans ?_ (shape_eq_none_iff (opAt_lt w) (wordFields w))
  rw [← causeOf_eq_zero_iff r false]
  rcases decodeSingle_cases r (opAt_lt w) (wordFields w) with ⟨cause, hcause, hi⟩ | ⟨hcause, hi⟩
  · simp [hcause, hi]
  · refine iff_of_false (fun ⟨_, _, _, _, _, hres⟩ => ?_) (by simp [hcause])
    rw [hres] at hi
    cases hi

/-- Settles O3: no bit of a word is outside its layout, and the field rules give cause 0 where they name no shape. -/
theorem encodingIsExact : Obligations.EncodingIsExact := ⟨encodeOfDecode_holds, unassignedOpcodes_holds⟩

/-- Settles O1, by running the decoder on each word. -/
theorem decodedWords : Obligations.DecodedWords := by
  rintro ⟨_, _, _, _⟩ rfl rfl rfl rfl
  refine ⟨?_, ?_, ?_, ?_, ?_, ?_, ?_, ?_, ?_, ?_, ?_⟩ <;> rfl
end

section
/-! SUPPORT. TRAP and reserved encodings in the emulation handler (R75, R76, R192, R195, R198): what settles O22. -/

namespace Sys2Proof.Machine

open Sys2Proof.Safety Sys2Proof.Claims

/-! ### The emulation registers (R76) -/

theorem toNat_append_eq_add {m n : Nat} (x : BitVec m) (y : BitVec n) : (x ++ y).toNat = 2 ^ n * x.toNat + y.toNat := by
  rw [BitVec.toNat_append, ← Nat.shiftLeft_add_eq_or_of_lt y.isLt, Nat.shiftLeft_eq, Nat.mul_comm]

theorem toNat_ofBool_eq_ite (b : Bool) : (BitVec.ofBool b).toNat = if b then 1 else 0 := by cases b <;> rfl

theorem emulationRegs_emop (pc : Word) {cause code op : Nat} (f : Fields) (pair second : Bool) (imm : Word) (hcause : cause < 8)
    (hcode : code < 4) (hop : op < 256) : (emulationRegs pc cause code op f pair second imm).emop
      = (f.f ++ f.e ++ BitVec.ofNat 4 cause ++ BitVec.ofBool second ++ BitVec.ofBool pair ++ BitVec.ofNat 2 code
        ++ BitVec.ofNat 8 op : BitVec 32) := by
  apply BitVec.eq_of_toNat_eq
  simp only [emulationRegs, toNat_append_eq_add, toNat_ofBool_eq_ite, BitVec.toNat_ofNat]
  split_ifs <;> omega

theorem emulationRegs_emmod (pc : Word) (cause code op : Nat) (f : Fields) (pair second : Bool) (imm : Word) :
    (emulationRegs pc cause code op f pair second imm).emmod
      = (f.hn ++ f.sp ++ f.fx ++ f.top ++ f.tg ++ f.nb ++ f.na ++ f.fe ++ f.mod : BitVec 32) := by
  apply BitVec.eq_of_toNat_eq
  simp only [emulationRegs, toNat_append_eq_add, BitVec.toNat_ofNat]
  omega

/-! ### Taking the trap -/

section
variable {s : State} {e : Env} (hr : runs s e)
include hr

theorem exec_reservedEncoding (cause bytes : Nat) (op : BitVec 8) (f : Fields) (pair second : Bool) :
    exec (.reservedEncoding cause bytes op f pair second) s = emulationTrap s e cause bytes op.toNat f pair second :=
  withClutch_eq s e _ hr.1 hr.2

theorem exec_trap (f : Fields) : exec (.trap f) s = emulationTrap s e 7 12 0x7A f false false :=
  withClutch_eq s e _ hr.1 hr.2

end

theorem fatal_outside (s : State) {e : Env} (hh : e.cl.inHandler = false) (code : Code) (mask : Mask) :
    fatal s e code mask = .next (s.endWith e (e.report code.num 0 mask)) := by
  simp only [fatal, hh, Bool.false_eq_true, if_false]

section
variable {e : Env} (hm : e.cl.mask ≠ 0) (s : State) (cause bytes op : Nat) (f : Fields) (pair second : Bool)
include hm

theorem emulationTrap_enters (hh : e.cl.inHandler = false) (hb : e.cl.ehbase ≠ 0) (hs : e.cl.stack.length < 16) :
    emulationTrap s e cause bytes op f pair second = .next (s.modClutch e.who fun _ =>
      { e.cl with
        stack := e.cl.stack ++ [{ kind := .handler, aw := e.cl.mask, ar := e.cl.mask, rpc := some (e.cl.pc + BitVec.ofNat 32 bytes),
                                  ppc := e.cl.pc, pm := e.cl.path, seq := e.cl.seq }]
        seq := e.cl.seq + 1, path := e.cl.mask, mask := e.cl.mask, pc := e.cl.ehbase
        em := emulationRegs e.cl.pc cause (lenCode f.len pair) op f pair second f.imm }) := by
  simp only [emulationTrap, hm, hh, hb, Nat.not_le.mpr hs, Bool.false_eq_true, if_false]
  rfl

theorem emulationTrap_inHandler (hh : e.cl.inHandler = true) :
    emulationTrap s e cause bytes op f pair second = .next (s.endWith e (e.report 0x22 0 e.mask)) := by
  simp only [emulationTrap, hm, hh, if_false, if_true]
  rfl

theorem emulationTrap_noHandler (hh : e.cl.inHandler = false) (hb : e.cl.ehbase = 0) :
    emulationTrap s e cause bytes op f pair second = .next (s.endWith e (e.report 0x21 0 e.mask)) := by
  simp only [emulationTrap, hm, hh, hb, Bool.false_eq_true, if_false, if_true]
  exact fatal_outside s hh .illegal e.mask

theorem emulationTrap_noRoom (hh : e.cl.inHandler = false) (hb : e.cl.ehbase ≠ 0) (hs : 16 ≤ e.cl.stack.length) :
    emulationTrap s e cause bytes op f pair second = .next (s.endWith e (e.report 0x25 0 e.mask)) := by
  simp only [emulationTrap, hm, hh, hb, hs, Bool.false_eq_true, if_false, if_true]
  exact fatal_outside s hh .rstack e.mask

end

/-! ### The claims together -/

theorem emulationRegisters_holds : Claims.emulationRegisters := by
  intro pc cause code op f pair second imm hcause hcode hop
  exact ⟨rfl, emulationRegs_emop pc f pair second imm hcause hcode hop, emulationRegs_emmod pc cause code op f pair second imm,
    BitVec.ofNat_toNat .., BitVec.ofNat_toNat .., BitVec.ofNat_toNat .., BitVec.ofNat_toNat .., rfl⟩

theorem trapEntry_holds : Claims.trapEntry := by
  intro s e cause bytes op f pair second hr hm hh hb hs
  rw [exec_reservedEncoding hr, exec_trap hr]
  exact ⟨emulationTrap_enters hm s _ _ _ _ _ _ hh hb hs, emulationTrap_enters hm s _ _ _ _ _ _ hh hb hs⟩

theorem trapWithoutEntry_holds : Claims.trapWithoutEntry := by
  intro s e cause bytes op f pair second hr hm
  simp only [exec_reservedEncoding hr]
  exact ⟨emulationTrap_inHandler hm s _ _ _ _ _ _, emulationTrap_noHandler hm s _ _ _ _ _ _,
    emulationTrap_noRoom hm s _ _ _ _ _ _⟩

/-- Settles O22: the registers bit by bit, and the trap by where it finds the clutch. -/
theorem trapEntry : Obligations.TrapEntry := ⟨emulationRegisters_holds, trapEntry_holds, trapWithoutEntry_holds⟩

end Sys2Proof.Machine
end

section
/-! SUPPORT. The effect of a register operation on its clutch and on the state, and two effects one after the other. -/

namespace Sys2Proof.Machine

open Sys2Proof.Safety Sys2Proof.Claims

/-! ### What is left alone by one change after another -/

theorem sameDevice_trans {s t u : State} (h : sameDevice s t) (k : sameDevice t u) : sameDevice s u := by
  simp_all [sameDevice]

theorem sameElsewhere_trans {s t u : State} {who : ClutchId} (h : sameElsewhere s t who) (k : sameElsewhere t u who) :
    sameElsewhere s u who := by
  refine ⟨fun uid hne => (k.1 uid hne).trans (h.1 uid hne), fun c hc => ?_⟩
  obtain ⟨d, hd, hcd, hclutches⟩ := h.2 c hc
  obtain ⟨x, hx, hdx, hclutches'⟩ := k.2 d hd
  refine ⟨x, hx, ?_, fun n hn => (hclutches' n hn).trans (hclutches n hn)⟩
  have hback := congrArg (fun y : Chorus => { y with clutches := c.clutches, sticky := c.sticky, stickyNow := c.stickyNow }) hdx
  exact hback.trans hcd

/-- Flags that enter one after the other are all in the sticky register. -/
theorem flagged_trans {s t u : State} {who : ClutchId} {v w : Word} (hsame : sameElsewhere s t who) (h : flagged s t who.chorus v)
    (k : flagged t u who.chorus w) : flagged s u who.chorus (v ||| w) := by
  intro c x hc hx
  obtain ⟨d, hd, -⟩ := hsame.2 c hc
  rw [k d x hd hx, h c d hc hd, BitVec.or_assoc]

theorem flagged_trans_zero {s t u : State} {who : ClutchId} {v : Word} (hsame : sameElsewhere s t who) (h : flagged s t who.chorus v)
    (k : flagged t u who.chorus 0) : flagged s u who.chorus v := by
  have hboth := flagged_trans hsame h k
  rwa [show v ||| 0 = v from BitVec.or_zero] at hboth

theorem sameControl_trans {c d x : Clutch} (h : sameControl c d) (k : sameControl d x) : sameControl c x := by
  have hback := congrArg (fun y : Clutch => { y with
    pc := c.pc, mask := c.mask, regs := c.regs, uni := c.uni, tags := c.tags, empty := c.empty, poison := c.poison
    mregs := c.mregs, mtags := c.mtags, mempty := c.mempty, mpoison := c.mpoison, loans := c.loans }) k
  exact hback.trans h

theorem sameElsewhere_modClutch (s : State) (who : ClutchId) (g : Clutch → Clutch) (hg : ∀ x, (g x).id = x.id) :
    sameElsewhere s (s.modClutch who g) who := by
  refine ⟨fun uid hne => State.chorus?_modClutch_other s who uid g hne,
    fun c hc => ⟨c.modClutch who.clutch g, ?_, rfl, fun n hn => ?_⟩⟩
  · rw [State.chorus?_modClutch_self, hc]
    rfl
  · exact Chorus.clutch?_modClutch_other c _ n g hg hn

theorem sameElsewhere_flag (s : State) (who : ClutchId) (flags : Word) : sameElsewhere s (s.flag who.chorus flags) who := by
  unfold State.flag
  split
  · exact ⟨fun _ _ => rfl, fun c hc => ⟨c, hc, rfl, fun _ _ => rfl⟩⟩
  · refine ⟨fun uid hne => State.chorus?_modChorus_other s who.chorus uid (·.raise s.now flags) (fun _ => rfl) hne,
      fun c hc => ⟨c.raise s.now flags, ?_, rfl, fun _ _ => rfl⟩⟩
    rw [State.chorus?_modChorus_self _ _ (·.raise s.now flags) fun _ => rfl, hc]
    rfl

theorem flagged_modClutch (s : State) (who : ClutchId) (g : Clutch → Clutch) : flagged s (s.modClutch who g) who.chorus 0 := by
  intro c d hc hd
  rw [State.chorus?_modClutch_self, hc, Option.map_some, Option.some.injEq] at hd
  rw [← hd]
  exact BitVec.or_zero.symm

theorem flagged_flag (s : State) (uid : Nat) (flags : Word) : flagged s (s.flag uid flags) uid flags := by
  intro c d hc hd
  rw [State.chorus?_flag, hc, Option.map_some, Option.some.injEq] at hd
  rw [← hd]
  split
  · rename_i h0
    rw [h0]
    exact BitVec.or_zero.symm
  · rfl

/-! ### Sets of registers -/

theorem mem_setInsert {xs : List Nat} {i x : Nat} : x ∈ setInsert xs i ↔ x ∈ xs ∨ x = i := by
  induction xs with
  | nil => simp [setInsert]
  | cons k rest ih =>
    unfold setInsert
    split_ifs with hlt heq
    · simp [or_comm]
    · simp_all
    · simp [ih, or_assoc]

theorem mem_foldl_setInsert {xs : List Nat} {first n x : Nat} :
    x ∈ (List.range n).foldl (fun es i => setInsert es (first + i)) xs ↔ x ∈ xs ∨ (first ≤ x ∧ x < first + n) := by
  induction n with
  | zero => simp
  | succ n ih =>
    rw [List.range_succ, List.foldl_append, List.foldl_cons, List.foldl_nil, mem_setInsert, ih, or_assoc]
    exact or_congr_right (by omega)

/-! ### Writing registers -/

/-- Between two states of a clutch only registers, their tags and marks, and the mask have changed. -/
def onlyRegisters (c d : Clutch) : Prop :=
  { d with mask := c.mask, regs := c.regs, uni := c.uni, tags := c.tags, poison := c.poison, loans := c.loans } = c

theorem onlyRegisters_trans {c d x : Clutch} (h : onlyRegisters c d) (k : onlyRegisters d x) : onlyRegisters c x := by
  have hback := congrArg (fun y : Clutch => { y with
    mask := c.mask, regs := c.regs, uni := c.uni, tags := c.tags, poison := c.poison, loans := c.loans }) k
  exact hback.trans h

theorem Clutch.put_onlyRegisters (c : Clutch) (n : Nat) (m : Mask) (reg tag : Nat) (v : Nat → Word) :
    onlyRegisters c (c.put n m reg tag v) := by
  unfold Clutch.put Clutch.setTag Clutch.write
  dsimp only
  split_ifs <;> rfl

/-- Of the mask triple only a write of one of its registers changes the mask (R90). -/
theorem Clutch.put_mask (c : Clutch) (n : Nat) {m : Mask} (reg tag : Nat) (v : Nat → Word) (hm : m ≠ 0) :
    (c.put n m reg tag v).mask =
      if 253 ≤ reg then setMaskWord c.mask (reg - 253) (v (lowest m)) &&& c.path &&& ~~~c.exited else c.mask := by
  rw [Clutch.put, if_neg hm]
  unfold Clutch.setTag Clutch.write
  dsimp only
  rw [if_neg hm]
  split_ifs <;> rfl

section
variable (c : Clutch) (n : Nat) {m : Mask} (dst : Nat) (tags : List Nat) (ws : List Lanes)

theorem Clutch.putAll_onlyRegisters : onlyRegisters c (c.putAll n m dst tags ws) := by
  induction ws using List.reverseRecOn with
  | nil => rfl
  | append_singleton ws w ih =>
    rw [Clutch.putAll_snoc]
    exact onlyRegisters_trans ih (Clutch.put_onlyRegisters ..)

theorem Clutch.putAll_mask_below (hm : m ≠ 0) (h : dst + ws.length ≤ 253) : (c.putAll n m dst tags ws).mask = c.mask := by
  induction ws using List.reverseRecOn with
  | nil => rfl
  | append_singleton ws w ih =>
    rw [List.length_append, List.length_singleton] at h
    rw [Clutch.putAll_snoc, Clutch.put_mask _ _ _ _ _ hm, if_neg (by omega), ih (by omega)]

/-- Consecutive registers have their new tags, and every other tag is as before (R93). -/
theorem Clutch.putAll_tag (hm : m ≠ 0) {k : Nat} (hk : k < 253) :
    (c.putAll n m dst tags ws).tag k = if dst ≤ k ∧ k < dst + ws.length then tags.getD (k - dst) 0 % 32 else c.tag k := by
  induction ws using List.reverseRecOn with
  | nil => exact (if_neg (by simp)).symm
  | append_singleton ws w ih =>
    rw [Clutch.putAll_snoc, Clutch.put_tag _ _ _ _ _ _ _ hm hk, ih, List.length_append, List.length_singleton]
    by_cases hlast : k = dst + ws.length
    · rw [if_pos hlast, if_pos (by omega), hlast, Nat.add_sub_cancel_left]
    · rw [if_neg hlast]
      exact if_congr (by omega) rfl rfl

end

/-! ### The effect of one operation -/

/-- What the effect of a register operation makes of its clutch. -/
def Alu.onClutch (a : Alu) (e : Env) (ws : List Lanes) (c : Clutch) : Clutch :=
  if a.long then { c with empty := (List.range a.n).foldl (fun es i => setInsert es (a.dst + i)) c.empty }
  else c.putAll e.hdr.uniform e.mask a.dst a.tags ws

/-- The flags that enter with the effect; a long-latency operation brings its own with its landing (R132). -/
def Alu.flagsNow (a : Alu) (r : List Lanes × Word) : Word := if a.long then 0 else r.2

section
variable (a : Alu) (e : Env) (ws : List Lanes) (c : Clutch)

/-- Beside registers and the mask an effect changes the set of empty registers alone. -/
theorem Alu.onClutch_frame : onlyRegisters c { a.onClutch e ws c with empty := c.empty } := by
  unfold Alu.onClutch
  split
  · rfl
  · exact (congrArg (fun y : Clutch => { y with empty := c.empty }) (Clutch.putAll_onlyRegisters c _ _ _ ws) :)

@[simp] theorem Alu.onClutch_id : (a.onClutch e ws c).id = c.id := (congrArg Clutch.id (a.onClutch_frame e ws c) :)
@[simp] theorem Alu.onClutch_pc : (a.onClutch e ws c).pc = c.pc := (congrArg Clutch.pc (a.onClutch_frame e ws c) :)
@[simp] theorem Alu.onClutch_path : (a.onClutch e ws c).path = c.path := (congrArg Clutch.path (a.onClutch_frame e ws c) :)
@[simp] theorem Alu.onClutch_exited : (a.onClutch e ws c).exited = c.exited := (congrArg Clutch.exited (a.onClutch_frame e ws c) :)
@[simp] theorem Alu.onClutch_mregs : (a.onClutch e ws c).mregs = c.mregs := (congrArg Clutch.mregs (a.onClutch_frame e ws c) :)
@[simp] theorem Alu.onClutch_mtags : (a.onClutch e ws c).mtags = c.mtags := (congrArg Clutch.mtags (a.onClutch_frame e ws c) :)
@[simp] theorem Alu.onClutch_mempty : (a.onClutch e ws c).mempty = c.mempty := (congrArg Clutch.mempty (a.onClutch_frame e ws c) :)
@[simp] theorem Alu.onClutch_mpoison : (a.onClutch e ws c).mpoison = c.mpoison := (congrArg Clutch.mpoison (a.onClutch_frame e ws c) :)

theorem Alu.onClutch_sameControl : sameControl c (a.onClutch e ws c) :=
  (congrArg (fun y : Clutch => { y with
    pc := c.pc, mregs := c.mregs, mtags := c.mtags, mempty := c.mempty, mpoison := c.mpoison }) (a.onClutch_frame e ws c) :)

/-- The registers after the effect: the results in the destination at once, or the destination empty (R89 to R91, R93). -/
theorem Alu.onClutch_operated (hm : e.mask ≠ 0) (hpath : c.path = e.cl.path) (hexited : c.exited = e.cl.exited) :
    operated e a ws c (a.onClutch e ws c) := by
  refine ⟨fun hlong => ?_, fun hlong => ?_⟩
  · have hd : a.onClutch e ws c = c.putAll e.hdr.uniform e.mask a.dst a.tags ws := by simp [Alu.onClutch, hlong]
    rw [hd]
    refine ⟨fun reg l hreg hl => Clutch.putAll_word _ _ _ _ _ _ hm hreg hl, fun reg hreg => Clutch.putAll_tag _ _ _ _ _ hm hreg,
      Clutch.putAll_mask_below _ _ _ _ _ hm, fun j _ hdst hlen => ?_, (congrArg Clutch.empty (Clutch.putAll_onlyRegisters c _ _ _ ws) :)⟩
    obtain ⟨w, rfl⟩ := List.length_eq_one_iff.mp hlen
    rw [Clutch.putAll_one, Clutch.put_mask _ _ _ _ _ hm, if_pos (by omega), hdst, Nat.add_sub_cancel_left, hpath, hexited]
    rfl
  · have hd : a.onClutch e ws c = { c with empty := (List.range a.n).foldl (fun es i => setInsert es (a.dst + i)) c.empty } := by
      simp [Alu.onClutch, hlong]
    rw [hd]
    exact ⟨rfl, fun _ _ _ => rfl, rfl, fun _ => mem_foldl_setInsert⟩

end

section
variable (a : Alu) (s : State) (e : Env) (r : List Lanes × Word)

/-- The effect of a register operation, in its three parts: the clutch, the sticky register, and what is on its way. -/
theorem Alu.effect_eq : a.effect s e r =
    { (s.modClutch e.who (a.onClutch e r.1)).flag e.who.chorus (a.flagsNow r) with
      landings := s.landings ++ promisedBy e s.fresh a r, fresh := if a.long then s.fresh + 1 else s.fresh } := by
  unfold Alu.effect promisedBy Alu.flagsNow
  cases hlong : a.long with
  | true =>
    have honClutch : a.onClutch e r.1 = fun c => { c with
        empty := (List.range a.n).foldl (fun es i => setInsert es (a.dst + i)) c.empty } := by
      funext c
      simp only [Alu.onClutch, hlong, if_true]
    rw [honClutch]
    rfl
  | false =>
    have honClutch : a.onClutch e r.1 = fun c => c.putAll e.hdr.uniform e.mask a.dst a.tags r.1 := by
      funext c
      simp only [Alu.onClutch, hlong, Bool.false_eq_true, if_false]
    simp only [honClutch, Bool.false_eq_true, if_false, List.append_nil]
    unfold State.flag
    split <;> rfl

@[simp] theorem Alu.effect_landings : (a.effect s e r).landings = s.landings ++ promisedBy e s.fresh a r := by rw [Alu.effect_eq]
@[simp] theorem Alu.effect_fresh : (a.effect s e r).fresh = if a.long then s.fresh + 1 else s.fresh := by rw [Alu.effect_eq]

theorem Alu.effect_at? {c : Clutch} (hc : s.at? e.who = some c) : (a.effect s e r).at? e.who = some (a.onClutch e r.1 c) := by
  rw [Alu.effect_eq]
  show ((s.modClutch e.who (a.onClutch e r.1)).flag e.who.chorus (a.flagsNow r)).at? e.who = _
  rw [State.at?_flag, State.at?_modClutch_self _ _ _ (a.onClutch_id e r.1), hc]
  rfl

theorem Alu.effect_sameDevice : sameDevice s (a.effect s e r) := by
  rw [Alu.effect_eq]
  simp [sameDevice]

theorem Alu.effect_sameElsewhere : sameElsewhere s (a.effect s e r) e.who := by
  rw [Alu.effect_eq]
  exact sameElsewhere_trans (sameElsewhere_modClutch s e.who _ (a.onClutch_id e r.1)) (sameElsewhere_flag _ e.who (a.flagsNow r))

theorem Alu.effect_flagged : flagged s (a.effect s e r) e.who.chorus (a.flagsNow r) := by
  rw [Alu.effect_eq]
  have h := flagged_trans (sameElsewhere_modClutch s e.who _ (a.onClutch_id e r.1)) (flagged_modClutch s e.who _)
    (flagged_flag _ e.who.chorus (a.flagsNow r))
  rwa [show 0 ||| a.flagsNow r = a.flagsNow r from BitVec.zero_or] at h

end

/-- After its effect a word moves its clutch on, which changes neither the device nor any other clutch. -/
theorem moveOn_frame (s : State) (who : ClutchId) (n : Nat) :
    let t := s.bump.modClutch who (·.advance n)
    t.at? who = (s.at? who).map (·.advance n) ∧ sameDevice s t ∧ sameElsewhere s t who ∧ flagged s t who.chorus 0
      ∧ t.landings = s.landings :=
  ⟨State.at?_modClutch_self s.bump who (·.advance n) fun _ => rfl, by simp [sameDevice],
    sameElsewhere_modClutch s.bump who (·.advance n) fun _ => rfl, flagged_modClutch s.bump who _, rfl⟩

end Sys2Proof.Machine
end

section
/-! SUPPORT. Pair words (R68 to R70): what settles O26. -/

namespace Sys2Proof.Machine

open Sys2Proof.Safety Sys2Proof.Claims

section
variable {s : State} {e : Env} {x y : PairOp} (hr : runs s e) (hm : e.mask ≠ 0)
  (hg : e.cl.ready (readsOf x.op.toNat x.f ++ readsOf y.op.toNat y.f) (writesOf x.op.toNat x.f ++ writesOf y.op.toNat y.f) = .go)
include hr hm hg

/-- A pair word whose operations do not both pass their tag checks ends the launch with FORMAT, and neither has an effect (R70). -/
theorem exec_pairWord_format (hf : ((pairAlu x s e).fails e || (pairAlu y s e).fails e) = true) :
    exec (.pairWord x y) s = fatal s e .format e.mask := by
  show runPair x y (pairAlu x) (pairAlu y) s = _
  unfold runPair
  rw [withClutch_eq s e _ hr.1 hr.2, if_neg hm]
  simp only [hg, hf, if_true]

/-- A pair word whose checks pass has the effects of its operations one after the other, both of what they compute from the state
before the word. -/
theorem exec_pairWord (hf : ((pairAlu x s e).fails e || (pairAlu y s e).fails e) = false)
    (hp : ((pairAlu x s e).poisoned e || (pairAlu y s e).poisoned e) = false) :
    exec (.pairWord x y) s
      = .next (((pairAlu y s e).effect ((pairAlu x s e).effect s e ((pairAlu x s e).result s e)) e
          ((pairAlu y s e).result s e)).bump.modClutch e.who (·.advance 16)) := by
  show runPair x y (pairAlu x) (pairAlu y) s = _
  unfold runPair
  rw [withClutch_eq s e _ hr.1 hr.2, if_neg hm]
  simp only [hg, hf, hp, Bool.false_eq_true, if_false]

end

end Sys2Proof.Machine

open Sys2Proof Sys2Proof.Machine Sys2Proof.Safety Sys2Proof.Claims

/-- Settles O26: the two effects, the second upon the clutch that the first leaves. -/
theorem pairWords : Obligations.PairWords := by
  intro s e x y _ hr hm hg a b
  refine ⟨exec_pairWord_format hr hm hg, fun hf hp => ?_⟩
  intro p q next
  obtain ⟨hat, hdevice, helse, hflags, hlandings⟩ := moveOn_frame (b.effect (a.effect s e p) e q) e.who 16
  rw [b.effect_at? _ e q (a.effect_at? s e p (State.env?_at? s e.who e hr.2))] at hat
  have hboth := sameElsewhere_trans (a.effect_sameElsewhere s e p) (b.effect_sameElsewhere (a.effect s e p) e q)
  have hbothFlags := flagged_trans (a.effect_sameElsewhere s e p) (a.effect_flagged s e p) (b.effect_flagged (a.effect s e p) e q)
  refine ⟨_, (b.onClutch e q.1 (a.onClutch e p.1 e.cl)).advance 16, a.onClutch e p.1 e.cl, exec_pairWord hr hm hg hf hp, hat,
    by simp [Clutch.advance],
    sameDevice_trans (sameDevice_trans (a.effect_sameDevice s e p) (b.effect_sameDevice _ e q)) hdevice,
    sameElsewhere_trans hboth helse, sameControl_trans (a.onClutch_sameControl e p.1 e.cl) (b.onClutch_sameControl e q.1 _),
    a.onClutch_operated e p.1 e.cl hm rfl rfl, b.onClutch_operated e q.1 _ hm (a.onClutch_path ..) (a.onClutch_exited ..),
    (b.onClutch_mregs ..).trans (a.onClutch_mregs ..), (b.onClutch_mtags ..).trans (a.onClutch_mtags ..),
    (b.onClutch_mempty ..).trans (a.onClutch_mempty ..), (b.onClutch_mpoison ..).trans (a.onClutch_mpoison ..),
    flagged_trans_zero hboth hbothFlags hflags, ?_⟩
  rw [hlandings, Alu.effect_landings, Alu.effect_landings, Alu.effect_fresh]
end


section
/-! SUPPORT. What a register operation leaves that passes its checks, with its frame: what settles O7. A clutch that is replaced by another
of its number. -/

namespace Sys2Proof.Machine

open Sys2Proof.Safety Sys2Proof.Claims

/-- The state after a register operation whose checks pass: the effect on its clutch, the move to the next word, and the frame. -/
theorem runAlu_completes {op : Nat} {f : Fields} {mk : State → Env → Alu} {s : State} {e : Env} (hissue : mayIssue s e op f)
    (hfails : (mk s e).fails e = false) (hpoison : (mk s e).poisoned e = false) :
    let a := mk s e
    let r := a.result s e
    ∃ t, runAlu op f mk s = .next t ∧ t.at? e.who = some ((a.onClutch e r.1 e.cl).advance f.len.bytes) ∧ sameDevice s t
      ∧ sameElsewhere s t e.who ∧ flagged s t e.who.chorus (a.flagsNow r) ∧ t.landings = s.landings ++ promisedBy e s.fresh a r
      ∧ t.fresh = if a.long then s.fresh + 1 else s.fresh := by
  intro a r
  obtain ⟨hat, hdevice, helse, hflags, hlandings⟩ := moveOn_frame (a.effect s e r) e.who f.len.bytes
  rw [a.effect_at? s e r (State.env?_at? s e.who e hissue.1.2)] at hat
  refine ⟨_, runAlu_eq op f mk s e hissue hfails hpoison, hat, sameDevice_trans (a.effect_sameDevice s e r) hdevice,
    sameElsewhere_trans (a.effect_sameElsewhere s e r) helse,
    flagged_trans_zero (a.effect_sameElsewhere s e r) (a.effect_flagged s e r) hflags, ?_, a.effect_fresh s e r⟩
  rw [hlandings, Alu.effect_landings]

/-! ### Another clutch in the place of one -/

theorem updateFirst_congr {α : Type} {p : α → Bool} {g h : α → α} (hgh : ∀ x, p x = true → g x = h x) (xs : List α) :
    updateFirst p g xs = updateFirst p h xs := by
  induction xs with
  | nil => rfl
  | cons x rest ih =>
    unfold updateFirst
    split
    · rw [hgh x ‹_›]
    · rw [ih]

/-- A clutch of the same number in the place of another, as a change that keeps every number. -/
theorem State.modClutch_const (s : State) (who : ClutchId) (d : Clutch) :
    s.modClutch who (fun _ => d) = s.modClutch who (fun x => if x.id = who.clutch then d else x) := by
  unfold State.modClutch Chorus.modClutch
  refine congrArg (s.modChorus who.chorus) (funext fun c => ?_)
  rw [updateFirst_congr (fun x hx => (if_pos (by simpa using hx)).symm) c.clutches]

theorem Clutch.replace_id {d : Clutch} {id : Nat} (hd : d.id = id) (x : Clutch) : (if x.id = id then d else x).id = x.id := by
  split <;> simp_all

theorem Chorus.clutch?_id {c : Chorus} {id : Nat} {x : Clutch} (h : c.clutch? id = some x) : x.id = id := by
  simpa using List.find?_some h

theorem State.at?_id {s : State} {who : ClutchId} {c : Clutch} (h : s.at? who = some c) : c.id = who.clutch := by
  obtain ⟨ch, -, hc⟩ := Option.bind_eq_some_iff.mp h
  exact Chorus.clutch?_id hc

theorem State.at?_modClutch_const {s : State} {who : ClutchId} {c : Clutch} (d : Clutch) (hc : s.at? who = some c)
    (hd : d.id = who.clutch) : (s.modClutch who fun _ => d).at? who = some d := by
  rw [State.modClutch_const, State.at?_modClutch_self _ _ _ (Clutch.replace_id hd), hc, Option.map_some, if_pos (State.at?_id hc)]

theorem sameElsewhere_modClutch_const (s : State) (who : ClutchId) {d : Clutch} (hd : d.id = who.clutch) :
    sameElsewhere s (s.modClutch who fun _ => d) who := by
  rw [State.modClutch_const]
  exact sameElsewhere_modClutch s who _ (Clutch.replace_id hd)

end Sys2Proof.Machine

open Sys2Proof Sys2Proof.Machine Sys2Proof.Safety Sys2Proof.Claims

/-- Settles O7: the effect of the instruction on its clutch at once, or its landing on the way. -/
theorem registerInstructionsComplete : Obligations.RegisterInstructionsComplete := by
  intro s e i op f mk hi hissue hfails hpoison a r
  obtain ⟨t, hrun, hat, hdevice, helse, hflagged, hlandings, hfresh⟩ := runAlu_completes hissue hfails hpoison
  obtain ⟨hnow, hlater⟩ := a.onClutch_operated e r.1 e.cl hissue.2.1 rfl rfl
  refine ⟨t, (a.onClutch e r.1 e.cl).advance f.len.bytes, (exec_registerForm hi s).trans hrun, hat, by simp [Clutch.advance],
    hdevice, helse, sameControl_trans (a.onClutch_sameControl e r.1 e.cl) rfl, a.onClutch_mregs .., a.onClutch_mtags ..,
    a.onClutch_mempty .., a.onClutch_mpoison .., fun hlong => ?_, fun hlong => ?_⟩
  · obtain ⟨hwrote, htagged, hbelow, htriple, hempty⟩ := hnow hlong
    rw [hlong] at hfresh
    rw [Alu.flagsNow, hlong] at hflagged
    rw [promisedBy, hlong] at hlandings
    exact ⟨hwrote, htagged, hbelow, htriple, hflagged, hempty, hlandings.trans (List.append_nil _), hfresh⟩
  · obtain ⟨hmask, hwords, htags, hempty⟩ := hlater hlong
    rw [hlong] at hfresh
    rw [Alu.flagsNow, hlong] at hflagged
    rw [promisedBy, hlong] at hlandings
    exact ⟨hmask, hwords, htags, hflagged, fun k hk => (hempty _).mpr (.inr ⟨by omega, by omega⟩), hfresh, hlandings⟩
end

section
/-! SUPPORT. The control and status registers (R96 to R103, R129, R130): what settles O15. -/

namespace Sys2Proof.Machine

open Sys2Proof.Safety Sys2Proof.Claims

/-- A well-formed RDCR or WRCR names a register of R96. -/
theorem mem_controlNumbers {n : Nat} (h : (decide (n ≤ 10) || (decide (16 ≤ n) && decide (n ≤ 23))) = true) :
    n ∈ [0, 1, 2, 3, 4, 5, 6, 7, 8, 9, 10, 16, 17, 18, 19, 20, 21, 22, 23] := by
  simp only [Bool.or_eq_true, Bool.and_eq_true, decide_eq_true_eq] at h
  simp only [List.mem_cons, List.not_mem_nil, or_false]
  omega

/-! ### RDCR (R129) -/

theorem exec_rdcr {s : State} {e : Env} (f : Fields) (hr : runs s e) (hp : f.mod = 2 → s.flagsPending e.who = false) :
    exec (.rdcr f) s = runAlu 0x2C f (aluRdcr f) s := by
  show execRdcr f s = _
  unfold execRdcr
  rw [withClutch_eq s e _ hr.1 hr.2, if_neg]
  rintro ⟨-, hmod, hpending⟩
  exact absurd hpending (by simp [hp hmod])

theorem aluRdcr_lane (f : Fields) (s : State) (e : Env) {l : Nat} (hl : l < laneCount) :
    lane (((aluRdcr f s e).result s e).1.getD 0 []) l = e.control f.mod.toNat l := lane_lanesOf _ l hl

theorem readControlRegister_holds : Claims.readControlRegister := by
  intro s e f hw hissue hp
  have hm := hissue.2.1
  obtain ⟨t, hrun, hat, -, -, hflagged, -, -⟩ := runAlu_completes (mk := aluRdcr f) hissue rfl rfl
  have hwrote := (((aluRdcr f s e).onClutch_operated e ((aluRdcr f s e).result s e).1 e.cl hm rfl rfl).1 rfl).1
  refine ⟨t, _, (exec_rdcr f hissue.1 hp).trans hrun, hat, by simp [Clutch.advance], fun reg l hreg hl => ?_, hflagged⟩
  refine (hwrote reg l hreg hl).trans (ite_congr rfl (fun hin => ?_) fun _ => rfl)
  have hlane : (if isUniform e.hdr.uniform reg = true then lowest e.mask else l) < laneCount := by
    split
    · exact lt_of_inMask (inMask_lowest hm)
    · exact hl
  have hfirst : reg - (aluRdcr f s e).dst = 0 := Nat.sub_eq_zero_of_le (Nat.le_of_lt_succ hin.2.1)
  have hnumber := mem_controlNumbers (modOk_of_wellFormed rfl rfl hw)
  simp only [hfirst, aluRdcr_lane f s e hlane]
  generalize f.mod.toNat = n at hnumber ⊢
  simp only [List.mem_cons, List.not_mem_nil, or_false] at hnumber
  rcases hnumber with rfl | rfl | rfl | rfl | rfl | rfl | rfl | rfl | rfl | rfl | rfl | rfl | rfl | rfl | rfl | rfl | rfl | rfl | rfl <;>
    rfl

/-! ### WRCR (R130) -/

/-- What a write of a control register makes of the clutch, field by field. -/
theorem Env.writeControl_eq (e : Env) (n : Nat) (w : Word) : e.writeControl n w = { e.cl with
    fmode := if n = 0 then w &&& 0xCF else e.cl.fmode
    mcr := if n = 1 then w &&& 0xFF07 else e.cl.mcr
    accbase := if n = 3 ∧ e.windowOk (w &&& 0x1FF).toNat e.cl.acclim.toNat then w &&& 0x1FF else e.cl.accbase
    acclim := if n = 4 ∧ e.windowOk e.cl.accbase.toNat (w &&& 0x3FF).toNat then w &&& 0x3FF else e.cl.acclim
    ehbase := if n = 10 then w &&& 0xFFFFFFE0 else e.cl.ehbase } := by
  unfold Env.writeControl
  dsimp only
  split
  case h_3 => generalize e.windowOk _ _ = ok; cases ok <;> rfl
  case h_4 => generalize e.windowOk _ _ = ok; cases ok <;> rfl
  all_goals simp_all

theorem Env.windowOk_iff (e : Env) (base limit : Nat) :
    e.windowOk base limit = true ↔ e.accStart ≤ base ∧ base ≤ limit ∧ limit ≤ e.accStart + e.hdr.accRows := by
  simp only [Env.windowOk, Bool.and_eq_true, decide_eq_true_eq]
  tauto

theorem wrcr_poisonIn {e : Env} {f : Fields} (hw : WellFormed e.ranges (.wrcr f) = true)
    (hp : f.len = .w64 → ∀ l, e.selected (intSrc f 1 1 1) e.low = some l → e.poisonAt f.a.toNat l = false) :
    e.poisonIn (intSrc f 1 1 1) (e.selected (intSrc f 1 1 1) e.low).toList = false := by
  have hlen := lengthOk_of_validOp (op := 0x2D) (f := f) rfl (Bool.and_eq_true_iff.mp hw).1
  cases hf : f.len with
  | w64 =>
    cases hsel : e.selected (intSrc f 1 1 1) e.low with
    | none => simp [Env.poisonIn]
    | some l => simpa [Env.poisonIn, intSrc, Fields.source] using fun _ _ => hp hf l hsel
  | w96 => simp [Env.poisonIn, intSrc, hf]
  | w128 => simp [Shape.lengthOk, intShape, Shape.base, hf] at hlen

/-- What a WRCR makes of the state before its clutch goes on: sticky is the chorus's, every other register the clutch's. -/
def State.writeControl (s : State) (e : Env) (number : BitVec 6) (w : Word) : State :=
  if number = 2 then s.modChorus e.who.chorus (·.writeSticky s.now e.who.clutch w)
  else s.modClutch e.who (fun _ => e.writeControl number.toNat w)

/-- A WRCR whose source holds no poisoned word writes its register, and the clutch goes on. -/
theorem exec_wrcr {s : State} {e : Env} {f : Fields} (hw : WellFormed e.ranges (.wrcr f) = true) (hissue : mayIssue s e 0x2D f)
    (hp : f.len = .w64 → ∀ l, e.selected (intSrc f 1 1 1) e.low = some l → e.poisonAt f.a.toNat l = false) :
    exec (.wrcr f) s = .next ((s.writeControl e f.mod (word s e f 1 1 e.low)).bump.modClutch e.who (·.advance f.len.bytes)) := by
  show execWrcr f s = _
  unfold execWrcr
  rw [issue_eq 0x2D f s e _ hissue, if_neg (by simp [wrcr_poisonIn hw hp])]
  rfl

theorem sameElsewhere_writeSticky (s : State) (who : ClutchId) (now clutch : Nat) (w : Word) :
    sameElsewhere s (s.modChorus who.chorus (·.writeSticky now clutch w)) who := by
  refine ⟨fun uid hne => State.chorus?_modChorus_other s who.chorus uid (·.writeSticky now clutch w) (fun _ => rfl) hne,
    fun c hc => ⟨c.writeSticky now clutch w, ?_, rfl, fun _ _ => rfl⟩⟩
  rw [State.chorus?_modChorus_self _ _ (·.writeSticky now clutch w) fun _ => rfl, hc]
  rfl

/-- The state after the write: the clutch, the sticky register, and the frame. -/
theorem State.writeControl_leaves {s : State} {e : Env} (number : BitVec 6) (w : Word) (he : s.env? e.who = some e) :
    let u := s.writeControl e number w
    u.at? e.who = some (e.writeControl number.toNat w) ∧ sameDevice s u ∧ sameElsewhere s u e.who ∧ u.landings = s.landings
      ∧ ∃ d, u.chorus? e.who.chorus = some d
        ∧ d.sticky = if number = 2 then (e.ch.writeSticky s.now e.who.clutch w).sticky else e.ch.sticky := by
  intro u
  obtain ⟨-, hchorus, -, hclutch, -, -⟩ := State.env?_some s e.who e he
  have hat := State.env?_at? s e.who e he
  by_cases hsticky : number = 2
  · have hu : u = s.modChorus e.who.chorus (·.writeSticky s.now e.who.clutch w) := if_pos hsticky
    have hd : u.chorus? e.who.chorus = some (e.ch.writeSticky s.now e.who.clutch w) := by
      rw [hu, State.chorus?_modChorus_self _ _ (·.writeSticky s.now e.who.clutch w) fun _ => rfl, hchorus]
      rfl
    have hsame : e.writeControl number.toNat w = e.cl := by rw [hsticky]; rfl
    refine ⟨?_, by simp [hu, sameDevice], hu ▸ sameElsewhere_writeSticky s e.who _ _ w, hu ▸ rfl, _, hd, (if_pos hsticky).symm⟩
    rw [State.at?, hd, hsame]
    exact hclutch
  · have hu : u = s.modClutch e.who fun _ => e.writeControl number.toNat w := if_neg hsticky
    have hid : (e.writeControl number.toNat w).id = e.who.clutch := by
      rw [Env.writeControl_eq]
      exact (State.at?_id hat :)
    refine ⟨hu ▸ State.at?_modClutch_const _ hat hid, by simp [hu, sameDevice], hu ▸ sameElsewhere_modClutch_const s e.who hid, hu ▸ rfl,
      e.ch.modClutch e.who.clutch fun _ => e.writeControl number.toNat w, ?_, (if_neg hsticky).symm⟩
    rw [hu, State.chorus?_modClutch_self, hchorus]
    rfl

/-- The write of sticky, flag by flag (R100, R130). -/
theorem Chorus.writeSticky_sticky (c : Chorus) (now clutch : Nat) (w : Word) : (c.writeSticky now clutch w).sticky =
    (c.sticky &&& ~~~w &&& 0x1F) ||| (c.stickyNow.at_ now).set
      ||| ((if clutch + 1 < (c.stickyNow.at_ now).armer then c.sticky else w) &&& 0x1F0000) := by
  have hflags : stickyWrite c.sticky w &&& 0x1F = c.sticky &&& ~~~w &&& 0x1F := by
    have hnone : w &&& 0x1F0000 &&& 0x1F = 0 := by rw [BitVec.and_assoc]; exact BitVec.and_zero
    rw [stickyWrite, BitVec.and_or_distrib_right, hnone, BitVec.and_assoc _ (0x1F : Word)]
    exact BitVec.or_zero
  simp only [Chorus.writeSticky, hflags]

theorem mod_eq_iff {m : BitVec 6} {n : Nat} (hn : n < 64) : m = BitVec.ofNat 6 n ↔ m.toNat = n := by
  rw [← BitVec.toNat_inj, BitVec.toNat_ofNat, Nat.mod_eq_of_lt hn]

theorem writeControlRegister_holds : Claims.writeControlRegister := by
  intro s e f hw hissue hp w inside
  obtain ⟨hat, hdevice, helse, hlandings, d, hd, hsticky⟩ := State.writeControl_leaves f.mod w hissue.1.2
  obtain ⟨hatNext, hdeviceNext, helseNext, -, hlandingsNext⟩ := moveOn_frame (s.writeControl e f.mod w) e.who f.len.bytes
  rw [hat, Env.writeControl_eq] at hatNext
  have hlow9 : (w &&& 0x1FF).toNat = w.toNat % 512 := by rw [BitVec.toNat_and]; exact Nat.and_two_pow_sub_one_eq_mod w.toNat 9
  have hlow10 : (w &&& 0x3FF).toNat = w.toNat % 1024 := by rw [BitVec.toNat_and]; exact Nat.and_two_pow_sub_one_eq_mod w.toNat 10
  have hnext : ((s.writeControl e f.mod w).bump.modClutch e.who (·.advance f.len.bytes)).chorus? e.who.chorus
      = some (d.modClutch e.who.clutch (·.advance f.len.bytes)) := by
    rw [State.chorus?_modClutch_self, State.chorus?_bump, hd]
    rfl
  rw [hlow9, hlow10] at hatNext
  refine ⟨_, _, d.modClutch e.who.clutch (·.advance f.len.bytes), exec_wrcr hw hissue hp, hatNext, hnext,
    sameDevice_trans hdevice hdeviceNext, sameElsewhere_trans helse helseNext, hlandingsNext.trans hlandings, rfl, rfl,
    if_congr (mod_eq_iff (n := 0) (by decide)).symm rfl rfl, if_congr (mod_eq_iff (n := 1) (by decide)).symm rfl rfl,
    fun h2 => ?_, fun h2 => ?_, fun h3 => ⟨fun hin => ?_, fun hout => ?_⟩, fun h3 => ?_, fun h4 => ⟨fun hin => ?_, fun hout => ?_⟩,
    fun h4 => ?_, if_congr (mod_eq_iff (n := 10) (by decide)).symm rfl rfl⟩
  · exact (hsticky.trans (if_pos h2)).trans (Chorus.writeSticky_sticky ..)
  · exact hsticky.trans (if_neg h2)
  · exact if_pos ⟨by simp [h3], (e.windowOk_iff ..).mpr hin⟩
  · exact if_neg fun h => hout ((e.windowOk_iff ..).mp h.2)
  · exact if_neg fun h => h3 ((mod_eq_iff (by decide)).mpr h.1)
  · exact if_pos ⟨by simp [h4], (e.windowOk_iff ..).mpr hin⟩
  · exact if_neg fun h => hout ((e.windowOk_iff ..).mp h.2)
  · exact if_neg fun h => h4 ((mod_eq_iff (by decide)).mpr h.1)

/-- Settles O15, register by register. -/
theorem controlRegisters : Obligations.ControlRegisters := ⟨readControlRegister_holds, writeControlRegister_holds⟩

end Sys2Proof.Machine
end

section
/-! SUPPORT. Accesses that pass the checks of R235 and issue: what settles O27. -/

namespace Sys2Proof.Machine

open Sys2Proof.Safety Sys2Proof.Claims

/-! ### Masks of failing lanes -/

/-- No lane meets a test: the mask of those that do is empty. -/
theorem maskOf_eq_zero {p : Nat → Bool} (h : ∀ l, p l = false) : maskOf p = 0 := by
  refine BitVec.eq_of_getLsbD_eq fun l _ => ?_
  have hl := inMask_maskOf p l
  rw [h, Bool.and_false] at hl
  simpa [inMask] using hl

theorem misaligned_eq_zero {elems : List Elem} (h : ∀ x ∈ elems, x.addr % x.bytes = 0) : misaligned elems = 0 :=
  maskOf_eq_zero fun l => by simpa [List.any_eq_false] using fun x hx _ => h x hx

/-! ### Places (R235) -/

/-- Filling a first-level TLB changes the TLBs of the dies alone, neither what is gathered there nor any other field. -/
theorem State.touchTlb_onlyDies (s : State) (c : CoreId) (ctx : Nat) (vas : List Nat) : s.OnlyDies (s.touchTlb c ctx vas) := by
  refine State.OnlyDies.foldl _ (fun s va => ?_) _ s
  split
  · rfl
  · exact .refl s

theorem State.touchTlb_windows (s : State) (c : CoreId) (ctx : Nat) (vas : List Nat) (d : Nat) :
    ((s.touchTlb c ctx vas).die d).windows = (s.die d).windows := by
  unfold State.touchTlb
  induction vas generalizing s with
  | nil => rfl
  | cons va rest ih =>
    rw [List.foldl_cons, ih]
    split
    · exact State.die_modDie_field Die.windows s c.die d _ fun _ => rfl
    · rfl

/-- The state in which the accesses of a word are made: a global one has filled its core's TLB. -/
def State.reached (s : State) (e : Env) (space : Nat) (elems : List Elem) : State :=
  if space = 0 then s.touchTlb e.core e.l.ctx (elems.flatMap Elem.pages) else s

theorem State.reached_onlyDies (s : State) (e : Env) (space : Nat) (elems : List Elem) : s.OnlyDies (s.reached e space elems) := by
  unfold State.reached
  split
  · exact State.touchTlb_onlyDies s _ _ _
  · exact .refl s

theorem State.reached_windows (s : State) (e : Env) (space : Nat) (elems : List Elem) (d : Nat) :
    ((s.reached e space elems).die d).windows = (s.die d).windows := by
  unfold State.reached
  split
  · exact State.touchTlb_windows s _ _ _ d
  · rfl

/-- Elements that pass the checks of R235 go on to their places. -/
theorem withPlaces_eq {s : State} {e : Env} {space : Nat} {write : Bool} {elems : List Elem} (h : reachable s e space write elems)
    (k : State → Space → List (Nat × List Nat) → Out) :
    withPlaces s e space write elems k = k (s.reached e space elems) (spaceOf space) (placesOf s e space elems) := by
  unfold reachable at h
  unfold withPlaces State.reached spaceOf placesOf
  by_cases hs : space = 0
  · simp only [hs, if_true] at h ⊢
    obtain ⟨hpages, hhome⟩ := h
    unfold withGlobal
    simp only [hpages]
    rw [if_neg]
    rw [not_not]
    refine maskOf_eq_zero fun l => ?_
    simpa [List.any_eq_false] using fun x hx _ va hva => hhome x hx va hva
  · simp only [hs, if_false] at h ⊢
    unfold withLocal
    dsimp only
    rw [if_neg]
    rw [not_not]
    refine maskOf_eq_zero fun l => ?_
    simpa [List.any_eq_false] using fun x hx _ => by simpa [Option.isSome_iff_ne_none] using h x hx

/-- An access that is in order waits for no earlier one of its clutch (R247). -/
theorem State.mustWait_reached {s : State} {e : Env} {space : Nat} {places : List (Nat × List Nat)} {store : Bool} (elems : List Elem)
    (h : inOrder s e space places store) : (s.reached e space elems).mustWait e (spaceOf space) places store = false := by
  obtain ⟨haccess, hwrite⟩ := h
  have hlandings : (s.reached e space elems).landings = s.landings := (congrArg State.landings (s.reached_onlyDies e space elems) :)
  have haccess' : (s.reached e space elems).accessPending e.who (spaceOf space) (places.flatMap (·.2)) = false := by
    rw [← haccess, State.accessPending, hlandings]
    rfl
  have hwrite' : ∀ pas, (s.reached e space elems).writePending e.who pas = s.writePending e.who pas := by
    intro pas
    simp only [State.writePending, State.reached_windows]
  unfold State.mustWait
  dsimp only
  rw [haccess', hwrite']
  cases store with
  | true => simp
  | false =>
    by_cases hs : space = 0
    · simp [hwrite rfl hs]
    · simp [spaceOf, hs]

/-! ### A landing that has been promised (R91) -/

/-- The clutch waits for a destination: its registers are empty. -/
def Clutch.awaits (c : Clutch) (dst : LandDst) : Clutch :=
  match dst with
  | .ordinary first n => { c with empty := (List.range n).foldl (fun es i => setInsert es (first + i)) c.empty }
  | .moment reg => { c with mempty := setInsert c.mempty reg }

/-- Of the clutch only the sets of empty registers change. -/
theorem Clutch.awaits_frame (c : Clutch) (dst : LandDst) : { c.awaits dst with empty := c.empty, mempty := c.mempty } = c := by
  cases dst <;> rfl

@[simp] theorem Clutch.awaits_id (c : Clutch) (dst : LandDst) : (c.awaits dst).id = c.id := (congrArg Clutch.id (c.awaits_frame dst) :)

theorem Clutch.awaits_word (c : Clutch) (dst : LandDst) (n reg l : Nat) : (c.awaits dst).word n reg l = c.word n reg l := by
  cases dst <;> rfl

theorem Clutch.awaits_moment (c : Clutch) (dst : LandDst) (reg l : Nat) : (c.awaits dst).moment reg l = c.moment reg l := by
  cases dst <;> rfl

theorem Clutch.awaits_sameControl (c : Clutch) (dst : LandDst) : sameControl c (c.awaits dst) := by
  cases dst <;> rfl

theorem Clutch.mem_empty_awaits (c : Clutch) (first n reg : Nat) :
    reg ∈ (c.awaits (.ordinary first n)).empty ↔ reg ∈ c.empty ∨ (first ≤ reg ∧ reg < first + n) := mem_foldl_setInsert

theorem Clutch.mem_mempty_awaits (c : Clutch) (reg : Nat) : reg ∈ (c.awaits (.moment reg)).mempty := mem_setInsert.mpr (.inr rfl)

/-- A promise in its two parts: the clutch, and what is on its way. -/
theorem State.produce_eq (s : State) (p : Landing) : s.produce p =
    { s.modClutch p.who (·.awaits p.dst) with landings := s.landings ++ [{ p with id := s.fresh }], fresh := s.fresh + 1 } := by
  rfl

theorem State.produce_at? {s : State} {p : Landing} {c : Clutch} (h : s.at? p.who = some c) :
    (s.produce p).at? p.who = some (c.awaits p.dst) := by
  show (s.modClutch p.who (·.awaits p.dst)).at? p.who = _
  rw [State.at?_modClutch_self _ _ (·.awaits p.dst) (fun c => c.awaits_id p.dst), h]
  rfl

theorem State.produce_sameElsewhere (s : State) (p : Landing) : sameElsewhere s (s.produce p) p.who :=
  sameElsewhere_modClutch s p.who (·.awaits p.dst) fun c => c.awaits_id p.dst

theorem sameElsewhere_of_choruses {s t : State} (h : t.choruses = s.choruses) (who : ClutchId) : sameElsewhere s t who := by
  have hchorus : ∀ k, t.chorus? k = s.chorus? k := fun k => by rw [State.chorus?, h]; rfl
  exact ⟨fun k _ => hchorus k, fun c hc => ⟨c, (hchorus _).trans hc, rfl, fun _ _ => rfl⟩⟩

/-- A word whose access has been started: its clutch waits for the destination and has gone on, the access is on its way, and neither
memory nor another clutch has changed. -/
theorem startAccess_issues {s u : State} {e : Env} (p : Landing) (flags : Word) (hu : s.OnlyDies u) (he : s.env? e.who = some e) :
    ∃ t, startAccess u e p flags = .next t ∧ t.at? e.who = some ((e.cl.awaits p.dst).advance 16) ∧ t.mem = s.mem
      ∧ t.written = s.written ∧ t.poisoned = s.poisoned ∧ sameElsewhere s t e.who
      ∧ t.landings = s.landings ++ [{ p with
          id := u.fresh, who := e.who, mask := e.mask, holds := p.access.any fun a => a.acquire.isSome }] := by
  let q : Landing := { p with who := e.who, mask := e.mask, holds := p.access.any fun a => a.acquire.isSome }
  let v := (u.produce q).flag e.who.chorus flags
  have hlandings : u.landings = s.landings := (congrArg State.landings hu.eq :)
  have hat : u.at? e.who = some e.cl := by
    rw [State.at?, State.chorus?, hu.choruses]
    exact State.env?_at? s e.who e he
  obtain ⟨hatNext, -, helseNext, -, hlandingsNext⟩ := moveOn_frame v e.who 16
  rw [State.at?_flag, State.produce_at? (p := q) hat] at hatNext
  have helse := sameElsewhere_trans (sameElsewhere_of_choruses hu.choruses e.who)
    (sameElsewhere_trans (State.produce_sameElsewhere u q) (sameElsewhere_flag (u.produce q) e.who flags))
  refine ⟨_, rfl, hatNext, ?_, ?_, ?_, sameElsewhere_trans helse helseNext, ?_⟩
  · simpa using hu.mem
  · simpa using (congrArg State.written hu.eq :)
  · simpa using (congrArg State.poisoned hu.eq :)
  · rw [hlandingsNext, State.flag_landings, State.produce_landings, hlandings]

/-! ### Loads, gathers, atomics and compare-and-swaps (R171, R236, R241 to R243) -/

/-- What lets a word that reads memory issue: its sources, its addresses and its order pass their checks. -/
structure AccessChecked (s : State) (e : Env) (m : MemoryForm) : Prop where
  issue : mayIssue s e m.op m.f
  sources : sourcesPass e m.srcs
  drained : m.release = true → s.drained e = true
  aligned : m.aligned = true → ∀ x ∈ e.elems s m.f m.space m.bytes m.gather, x.addr % x.bytes = 0
  reachable : reachable s e m.space m.write (e.elems s m.f m.space m.bytes m.gather)
  inOrder : inOrder s e m.space (placesOf s e m.space (e.elems s m.f m.space m.bytes m.gather)) false

/-- The access that a word promises: what it does, at the places of the active lanes. -/
def carries (s : State) (e : Env) (m : MemoryForm) (p : Landing) : Prop :=
  p.dst = m.dst ∧ p.tag = m.tag ∧ ∃ a, p.access = some a ∧ a.op = m.access s e ∧ a.space = spaceOf m.space
    ∧ a.places = placesOf s e m.space (e.elems s m.f m.space m.bytes m.gather) ∧ a.acquire = acquireOf m.f

/-- The word answers the start of the access that it promises. -/
def startsAccess (s : State) (e : Env) (m : MemoryForm) (out : Out) : Prop :=
  ∃ p flags, out = startAccess (s.reached e m.space (e.elems s m.f m.space m.bytes m.gather)) e p flags ∧ carries s e m p

theorem any_srcFails_of_sourcesPass {e : Env} {srcs : List Src} (h : sourcesPass e srcs) : srcs.any e.srcFails = false := by
  simpa [List.any_eq_false] using fun x hx => (h x hx).1

theorem any_poisonIn_of_sourcesPass {e : Env} {srcs : List Src} (h : sourcesPass e srcs) :
    srcs.any (fun x => e.poisonIn x (e.readLanes x)) = false := by
  simpa [List.any_eq_false] using fun x hx => (h x hx).2

section
variable {s : State} {e : Env}

/-- A memory word whose checks pass comes to its places, in a state that differs at most in its dies. -/
theorem memoryWord_places {m : MemoryForm} (h : AccessChecked s e m) (k : Env → Word → Out) :
    memoryWord m.op m.f m.release m.srcs s k = k e (fmtFlag (m.srcs.any e.srcFmt)) :=
  memoryWord_eq m.op m.f m.release m.srcs s e k h.issue (any_srcFails_of_sourcesPass h.sources) (any_poisonIn_of_sourcesPass h.sources)
    h.drained

/-- What follows the checks of a memory word that makes an access of its landing. -/
theorem withPlaces_starts {m : MemoryForm} (h : AccessChecked s e m) (p : State → Space → List (Nat × List Nat) → Landing) (flags : Word)
    (hp : ∀ u, carries s e m (p u (spaceOf m.space) (placesOf s e m.space (e.elems s m.f m.space m.bytes m.gather)))) :
    startsAccess s e m (withPlaces s e m.space m.write (e.elems s m.f m.space m.bytes m.gather) fun s sp places =>
      if s.mustWait e sp places false then .next s else startAccess s e (p s sp places) flags) := by
  refine ⟨_, flags, ?_, hp (s.reached e m.space (e.elems s m.f m.space m.bytes m.gather))⟩
  rw [withPlaces_eq h.reachable, State.mustWait_reached _ h.inOrder]
  rfl

/-- A word whose addresses must be aligned goes on when they are (R235). -/
theorem misaligned_else {m : MemoryForm} (h : AccessChecked s e m) (ha : m.aligned = true) (bad good : Out) :
    (if misaligned (e.elems s m.f m.space m.bytes m.gather) ≠ 0 then bad else good) = good :=
  if_neg (not_not.mpr (misaligned_eq_zero (h.aligned ha)))

theorem startsAccess_of_eq {m : MemoryForm} {out out' : Out} (h : out = out') (hs : startsAccess s e m out') : startsAccess s e m out :=
  h ▸ hs

theorem load_starts {op : Nat} {f : Fields} {space : Nat} {gather : Bool} (h : AccessChecked s e (memoryForm.load op f space gather)) :
    startsAccess s e (memoryForm.load op f space gather) (loadForm op f space gather s) :=
  startsAccess_of_eq (memoryWord_places h _) (withPlaces_starts h _ _ fun _ => ⟨rfl, rfl, _, rfl, rfl, rfl, rfl, rfl⟩)

theorem mld_starts {f : Fields} {m : MemoryForm} (hm : memoryForm (.mld f) = some m) (h : AccessChecked s e m) :
    startsAccess s e m (execMld f s) := by
  cases hm
  exact startsAccess_of_eq (memoryWord_places h _) (withPlaces_starts h _ _ fun _ => ⟨rfl, rfl, _, rfl, rfl, rfl, rfl, rfl⟩)

theorem rmw_starts {op : Nat} {f : Fields} {space : Nat} (h : AccessChecked s e (memoryForm.rmw op f space)) :
    startsAccess s e (memoryForm.rmw op f space) (rmwForm op f space s) := by
  unfold rmwForm atomicForm
  refine startsAccess_of_eq (memoryWord_places h _) (startsAccess_of_eq (misaligned_else h rfl _ _) ?_)
  exact withPlaces_starts h _ _ fun _ => ⟨rfl, rfl, _, rfl, rfl, rfl, rfl, rfl⟩

theorem swap_starts {op : Nat} {f : Fields} {space : Nat} (h : AccessChecked s e (memoryForm.swap op f space)) :
    startsAccess s e (memoryForm.swap op f space) (casForm op f space s) := by
  unfold casForm atomicForm
  refine startsAccess_of_eq (memoryWord_places h _) (startsAccess_of_eq (misaligned_else h rfl _ _) ?_)
  exact withPlaces_starts h _ _ fun _ => ⟨rfl, rfl, _, rfl, rfl, rfl, rfl, rfl⟩

/-- Every word of the table whose checks pass starts its access. -/
theorem exec_memoryForm {i : Instr} {m : MemoryForm} (hi : memoryForm i = some m) (h : AccessChecked s e m) :
    startsAccess s e m (exec i s) := by
  cases i with
  | ld f | lds f | ldc f | gath f | gaths f => cases hi; exact load_starts h
  | mld f => exact mld_starts hi h
  | atom f | atoms f | atomc f => cases hi; exact rmw_starts h
  | cas f | cass f | casc f => cases hi; exact swap_starts h
  | _ => cases hi

end

end Sys2Proof.Machine

open Sys2Proof Sys2Proof.Machine Sys2Proof.Safety Sys2Proof.Claims

/-- Settles O27: the word starts its access, and what has been started is on its way. -/
theorem loadsAndAtomicsIssue : Obligations.LoadsAndAtomicsIssue := by
  intro s e i m hi hw hissue hsources hdrained elems haligned hreach horder
  obtain ⟨p, flags, hexec, hdst, htag, a, haccess, hop, hspace, hplaces, hacquire⟩ :=
    exec_memoryForm hi ⟨hissue, hsources, hdrained, haligned, hreach, horder⟩
  obtain ⟨t, hstart, hat, hmem, hwritten, hpoisoned, helse, hlandings⟩ :=
    startAccess_issues p flags (s.reached_onlyDies e m.space elems) hissue.1.2
  refine ⟨t, _, _, a, hexec.trans hstart, hat, ?_, hmem, hwritten, hpoisoned, helse, ?_, ?_, ?_, hlandings, rfl, hdst, rfl, htag, haccess,
    hop, hspace, hplaces, hacquire, ?_⟩
  · exact congrArg (· + 16) (congrArg Clutch.pc (e.cl.awaits_frame p.dst) :)
  · exact sameControl_trans (e.cl.awaits_sameControl p.dst) rfl
  · exact e.cl.awaits_word p.dst
  · exact e.cl.awaits_moment p.dst
  · rw [hdst]
    cases m.dst with
    | ordinary first n => exact fun k hk => (e.cl.mem_empty_awaits first n _).mpr (.inr ⟨by omega, by omega⟩)
    | moment reg => exact e.cl.mem_mempty_awaits reg
end

section
/-! SUPPORT. A producer that waits for a copy does not land, whatever else lets it: what refutes O30. -/

namespace Sys2Proof.Machine

open Sys2Proof.Safety Sys2Proof.Claims

/-- The status of a TCP.CANCEL on its way to register 4, which is written once the copy of number 7 has stopped (R288). -/
def cancelStatus : Landing := { id := 0, who := { chorus := 0, clutch := 0 }, dst := .ordinary 4 1, mask := 1, words := [[0]], copy := some 7 }

/-- The clutch that has cancelled the copy, its chorus and its launch. -/
def cancelling : Env := {
  who := { chorus := 0, clutch := 0 }, l := { uid := 0, ctx := 0 }
  ch := { uid := 0, launch := 0, index := 0, die := 0
          clutches := [{ id := 0, pos := 0, sub := 0, slot := 0, resPos := 0, pc := 0, held := 8, empty := [4] }] }
  cl := { id := 0, pos := 0, sub := 0, slot := 0, resPos := 0, pc := 0, held := 8, empty := [4] } }

/-- A copy of 64 bytes of global memory to the next 64 (R277). -/
def copyOf64 : Desc := {
  tile := 0, ssp := 0, dsp := 0, pad := 0, esz := 0, sfmt := 0, dfmt := 0, reserved := false, dpitch := 64, src := 0x10000, dst := 0x10040
  cnt := [64], sstr := [1], lo0 := 0, ext0 := 64, lo1 := 0, ext1 := 1 }

/-- The machine while that copy, which moves no more bytes, waits for what it has written (R338). -/
def copyOutstanding : State := {
  choruses := [cancelling.ch], launches := [cancelling.l], landings := [cancelStatus]
  copies := [{ id := 7, who := cancelling.who, die := 0, desc := copyOf64, future := 1, admitted := true, bytes := 64, result := some (.cancelled, 64) }] }

theorem landsNow_cancelStatus : landsNow copyOutstanding cancelStatus cancelling := ⟨rfl, rfl, rfl, rfl⟩

/-- The status stays on its way. -/
theorem exec_longLatencyLanding_cancelStatus : exec (.longLatencyLanding 0) copyOutstanding = .next copyOutstanding := rfl

end Sys2Proof.Machine

open Sys2Proof Sys2Proof.Machine Sys2Proof.Safety Sys2Proof.Claims

/-- Refutes O30: a producer without an access that waits for a copy (R288) meets every hypothesis, and does not land while the copy has
not stopped. -/
theorem not_landingFillsTheDestination : ¬ Obligations.LandingFillsTheDestination := by
  intro lands
  obtain ⟨t, c, hexec, -, -, hlandings, -⟩ := lands copyOutstanding cancelStatus cancelling landsNow_cancelStatus rfl (by decide)
  rw [show cancelStatus.id = 0 from rfl, exec_longLatencyLanding_cancelStatus] at hexec
  injection hexec with hsame
  rw [← hsame] at hlandings
  exact absurd (congrArg List.length hlandings) (by decide)
end

section
/-! SUPPORT. An arrival instruction that meets a poisoned sector of its own window: what refutes O45. -/

namespace Sys2Proof.Machine

open Sys2Proof.Safety Sys2Proof.Claims

/-- ARRTEST of the word at the window address in register 22, in the own section, with its target in registers 26 and 27. -/
def testOwnWord : Fields := { len := .w128, d := 8, a := 22, b := 26, sp := 1 }

/-- A clutch whose registers are zero, with the first sector of its chorus's scratchpad poisoned (R219). -/
def poisonedWindow : Env := {
  who := { chorus := 0, clutch := 0 }, l := { uid := 0, ctx := 0, hdr := { regs := 64, uniform := 16, scratch := 65536 } }
  ch := { uid := 0, launch := 0, index := 0, die := 0, cores := [0], scratchPoison := [0]
          clutches := [{ id := 0, pos := 0, sub := 0, slot := 0, resPos := 0, pc := 0, held := 64 }] }
  cl := { id := 0, pos := 0, sub := 0, slot := 0, resPos := 0, pc := 0, held := 64 } }

def poisonedWindowState : State := { choruses := [poisonedWindow.ch], launches := [poisonedWindow.l], cur := .clutch poisonedWindow.who }

theorem wellFormed_testOwnWord : WellFormed poisonedWindow.ranges (.arrtest testOwnWord) = true := by decide +kernel

theorem arrivalReady_testOwnWord : arrivalReady poisonedWindowState poisonedWindow 0xCB testOwnWord false := by
  refine ⟨⟨⟨⟨rfl, rfl⟩, by decide, rfl, by decide +kernel⟩, fun r _ => rfl⟩, by decide +kernel, fun _ => rfl, rfl, ⟨rfl, fun _ h => absurd h (by decide)⟩, ?_⟩
  rw [if_pos (by decide)]
  exact ⟨by decide +kernel, by decide +kernel⟩

/-- The word ends the launch with POISON, and nothing is on its way. -/
theorem exec_testOwnWord : exec (.arrtest testOwnWord) poisonedWindowState = poisonEnd poisonedWindowState poisonedWindow poisonedWindow.mask := by
  rfl

end Sys2Proof.Machine

open Sys2Proof Sys2Proof.Machine Sys2Proof.Safety Sys2Proof.Claims

/-- Refutes O45: its conditions on a word of the own window leave out that the sector holds no poison (R219), which ends the launch before
ARRTEST gives anything. -/
theorem not_arrivalWords : ¬ Obligations.ArrivalWords := by
  intro words
  obtain ⟨t, c, p, hexec, -, -, -, hp, -⟩ := (words poisonedWindowState poisonedWindow testOwnWord).2.1 wellFormed_testOwnWord arrivalReady_testOwnWord
  rw [exec_testOwnWord] at hexec
  injection hexec with hsame
  rw [← hsame, State.endWith_landings] at hp
  exact List.not_mem_nil hp
end

section
/-! SUPPORT. Register blocks: what a status word leaves alone, and the clutches whose claims complete: what settles O50. -/

namespace Sys2Proof.Machine

open Sys2Proof.Safety Sys2Proof.Claims

/-! ### The status word of a block instruction (R104, R105) -/

/-- A write of a register leaves every word of the other registers outside the mask triple. -/
theorem Clutch.put_word_other (c : Clutch) (n : Nat) (m : Mask) {reg k : Nat} (tag l : Nat) (v : Nat → Word) (hk : k < 253)
    (hne : k ≠ reg) : (c.put n m reg tag v).word n k l = c.word n k l := by
  unfold Clutch.put
  split
  · rfl
  · rename_i hm
    have hk' : ¬ 253 ≤ k := by omega
    rw [Clutch.setTag_word]
    unfold Clutch.write
    rw [if_neg hm]
    dsimp only
    split_ifs <;> simp [Clutch.word, hk', Store.get_set_other _ _ _ _ _ hne]

theorem Clutch.putStatus_onlyRegisters (c : Clutch) (n d : Nat) (w : Word) : onlyRegisters c (c.putStatus n d w) := by
  unfold Clutch.putStatus
  split
  · exact c.put_onlyRegisters ..
  · rfl

theorem Clutch.putStatus_word_other (c : Clutch) (n : Nat) {d k : Nat} (l : Nat) (w : Word) (hk : k < 253) (hne : k ≠ d) :
    (c.putStatus n d w).word n k l = c.word n k l := by
  unfold Clutch.putStatus
  split
  · exact c.put_word_other n c.mask 0 l _ hk hne
  · rfl

/-- A status word makes its register RAW and leaves the tags of the others. -/
theorem Clutch.putStatus_tag_zero (c : Clutch) (n d : Nat) {k : Nat} (w : Word) (h : c.tag k = 0) : (c.putStatus n d w).tag k = 0 := by
  unfold Clutch.putStatus
  split
  · by_cases hm : c.mask = 0
    · rw [Clutch.put, if_pos hm, h]
    · by_cases hk : k < 253
      · rw [Clutch.put_tag c n c.mask d 0 k _ hm hk, h, ite_self]
      · exact if_pos (by omega)
  · exact h

theorem Clutch.putStatus_status (c : Clutch) (n : Nat) {d : Nat} (w : Word) (hm : c.mask ≠ 0) (hd : d < c.held ∨ isUniform n d = true)
    (hlt : d < 253) : (c.putStatus n d w).tag d = 0
      ∧ ∀ l, l < laneCount → inMask c.mask l = true → (c.putStatus n d w).word n d l = w := by
  rw [Clutch.putStatus, if_pos hd]
  refine ⟨?_, fun l hl hin => ?_⟩
  · rw [Clutch.put_tag c n c.mask d 0 d _ hm hlt, if_pos rfl]
  · rw [Clutch.put_word c n c.mask d 0 d l _ hm hlt hl, if_pos ⟨rfl, .inr hin⟩]

/-! ### REGSURR and REGCLAIM at issue -/

theorem blockWord_eq {op : Nat} {f : Fields} {s : State} {e : Env} (k : Env → Nat → Out) (h : mayIssue s e op f)
    (hclean : f.len = .w64 → e.poisonIn { reg := f.b.toNat } [e.low] = false) : blockWord op f s k = k e (e.blockCount s f) := by
  rw [blockWord, issue_eq op f s e _ h, if_neg]
  simpa using hclean

/-- The answer of a block instruction of `e`: the clutch goes on, its held count is `h`, and its status is in D. -/
def blockAnswered (e : Env) (f : Fields) (h status : Nat) (c : Clutch) : Prop :=
  c.pc = e.cl.pc + BitVec.ofNat 32 f.len.bytes ∧ c.held = h
    ∧ (f.d.toNat < h ∨ isUniform e.hdr.uniform f.d.toNat = true → f.d.toNat < 253 →
      c.tag f.d.toNat = 0
        ∧ ∀ l, l < laneCount → inMask e.mask l = true → c.word e.hdr.uniform f.d.toNat l = blockStatus h status)

/-- The clutch after a block instruction that answers at once. -/
def Clutch.answering (c : Clutch) (e : Env) (f : Fields) (status : Nat) : Clutch :=
  (c.putStatus e.hdr.uniform f.d.toNat (blockStatus c.held status)).advance f.len.bytes

theorem Clutch.answering_id (c : Clutch) (e : Env) (f : Fields) (status : Nat) : (c.answering e f status).id = c.id :=
  (congrArg Clutch.id (c.putStatus_onlyRegisters e.hdr.uniform f.d.toNat (blockStatus c.held status)) :)

theorem Clutch.answering_answered {c : Clutch} {e : Env} (f : Fields) (status : Nat) (hpc : c.pc = e.cl.pc) (hmask : c.mask = e.mask)
    (hm : e.mask ≠ 0) : blockAnswered e f c.held status (c.answering e f status) := by
  have hframe := c.putStatus_onlyRegisters e.hdr.uniform f.d.toNat (blockStatus c.held status)
  refine ⟨?_, (congrArg Clutch.held hframe :), fun hd hlt => ?_⟩
  · rw [← hpc]
    exact (congrArg (fun x : Clutch => x.pc + BitVec.ofNat 32 f.len.bytes) hframe :)
  · rw [← hmask] at hm ⊢
    exact c.putStatus_status e.hdr.uniform _ hm hd hlt

/-- A clutch that answers takes the place of the one that runs. -/
theorem State.at?_answering {s : State} {e : Env} {c : Clutch} (f : Fields) (status : Nat) (hat : s.at? e.who = some e.cl)
    (hid : c.id = e.cl.id) :
    (s.bump.modClutch e.who fun _ => c.answering e f status).at? e.who = some (c.answering e f status) :=
  State.at?_modClutch_const _ hat ((c.answering_id e f status).trans (hid.trans (State.at?_id hat)))

theorem execRegsurr_refused {s : State} {e : Env} {f : Fields} (hi : mayIssue s e 0xE7 f)
    (hclean : f.len = .w64 → e.poisonIn { reg := f.b.toNat } [e.low] = false)
    (hk : e.blockCount s f < 1 ∨ 31 < e.blockCount s f ∨ e.cl.held < 8 * e.blockCount s f + 8) :
    exec (.regsurr f) s = .next (s.bump.modClutch e.who fun _ => e.cl.answering e f 3) := by
  change execRegsurr f s = _
  rw [execRegsurr, blockWord_eq _ hi hclean]
  exact if_pos hk

theorem execRegsurr_gives {s : State} {e : Env} {f : Fields} (hi : mayIssue s e 0xE7 f)
    (hclean : f.len = .w64 → e.poisonIn { reg := f.b.toNat } [e.low] = false)
    (hk : ¬ (e.blockCount s f < 1 ∨ 31 < e.blockCount s f ∨ e.cl.held < 8 * e.blockCount s f + 8))
    (hfull : ∀ r ∈ e.cl.empty, ¬ (e.cl.held - 8 * e.blockCount s f ≤ r ∧ r < e.cl.held)) :
    exec (.regsurr f) s = .next ((s.modChorus e.who.chorus fun c => { c with
        pools := c.pools.modify 0 e.cl.pos (· + e.blockCount s f) }).bump.modClutch e.who fun _ =>
      (e.cl.cutRegs e.hdr.uniform (e.cl.held - 8 * e.blockCount s f)).answering e f 0) := by
  have hany : e.cl.empty.any (fun r => e.cl.held - 8 * e.blockCount s f ≤ r && r < e.cl.held) = false := by
    simpa [List.any_eq_false] using hfull
  change execRegsurr f s = _
  rw [execRegsurr, blockWord_eq _ hi hclean]
  refine (if_neg hk).trans (if_neg ?_)
  rw [hany]
  exact Bool.false_ne_true

theorem execRegclaim_beyond {s : State} {e : Env} {f : Fields} (hi : mayIssue s e 0xE6 f)
    (hclean : f.len = .w64 → e.poisonIn { reg := f.b.toNat } [e.low] = false) (hp : e.cl.progress ≠ .claiming)
    (hk : e.blockCount s f < 1 ∨ 31 < e.blockCount s f ∨ e.hmax < e.cl.held + 8 * e.blockCount s f) :
    exec (.regclaim f) s = .next (s.bump.modClutch e.who fun c => c.answering e f 2) := by
  change execRegclaim f s = _
  rw [execRegclaim, blockWord_eq _ hi hclean]
  exact (if_neg hp).trans (if_pos hk)

/-- The claim that a clutch makes (R106). -/
def Env.claimOf (e : Env) (s : State) (f : Fields) : Claim :=
  { pos := e.cl.pos, clutch := e.who.clutch, k := e.blockCount s f, dst := f.d.toNat, bytes := f.len.bytes }

theorem execRegclaim_queues {s : State} {e : Env} {f : Fields} (hi : mayIssue s e 0xE6 f)
    (hclean : f.len = .w64 → e.poisonIn { reg := f.b.toNat } [e.low] = false) (hp : e.cl.progress ≠ .claiming)
    (hk : ¬ (e.blockCount s f < 1 ∨ 31 < e.blockCount s f ∨ e.hmax < e.cl.held + 8 * e.blockCount s f)) :
    exec (.regclaim f) s = .next ((s.modChorus e.who.chorus fun c => { c with claims := c.claims ++ [e.claimOf s f] }).modClutch
      e.who fun c => { c with progress := .claiming }) := by
  change execRegclaim f s = _
  rw [execRegclaim, blockWord_eq _ hi hclean]
  exact (if_neg hp).trans (if_neg hk)

/-- A change of a chorus that keeps its number and its clutches keeps every clutch. -/
theorem State.at?_modChorus (s : State) (who : ClutchId) {g : Chorus → Chorus} (huid : ∀ c, (g c).uid = c.uid)
    (hg : ∀ c, (g c).clutches = c.clutches) : (s.modChorus who.chorus g).at? who = s.at? who := by
  unfold State.at?
  rw [State.chorus?_modChorus_self s _ g huid]
  cases s.chorus? who.chorus with
  | none => rfl
  | some c => exact congrArg (List.find? _) (hg c)

theorem State.chorus?_changes {s : State} {uid : Nat} {c : Chorus} {g : Chorus → Chorus} (hc : s.chorus? uid = some c)
    (huid : ∀ c, (g c).uid = c.uid) : (s.modChorus uid g).chorus? uid = some (g c) := by
  rw [State.chorus?_modChorus_self s _ g huid, hc, Option.map_some]

/-- The chorus of a clutch after a change of its own and a change of the clutch. -/
theorem State.chorus?_changed {s : State} {who : ClutchId} {c : Chorus} {g : Chorus → Chorus}
    (hc : s.chorus? who.chorus = some c) (h : Clutch → Clutch) (huid : ∀ c, (g c).uid = c.uid := by intro; rfl) :
    ((s.modChorus who.chorus g).modClutch who h).chorus? who.chorus = some ((g c).modClutch who.clutch h) := by
  rw [State.chorus?_modClutch_self, State.chorus?_changes hc huid, Option.map_some]

/-! ### Registers with undefined contents (R95, R106) -/

/-- Of a clutch, undefined registers leave its number, its program counter, its mask, its uniform registers and its held count. -/
theorem Clutch.undefine_frame (c : Clutch) (tick first count : Nat) :
    let d := c.undefine tick first count
    d.id = c.id ∧ d.pc = c.pc ∧ d.mask = c.mask ∧ d.uni = c.uni ∧ d.held = c.held := by
  have hframe := Clutch.foldl_undefineReg_frame tick ((List.range count).map (first + ·)) c
  rw [← Clutch.undefine_eq] at hframe
  exact ⟨(congrArg Clutch.id hframe :), (congrArg Clutch.pc hframe :), (congrArg Clutch.mask hframe :),
    (congrArg Clutch.uni hframe :), (congrArg Clutch.held hframe :)⟩

/-- A register that has become undefined is full and RAW, and stays so when others do. -/
theorem Clutch.foldl_undefineReg_full (tick : Nat) (rs : List Nat) (c : Clutch) {reg : Nat}
    (h : reg ∈ rs ∨ reg ∉ c.empty ∧ c.tag reg = 0) :
    reg ∉ (rs.foldl (fun c r => c.undefineReg tick r) c).empty ∧ (rs.foldl (fun c r => c.undefineReg tick r) c).tag reg = 0 := by
  induction rs generalizing c with
  | nil => simpa using h
  | cons r rest ih =>
    refine ih _ ?_
    by_cases hr : reg = r
    · subst hr
      exact .inr ⟨by simp [Clutch.undefineReg, setErase], by simp [Clutch.undefineReg, Clutch.tag, Store.get_set_self]⟩
    · refine h.imp (fun hmem => (List.mem_cons.mp hmem).resolve_left hr) fun hfull => ?_
      refine ⟨by simp [Clutch.undefineReg, setErase, hfull.1], ?_⟩
      have htag : (c.undefineReg tick r).tag reg = c.tag reg := by
        simp [Clutch.undefineReg, Clutch.tag, Store.get_set_other _ _ _ _ _ hr]
      rw [htag, hfull.2]

theorem Clutch.undefine_full (c : Clutch) (tick : Nat) {first count reg : Nat} (h : first ≤ reg ∧ reg < first + count) :
    reg ∉ (c.undefine tick first count).empty ∧ (c.undefine tick first count).tag reg = 0 := by
  rw [Clutch.undefine_eq]
  refine Clutch.foldl_undefineReg_full tick _ c (.inl (List.mem_map.mpr ⟨reg - first, List.mem_range.mpr (by omega), by omega⟩))

theorem Clutch.undefine_word (c : Clutch) (tick n : Nat) {first count reg : Nat} (l : Nat)
    (h : reg < first ∨ first + count ≤ reg) : (c.undefine tick first count).word n reg l = c.word n reg l := by
  obtain ⟨-, -, hmask, huni, -⟩ := c.undefine_frame tick first count
  have hregs : Store.get [] (c.undefine tick first count).regs reg = Store.get [] c.regs reg := by
    rw [Clutch.undefine_eq]
    refine Clutch.foldl_undefineReg_regs tick _ c reg fun hmem => ?_
    obtain ⟨i, hi, rfl⟩ := List.mem_map.mp hmem
    rw [List.mem_range] at hi
    omega
  rw [Clutch.word, hregs, hmask, huni]
  rfl

/-! ### Claims that complete (R106, R107) -/

/-- The clutch of a claim with the registers that the claim gives it. -/
def Clutch.endowed (c : Clutch) (tick : Nat) (x : Claim) (granted : Bool) : Clutch :=
  if granted then { c with held := c.held + 8 * x.k }.undefine tick c.held (8 * x.k) else c

/-- The clutch whose claim completes. -/
def Clutch.completed (n tick : Nat) (granted : Bool) (x : Claim) (c : Clutch) : Clutch :=
  let d := c.endowed tick x granted
  ({ d with progress := .none }.putStatus n x.dst (blockStatus d.held (if granted then 0 else 1))).advance x.bytes

/-- What a claim gives, and the status it answers. -/
theorem Clutch.completed_done {n : Nat} {x : Claim} {cl d : Clutch} {status more : Nat}
    (hpc : d.pc = cl.pc) (hmask : d.mask = cl.mask) (hheld : d.held = cl.held + more)
    (hfull : ∀ reg, cl.held ≤ reg → reg < cl.held + more → reg ∉ d.empty ∧ d.tag reg = 0)
    (hwords : ∀ reg l, reg < cl.held ∨ cl.held + more ≤ reg → d.word n reg l = cl.word n reg l) :
    claimDone n status more x cl (({ d with progress := .none }.putStatus n x.dst (blockStatus d.held status)).advance x.bytes) := by
  let d' : Clutch := { d with progress := .none }
  have hframe : onlyRegisters d' _ := d'.putStatus_onlyRegisters n x.dst (blockStatus d.held status)
  have hheld' : (d'.putStatus n x.dst (blockStatus d.held status)).held = d.held := (congrArg Clutch.held hframe :)
  refine ⟨hheld'.trans hheld, (congrArg Clutch.progress hframe :), ?_, fun reg hlo hhi => ⟨?_, ?_⟩, fun reg l hlt hout hne => ?_,
    fun hd hlt hm => ?_⟩
  · rw [← hpc]
    exact (congrArg (fun c : Clutch => c.pc + BitVec.ofNat 32 x.bytes) hframe :)
  · have hempty : (d'.putStatus n x.dst (blockStatus d.held status)).empty = d.empty := (congrArg Clutch.empty hframe :)
    exact fun hmem => (hfull reg hlo hhi).1 (hempty ▸ hmem)
  · exact d'.putStatus_tag_zero n x.dst _ (hfull reg hlo hhi).2
  · exact (d'.putStatus_word_other n l _ hlt hne).trans (hwords reg l hout)
  · rw [← hmask] at hm ⊢
    have hat : x.dst < d'.held ∨ isUniform n x.dst = true := hd.imp_left fun h => h.trans_eq hheld'
    obtain ⟨htag, hword⟩ := d'.putStatus_status n (blockStatus d.held status) hm hat hlt
    exact ⟨htag, fun l hl hin => (hword l hl hin).trans (congrArg (blockStatus · status) hheld'.symm)⟩

theorem Clutch.completed_granted (n tick : Nat) (x : Claim) (cl : Clutch) :
    claimDone n 0 (8 * x.k) x cl (cl.completed n tick true x) := by
  let big : Clutch := { cl with held := cl.held + 8 * x.k }
  obtain ⟨-, hpc, hmask, -, hheld⟩ := big.undefine_frame tick cl.held (8 * x.k)
  exact Clutch.completed_done hpc hmask hheld (fun reg hlo hhi => big.undefine_full tick ⟨hlo, hhi⟩)
    fun reg l hout => big.undefine_word tick n l hout

theorem Clutch.completed_deadlocked (n tick : Nat) (x : Claim) (cl : Clutch) :
    claimDone n 1 0 x cl (cl.completed n tick false x) :=
  Clutch.completed_done rfl rfl rfl (fun _ hlo hhi => absurd hhi (by omega)) fun _ _ _ => rfl

theorem Clutch.completed_id (n tick : Nat) (granted : Bool) (x : Claim) (c : Clutch) : (c.completed n tick granted x).id = c.id := by
  let d : Clutch := { c.endowed tick x granted with progress := .none }
  have hput : (c.completed n tick granted x).id = d.id :=
    (congrArg Clutch.id (d.putStatus_onlyRegisters n x.dst _) :)
  rw [hput]
  change (c.endowed tick x granted).id = c.id
  unfold Clutch.endowed
  split
  · exact (Clutch.undefine_frame _ tick c.held (8 * x.k)).1
  · rfl

/-- The clutches of a chorus after claims of theirs have completed, one after the other. -/
def completeEach (n tick : Nat) (granted : Bool) (xs : List Claim) (cs : List Clutch) : List Clutch :=
  xs.foldl (fun cs x => updateFirst (·.id = x.clutch) (Clutch.completed n tick granted x) cs) cs

section
variable (n tick : Nat) (granted : Bool)

theorem completeEach_other {xs : List Claim} {id : Nat} (h : id ∉ xs.map (·.clutch)) (cs : List Clutch) :
    (completeEach n tick granted xs cs).find? (·.id = id) = cs.find? (·.id = id) := by
  induction xs generalizing cs with
  | nil => rfl
  | cons x rest ih =>
    rw [List.map_cons, List.mem_cons, not_or] at h
    refine (ih h.2 _).trans (find?_updateFirst_other _ _ _ (fun c hc => ?_) cs)
    rw [decide_eq_true_eq] at hc
    rw [Clutch.completed_id, hc]
    simp [Ne.symm h.1]

theorem completeEach_self {xs : List Claim} (hnodup : (xs.map (·.clutch)).Nodup) {x : Claim} (hx : x ∈ xs) (cs : List Clutch) :
    (completeEach n tick granted xs cs).find? (·.id = x.clutch)
      = (cs.find? (·.id = x.clutch)).map (Clutch.completed n tick granted x) := by
  induction xs generalizing cs with
  | nil => cases hx
  | cons y rest ih =>
    rw [List.map_cons, List.nodup_cons] at hnodup
    rcases List.mem_cons.mp hx with rfl | hmem
    · refine (completeEach_other n tick granted hnodup.1 _).trans (find?_updateFirst_self _ _ (fun c hc => ?_) cs)
      rwa [Clutch.completed_id]
    · have hne : x.clutch ≠ y.clutch := fun heq => hnodup.1 (heq ▸ List.mem_map_of_mem hmem)
      refine (ih hnodup.2 hmem _).trans (congrArg _ (find?_updateFirst_other _ _ _ (fun c hc => ?_) cs))
      rw [decide_eq_true_eq] at hc
      rw [Clutch.completed_id, hc]
      simp [Ne.symm hne]

end

/-- The end of the claims of a core answers each of them. -/
theorem Chorus.endClaims_frame (c : Chorus) (n tick pos : Nat) :
    (c.endClaims n tick pos).uid = c.uid ∧ (c.endClaims n tick pos).pools = c.pools
      ∧ (c.endClaims n tick pos).claims = c.claims.filter (fun x => x.pos ≠ pos)
      ∧ (c.endClaims n tick pos).clutches = completeEach n tick false (c.claims.filter fun x => x.pos = pos) c.clutches := by
  have hfold : ∀ (xs : List Claim) (d : Chorus), let x := xs.foldl (fun d x => d.completeClaim n tick x false) d
      x.uid = d.uid ∧ x.pools = d.pools ∧ x.claims = d.claims ∧ x.clutches = completeEach n tick false xs d.clutches := by
    intro xs
    induction xs with
    | nil => exact fun d => ⟨rfl, rfl, rfl, rfl⟩
    | cons x rest ih => exact fun d => ih _
  exact hfold _ _

/-- Of the claims of distinct clutches some are gone: their clutches have completed, and the others are as before. -/
theorem completeEach_spec (n tick : Nat) (granted : Bool) {all gone : List Claim} (hsub : gone.Sublist all)
    (hnodup : (all.map (·.clutch)).Nodup) {x : Claim} (hx : x ∈ all) {cs : List Clutch} {cl : Clutch}
    (hcl : cs.find? (·.id = x.clutch) = some cl) :
    ∃ c, (completeEach n tick granted gone cs).find? (·.id = x.clutch) = some c
      ∧ (x ∈ gone → c = cl.completed n tick granted x) ∧ (x ∉ gone → c = cl) := by
  by_cases hgone : x ∈ gone
  · refine ⟨cl.completed n tick granted x, ?_, fun _ => rfl, fun h => absurd hgone h⟩
    rw [completeEach_self n tick granted (hnodup.sublist (hsub.map _)) hgone, hcl, Option.map_some]
  · refine ⟨cl, ?_, fun h => absurd h hgone, fun _ => rfl⟩
    refine (completeEach_other n tick granted (fun hmem => hgone ?_) cs).trans hcl
    obtain ⟨y, hy, heq⟩ := List.mem_map.mp hmem
    exact List.inj_on_of_nodup_map hnodup (hsub.subset hy) hx heq ▸ hy

theorem State.headerOf_eq {s : State} {c : Chorus} {l : Launch} (h : s.launch? c.launch = some l) : s.headerOf c = l.hdr := by
  rw [State.headerOf, h]

theorem execRegclaimGrant_eq {s : State} {uid pos : Nat} {ch : Chorus} (hch : s.chorus? uid = some ch) (hres : ch.status = .resident)
    (hrun : (s.core (ch.coreAt pos)).stopped = false) (hsome : ∃ x ∈ ch.claims, x.pos = pos ∧ x.k ≤ ch.pools.get 0 pos) :
    exec (.regclaimGrant uid pos) s = .next (s.bump.modChorus uid fun c =>
      { grantClaims (s.headerOf c).uniform s.tick pos c.claims c with deadlocked := setErase c.deadlocked pos }) := by
  have hall : ¬ ch.claims.all (fun x => x.pos ≠ pos || ch.pools.get 0 pos < x.k) = true := by
    obtain ⟨x, hx, hpos, hk⟩ := hsome
    intro h
    have := List.all_eq_true.mp h x hx
    simp [hpos] at this
    omega
  change execRegclaimGrant uid pos s = _
  unfold execRegclaimGrant
  rw [hch]
  dsimp only
  rw [if_neg (by simp [hres, hrun]), if_neg hall]

theorem execRegclaimDeadlock_eq {s : State} {uid pos : Nat} {ch : Chorus} (hch : s.chorus? uid = some ch) (hres : ch.status = .resident)
    (hrun : (s.core (ch.coreAt pos)).stopped = false) (hnone : ∀ x ∈ ch.claims, x.pos = pos → ch.pools.get 0 pos < x.k)
    (hhere : ∃ c ∈ ch.clutches, c.pos = pos ∧ c.ended = false)
    (hstalled : ∀ c ∈ ch.clutches, c.pos = pos → c.ended = false → c.progress = .claiming)
    (hdl : (s.core (ch.coreAt pos)).dlstop = false) :
    exec (.regclaimDeadlock uid pos) s
      = .next (s.bump.modChorus uid (·.endClaims (s.headerOf ch).uniform s.tick pos)) := by
  have hdead : ch.claimsDeadlock pos = true := by
    obtain ⟨c, hc, hpos, hended⟩ := hhere
    simp only [Chorus.claimsDeadlock, Bool.and_eq_true, Bool.not_eq_true', List.isEmpty_eq_false_iff, List.all_eq_true,
      decide_eq_true_eq, Bool.or_eq_true]
    refine ⟨⟨List.ne_nil_of_mem (List.mem_filter.mpr ⟨hc, by simp [hpos, hended]⟩), fun d hd => ?_⟩, fun x hx => ?_⟩
    · obtain ⟨hmem, hp⟩ := List.mem_filter.mp hd
      simp only [Bool.and_eq_true, decide_eq_true_eq, Bool.not_eq_true'] at hp
      exact hstalled d hmem hp.1 hp.2
    · exact (em (x.pos = pos)).symm.imp id (hnone x hx)
  change execRegclaimDeadlock uid pos s = _
  unfold execRegclaimDeadlock
  rw [hch]
  dsimp only
  rw [if_neg (by simp [hres, hrun, hdead]), if_neg (by simp [hdl])]

end Sys2Proof.Machine

namespace Sys2Proof.Claims

open Sys2Proof.Machine hiding scanned

/-! ### Scanning the claims (R106) -/

theorem scanned_sublist (pos pool : Nat) (xs : List Claim) : (scanned pos pool xs).Sublist xs := by
  induction xs generalizing pool with
  | nil => exact .slnil
  | cons x rest ih =>
    unfold scanned
    split
    · exact (ih _).cons_cons x
    · exact (ih _).cons x

/-- A grant completes the claims that the scan takes, lowers the pool by what they take, and drops them. -/
theorem grantClaims_frame (n tick pos : Nat) (xs : List Claim) (c : Chorus) :
    let gone := scanned pos (c.pools.get 0 pos) xs
    let d := grantClaims n tick pos xs c
    d.uid = c.uid ∧ d.clutches = completeEach n tick true gone c.clutches
      ∧ d.pools.get 0 pos = c.pools.get 0 pos - (gone.map (·.k)).sum ∧ ∀ x, x ∈ d.claims ↔ x ∈ c.claims ∧ x ∉ gone := by
  induction xs generalizing c with
  | nil => exact ⟨rfl, rfl, rfl, by simp [grantClaims, scanned]⟩
  | cons x rest ih =>
    unfold grantClaims scanned
    dsimp only
    split
    · rename_i hx
      have hpool : Store.get 0 (c.pools.set 0 pos (c.pools.get 0 pos - x.k)) pos = c.pools.get 0 pos - x.k := Store.get_set_self ..
      obtain ⟨huid, hclutches, hpools, hclaims⟩ := ih (Chorus.completeClaim { c with
        pools := c.pools.set 0 pos (c.pools.get 0 pos - x.k), claims := c.claims.filter (· ≠ x) } n tick x true)
      change _ = completeEach n tick true (scanned pos (Store.get 0 (c.pools.set 0 pos _) pos) rest) _ at hclutches
      change _ = Store.get 0 (c.pools.set 0 pos _) pos
        - ((scanned pos (Store.get 0 (c.pools.set 0 pos _) pos) rest).map (·.k)).sum at hpools
      change ∀ y, _ ↔ y ∈ c.claims.filter (· ≠ x) ∧ y ∉ scanned pos (Store.get 0 (c.pools.set 0 pos _) pos) rest at hclaims
      rw [hpool] at hclutches hpools hclaims
      refine ⟨huid, hclutches, ?_, fun y => ?_⟩
      · rw [hpools, List.map_cons, List.sum_cons, Nat.sub_sub]
      · rw [hclaims, List.mem_filter, List.mem_cons, not_or, decide_eq_true_eq, and_assoc]
    · exact ih c

end Sys2Proof.Claims

open Sys2Proof Sys2Proof.Machine Sys2Proof.Safety Sys2Proof.Claims

/-- Settles O50: a surrender and a claim at issue, and the claims that complete, by induction on the list of claims. -/
theorem registerBlocks : Obligations.RegisterBlocks := by
  refine ⟨fun s e f hclean => ?_, fun s uid pos ch l hch hl hres hrun hnodup hclutch => ?_⟩
  · intro k h status answers
    refine ⟨fun hi => ⟨fun hk => ?_, fun hlo hhi hfit hfull => ?_⟩, fun hi hp => ⟨fun hk => ?_, fun hlo hhi hfit => ?_⟩⟩
    all_goals have hat := State.env?_at? s e.who e hi.1.2
    · obtain ⟨hpc, hheld, hdst⟩ := e.cl.answering_answered f 3 rfl rfl hi.2.1
      exact ⟨_, _, execRegsurr_refused hi hclean hk, State.at?_answering f 3 hat rfl, hpc, rfl, hheld, hdst, rfl⟩
    · have hk : ¬ (k < 1 ∨ 31 < k ∨ h < 8 * k + 8) := by omega
      obtain ⟨hpc, hheld, hdst⟩ := (e.cl.cutRegs e.hdr.uniform (h - 8 * k)).answering_answered (e := e) f 0 rfl rfl hi.2.1
      obtain ⟨-, hch, -⟩ := State.env?_some s e.who e hi.1.2
      refine ⟨_, _, execRegsurr_gives hi hclean hk hfull, State.at?_answering f 0 ?_ rfl, hpc, rfl, hheld, hdst, _,
        State.chorus?_changed (s := s.bump) hch _, ?_⟩
      · rw [State.at?_modChorus, hat] <;> exact fun _ => rfl
      · exact Store.get_modify_self 0 e.ch.pools e.cl.pos (· + k)
    · obtain ⟨hpc, hheld, hdst⟩ := e.cl.answering_answered f 2 rfl rfl hi.2.1
      refine ⟨_, _, execRegclaim_beyond hi hclean hp hk, ?_, hpc, rfl, hheld, hdst, rfl⟩
      rw [State.at?_modClutch_self _ _ _ fun c => c.answering_id e f 2, State.at?_bump, hat, Option.map_some]
    · have hk : ¬ (k < 1 ∨ 31 < k ∨ 8 * ((256 - e.hdr.uniform) / 8) < h + 8 * k) := by omega
      obtain ⟨-, hch, -⟩ := State.env?_some s e.who e hi.1.2
      refine ⟨_, _, _, execRegclaim_queues hi hclean hp hk, ?_, rfl, State.chorus?_changed hch _, rfl, rfl⟩
      rw [State.at?_modClutch_self, State.at?_modChorus, hat, Option.map_some] <;> exact fun _ => rfl
  · intro pool completes
    have hn : s.headerOf ch = l.hdr := State.headerOf_eq hl
    refine ⟨fun hsome => ?_, fun hnone hhere hstalled hdl => ?_⟩
    · intro gone
      obtain ⟨-, hclutches, hpools, hclaims⟩ := grantClaims_frame (s.headerOf ch).uniform s.tick pos ch.claims ch
      refine ⟨_, _, execRegclaimGrant_eq hch hres hrun hsome,
        State.chorus?_changes (s := s.bump) hch fun c => (grantClaims_frame ..).1, rfl, hpools, hclaims, fun x hx cl hcl => ?_⟩
      obtain ⟨c, hc, hdone, hsame⟩ :=
        completeEach_spec (s.headerOf ch).uniform s.tick true (scanned_sublist pos pool ch.claims) hnodup hx hcl
      refine ⟨c, ?_, fun hgone => hdone hgone ▸ hn ▸ Clutch.completed_granted .., hsame⟩
      exact (congrArg (List.find? (·.id = x.clutch)) hclutches).trans hc
    · obtain ⟨-, hpools, hclaims, hclutches⟩ := ch.endClaims_frame (s.headerOf ch).uniform s.tick pos
      refine ⟨_, _, execRegclaimDeadlock_eq hch hres hrun hnone hhere hstalled hdl,
        State.chorus?_changes (s := s.bump) hch fun c => (Chorus.endClaims_frame ..).1, rfl,
        congrArg (Store.get 0 · pos) hpools, fun x => ?_, fun x hx cl hcl => ?_⟩
      · rw [hclaims, List.mem_filter, List.mem_filter, decide_eq_true_eq, decide_eq_true_eq]
        tauto
      · obtain ⟨c, hc, hdone, hsame⟩ := completeEach_spec (s.headerOf ch).uniform s.tick false List.filter_sublist hnodup hx hcl
        refine ⟨c, ?_, fun hgone => hdone hgone ▸ hn ▸ Clutch.completed_deadlocked .., hsame⟩
        exact (congrArg (List.find? (·.id = x.clutch)) hclutches).trans hc
end

section
/-! SUPPORT. Core stops and their end (R201, R202): the first part of what settles O51. -/

namespace Sys2Proof.Machine

open Sys2Proof.Safety Sys2Proof.Claims

/-! ### Updates of lists -/

theorem foldl_eq_of_fixed {α β : Type} {f : α → β → α} {a : α} {xs : List β} (h : ∀ x ∈ xs, f a x = a) : xs.foldl f a = a := by
  induction xs with
  | nil => rfl
  | cons x rest ih => rw [List.foldl_cons, h x List.mem_cons_self, ih fun y hy => h y (List.mem_cons_of_mem x hy)]

/-- What holds of every element, and of every element that is replaced, holds after an update of the first. -/
theorem forall_mem_updateFirst {α : Type} {p : α → Bool} {g : α → α} {P : α → Prop} {xs : List α} (h : ∀ x ∈ xs, P x)
    (hg : ∀ x, P x → P (g x)) : ∀ x ∈ updateFirst p g xs, P x := by
  induction xs with
  | nil => exact h
  | cons x rest ih =>
    obtain ⟨hx, hrest⟩ := List.forall_mem_cons.mp h
    unfold updateFirst
    split
    · exact List.forall_mem_cons.mpr ⟨hg x hx, hrest⟩
    · exact List.forall_mem_cons.mpr ⟨hx, ih hrest⟩

/-! ### A resume that loses nothing (R95, R107, R202) -/

/-- No launch has volatile registers, and no claim waits for the end of a stop. -/
def State.Lossless (s : State) : Prop := (∀ l ∈ s.launches, l.hdr.volCount = 0) ∧ ∀ d ∈ s.choruses, d.deadlocked = []

theorem State.Lossless.modClutch {s : State} (h : s.Lossless) (who : ClutchId) (g : Clutch → Clutch) : (s.modClutch who g).Lossless :=
  ⟨h.1, forall_mem_updateFirst h.2 fun _ hd => hd⟩

theorem State.Lossless.launchFault {s : State} (h : s.Lossless) (l : Nat) (r : Report) : (s.launchFault l r).Lossless := by
  refine ⟨?_, fun d hd => h.2 d (State.launchFault_choruses s l r ▸ hd)⟩
  have hlaunches : (s.launchFault l r).launches = updateFirst (·.uid = l) (·.receive s.now r) s.launches := by
    unfold State.launchFault
    split <;> rfl
  rw [hlaunches]
  refine forall_mem_updateFirst h.1 fun x hx => ?_
  rw [← hx]
  unfold Launch.receive
  dsimp only
  split <;> rfl

theorem State.headerOf_volCount {s : State} (h : ∀ l ∈ s.launches, l.hdr.volCount = 0) (c : Chorus) : (s.headerOf c).volCount = 0 := by
  unfold State.headerOf
  split
  · exact h _ (List.mem_of_find?_eq_some ‹_›)
  · rfl

theorem State.clutchesOn_header {s : State} {c : CoreId} {x : Chorus × Header × Clutch} (h : x ∈ s.clutchesOn c) :
    x.2.1 = s.headerOf x.1 := by
  obtain ⟨ch, -, hx⟩ := List.mem_flatMap.mp h
  obtain ⟨cl, -, rfl⟩ := List.mem_map.mp hx
  rfl

/-- A core that runs on. -/
def Core.released (k : Core) : Core :=
  { k with stopped := false, slot := 31, code := 0, stopper := none, stopInfo := none, pcWritten := false, stepping := none }

/-- A clutch that BREAK has stopped is moved past its BKPT, unless its PC was written (R193). -/
def State.pastBkpt (s : State) (c : CoreId) : State :=
  match (s.core c).stopper with
  | some who => if (s.core c).code = Code.break_.num ∧ !(s.core c).pcWritten then s.modClutch who (·.advance 8) else s
  | none => s

theorem State.pastBkpt_cases (s : State) (c : CoreId) : s.pastBkpt c = s ∨ ∃ who, s.pastBkpt c = s.modClutch who (·.advance 8) := by
  unfold State.pastBkpt
  split
  · split
    · exact .inr ⟨_, rfl⟩
    · exact .inl rfl
  · exact .inl rfl

/-- The volatile registers of the clutches of a core become undefined (R95). -/
def State.loseVolatiles (s : State) (c : CoreId) : State :=
  (s.clutchesOn c).foldl (fun s (ch, h, cl) =>
    if h.volCount = 0 then s else s.modClutch { chorus := ch.uid, clutch := cl.id } (·.loseVolatile s.tick h)) s

/-- The claims that a stop of a core has held back complete (R107). -/
def State.endHeldClaims (s : State) (c : CoreId) : State :=
  s.choruses.foldl (fun s ch => ch.deadlocked.foldl (fun s pos =>
    if ch.coreAt pos = c then s.modChorus ch.uid (fun ch => ch.endClaims (s.headerOf ch).uniform s.tick pos) else s) s) s

/-- A core runs on, after what its resume does to the clutches. -/
theorem State.resumeCore_stages (s : State) (c : CoreId) :
    s.resumeCore c = ((((s.pastBkpt c).loseVolatiles c).endHeldClaims c).modCore c fun k => { k.released with
      stepping := if (s.core c).step then (s.pastBkpt c).clutchAt c (s.core c).sel else none }).bump := rfl

theorem State.Lossless.pastBkpt {s : State} (h : s.Lossless) (c : CoreId) : (s.pastBkpt c).Lossless := by
  obtain hs | ⟨who, hs⟩ := s.pastBkpt_cases c
  · rwa [hs]
  · rw [hs]
    exact h.modClutch who _

theorem State.Lossless.loseVolatiles {s : State} (h : s.Lossless) (c : CoreId) : s.loseVolatiles c = s :=
  foldl_eq_of_fixed fun x hx => if_pos (by rw [State.clutchesOn_header hx, State.headerOf_volCount h.1])

theorem State.Lossless.endHeldClaims {s : State} (h : s.Lossless) (c : CoreId) : s.endHeldClaims c = s :=
  foldl_eq_of_fixed fun d hd => by rw [h.2 d hd, List.foldl_nil]

theorem State.resumeCore_eq {s : State} {c : CoreId} (h : s.Lossless) (hstep : (s.core c).step = false) :
    s.resumeCore c = ((s.pastBkpt c).modCore c Core.released).bump := by
  have hlost := h.pastBkpt c
  rw [State.resumeCore_stages, hlost.loseVolatiles, hlost.endHeldClaims, hstep]
  rfl

/-! ### One core alone -/

theorem onlyCore_modCore (s : State) (c : CoreId) (g : Core → Core) : onlyCore s (s.modCore c g) c := by
  refine ⟨rfl, fun d hd => State.die_modDie_other s _ _ _ hd, ?_, fun n hn => ?_⟩
  · rw [State.modCore, State.die_modDie_self]
  · rw [State.modCore, State.die_modDie_self]
    exact Store.get_modify_other _ _ _ _ _ hn

theorem onlyCore_bump {s t : State} {c : CoreId} (h : onlyCore s t c) : onlyCore s t.bump c := ⟨h.1, h.2⟩

/-! ### The end of a stop -/

theorem exec_resume {s : State} {c : CoreId} (h : ((s.core c).stopped && !s.coreFrozen c) = true) :
    exec (.resume c) s = .next (s.resumeCore c) := by
  change execResume c s = _
  rw [execResume, if_pos h]

theorem exec_escalate {s : State} {c : CoreId} (h : ((s.core c).stopped && !s.coreFrozen c) = true) :
    exec (.escalate c) s = .next (s.endStop c .escalated (s.core c).code) := by
  change execEscalate c s = _
  rw [execEscalate, if_pos h]

theorem exec_stoptime {s : State} {c : CoreId} (h : ((s.core c).stopped && !s.coreFrozen c) = true) :
    exec (.stoptime c) s = .next (if (s.core c).stopAt + stopLimit ≤ s.now then s.endStop c .stoptime 0 else s) := by
  change execStoptime c s = _
  rw [execStoptime, h, Bool.true_and]
  simp only [decide_eq_true_eq]

/-- Nothing ends the stop of a core that is not stopped. -/
theorem exec_not_stopped {s : State} {c : CoreId} (h : (s.core c).stopped = false) :
    exec (.resume c) s = .next s ∧ exec (.escalate c) s = .next s ∧ exec (.stoptime c) s = .next s := by
  change execResume c s = _ ∧ execEscalate c s = _ ∧ execStoptime c s = _
  simp [execResume, execEscalate, execStoptime, h]

/-- A stop of a clutch that resumes its core: what ends its launch, and what the resume then leaves. -/
theorem State.endStop_eq {s : State} {c : CoreId} {who : ClutchId} {e : Env} (h : s.Lossless) (hstep : (s.core c).step = false)
    (hstopper : (s.core c).stopper = some who) (he : s.env? who = some e) (code : Code) (inner : Nat) :
    s.endStop c code inner
      = (((s.endWith e (e.report code.num inner e.mask)).modCore c fun k => { k with code := 0 }).modCore c Core.released).bump := by
  have hdies : (s.endWith e (e.report code.num inner e.mask)).dies = s.dies := State.launchFault_dies ..
  have hcore : (s.endWith e (e.report code.num inner e.mask)).core c = s.core c := by
    unfold State.core State.die
    rw [hdies]
  have hlost : (s.endWith e (e.report code.num inner e.mask)).Lossless := (h.modClutch e.who _).launchFault e.l.uid _
  unfold State.endStop
  dsimp only
  rw [hstopper]
  dsimp only
  rw [he]
  dsimp only
  generalize s.endWith e (e.report code.num inner e.mask) = t at hcore hlost ⊢
  have hresume := State.resumeCore_eq (s := t.modCore c fun k => { k with code := 0 }) (c := c) ⟨hlost.1, hlost.2⟩
    (by rw [State.core_modCore_self, hcore]; exact hstep)
  have hpast : (t.modCore c fun k => { k with code := 0 }).pastBkpt c = t.modCore c fun k => { k with code := 0 } := by
    unfold State.pastBkpt
    rw [State.core_modCore_self, hcore, hstopper]
    exact if_neg fun hcode => absurd hcode.1 (Nat.zero_ne_add_one 1)
  exact hresume.trans (by rw [hpast])

/-- The first fault of a launch, of a clutch that stops for good, is its report (R204). -/
theorem State.endWith_launch? {s : State} {who : ClutchId} {e : Env} (he : s.env? who = some e) (hreport : e.l.report = none)
    (hending : e.l.ending = none) (r : Report) :
    ∃ l, (s.endWith e r).launch? e.l.uid = some l ∧ l.ending = some .faulted ∧ l.report = some r := by
  obtain ⟨-, -, hl, -⟩ := State.env?_some s who e he
  have huid : e.l.uid = e.ch.launch := by simpa using List.find?_some hl
  have hsame : (s.modClutch e.who fun c => { c with faulted := true }).launch? e.l.uid = some e.l := huid ▸ hl
  refine ⟨e.l.receive s.now r, ?_, ?_, ?_⟩
  · rw [State.endWith, State.launch?_launchFault_self, hsame]
    rfl
  · rw [Launch.receive_first _ _ _ hreport hending]
  · rw [Launch.receive_first _ _ _ hreport hending]

/-- An end of a stop lets the core go and ends the launch of the clutch that stopped it with a report (R202, R204). -/
theorem State.endStop_ends {s : State} {c : CoreId} {who : ClutchId} {e : Env} (h : s.Lossless) (hstep : (s.core c).step = false)
    (hstopper : (s.core c).stopper = some who) (he : s.env? who = some e) (hreport : e.l.report = none) (hending : e.l.ending = none)
    (code : Code) (inner : Nat) :
    ∃ l, ((s.endStop c code inner).core c).stopped = false ∧ (s.endStop c code inner).launch? e.l.uid = some l
      ∧ l.ending = some .faulted ∧ l.report = some (e.report code.num inner e.mask) ∧ (s.endStop c code inner).mem = s.mem := by
  obtain ⟨l, hl, hfaulted, hrep⟩ := State.endWith_launch? he hreport hending (e.report code.num inner e.mask)
  have hmem : (s.endWith e (e.report code.num inner e.mask)).mem = s.mem :=
    State.launchFault_mem _ e.l.uid _
  rw [State.endStop_eq h hstep hstopper he]
  generalize s.endWith e (e.report code.num inner e.mask) = t at hl hmem ⊢
  have hruns := congrArg Core.stopped (State.core_modCore_self (t.modCore c fun k => { k with code := 0 }) c Core.released)
  exact ⟨l, hruns, hl, hfaulted, hrep, hmem⟩

end Sys2Proof.Machine

open Sys2Proof Sys2Proof.Machine Sys2Proof.Safety Sys2Proof.Claims

theorem coreStops_holds : Sys2Proof.Claims.coreStops := by
  intro s c k runs ends
  refine ⟨⟨_, rfl, onlyCore_modCore s c _, State.core_modCore_self ..⟩, fun hruns => exec_not_stopped hruns,
    fun hstopped hfrozen hvol hdead hstep => ?_⟩
  have hlost : s.Lossless := ⟨hvol, hdead⟩
  have hgo : ((s.core c).stopped && !s.coreFrozen c) = true := by
    rw [show (s.core c).stopped = true from hstopped, hfrozen]
    rfl
  have hresume := (exec_resume hgo).trans (congrArg Host.Outcome.next (State.resumeCore_eq hlost hstep))
  refine ⟨fun hnone => ?_, fun who e hstopper he => ⟨fun hcode hpc => ?_, fun hrep hend => ?_⟩⟩
  · have hpast : s.pastBkpt c = s := by
      unfold State.pastBkpt
      rw [show (s.core c).stopper = none from hnone]
    rw [hpast] at hresume
    exact ⟨_, hresume, onlyCore_bump (onlyCore_modCore s c _), State.core_modCore_self s c Core.released⟩
  · have hpast : s.pastBkpt c = s.modClutch who (·.advance 8) := by
      unfold State.pastBkpt
      rw [show (s.core c).stopper = some who from hstopper]
      exact if_pos ⟨hcode, by rw [show (s.core c).pcWritten = false from hpc]; rfl⟩
    rw [hpast] at hresume
    refine ⟨_, hresume, State.core_modCore_self (s.modClutch who _) c Core.released, rfl, ?_⟩
    refine (State.at?_modClutch_self s who (·.advance 8) fun _ => rfl).trans ?_
    rw [State.env?_at? s who e he]
    rfl
  · have hends := State.endStop_ends hlost hstep hstopper he hrep hend
    refine ⟨?_, fun hlt => ?_, fun hle => ?_⟩
    · obtain ⟨l, hall⟩ := hends .escalated k.code
      exact ⟨_, l, exec_escalate hgo, hall⟩
    · exact (exec_stoptime hgo).trans (congrArg _ (if_neg (Nat.not_le.mpr hlt)))
    · obtain ⟨l, hall⟩ := hends .stoptime 0
      exact ⟨_, l, (exec_stoptime hgo).trans (congrArg _ (if_pos hle)), hall⟩
end

section
/-! SUPPORT. Uncorrectable errors (R94, R219): the second part of what settles O51. -/

namespace Sys2Proof.Machine

open Sys2Proof.Safety Sys2Proof.Claims

/-! ### The event log (R440) -/

theorem State.logEvent_getLast? (s : State) (kind : LogKind) (die ctx coreid detail : Nat) :
    (s.logEvent kind die ctx coreid detail).crucible.log.getLast?
      = some { cycle := (s.die die).cycle.toNat, code := Config.eventCode kind.index, die, ctx, coreid, detail } := by
  unfold State.logEvent State.interrupt State.modCrucible
  dsimp only
  split <;> exact List.getLast?_concat

theorem State.logEvent_intcause (s : State) (kind : LogKind) (die ctx coreid detail : Nat) :
    (s.logEvent kind die ctx coreid detail).crucible.intcause.getLsbD 0 = true := by
  unfold State.logEvent State.interrupt State.modCrucible
  dsimp only
  rw [BitVec.getLsbD_or]
  simp

/-- An event that is logged after a change that leaves the cycle of its die. -/
theorem logged_logEvent {s t : State} (kind : LogKind) {die : Nat} (ctx coreid detail : Nat)
    (h : (t.die die).cycle = (s.die die).cycle) : logged s (t.logEvent kind die ctx coreid detail) kind die ctx coreid detail := by
  refine ⟨?_, State.logEvent_intcause ..⟩
  rw [State.logEvent_getLast?, h]

theorem exec_uncorrectableError (site : ErrorSite) (s : State) :
    exec (.uncorrectableError site) s = execUncorrectableError site s := rfl

/-! ### Errors in the registers of a clutch -/

theorem State.anyEnv?_some {s : State} {who : ClutchId} {e : Env} (h : s.anyEnv? who = some e) : s.at? who = some e.cl := by
  unfold State.anyEnv? at h
  split at h
  · cases h
  · rename_i ch hch
    split at h
    · rename_i l cl hl hcl
      cases h
      exact Option.bind_eq_some_iff.mpr ⟨ch, hch, hcl⟩
    · cases h

/-- The mark of a bad word of a register or of a moment register. -/
def Clutch.markWord (moment : Bool) (key : Nat) (c : Clutch) : Clutch :=
  if moment then { c with mpoison := setInsert c.mpoison key } else { c with poison := setInsert c.poison key }

theorem Clutch.markWord_id (moment : Bool) (key : Nat) (c : Clutch) : (c.markWord moment key).id = c.id := by
  cases moment <;> rfl

theorem execUncorrectableError_register {s : State} {who : ClutchId} {e : Env} {reg l : Nat} (he : s.anyEnv? who = some e) (hl : l < 96)
    (hreg : reg < e.cl.held) :
    exec (.uncorrectableError (.register who reg l)) s
      = .next ((s.modClutch who (Clutch.markWord false (poisonKey e.hdr.uniform reg l))).logEvent .uncorrectable e.ch.die e.l.ctx
          (coreWord e.core) (2 ^ 16 * e.cl.id + 2 ^ 8 * reg + l)) := by
  rw [exec_uncorrectableError]
  unfold execUncorrectableError
  dsimp only
  rw [he]
  exact if_pos ⟨hl, .inl hreg⟩

theorem execUncorrectableError_moment {s : State} {who : ClutchId} {e : Env} {reg l half : Nat} (he : s.anyEnv? who = some e)
    (hl : l < 96) (hreg : reg < e.hdr.moments) (hhalf : half < 2) :
    exec (.uncorrectableError (.moment who reg l half)) s
      = .next ((s.modClutch who (Clutch.markWord true (momentKey reg l half))).logEvent .uncorrectable e.ch.die e.l.ctx
          (coreWord e.core) (2 ^ 16 * e.cl.id + 2 ^ 8 * reg + l)) := by
  rw [exec_uncorrectableError]
  unfold execUncorrectableError
  dsimp only
  rw [he]
  exact if_pos ⟨hl, hreg, hhalf⟩

/-- A clutch with a bad word, logged. -/
theorem State.at?_markWord {s : State} {who : ClutchId} {c : Clutch} (hat : s.at? who = some c) (moment : Bool) (key : Nat)
    (kind : LogKind) (die ctx coreid detail : Nat) :
    ((s.modClutch who (Clutch.markWord moment key)).logEvent kind die ctx coreid detail).at? who = some (c.markWord moment key) := by
  refine (State.at?_modClutch_self s who _ (Clutch.markWord_id moment key)).trans ?_
  rw [hat, Option.map_some]

/-! ### Errors in the memories of a chorus (R211, R219) -/

theorem execUncorrectableError_scratchpad {s : State} {c : Chorus} {l : Launch} {pos n : Nat} (hc : s.chorus? c.uid = some c)
    (hl : s.launch? c.launch = some l) (hpos : pos < c.cores.length) (hn : 64 * n < l.hdr.scratch) :
    exec (.uncorrectableError (.scratchpad c.uid pos n)) s
      = .next ((s.modChorus c.uid fun c => { c with scratchPoison := setInsert c.scratchPoison (8192 * pos + n) }).logEvent
          .uncorrectable c.die l.ctx (coreWord (c.coreAt pos)) (64 * n)) := by
  have hkey : (scratchSpan * pos + 64 * n) / 64 = 8192 * pos + n := by
    unfold scratchSpan
    omega
  rw [exec_uncorrectableError]
  unfold execUncorrectableError
  dsimp only
  rw [hc]
  dsimp only
  rw [hl, hkey, if_neg (by simp [hpos, hn])]
  rfl

theorem execUncorrectableError_accumulator {s : State} {c : Chorus} {l : Launch} {pos sub row n : Nat} (hc : s.chorus? c.uid = some c)
    (hl : s.launch? c.launch = some l) (hpos : pos < c.cores.length) (hsub : sub < 4) (hn : n < 8) (hrow : row < l.hdr.accRows) :
    exec (.uncorrectableError (.accumulator c.uid pos sub row n)) s
      = .next ((s.modChorus c.uid fun c => { c with
          accPoison := setInsert c.accPoison (((4 * pos + sub) * 512 + row) * 8 + n) }).logEvent
          .uncorrectable c.die l.ctx (coreWord (c.coreAt pos)) (8 * row + n)) := by
  have hkey : cellKey pos sub row (16 * n) / 16 = ((4 * pos + sub) * 512 + row) * 8 + n := by
    unfold cellKey
    omega
  rw [exec_uncorrectableError]
  unfold execUncorrectableError
  dsimp only
  rw [hc]
  dsimp only
  rw [hl, hkey, if_neg (by simp [hpos, hsub, hn, hrow])]
  rfl

/-! ### Errors in an L1 (R218, R219) -/

/-- A change of the sectors of a line that drops none. -/
theorem L1Line.sector?_map (x : L1Line) (h : Nat → L1Sector → L1Sector) (k : Nat) :
    (x.map fun sec y => some (h sec y)).sector? k = (x.sector? k).map (h k) := by
  have hline : (x.map fun sec y => some (h sec y)).line = x.line := rfl
  unfold L1Line.sector?
  rw [hline]
  by_cases hk : x.line = k / 2
  · rw [if_neg (not_not.mpr hk), if_neg (not_not.mpr hk)]
    by_cases hlow : k % 2 = 0
    · have hsec : 2 * x.line = k := by omega
      simp [hlow, L1Line.map, hsec, Option.map_eq_bind]
    · have hsec : 2 * x.line + 1 = k := by omega
      simp [hlow, L1Line.map, hsec, Option.map_eq_bind]
  · rw [if_pos hk, if_pos hk]
    rfl

/-- A line without sectors holds none. -/
theorem L1Line.sector?_empty {x : L1Line} (h : (x.low.isSome || x.high.isSome) = false) (k : Nat) : x.sector? k = none := by
  obtain ⟨hlow, hhigh⟩ : x.low = none ∧ x.high = none := by simpa using h
  unfold L1Line.sector?
  rw [hlow, hhigh, ite_self, ite_self]

theorem findSome?_filter {α β : Type} {f : α → Option β} {p : α → Bool} (h : ∀ x, p x = false → f x = none) (xs : List α) :
    (xs.filter p).findSome? f = xs.findSome? f := by
  induction xs with
  | nil => rfl
  | cons x rest ih =>
    rw [List.filter_cons, List.findSome?_cons]
    split
    · rw [List.findSome?_cons, ih]
    · rw [ih, h x (by simpa using ‹¬ p x = true›)]

/-- The sectors of an L1 after a change that drops none. -/
theorem State.l1Sector?_mapL1 (s : State) (c : CoreId) (h : Nat → L1Sector → L1Sector) (k : Nat) :
    ((s.mapL1 c fun sec x => some (h sec x)).core c).l1Sector? k = ((s.core c).l1Sector? k).map (h k) := by
  unfold State.mapL1
  split
  · rename_i hempty
    rw [Core.l1Sector?, List.isEmpty_iff.mp hempty]
    rfl
  · rw [State.core_modCore_self, Core.l1Sector?, Core.l1Sector?, findSome?_filter fun x hx => L1Line.sector?_empty hx k,
      List.findSome?_map, List.map_findSome?]
    exact congrArg (List.findSome? · _) (funext fun x => x.sector?_map h k)

/-- The mark of a bad sector of an L1. -/
def L1Sector.mark (n sec : Nat) (x : L1Sector) : L1Sector := if sec = n then { x with poisoned := true } else x

theorem execUncorrectableError_l1 {s : State} {c : CoreId} {n : Nat} {x : L1Sector} (h : (s.core c).l1Sector? n = some x) :
    exec (.uncorrectableError (.l1 c n)) s = .next ((s.mapL1 c fun sec y => some (y.mark n sec)).logEvent
      .uncorrectable c.die 0 (coreWord c) (64 * n)) := by
  rw [exec_uncorrectableError]
  unfold execUncorrectableError
  dsimp only
  rw [h]
  rfl

theorem State.mapL1_onlyDies (s : State) (c : CoreId) (g : Nat → L1Sector → Option L1Sector) : s.OnlyDies (s.mapL1 c g) := by
  unfold State.mapL1
  split
  · exact .refl s
  · rfl

theorem State.mapL1_cycle (s : State) (c : CoreId) (g : Nat → L1Sector → Option L1Sector) (d : Nat) :
    ((s.mapL1 c g).die d).cycle = (s.die d).cycle := by
  unfold State.mapL1
  split
  · rfl
  · exact State.die_modDie_field Die.cycle s c.die d _ fun _ => rfl

end Sys2Proof.Machine

open Sys2Proof Sys2Proof.Machine Sys2Proof.Safety Sys2Proof.Claims

theorem uncorrectableErrors_holds : Sys2Proof.Claims.uncorrectableErrors := by
  refine fun s => ⟨fun who reg l e he hl hreg => ?_, fun who reg l half e he hl hreg hhalf => ?_, fun n hn => ?_,
    fun c l pos n hc hl hpos => ⟨fun hn => ?_, fun sub row hsub hn hrow => ?_⟩, fun c n x hx => ?_⟩
  · exact ⟨_, _, execUncorrectableError_register he hl hreg, State.at?_markWord (State.anyEnv?_some he) .., rfl, rfl, rfl,
      logged_logEvent _ _ _ _ rfl, fun k => mem_setInsert⟩
  · exact ⟨_, _, execUncorrectableError_moment he hl hreg hhalf, State.at?_markWord (State.anyEnv?_some he) .., rfl, rfl, rfl,
      logged_logEvent _ _ _ _ rfl, fun k => mem_setInsert⟩
  · exact ⟨_, if_pos hn, rfl, rfl, fun k => mem_setInsert, logged_logEvent _ _ _ _ rfl⟩
  · exact ⟨_, _, execUncorrectableError_scratchpad hc hl hpos hn, State.chorus?_changes hc fun _ => rfl, rfl, rfl,
      logged_logEvent _ _ _ _ rfl, fun k => mem_setInsert⟩
  · exact ⟨_, _, execUncorrectableError_accumulator hc hl hpos hsub hn hrow, State.chorus?_changes hc fun _ => rfl, rfl, rfl,
      logged_logEvent _ _ _ _ rfl, fun k => mem_setInsert⟩
  · have hdies := s.mapL1_onlyDies c fun sec y => some (y.mark n sec)
    have hsector := s.l1Sector?_mapL1 c (fun sec y => y.mark n sec)
    refine ⟨_, execUncorrectableError_l1 hx, State.mapL1_mem .., (congrArg State.poisoned hdies.eq :), hdies.choruses,
      logged_logEvent _ _ _ _ (s.mapL1_cycle c _ c.die), ?_, fun k hk => ?_⟩
    · refine (hsector n).trans ?_
      rw [hx, Option.map_some, L1Sector.mark, if_pos rfl]
    · refine (hsector k).trans ?_
      simp [L1Sector.mark, hk]
end

section
/-! SUPPORT. The end of a launch that has faulted (R204): no operation of it brings a chorus back. The third part of what settles O51. -/

namespace Sys2Proof.Machine

open Sys2Proof.Safety Sys2Proof.Claims

/-! ### Launches as they are, and no new chorus -/

/-- The same launches, and every chorus stood there before under its number and its launch. -/
structure State.Thins (s t : State) : Prop where
  launches : t.launches = s.launches
  choruses : ∀ c ∈ t.choruses, ∃ d ∈ s.choruses, d.uid = c.uid ∧ d.launch = c.launch

theorem State.Thins.of_eq {s t : State} (hl : t.launches = s.launches) (hc : t.choruses = s.choruses) : s.Thins t :=
  ⟨hl, fun c h => ⟨c, hc ▸ h, rfl, rfl⟩⟩

theorem State.Thins.refl (s : State) : s.Thins s := .of_eq rfl rfl

theorem State.Thins.trans {s t u : State} (h : s.Thins t) (k : t.Thins u) : s.Thins u := by
  refine ⟨k.launches.trans h.launches, fun c hc => ?_⟩
  obtain ⟨d, hd, huid, hlaunch⟩ := k.choruses c hc
  obtain ⟨x, hx, huid', hlaunch'⟩ := h.choruses d hd
  exact ⟨x, hx, huid'.trans huid, hlaunch'.trans hlaunch⟩

theorem State.Thins.foldl {β : Type} (g : State → β → State) (hg : ∀ (s : State) (x : β), s.Thins (g s x)) (xs : List β) (s : State) :
    s.Thins (xs.foldl g s) := by
  induction xs generalizing s with
  | nil => exact .refl s
  | cons x rest ih => exact (hg s x).trans (ih (g s x))

theorem State.OnlyDies.thins {s t : State} (h : s.OnlyDies t) : s.Thins t :=
  .of_eq (congrArg State.launches h.eq :) h.choruses

theorem State.modDie_thins (s : State) (d : Nat) (g : Die → Die) : s.Thins (s.modDie d g) := .of_eq rfl rfl

theorem State.modChorus_thins (s : State) (uid : Nat) (g : Chorus → Chorus)
    (hg : ∀ x, (g x).uid = x.uid ∧ (g x).launch = x.launch := by intro x; exact ⟨rfl, rfl⟩) : s.Thins (s.modChorus uid g) := by
  refine ⟨rfl, forall_mem_updateFirst (fun c hc => ⟨c, hc, rfl, rfl⟩) fun c hc => ?_⟩
  obtain ⟨d, hd, huid, hlaunch⟩ := hc
  exact ⟨d, hd, huid.trans (hg c).1.symm, hlaunch.trans (hg c).2.symm⟩

theorem State.modClutch_thins (s : State) (who : ClutchId) (g : Clutch → Clutch) : s.Thins (s.modClutch who g) :=
  State.modChorus_thins s _ _

theorem State.modCrucible_thins (s : State) (g : Crucible → Crucible) : s.Thins (s.modCrucible g) := .of_eq rfl rfl

theorem State.modContext_thins (s : State) (n : Nat) (g : Context → Context) : s.Thins (s.modContext n g) := .of_eq rfl rfl

theorem State.send_thins (s : State) (m : Msg) : s.Thins (s.send m) := .of_eq rfl rfl

theorem State.bump_thins (s : State) : s.Thins s.bump := .of_eq rfl rfl

/-! ### Writes to scratchpads and the watches on them (R420) -/

theorem State.fireWatch_thins (s : State) (die : Nat) (w : Watch) (v : Nat) : s.Thins (s.fireWatch die w v) := by
  unfold State.fireWatch
  dsimp only
  split
  · exact State.modDie_thins s die _
  split
  · exact State.modDie_thins s die _
  · exact ((State.modDie_thins s die _).trans (State.modClutch_thins _ _ _)).trans (State.invalidateL1_onlyDies _ _).thins

theorem State.examine_thins (s : State) (die : Nat) (p : Watch → Bool) : s.Thins (s.examine die p) := by
  refine State.Thins.foldl _ (fun s w => ?_) _ s
  dsimp only
  split
  · exact State.fireWatch_thins s die w _
  · exact .refl s

theorem Chorus.writeScratch_place (c : Chorus) (bytes : Store Byte) :
    (c.writeScratch bytes).uid = c.uid ∧ (c.writeScratch bytes).launch = c.launch := by
  unfold Chorus.writeScratch Chorus.setScratch Chorus.mapJobs
  dsimp only
  split <;> exact ⟨rfl, rfl⟩

theorem State.writeLocal_thins (s : State) (uid : Nat) (bytes : Store Byte) : s.Thins (s.writeLocal uid bytes) := by
  unfold State.writeLocal
  split
  · exact .refl s
  · exact (State.modChorus_thins s uid _ fun x => x.writeScratch_place bytes).trans (State.examine_thins _ _ _)

/-! ### Landings and futures (R91, R396, R398) -/

theorem State.flag_thins (s : State) (uid : Nat) (w : Word) : s.Thins (s.flag uid w) := by
  unfold State.flag
  split
  · exact .refl s
  · exact State.modChorus_thins s uid _

theorem State.land_thins (s : State) (p : Landing) : s.Thins (s.land p) := by
  have gone : s.Thins { s with landings := s.landings.filter fun q => q.id ≠ p.id } := .of_eq rfl rfl
  unfold State.land
  dsimp only
  split
  · exact gone
  · have fills := fun g => (gone.trans (State.modClutch_thins _ p.who g)).trans (State.flag_thins _ p.who.chorus p.flags)
    split
    · exact (fills _).trans (State.modChorus_thins _ _ _)
    · exact fills _

theorem State.deliver_thins (s : State) (id v : Nat) : s.Thins (s.deliver id v) := by
  unfold State.deliver
  split
  · exact .refl s
  · dsimp only
    split
    · exact (State.land_thins s _).trans (State.invalidateL1_onlyDies _ _).thins
    · exact State.land_thins s _

theorem State.freeFutureAt_thins (s : State) (die i : Nat) : s.Thins (s.freeFutureAt die i) :=
  (State.modDie_thins s die _).trans
    (State.Thins.foldl (fun s (w : Nat × Bool) => s.deliver w.1 invalidValue) (fun s _ => State.deliver_thins s _ _) _ _)

theorem State.completeFuture_thins (s : State) (die i : Nat) (st : FutureState) (v : DWord) : s.Thins (s.completeFuture die i st v) := by
  unfold State.completeFuture
  dsimp only
  split
  · exact .refl s
  split
  · exact State.freeFutureAt_thins s die i
  · have completes := fun g xs => (State.modDie_thins s die g).trans
      (State.Thins.foldl (fun s (w : Nat × Bool) => s.deliver w.1 v.toNat) (fun s _ => State.deliver_thins s _ _) xs _)
    split
    · exact (completes _ _).trans (State.freeFutureAt_thins _ die i)
    · exact completes _ _

theorem State.discardFutures_thins (s : State) (die uid : Nat) : s.Thins (s.discardFutures die uid) := by
  refine State.Thins.foldl _ (fun s x => ?_) _ s
  split
  · exact .refl s
  split
  · exact State.modDie_thins s die _
  · exact State.freeFutureAt_thins s die _

/-! ### What a chorus gives up when it is discarded (R204, R289) -/

theorem State.gather_thins (s : State) (w : PlainWrite) (bytes : Store Byte) : s.Thins (s.gather w bytes) := by
  refine State.Thins.trans (State.Thins.foldl _ (fun t g => ?_) _ s) (.of_eq rfl rfl)
  cases g with
  | nil => exact .refl t
  | cons x rest => exact State.modDie_thins t _ _

theorem State.performUnits_thins (s : State) (e : Env) (j : CopyJob) (us : List CopyUnit) : s.Thins (s.performUnits e j us).1 := by
  have reads : ∀ spans, s.Thins (if j.desc.ssp = 0 then s.readsThrough e.core e.l.ctx spans else s) := by
    intro spans
    split
    · exact State.OnlyDies.thins (State.readsAt_dies s _)
    · exact .refl s
  have moves : ∀ (u : State) (local_ : Store Byte), u.Thins (if local_.isEmpty then u else u.writeLocal e.who.chorus local_) := by
    intro u local_
    split
    · exact .refl u
    · exact State.writeLocal_thins u _ _
  unfold State.performUnits
  dsimp only
  exact ((((reads _).trans (State.gather_thins _ _ _)).trans (moves _ _)).trans (State.modChorus_thins _ _ _)).trans
    (State.bump_thins _)

theorem State.dropCopy_thins (s : State) (id : Nat) : s.Thins (s.dropCopy id) := .of_eq rfl rfl

theorem State.haltCopy_thins (s : State) (j : CopyJob) : s.Thins (s.haltCopy j) := by
  unfold State.haltCopy
  split
  · exact State.dropCopy_thins s _
  · exact ((State.performUnits_thins s _ _ _).trans (State.dropCopy_thins _ _)).trans (State.bump_thins _)

theorem State.dropLandings_thins (s : State) (p : Landing → Bool) : s.Thins (s.dropLandings p) := by
  have frees : ∀ (s : State) (left : List Landing) (x : Landing), s.Thins (s.freeSlot left x) := by
    intro s left x
    unfold State.freeSlot
    split
    · dsimp only
      split
      · exact .refl s
      · exact State.modDie_thins s _ _
    · exact .refl s
  unfold State.dropLandings
  dsimp only
  split
  · exact .refl s
  · exact State.Thins.trans (State.Thins.foldl _ (fun s x => frees s _ x) _ s) (.of_eq rfl rfl)

theorem State.discard_thins (s : State) (c : Chorus) : s.Thins (s.discard c) :=
  ((((State.Thins.foldl _ State.haltCopy_thins _ s).trans (State.dropLandings_thins _ _)).trans (State.modDie_thins _ c.die _)).trans
    (State.discardFutures_thins _ _ _)).trans (State.Thins.foldl _ (fun s _ => State.modDie_thins s _ _) _ _)

/-! ### Messages and tables: operations that touch no chorus -/

theorem State.flushReleases_thins (s : State) : s.Thins s.flushReleases := by
  refine State.Thins.foldl _ (fun s p => ?_) _ s
  dsimp only
  split
  · exact .refl s
  · exact ((State.modCrucible_thins s _).trans (State.modContext_thins _ _ _)).trans
      (State.Thins.foldl _ (fun s h => State.Thins.foldl _ (fun s d => State.send_thins s _) _ s) _ _)

theorem State.releaseChorus_thins (s : State) (c : Chorus) (l : Launch) : s.Thins (s.releaseChorus c l) :=
  (State.modCrucible_thins s _).trans (State.flushReleases_thins _)

theorem State.freeSave_thins (s : State) (l : Launch) (c : Chorus) : s.Thins (s.freeSave l c) := by
  unfold State.freeSave
  split
  · exact .of_eq rfl rfl
  · exact .refl s

theorem State.sendDepart_thins (s : State) (l : Launch) (index : Nat) (bad : Bool) : s.Thins (s.sendDepart l index bad) := by
  unfold State.sendDepart
  split
  · exact State.Thins.foldl _ (fun s m => State.send_thins s _) _ s
  · exact .refl s

theorem State.tellPeers_thins (s : State) (l : Launch) (index : Nat) : s.Thins (s.tellPeers l index) := by
  unfold State.tellPeers
  split
  · exact .refl s
  · exact State.sendDepart_thins s l index true
  · split
    · exact .refl s
    · exact State.sendDepart_thins s l index false

theorem State.dropHeld_thins (s : State) (l : Launch) : s.Thins (s.dropHeld l) := by
  unfold State.dropHeld
  split
  · exact .of_eq rfl rfl
  · exact .refl s

theorem State.closeNode_thins (s : State) (l : Launch) : s.Thins (s.closeNode l) := by
  unfold State.closeNode
  split
  · exact .refl s
  · exact .of_eq rfl rfl

/-! ### Collectives that withdraw (R392) -/

theorem State.completeAll_thins (s : State) (fs : List (Nat × Nat)) (flags : Word) (st : FutureState) (v : DWord) :
    s.Thins (s.completeAll fs flags st v) :=
  State.Thins.foldl _ (fun s _ => (State.flag_thins s _ flags).trans (State.completeFuture_thins _ _ _ st v)) _ s

theorem State.withdrawColl_thins (s : State) (c : Collective) : s.Thins (s.withdrawColl c) := by
  have tells : s.Thins (s.tellMembers c (.halted 6)) := State.Thins.foldl _ (fun s d => State.send_thins s _) _ s
  exact (tells.trans (State.modCrucible_thins _ _)).trans (State.completeAll_thins _ _ _ _ _)

/-! ### Clusters that pass on (R356) -/

theorem Chorus.endClaims_launch (c : Chorus) (n tick pos : Nat) : (c.endClaims n tick pos).launch = c.launch := by
  have hfold : ∀ (xs : List Claim) (d : Chorus), (xs.foldl (fun d x => d.completeClaim n tick x false) d).launch = d.launch := by
    intro xs
    induction xs with
    | nil => exact fun d => rfl
    | cons x rest ih => exact fun d => ih _
  exact hfold _ _

theorem State.resumeCore_thins (s : State) (c : CoreId) : s.Thins (s.resumeCore c) := by
  have moves : s.Thins (s.pastBkpt c) := by
    obtain h | ⟨who, h⟩ := s.pastBkpt_cases c <;> rw [h]
    · exact .refl s
    · exact State.modClutch_thins s who _
  have loses : ∀ t : State, t.Thins (t.loseVolatiles c) := by
    refine fun t => State.Thins.foldl _ (fun s x => ?_) _ t
    dsimp only
    split
    · exact .refl s
    · exact State.modClutch_thins s _ _
  have ends : ∀ t : State, t.Thins (t.endHeldClaims c) := by
    refine fun t => State.Thins.foldl _ (fun s ch => State.Thins.foldl _ (fun s pos => ?_) _ s) _ t
    split
    · exact State.modChorus_thins s _ _ fun x => ⟨Chorus.endClaims_uid x _ _ _, Chorus.endClaims_launch x _ _ _⟩
    · exact .refl s
  rw [State.resumeCore_stages]
  exact (((moves.trans (loses _)).trans (ends _)).trans (State.modDie_thins _ c.die _)).trans (State.bump_thins _)

theorem State.unfreezeCore_thins (s : State) (c : CoreId) : s.Thins (s.unfreezeCore c) := by
  unfold State.unfreezeCore
  dsimp only
  split
  · exact State.resumeCore_thins s c
  · exact .refl s

theorem State.handOver_thins (s : State) (die cluster : Nat) (next : Option Nat) : s.Thins (s.handOver die cluster next) := by
  refine (State.modDie_thins s die _).trans (State.Thins.foldl _ (fun s k => ?_) _ _)
  exact (State.invalidateL1_onlyDies s _).thins.trans (State.unfreezeCore_thins _ _)

theorem State.passCluster_thins (s : State) (die cluster : Nat) : s.Thins (s.passCluster die cluster) := by
  have drains : ∀ holder bit, s.Thins (s.endDrain holder bit) := by
    intro holder bit
    cases holder with
    | none => exact .refl s
    | some n => exact .of_eq rfl rfl
  obtain h | ⟨holder, bit, h | ⟨next, h⟩⟩ := State.passCluster_cases s die cluster <;> rw [h]
  · exact .refl s
  · exact drains holder bit
  · exact (drains holder bit).trans (State.handOver_thins _ die cluster next)

theorem State.passAll_thins (s : State) : s.Thins s.passAll :=
  State.Thins.foldl _ (fun s die => State.Thins.foldl _ (fun s k => State.passCluster_thins s die k) _ s) _ s

/-! ### A launch that ends (R204) -/

/-- A chorus of a launch that ends is gone with all it holds. -/
def State.removeChorus (l : Launch) (s : State) (c : Chorus) : State :=
  ((if c.status = .resident then s.discard c else s.discardFutures c.die c.uid).freeSave l c).bury l c

theorem State.removeChorus_thins (l : Launch) (s : State) (c : Chorus) :
    s.Thins (s.removeChorus l c) ∧ ∀ x ∈ (s.removeChorus l c).choruses, x.uid ≠ c.uid := by
  have discards : s.Thins (if c.status = .resident then s.discard c else s.discardFutures c.die c.uid) := by
    split
    · exact State.discard_thins s c
    · exact State.discardFutures_thins s _ _
  have frees := discards.trans (State.freeSave_thins _ l c)
  unfold State.removeChorus State.bury
  generalize State.freeSave _ l c = t at frees ⊢
  have releases := State.releaseChorus_thins { t with choruses := t.choruses.filter fun x => x.uid ≠ c.uid } c l
  have drops : t.Thins { t with choruses := t.choruses.filter fun x => x.uid ≠ c.uid } :=
    ⟨rfl, fun x hx => ⟨x, (List.mem_filter.mp hx).1, rfl, rfl⟩⟩
  refine ⟨(frees.trans drops).trans releases, fun x hx => ?_⟩
  obtain ⟨d, hd, huid, -⟩ := releases.choruses x hx
  rw [← huid]
  simpa using (List.mem_filter.mp hd).2

theorem State.foldl_removeChorus (l : Launch) (cs : List Chorus) (s : State) :
    s.Thins (cs.foldl (State.removeChorus l) s) ∧ ∀ x ∈ (cs.foldl (State.removeChorus l) s).choruses, ∀ c ∈ cs, x.uid ≠ c.uid := by
  induction cs generalizing s with
  | nil => exact ⟨.refl s, fun x _ c hc => absurd hc List.not_mem_nil⟩
  | cons c rest ih =>
    obtain ⟨hstep, hgone⟩ := s.removeChorus_thins l c
    obtain ⟨hrest, hothers⟩ := ih (s.removeChorus l c)
    refine ⟨hstep.trans hrest, fun x hx => List.forall_mem_cons.mpr ⟨?_, hothers x hx⟩⟩
    obtain ⟨d, hd, huid, -⟩ := hrest.choruses x hx
    exact huid ▸ hgone d hd

/-- The end of a launch up to its own record. -/
def State.emptied (s : State) (l : Launch) : State :=
  let mine := s.choruses.filter (fun c => c.launch = l.uid)
  (((mine.foldl (State.removeChorus l) (s.tellPeers l ((mine.map (·.index)).headD 0))).withdrawAll l.uid).dropHeld l).closeNode l

/-- The record of a launch of which nothing is on a core or waits. -/
def Launch.halted (l : Launch) : Launch :=
  { l with stopped := true, grants := [], again := [], links := [], waits := [], live := [] }

theorem State.killLaunch_eq (s : State) (l : Launch) : s.killLaunch l = (s.emptied l).modLaunch l.uid Launch.halted := rfl

theorem State.emptied_thins (s : State) (l : Launch) : s.Thins (s.emptied l) ∧ ∀ c ∈ (s.emptied l).choruses, c.launch ≠ l.uid := by
  have tells := State.tellPeers_thins s l (((s.choruses.filter fun c => c.launch = l.uid).map (·.index)).headD 0)
  obtain ⟨hremoves, hgone⟩ := State.foldl_removeChorus l (s.choruses.filter fun c => c.launch = l.uid) (s.tellPeers l
    (((s.choruses.filter fun c => c.launch = l.uid).map (·.index)).headD 0))
  have hafter : State.Thins _ (s.emptied l) := ((State.Thins.foldl _ State.withdrawColl_thins _ _).trans
    (State.dropHeld_thins _ l)).trans (State.closeNode_thins _ l)
  refine ⟨(tells.trans hremoves).trans hafter, fun c hc hlaunch => ?_⟩
  obtain ⟨d, hd, huid, hmine⟩ := hafter.choruses c hc
  obtain ⟨x, hx, huid', hmine'⟩ := (tells.trans hremoves).choruses d hd
  refine hgone d hd x (List.mem_filter.mpr ⟨hx, ?_⟩) huid'.symm
  rw [hmine', hmine, hlaunch]
  exact decide_eq_true rfl

/-- A launch has ended on this device: its record stands as `m`, under a number that no other launch has, and no chorus is its own. -/
structure State.Ended (uid : Nat) (m : Launch) (s : State) : Prop where
  launch : s.launch? uid = some m
  distinct : (s.launches.map (·.uid)).Nodup
  choruses : ∀ c ∈ s.choruses, c.launch ≠ uid

section
variable {uid : Nat} {m : Launch} {s t : State}

theorem State.Ended.thins (h : s.Ended uid m) (k : s.Thins t) : t.Ended uid m := by
  refine ⟨?_, k.launches ▸ h.distinct, fun c hc => ?_⟩
  · rw [State.launch?, k.launches]
    exact h.launch
  · obtain ⟨d, hd, -, hlaunch⟩ := k.choruses c hc
    exact hlaunch ▸ h.choruses d hd

/-- A change of another launch. -/
theorem State.Ended.modLaunch (h : s.Ended uid m) {k : Nat} (hne : k ≠ uid) (g : Launch → Launch) (hg : ∀ x, x.uid = k → (g x).uid = k) :
    (s.modLaunch k g).Ended uid m := by
  refine ⟨?_, ?_, h.choruses⟩
  · refine (find?_updateFirst_other _ _ g (fun x hx => ?_) s.launches).trans h.launch
    rw [decide_eq_true_eq] at hx
    simp [hx, hg x hx, hne]
  · have huids : (s.modLaunch k g).launches.map (·.uid) = s.launches.map (·.uid) := by
      have hreplace : updateFirst (·.uid = k) g s.launches
          = updateFirst (·.uid = k) (fun x => if x.uid = k then g x else x) s.launches :=
        updateFirst_congr (fun x hx => (if_pos (by simpa using hx)).symm) _
      unfold State.modLaunch
      rw [hreplace]
      refine updateFirst_map _ _ _ (fun x => ?_) _
      split
      · rw [hg x ‹_›, ‹x.uid = k›]
      · rfl
    rw [huids]
    exact h.distinct

theorem State.Ended.killLaunch (h : s.Ended uid m) {l : Launch} (hne : l.uid ≠ uid) : (s.killLaunch l).Ended uid m :=
  (h.thins (s.emptied_thins l).1).modLaunch hne _ fun _ hx => hx

theorem State.Ended.replaceAndKill (h : s.Ended uid m) {l : Launch} (hne : l.uid ≠ uid) :
    ((s.modLaunch l.uid fun _ => l).killLaunch l).Ended uid m :=
  (h.modLaunch hne _ fun _ _ => rfl).killLaunch hne

theorem State.Ended.endDeparted (h : s.Ended uid m) {l : Launch} (hne : l.uid ≠ uid) : (s.endDeparted l).Ended uid m := by
  unfold State.endDeparted
  split
  · unfold State.launchFault
    refine State.Ended.modLaunch (h.thins ?_) hne _ fun x hx => (Launch.receive_uid x _ _).trans hx
    split
    · exact .of_eq rfl rfl
    · exact .refl s
  · exact h

/-- The other launches of a context end as well, which leaves one that has ended. -/
theorem State.Ended.endAll (h : s.Ended uid m) (hm : m.stopped = true) (ctx : Nat) : (s.endAll ctx).Ended uid m := by
  have hothers : ∀ x ∈ s.launchesOf ctx, x.stopped = true ∨ x.uid ≠ uid := by
    intro x hx
    refine or_iff_not_imp_right.mpr fun heq => ?_
    have hmuid : m.uid = uid := by simpa using List.find?_some h.launch
    have hsame : x = m := List.inj_on_of_nodup_map h.distinct (List.mem_of_mem_filter hx) (List.mem_of_find?_eq_some h.launch)
      ((not_not.mp heq).trans hmuid.symm)
    rw [hsame, hm]
  unfold State.endAll
  generalize s.launchesOf ctx = xs at hothers
  induction xs generalizing s with
  | nil => exact h
  | cons x rest ih =>
    obtain ⟨hx, hrest⟩ := List.forall_mem_cons.mp hothers
    refine ih ?_ hrest
    dsimp only
    split
    · exact h
    · have hne : x.uid ≠ uid := hx.resolve_left ‹_›
      have hdeparts := h.endDeparted (l := x) hne
      generalize s.endDeparted x = t at hdeparts ⊢
      have hfound : ((t.launch? x.uid).getD x).uid = x.uid := by
        cases hl : t.launch? x.uid with
        | none => rfl
        | some y => simpa using List.find?_some hl
      refine hdeparts.replaceAndKill ?_
      exact hfound.trans_ne hne

theorem State.Ended.settleContext (h : s.Ended uid m) (hm : m.stopped = true) (ctx : Nat) : (s.settleContext ctx).Ended uid m := by
  unfold State.settleContext
  dsimp only
  split
  · exact h
  split
  · have hends := h.endAll hm ctx
    split
    · refine hends.thins (State.Thins.trans ?_ (State.passAll_thins _))
      split <;> exact .of_eq rfl rfl
    · exact hends
  · split <;> exact h.thins (.of_eq rfl rfl)

end

end Sys2Proof.Machine

open Sys2Proof Sys2Proof.Machine Sys2Proof.Safety Sys2Proof.Claims

theorem launchFatalEnds_holds : Sys2Proof.Claims.launchFatalEnds := by
  intro s l hl hdistinct hrun hending hfrozen hwrites
  obtain ⟨hthins, hgone⟩ := s.emptied_thins l
  have hends : State.Ended l.uid l.halted (s.killLaunch l) := by
    refine ⟨?_, ?_, hgone⟩
    · refine (State.launch?_modLaunch_self (s.emptied l) l.uid Launch.halted fun _ => rfl).trans ?_
      rw [State.launch?, hthins.launches]
      exact congrArg (Option.map Launch.halted) hl
    · have huids : (s.killLaunch l).launches.map (·.uid) = (s.emptied l).launches.map (·.uid) :=
        updateFirst_map _ Launch.halted _ (fun _ => rfl) _
      rw [huids, hthins.launches]
      exact hdistinct
  have hsettles := (hends.thins (State.passAll_thins _)).settleContext rfl l.ctx
  refine ⟨_, _, ?_, hsettles.choruses, hsettles.launch, rfl, hending, rfl, rfl⟩
  have hopen : s.choruses.any (fun c => c.launch = l.uid && s.writesOpen c.uid) = false := by
    simpa [List.any_eq_false] using hwrites
  have hdeparted : s.endDeparted l = s := by rw [State.endDeparted, hending]
  change execLaunchFatalEnd l.uid s = _
  unfold execLaunchFatalEnd
  rw [hl]
  dsimp only
  rw [if_neg (by simp [hrun, hfrozen, hopen]), hdeparted, hl]
  exact congrArg Host.Outcome.next (if_neg (by simp [hending]))

/-- Settles O51: a stop and its end, the marks of an error, and a launch whose end leaves no chorus of its own. -/
theorem coreStopsAndErrors : Obligations.CoreStopsAndErrors :=
  ⟨coreStops_holds, uncorrectableErrors_holds, launchFatalEnds_holds⟩
end

section
/-! SUPPORT. What an integer instruction answers, from what its function gives of the words that a lane reads (R109 to R114): the rules
for one word, for a pair, for words of elements, and for a word on its way. -/

namespace Sys2Proof.Machine

open Sys2Proof.Safety Sys2Proof.Claims

/-! ### Sources as words and pairs -/

theorem Env.source_intSrc_lt64 (e : Env) (s : State) (f : Fields) (pos i l : Nat) : e.source s (intSrc f pos i 2) l < 2 ^ 64 := by
  unfold Env.source
  cases h : (intSrc f pos i 2).imm with
  | some v =>
    simp only [intSrc, immValue] at h
    split at h
    · obtain rfl := Option.some.inj h
      dsimp only
      have hword := f.imm.isLt
      split
      · exact toNat_ofInt_intBits 64 _ ▸ BitVec.isLt _
      · omega
    · cases h
  | none =>
    cases e.selected (intSrc f pos i 2) l with
    | none => exact Nat.two_pow_pos 64
    | some k =>
      have hlow := (e.read s (intSrc f pos i 2).reg k).isLt
      have hhigh := (e.read s ((intSrc f pos i 2).reg + 1) k).isLt
      simp only [show (intSrc f pos i 2).width = 2 from rfl, if_true, Env.read64]
      omega

/-- A source pair's number is what its source reads. -/
theorem dword_toNat (s : State) (e : Env) (f : Fields) (pos i l : Nat) : (dword s e f pos i l).toNat = e.source s (intSrc f pos i 2) l := by
  rw [dword, BitVec.toNat_ofNat, Nat.mod_eq_of_lt (e.source_intSrc_lt64 s f pos i l)]

/-- What the function of an integer instruction is given in a lane: the numbers of its sources, each a field with a width in words. -/
def operands (s : State) (e : Env) (f : Fields) (pos : Nat) (srcs : List (Nat × Nat)) (l : Nat) : List Nat :=
  srcs.map fun x => e.source s (intSrc f pos x.1 x.2) l

@[simp] theorem operands_nil (s : State) (e : Env) (f : Fields) (pos l : Nat) : operands s e f pos [] l = [] := rfl

@[simp] theorem operands_word (s : State) (e : Env) (f : Fields) (pos l i : Nat) (srcs : List (Nat × Nat)) :
    operands s e f pos ((i, 1) :: srcs) l = (word s e f pos i l).toNat :: operands s e f pos srcs l := by
  rw [word_toNat]
  rfl

@[simp] theorem operands_dword (s : State) (e : Env) (f : Fields) (pos l i : Nat) (srcs : List (Nat × Nat)) :
    operands s e f pos ((i, 2) :: srcs) l = (dword s e f pos i l).toNat :: operands s e f pos srcs l := by
  rw [dword_toNat]
  rfl

/-! ### Flags of a run lane by lane -/

theorem perLane_raised (e : Env) (n : Nat) (g : Nat → List Nat × Word) : (perLane e.mask n g).2 = raised e fun l => (g l).2 := by
  simp only [perLane, raised, lanesOf, lanesIn, List.foldl_map, List.foldl_filter]
  refine congrArg (fun step => (List.range laneCount).foldl step 0) (funext fun acc => funext fun l => ?_)
  cases inMask e.mask l <;> simp

theorem foldl_or_ite (p : Nat → Bool) (fl w : Word) (ls : List Nat) :
    ls.foldl (fun acc l => acc ||| if p l then fl else 0) w = if ls.any p then w ||| fl else w := by
  induction ls generalizing w with
  | nil => rfl
  | cons l rest ih =>
    rw [List.foldl_cons, ih, List.any_cons]
    cases p l <;> cases rest.any p <;> simp [BitVec.or_assoc]

/-- The lanes raise OVF together when it is all that any of them raises. -/
theorem raised_ite (e : Env) (p : Nat → Bool) : raised e (fun l => if p l then flagOvf else 0) = ovfIf e p := by
  rw [raised, foldl_or_ite, ovfIf, show (0 : Word) ||| flagOvf = flagOvf from rfl]

theorem raised_zero (e : Env) : raised e (fun _ => 0) = 0 := by
  have h := raised_ite e fun _ => false
  simpa [ovfIf] using h

/-! ### Integer instructions lane by lane -/

theorem intAlu_result (f : Fields) (pos : Nat) (srcs : List (Nat × Nat)) (n : Nat) (g : List Nat → List Nat × Word) (s : State) (e : Env) :
    (intAlu f pos srcs n e.mask g).result s e = perLane e.mask n fun l => g (operands s e f pos srcs l) := by
  have hreads : ∀ l, (List.range srcs.length).map (fun i => (intAlu f pos srcs n e.mask g).reads s e i l) = operands s e f pos srcs l := by
    intro l
    refine List.ext_getElem (by simp [operands]) fun i h _ => ?_
    have hi : i < srcs.length := by simpa using h
    simp [Alu.reads, intAlu, operands, hi]
  have huntagged : ∀ x ∈ (intAlu f pos srcs n e.mask g).srcs, x.tag = none := by
    intro x hx
    obtain ⟨y, -, rfl⟩ := List.mem_map.mp hx
    rfl
  rw [Alu.result_untagged _ s e huntagged]
  exact congrArg (perLane e.mask n) (funext fun l => congrArg g (hreads l))

section
variable {i : Instr} {op : Nat} {f : Fields} {mk : State → Env → Alu} {s : State} {e : Env}
variable {pos : Nat} {srcs : List (Nat × Nat)} {g : List Nat → List Nat × Word}

/-- An integer instruction writes the words that its function gives, and raises the flags of its active lanes. -/
theorem intAlu_results (hi : registerForm i = some (op, f, mk)) (h : issues i s e) {n : Nat} (hmk : mk s e = intAlu f pos srcs n e.mask g)
    {v : Nat → Nat → Word} {fl : Nat → Word}
    (hv : ∀ l k, k < n → BitVec.ofNat 32 ((g (operands s e f pos srcs l)).1.getD k 0) = v k l)
    (hfl : ∀ l, (g (operands s e f pos srcs l)).2 = fl l) : results i s e f n v (raised e fl) := by
  have hres : (mk s e).result s e = perLane e.mask n fun l => g (operands s e f pos srcs l) := by rw [hmk, intAlu_result]
  have hrun := results_of_run (v := v) hi h (by rw [hmk]; rfl) (by rw [hmk]; rfl) (by rw [hres, perLane_length])
    fun k l hk hl => by rw [hres, perLane_word _ _ _ hk hl, hv l k hk]
  rwa [hres, perLane_raised, funext hfl] at hrun

theorem intAlu_word_flags (hi : registerForm i = some (op, f, mk)) (h : issues i s e) (hmk : mk s e = intAlu f pos srcs 1 e.mask g)
    {x : Nat → Word} {p : Nat → Bool} (hg : ∀ l, g (operands s e f pos srcs l) = ([(x l).toNat], if p l then flagOvf else 0)) :
    results i s e f 1 (fun _ l => x l) (ovfIf e p) := by
  rw [← raised_ite]
  refine intAlu_results hi h hmk (fun l k hk => ?_) fun l => by rw [hg]
  obtain rfl : k = 0 := by omega
  simp [hg]

/-- An integer instruction whose function gives one word and no flag. -/
theorem intAlu_word (hi : registerForm i = some (op, f, mk)) (h : issues i s e) (hmk : mk s e = intAlu f pos srcs 1 e.mask g)
    {x : Nat → Word} (hg : ∀ l, g (operands s e f pos srcs l) = ([(x l).toNat], 0)) : results i s e f 1 fun _ l => x l := by
  have hres := intAlu_word_flags (p := fun _ => false) hi h hmk hg
  rwa [← raised_ite, show raised e (fun _ => if false = true then flagOvf else 0) = 0 from raised_zero e] at hres

theorem ofNat_twoWords (x : DWord) {k : Nat} (hk : k < 2) : BitVec.ofNat 32 ((twoWords x.toNat).getD k 0) = half x k := by
  rw [← BitVec.toNat_inj]
  interval_cases k <;> simp [twoWords, half, Nat.shiftRight_eq_div_pow]

/-- An integer instruction whose function gives a pair and no flag. -/
theorem intAlu_pair (hi : registerForm i = some (op, f, mk)) (h : issues i s e) (hmk : mk s e = intAlu f pos srcs 2 e.mask g)
    {x : Nat → DWord} (hg : ∀ l, g (operands s e f pos srcs l) = (twoWords (x l).toNat, 0)) : results i s e f 2 fun k l => half (x l) k := by
  have hres := intAlu_results (fl := fun _ => 0) hi h hmk (fun l k hk => by rw [hg, ofNat_twoWords _ hk]) fun l => by rw [hg]
  rwa [raised_zero] at hres

/-- A two-source instruction on words. -/
theorem intBinary_word (hi : registerForm i = some (op, f, mk)) (h : issues i s e) {g : Nat → Nat → List Nat × Word}
    (hmk : mk s e = intBinary f e.mask g) {x : Nat → Word}
    (hg : ∀ l, g (word s e f 2 1 l).toNat (word s e f 2 2 l).toNat = ([(x l).toNat], 0)) : results i s e f 1 fun _ l => x l :=
  intAlu_word hi h hmk fun l => by simpa using hg l

/-- A one-source instruction on words. -/
theorem intUnary_word (hi : registerForm i = some (op, f, mk)) (h : issues i s e) {g : Nat → Nat} (hmk : mk s e = intUnary f e.mask g)
    {x : Nat → Word} (hg : ∀ l, g (word s e f 0 1 l).toNat = (x l).toNat) : results i s e f 1 fun _ l => x l :=
  intAlu_word hi h hmk fun l => by simp [word1, hg, Nat.mod_eq_of_lt (x l).isLt]

/-- A long-latency instruction of one untagged result: the word of its run is on its way, with the flags (R91). -/
theorem promises_of_run (hi : registerForm i = some (op, f, mk)) (h : issues i s e) (hlong : (mk s e).long = true)
    (hdst : (mk s e).dst = f.d.toNat) (hn : (mk s e).n = 1) (htags : (mk s e).tags = [0]) {v : Nat → Word}
    (hv : ∀ l, inMask e.mask l = true → lane (((mk s e).result s e).1.getD 0 []) l = v l) :
    promises i s e f v ((mk s e).result s e).2 := by
  have hexec := issues_exec hi h
  unfold Alu.effect at hexec
  rw [hlong, if_pos rfl, hdst, hn, htags] at hexec
  exact ⟨_, _, hexec, by rw [State.modClutch_landings, State.bump_landings, State.produce_landings], rfl, rfl, rfl, rfl, rfl, hv⟩

/-- A long-latency two-source instruction: its word and the flags of its active lanes are on their way (R91). -/
theorem intBinary_promises (hi : registerForm i = some (op, f, mk)) (h : issues i s e) {g : Nat → Nat → List Nat × Word}
    (hmk : mk s e = { intBinary f e.mask g with long := true }) {x fl : Nat → Word}
    (hg : ∀ l, g (word s e f 2 1 l).toNat (word s e f 2 2 l).toNat = ([(x l).toNat], fl l)) : promises i s e f x (raised e fl) := by
  have hlane : ∀ l, (fun v : List Nat => g (v.getD 0 0) (v.getD 1 0)) (operands s e f 2 [(1, 1), (2, 1)] l) = ([(x l).toNat], fl l) := by
    intro l
    simpa using hg l
  have hres : (mk s e).result s e = perLane e.mask 1 fun l => ([(x l).toNat], fl l) := by
    rw [hmk, ← funext hlane]
    exact intAlu_result f 2 [(1, 1), (2, 1)] 1 (fun v => g (v.getD 0 0) (v.getD 1 0)) s e
  have hrun := promises_of_run (v := x) hi h (by rw [hmk]) (by rw [hmk]; rfl) (by rw [hmk]; rfl) (by rw [hmk]; rfl)
    fun l hl => by rw [hres, perLane_word _ _ _ (by decide) hl]; simp
  rwa [hres, perLane_raised] at hrun

/-- A result word is the number of a word that it is congruent to. -/
theorem word1_eq {n : Nat} {x : Word} (h : BitVec.ofNat 32 n = x) : word1 n = ([x.toNat], 0) := by
  rw [← h, BitVec.toNat_ofNat]
  rfl

/-- The two words of a number are those of a pair that it is congruent to. -/
theorem twoWords_eq {n : Nat} {x : DWord} (h : BitVec.ofNat 64 n = x) : twoWords n = twoWords x.toNat := by
  rw [← h, BitVec.toNat_ofNat]
  simp only [twoWords, List.cons.injEq, and_true]
  omega

end

/-! ### Words of elements (R36) -/

theorem elem_toNat (w : Nat) (x : Word) (i : Nat) : (elem w x i).toNat = x.toNat / 2 ^ (w * i) % 2 ^ w := by
  simp [elem, Nat.shiftRight_eq_div_pow]

theorem join2_toNat (x : Nat → BitVec 16) : (join2 x).toNat = (x 0).toNat + (x 1).toNat * 2 ^ 16 := by
  rw [join2, BitVec.toNat_append, ← Nat.shiftLeft_add_eq_or_of_lt (x 0).isLt, Nat.shiftLeft_eq, Nat.add_comm]

theorem join4_toNat (x : Nat → BitVec 8) :
    (join4 x).toNat = (x 0).toNat + (x 1).toNat * 2 ^ 8 + (x 2).toNat * 2 ^ 16 + (x 3).toNat * 2 ^ 24 := by
  simp only [join4, BitVec.toNat_append]
  rw [← Nat.shiftLeft_add_eq_or_of_lt (x 2).isLt, ← Nat.shiftLeft_add_eq_or_of_lt (x 1).isLt, ← Nat.shiftLeft_add_eq_or_of_lt (x 0).isLt]
  simp only [Nat.shiftLeft_eq]
  ring

theorem foldl_range_four (g : Nat → Nat) : (List.range 4).foldl (fun acc j => acc + g j) 0 = g 0 + g 1 + g 2 + g 3 := by
  simp [List.range_succ]

/-- The codes of the types that a packed integer instruction takes: words, halves and bytes (R65). -/
theorem packedTy_cases {f : Fields} {xm : List Nat} (h : tyXm f [0, 1, 4, 5, 6, 7] xm = true) :
    (f.mod.toNat % 8 = 0 ∨ f.mod.toNat % 8 = 1)
      ∨ (f.mod.toNat % 8 = 4 ∨ f.mod.toNat % 8 = 5) ∨ f.mod.toNat % 8 = 6 ∨ f.mod.toNat % 8 = 7 := by
  simp only [tyXm, Bool.and_eq_true, List.contains_eq_mem, List.mem_cons, List.not_mem_nil, or_false, decide_eq_true_eq] at h
  omega

/-- The type that a code names (R65). -/
theorem tyOf_code (ty : Nat) : tyOf ty = ⟨typeWidth ty, ty % 2 = 0⟩ := by
  match ty with
  | 0 | 1 | 2 | 3 | 4 | 5 => rfl
  | n + 6 => simp [tyOf, typeWidth]

theorem tyOf_eq (f : Fields) : tyOf (f.mod.toNat % 8) = ⟨typeWidth (f.mod.toNat % 8), signed f⟩ := by
  rw [tyOf_code, signed, show f.mod.toNat % 8 % 2 = f.mod.toNat % 2 by omega]

/-- The word and the flag of an element-wise operation, from the elements that it gives. -/
theorem packed2_of_elements {w : Nat} {g : Nat → Nat → FRes} {a b : Nat} {z : Nat → BitVec w} {q : Nat → Bool}
    (hg : ∀ i, g (a / 2 ^ (w * i) % 2 ^ w) (b / 2 ^ (w * i) % 2 ^ w) = ⟨(z i).toNat, if q i then flagOvf else 0⟩) :
    packed2 w g a b = ([(List.range (32 / w)).foldl (fun acc i => acc + (z i).toNat * 2 ^ (w * i)) 0],
      if (List.range (32 / w)).any q then flagOvf else 0) := by
  have hlt : ∀ i, (z i).toNat % 2 ^ w = (z i).toNat := fun i => Nat.mod_eq_of_lt (z i).isLt
  simp only [packed2, List.foldl_map, hg, hlt, foldl_or_ite, show (0 : Word) ||| flagOvf = flagOvf from rfl]

/-- An element-wise operation on numbers gives the word, and the flag, of the operation on elements that it stands for. -/
theorem packed2_eq {f : Fields} {xm : List Nat} (hty : tyXm f [0, 1, 4, 5, 6, 7] xm = true) {g : IntTy → Nat → Nat → FRes}
    {o : (w : Nat) → BitVec w → BitVec w → BitVec w} {p : (w : Nat) → BitVec w → BitVec w → Bool}
    (hg : ∀ w, 0 < w → ∀ x y : BitVec w, g ⟨w, signed f⟩ x.toNat y.toNat = ⟨(o w x y).toNat, if p w x y then flagOvf else 0⟩)
    (a b : Word) :
    packed2 (tyOf (f.mod.toNat % 8)).width (g (tyOf (f.mod.toNat % 8))) a.toNat b.toNat
      = ([(byType f o a b).toNat], if anyElement f p a b then flagOvf else 0) := by
  have hpacked : ∀ w, 0 < w → packed2 w (g ⟨w, signed f⟩) a.toNat b.toNat
      = ([(List.range (32 / w)).foldl (fun acc i => acc + (o w (elem w a i) (elem w b i)).toNat * 2 ^ (w * i)) 0],
        if (List.range (32 / w)).any (fun i => p w (elem w a i) (elem w b i)) then flagOvf else 0) := fun w hw =>
    packed2_of_elements fun i => by rw [← elem_toNat, ← elem_toNat, hg w hw]
  have hword : packed2 32 (g ⟨32, signed f⟩) a.toNat b.toNat = ([(o 32 a b).toNat], if p 32 a b then flagOvf else 0) := by
    rw [hpacked 32 (by decide)]
    simp [elem]
  have hhalves : packed2 16 (g ⟨16, signed f⟩) a.toNat b.toNat = ([(join2 fun i => o 16 (elem 16 a i) (elem 16 b i)).toNat],
      if [0, 1].any fun i => p 16 (elem 16 a i) (elem 16 b i) then flagOvf else 0) := by
    rw [hpacked 16 (by decide), join2_toNat]
    simp [List.range_succ]
  have hbytes : packed2 8 (g ⟨8, signed f⟩) a.toNat b.toNat = ([(join4 fun i => o 8 (elem 8 a i) (elem 8 b i)).toNat],
      if [0, 1, 2, 3].any fun i => p 8 (elem 8 a i) (elem 8 b i) then flagOvf else 0) := by
    rw [hpacked 8 (by decide), join4_toNat]
    rw [foldl_range_four fun i => (o 8 (elem 8 a i) (elem 8 b i)).toNat * 2 ^ (8 * i), Nat.mul_zero, Nat.pow_zero, Nat.mul_one]
    rfl
  rw [tyOf_eq]
  rcases packedTy_cases hty with (h | h) | (h | h) | h | h <;> simp only [byType, anyElement, typeWidth, h]
  · exact hword
  · exact hword
  · exact hhalves
  · exact hhalves
  · exact hbytes
  · exact hbytes

end Sys2Proof.Machine
end

section
/-! SUPPORT. The integer arithmetic, division and remainder: what settles O8 and O9 (R114, R116). -/

namespace Sys2Proof.Machine

open Sys2Proof.Safety Sys2Proof.Claims

/-! ### Types of well-formed words (R65, R112) -/

theorem tyXm_iff (f : Fields) (ty xm : List Nat) : tyXm f ty xm = true ↔ f.mod.toNat % 8 ∈ ty ∧ f.mod.toNat / 8 ∈ xm := by
  simp [tyXm]

/-- What a number of a word is worth in a 32-bit type that MOD names. -/
theorem ext_tyOf_word {f : Fields} (h : f.mod.toNat % 8 < 2) (x : Word) : (tyOf (f.mod.toNat % 8)).ext x.toNat = valueOf (signed f) x := by
  rw [tyOf_word h, IntTy.ext_toNat]

/-- The bits of an integer are those of the word that stands for it. -/
theorem ofNat_intBits (w : Nat) (i : Int) : BitVec.ofNat w (intBits w i) = BitVec.ofInt w i := by
  rw [← toNat_ofInt_intBits, BitVec.ofNat_toNat, BitVec.setWidth_eq]

/-! ### Element-wise instructions -/

section
variable {i : Instr} {op : Nat} {f : Fields} {mk : State → Env → Alu} {s : State} {e : Env} {xm : List Nat}

theorem intPacked_eq (f : Fields) (m : Mask) (g : IntTy → Nat → Nat → FRes) :
    intPacked f m g = intAlu f 2 [(1, 1), (2, 1)] 1 m fun v =>
      packed2 (tyOf (f.mod.toNat % 8)).width (g (tyOf (f.mod.toNat % 8))) (v.getD 0 0) (v.getD 1 0) := rfl

/-- A two-source element-wise instruction that may overflow. -/
theorem intPacked_results (hi : registerForm i = some (op, f, mk)) (h : issues i s e) (hty : tyXm f [0, 1, 4, 5, 6, 7] xm = true)
    {g : IntTy → Nat → Nat → FRes} (hmk : mk s e = intPacked f e.mask g) {o : (w : Nat) → BitVec w → BitVec w → BitVec w}
    {p : (w : Nat) → BitVec w → BitVec w → Bool}
    (hg : ∀ w, 0 < w → ∀ x y : BitVec w, g ⟨w, signed f⟩ x.toNat y.toNat = ⟨(o w x y).toNat, if p w x y then flagOvf else 0⟩) :
    results i s e f 1 (fun _ l => byType f o (word s e f 2 1 l) (word s e f 2 2 l))
      (ovfIf e fun l => anyElement f p (word s e f 2 1 l) (word s e f 2 2 l)) :=
  intAlu_word_flags hi h (hmk.trans (intPacked_eq f e.mask g)) fun l => by simpa using packed2_eq hty hg (word s e f 2 1 l) (word s e f 2 2 l)

theorem anyElement_false (f : Fields) (a b : Word) : anyElement f (fun _ _ _ => false) a b = false := by
  unfold anyElement
  split <;> rfl

/-- A two-source element-wise instruction that sets no flag. -/
theorem intPacked_word (hi : registerForm i = some (op, f, mk)) (h : issues i s e) (hty : tyXm f [0, 1, 4, 5, 6, 7] xm = true)
    {g : IntTy → Nat → Nat → FRes} (hmk : mk s e = intPacked f e.mask g) {o : (w : Nat) → BitVec w → BitVec w → BitVec w}
    (hg : ∀ w, 0 < w → ∀ x y : BitVec w, g ⟨w, signed f⟩ x.toNat y.toNat = ⟨(o w x y).toNat, 0⟩) :
    results i s e f 1 fun _ l => byType f o (word s e f 2 1 l) (word s e f 2 2 l) :=
  intAlu_word hi h (hmk.trans (intPacked_eq f e.mask g)) fun l => by
    simpa [anyElement_false] using packed2_eq (p := fun _ _ _ => false) hty hg (word s e f 2 1 l) (word s e f 2 2 l)

end

/-- A saturated integer as a result of an operation. -/
theorem IntTy.saturate_eq (sg : Bool) (w : Nat) (i : Int) :
    (IntTy.mk w sg).saturate i = ⟨(saturated sg w i).toNat, if outside sg w i then flagOvf else 0⟩ := by
  rw [← IntTy.saturate_bits, ← IntTy.saturate_flags]

/-- Only the least value has a magnitude that its type does not hold. -/
theorem outside_natAbs_iff {w : Nat} (hw : 0 < w) (x : BitVec w) : outside true w x.toInt.natAbs = true ↔ x = BitVec.intMin w := by
  have hlo := BitVec.le_toInt x
  have hhi := BitVec.toInt_lt (x := x)
  have hpos : (0 : Int) < 2 ^ (w - 1) := by positivity
  have hmin : x = BitVec.intMin w ↔ x.toInt = -2 ^ (w - 1) := by
    rw [← BitVec.toInt_inj, BitVec.toInt_intMin_of_pos hw]
  rw [hmin, outside, if_pos rfl, Bool.or_eq_true, decide_eq_true_eq, decide_eq_true_eq]
  omega

/-! ### The instructions of R114 -/

section
variable {s : State} {e : Env} {f : Fields}

theorem iadd_results (h : issues (.iadd f) s e) :
    results (.iadd f) s e f 1 fun _ l => byType f (fun _ x y => x + y) (word s e f 2 1 l) (word s e f 2 2 l) :=
  intPacked_word rfl h (modOk_of_wellFormed rfl rfl (issues_elim rfl h).1) rfl fun w _ x y => by simp [BitVec.toNat_add]

theorem isub_results (h : issues (.isub f) s e) :
    results (.isub f) s e f 1 fun _ l => byType f (fun _ x y => x - y) (word s e f 2 1 l) (word s e f 2 2 l) :=
  intPacked_word rfl h (modOk_of_wellFormed rfl rfl (issues_elim rfl h).1) rfl fun w _ x y => by
    have hy := y.isLt
    rw [BitVec.toNat_sub]
    simp only
    congr 2
    omega

theorem imin_results (h : issues (.imin f) s e) : results (.imin f) s e f 1 fun _ l =>
    byType f (fun _ x y => if valueOf (signed f) y < valueOf (signed f) x then y else x) (word s e f 2 1 l) (word s e f 2 2 l) :=
  intPacked_word rfl h (modOk_of_wellFormed rfl rfl (issues_elim rfl h).1) rfl fun w _ x y => by
    rw [IntTy.ext_toNat, IntTy.ext_toNat, ← apply_ite BitVec.toNat]

theorem imax_results (h : issues (.imax f) s e) : results (.imax f) s e f 1 fun _ l =>
    byType f (fun _ x y => if valueOf (signed f) x < valueOf (signed f) y then y else x) (word s e f 2 1 l) (word s e f 2 2 l) :=
  intPacked_word rfl h (modOk_of_wellFormed rfl rfl (issues_elim rfl h).1) rfl fun w _ x y => by
    rw [IntTy.ext_toNat, IntTy.ext_toNat, ← apply_ite BitVec.toNat]

/-- The exact sum or difference of IADDS. -/
def addsSum (f : Fields) (w : Nat) (x y : BitVec w) : Int :=
  if f.mod.toNat / 8 = 0 then valueOf (signed f) x + valueOf (signed f) y else valueOf (signed f) x - valueOf (signed f) y

theorem iadds_results (h : issues (.iadds f) s e) : results (.iadds f) s e f 1
    (fun _ l => byType f (fun w x y => saturated (signed f) w (addsSum f w x y)) (word s e f 2 1 l) (word s e f 2 2 l))
    (ovfIf e fun l => anyElement f (fun w x y => outside (signed f) w (addsSum f w x y)) (word s e f 2 1 l) (word s e f 2 2 l)) :=
  intPacked_results rfl h (modOk_of_wellFormed rfl rfl (issues_elim rfl h).1) rfl fun w _ x y => by
    rw [IntTy.ext_toNat, IntTy.ext_toNat, IntTy.saturate_eq]
    rfl

/-- IABS takes the signed types alone. -/
theorem signed_of_iabs (h : issues (.iabs f) s e) : signed f = true ∧ tyXm f [0, 1, 4, 5, 6, 7] [0] = true := by
  have hty := (tyXm_iff _ _ _).mp (modOk_of_wellFormed rfl rfl (issues_elim rfl h).1)
  simp only [List.mem_cons, List.not_mem_nil, or_false] at hty
  rw [tyXm_iff]
  simp only [signed, decide_eq_true_eq, List.mem_cons, List.not_mem_nil, or_false]
  omega

theorem aluIabs_eq (f : Fields) (s : State) (e : Env) : aluIabs f s e = intAlu f 0 [(1, 1)] 1 e.mask fun v =>
    packed2 (tyOf (f.mod.toNat % 8)).width (fun a _ => (tyOf (f.mod.toNat % 8)).saturate ((tyOf (f.mod.toNat % 8)).ext a).natAbs)
      (v.getD 0 0) 0 := rfl

theorem iabs_results (h : issues (.iabs f) s e) : results (.iabs f) s e f 1
    (fun _ l => byType f (fun w x _ => saturated true w x.toInt.natAbs) (word s e f 0 1 l) 0)
    (ovfIf e fun l => anyElement f (fun w x _ => x = BitVec.intMin w) (word s e f 0 1 l) 0) := by
  obtain ⟨hsigned, hty⟩ := signed_of_iabs h
  have helem : ∀ w, 0 < w → ∀ x _ : BitVec w, (IntTy.mk w (signed f)).saturate ((IntTy.mk w (signed f)).ext x.toNat).natAbs
      = ⟨(saturated true w x.toInt.natAbs).toNat, if decide (x = BitVec.intMin w) then flagOvf else 0⟩ := by
    intro w hw x _
    simp only [hsigned, IntTy.ext_toNat, IntTy.saturate_eq, decide_eq_true_eq, ← outside_natAbs_iff hw]
    rfl
  refine intAlu_word_flags rfl h (aluIabs_eq f s e) fun l => ?_
  simpa using packed2_eq (g := fun t a _ => t.saturate (t.ext a).natAbs) hty helem (word s e f 0 1 l) 0

theorem imul_results (h : issues (.imul f) s e) : results (.imul f) s e f 1 fun _ l => word s e f 2 1 l * word s e f 2 2 l :=
  intBinary_word rfl h rfl fun l => word1_eq (by simp [BitVec.ofNat_mul])

theorem ofNat_upperHalf (x : DWord) : BitVec.ofNat 32 (x.toNat / 2 ^ 32) = half x 1 := by
  simp [half, ← BitVec.toNat_inj, Nat.shiftRight_eq_div_pow]

theorem aluImulh_eq (f : Fields) (s : State) (e : Env) : aluImulh f s e = intBinary f e.mask fun a b =>
    word1 (intBits 64 ((tyOf (f.mod.toNat % 8)).ext a * (tyOf (f.mod.toNat % 8)).ext b) / 2 ^ 32) := rfl

theorem imulh_results (h : issues (.imulh f) s e) : results (.imulh f) s e f 1 fun _ l =>
    half (BitVec.ofInt 64 (valueOf (signed f) (word s e f 2 1 l) * valueOf (signed f) (word s e f 2 2 l))) 1 := by
  have hty := ty_of_tyXm (modOk_of_wellFormed rfl rfl (issues_elim rfl h).1)
  refine intBinary_word rfl h (aluImulh_eq f s e) fun l => word1_eq ?_
  rw [ext_tyOf_word hty, ext_tyOf_word hty, ← toNat_ofInt_intBits, ofNat_upperHalf]

theorem imad_results (h : issues (.imad f) s e) :
    results (.imad f) s e f 1 fun _ l => word s e f 2 1 l * word s e f 2 2 l + word s e f 2 3 l :=
  intAlu_word rfl h rfl fun l => word1_eq (by simp [BitVec.ofNat_mul, BitVec.ofNat_add])

theorem aluImadw_eq (f : Fields) (s : State) (e : Env) : aluImadw f s e = intAlu f 2 [(1, 1), (2, 1), (3, 2)] 2 e.mask fun v =>
    (twoWords (intBits 64 ((IntTy.mk 32 (f.mod = 2)).ext (v.getD 0 0) * (IntTy.mk 32 (f.mod = 2)).ext (v.getD 1 0) + v.getD 2 0)), 0) := rfl

theorem imadw_results (h : issues (.imadw f) s e) : results (.imadw f) s e f 2 fun k l =>
    half (BitVec.ofInt 64 (valueOf (signed f) (word s e f 2 1 l) * valueOf (signed f) (word s e f 2 2 l)) + dword s e f 2 3 l) k := by
  have hmod := (tyXm_iff _ _ _).mp (modOk_of_wellFormed rfl rfl (issues_elim rfl h).1)
  simp only [List.mem_cons, List.not_mem_nil, or_false] at hmod
  have hty : IntTy.mk 32 (f.mod = 2) = ⟨32, signed f⟩ := by
    have : f.mod = 2 ↔ f.mod.toNat % 2 = 0 := by
      rw [← BitVec.toNat_inj, show (2 : BitVec 6).toNat = 2 from rfl]
      omega
    simp only [signed, this]
  refine intAlu_pair rfl h (aluImadw_eq f s e) fun l => ?_
  simp only [operands_word, operands_dword, operands_nil, List.getD_cons_zero, List.getD_cons_succ, hty, IntTy.ext_toNat]
  rw [twoWords_eq (ofNat_intBits _ _), BitVec.ofInt_add]
  simp

theorem iaddc_results (h : issues (.iaddc f) s e) : results (.iaddc f) s e f 1 fun _ l =>
    if f.mod.toNat / 8 = 0 then word s e f 2 1 l + word s e f 2 2 l + (word s e f 2 3 l &&& 1)
    else if 2 ^ 32 ≤ (word s e f 2 1 l).toNat + (word s e f 2 2 l).toNat + (word s e f 2 3 l).toNat % 2 then 1 else 0 := by
  refine intAlu_word rfl h rfl fun l => word1_eq ?_
  simp only [operands_word, operands_nil, List.getD_cons_zero, List.getD_cons_succ]
  generalize word s e f 2 1 l = a, word s e f 2 2 l = b, word s e f 2 3 l = c
  have ha := a.isLt
  have hb := b.isLt
  split
  · have hbit : BitVec.ofNat 32 (c.toNat % 2) = c &&& 1 := by
      rw [← BitVec.toNat_inj, BitVec.toNat_and]
      simp [Nat.and_one_is_mod]
      omega
    simp [BitVec.ofNat_add, hbit]
  · rw [← BitVec.toNat_inj, BitVec.toNat_ofNat]
    split <;> simp <;> omega

end

/-! ### Division and remainder (R116) -/

/-- The quotient and the remainder toward zero, as words of either sign. -/
theorem ofInt_tdiv_signed (a b : Word) : BitVec.ofInt 32 (a.toInt.tdiv b.toInt) = a.sdiv b := by
  rw [← BitVec.toInt_inj, BitVec.toInt_ofInt, BitVec.toInt_sdiv]

theorem ofInt_tmod_signed (a b : Word) : BitVec.ofInt 32 (a.toInt.tmod b.toInt) = a.srem b := by
  rw [← BitVec.toInt_srem, BitVec.ofInt_toInt]

theorem ofInt_tdiv_unsigned (a b : Word) : BitVec.ofInt 32 ((a.toNat : Int).tdiv b.toNat) = a / b := by
  rw [← Int.ofNat_tdiv, BitVec.ofInt_natCast, ← BitVec.toNat_udiv, BitVec.ofNat_toNat, BitVec.setWidth_eq]

theorem ofInt_tmod_unsigned (a b : Word) : BitVec.ofInt 32 ((a.toNat : Int).tmod b.toNat) = a % b := by
  rw [← Int.ofNat_tmod, BitVec.ofInt_natCast, ← BitVec.toNat_umod, BitVec.ofNat_toNat, BitVec.setWidth_eq]

/-- The least word over minus one is the one signed quotient that is no word. -/
theorem overflows_iff (a b : Word) : (a.toInt = (IntTy.mk 32 true).lo ∧ b.toInt = -1) ↔ (a = 0x80000000 ∧ b = 0xFFFFFFFF) := by
  rw [← BitVec.toInt_inj, ← BitVec.toInt_inj]
  rfl

theorem valueOf_eq_zero_iff (sg : Bool) (b : Word) : valueOf sg b = 0 ↔ b = 0 := by
  cases sg
  · simp [valueOf, ← BitVec.toNat_inj]
  · simp [valueOf, ← BitVec.toInt_inj]

/-- Quotient, remainder and flag of two numbers of words, in each of the cases that R116 decides apart. -/
theorem divRem_eq (sg : Bool) (a b : Word) :
    divRem ⟨32, sg⟩ a.toNat b.toNat = ((divided sg a b).1.toNat, (divided sg a b).2.1.toNat, (divided sg a b).2.2) := by
  unfold divRem divided
  simp only [IntTy.ext_toNat, valueOf_eq_zero_iff, ← toNat_ofInt_intBits]
  by_cases hb : b = 0
  · simp only [hb, if_true]
    cases sg
    · rfl
    · simp only [valueOf, if_true, BitVec.msb_eq_toInt, decide_eq_true_eq]
      by_cases hneg : a.toInt < 0 <;> simp only [hneg, if_true, if_false] <;> rfl
  · simp only [hb, if_false]
    cases sg
    · simp only [valueOf, Bool.false_eq_true, if_false, false_and, Bool.false_and, ofInt_tdiv_unsigned, ofInt_tmod_unsigned]
    · simp only [valueOf, if_true, true_and, Bool.true_and, Bool.and_eq_true, decide_eq_true_eq, overflows_iff, ofInt_tdiv_signed,
        ofInt_tmod_signed]
      by_cases hov : a = 0x80000000 ∧ b = 0xFFFFFFFF
      · simp only [if_pos hov]
        rfl
      · simp only [if_neg hov]

section
variable {s : State} {e : Env} {f : Fields}

theorem idiv_promises (h : issues (.idiv f) s e) : promises (.idiv f) s e f
    (fun l => (divided (signed f) (word s e f 2 1 l) (word s e f 2 2 l)).1)
    (raised e fun l => (divided (signed f) (word s e f 2 1 l) (word s e f 2 2 l)).2.2) := by
  have hty := ty_of_tyXm (modOk_of_wellFormed rfl rfl (issues_elim rfl h).1)
  refine intBinary_promises rfl h rfl fun l => ?_
  rw [tyOf_word hty, divRem_eq]

theorem irem_promises (h : issues (.irem f) s e) : promises (.irem f) s e f
    (fun l => (divided (signed f) (word s e f 2 1 l) (word s e f 2 2 l)).2.1)
    (raised e fun l => (divided (signed f) (word s e f 2 1 l) (word s e f 2 2 l)).2.2) := by
  have hty := ty_of_tyXm (modOk_of_wellFormed rfl rfl (issues_elim rfl h).1)
  refine intBinary_promises rfl h rfl fun l => ?_
  rw [tyOf_word hty, divRem_eq]

end

/-- Settles O8, instruction by instruction: on words by their numbers, on packed words by their elements. -/
theorem integerArithmetic : Obligations.IntegerArithmetic := fun _ _ _ =>
  ⟨iadd_results, isub_results, imul_results, imulh_results, imad_results, imadw_results, iabs_results, imin_results, imax_results,
    iaddc_results, iadds_results⟩

/-- Settles O9: the cases of R116, word by word, on their way with the flags of the active lanes. -/
theorem division : Obligations.Division := fun _ _ _ => ⟨idiv_promises, irem_promises⟩

end Sys2Proof.Machine
end

section
/-! SUPPORT. Logic, shifts, bit counts and comparisons: what settles O10 (R110, R117, R118). -/

namespace Sys2Proof.Machine

open Sys2Proof.Safety Sys2Proof.Claims

/-! ### Counting and reversing bits -/

theorem countOnes_eq_cpopNatRec (x : Word) (n : Nat) : countOnes n x.toNat = x.cpopNatRec n 0 := by
  induction n with
  | zero => rfl
  | succ n ih =>
    have hbit : x.getLsbD n = x.toNat.testBit n := rfl
    rw [BitVec.cpopNatRec_succ, BitVec.cpopNatRec_eq, ← ih, hbit, countOnes, List.range_succ, List.filter_append, List.length_append, countOnes]
    cases h : x.toNat.testBit n <;> simp [h]

theorem countOnes_toNat (x : Word) : countOnes 32 x.toNat = x.cpop.toNat := by
  rw [countOnes_eq_cpopNatRec, BitVec.toNat_cpop]

/-- The bits of a number that is not zero end where its leading zeros begin. -/
theorem bitLen_toNat (x : Word) : bitLen x.toNat = 32 - x.clz.toNat := by
  unfold bitLen
  by_cases h : x = 0
  · simp only [h]
    decide
  · have hne : x.toNat ≠ 0 := by simpa [← BitVec.toNat_inj] using h
    have hlt := BitVec.clz_lt_iff_ne_zero.mpr h
    have hclz : x.clz.toNat < 32 := by simpa [BitVec.lt_def] using hlt
    have hlog : Nat.log2 x.toNat = 31 - x.clz.toNat := by
      refine (Nat.log2_eq_iff hne).mpr ⟨BitVec.two_pow_sub_clz_le_toNat_of_ne_zero (by decide) h, ?_⟩
      have hup := BitVec.toNat_lt_two_pow_sub_clz (x := x)
      rwa [show 32 - x.clz.toNat = 31 - x.clz.toNat + 1 by omega] at hup
    rw [if_neg hne, hlog]
    omega

theorem clz_toNat (x : Word) : 32 - bitLen x.toNat = x.clz.toNat := by
  have hle : x.clz.toNat ≤ 32 := by simpa [BitVec.le_def] using BitVec.clz_le (x := x)
  rw [bitLen_toNat]
  omega

/-- The reversal adds the same powers of two in the opposite order. -/
theorem reverseBits_eq_sum (n a : Nat) :
    reverseBits n a = (List.range n).foldl (fun acc i => if a.testBit (n - 1 - i) then acc + 2 ^ i else acc) 0 := by
  have hcomm : RightCommutative fun (acc i : Nat) => if a.testBit i then acc + 2 ^ (n - 1 - i) else acc :=
    ⟨fun acc i j => by split_ifs <;> omega⟩
  have hreverse : (List.range n).reverse = (List.range n).map fun i => n - 1 - i := by
    rw [List.range_eq_range', List.reverse_range', ← List.range_eq_range']
    simp
  rw [reverseBits, ← (List.reverse_perm (List.range n)).foldl_eq, hreverse, List.foldl_map]
  refine List.foldl_ext _ _ _ fun acc i hi => ?_
  have hlt := List.mem_range.mp hi
  rw [show n - 1 - (n - 1 - i) = i by omega]

theorem reverseBits_toNat {w : Nat} (x : BitVec w) : reverseBits w x.toNat = x.reverse.toNat := by
  refine Nat.eq_of_testBit_eq fun k => ?_
  have hbit : x.reverse.toNat.testBit k = x.reverse.getLsbD k := rfl
  rw [reverseBits_eq_sum, testBit_sum_bits (fun i => x.toNat.testBit (w - 1 - i)), hbit, BitVec.getLsbD_reverse]
  rfl

/-- The first set bit from below, and all ones where there is none. -/
theorem ffs_toNat (x : Word) :
    ((List.range 32).find? fun i => x.toNat.testBit i).getD 0xFFFFFFFF = (if x = 0 then (0xFFFFFFFF : Word) else x.ctz).toNat := by
  by_cases h : x = 0
  · simp only [h, if_true]
    decide
  · have hctz : x.ctz.toNat < 32 := by simpa [BitVec.lt_def] using BitVec.ctz_lt_iff_ne_zero.mpr h
    have hfind : (List.range 32).find? (fun i => x.toNat.testBit i) = some x.ctz.toNat := by
      rw [List.find?_range_eq_some]
      refine ⟨BitVec.getLsbD_true_ctz_of_ne_zero h, List.mem_range.mpr hctz, fun j hj => ?_⟩
      have hlow : x.toNat.testBit j = false := BitVec.getLsbD_false_of_lt_ctz hj
      rw [hlow]
      rfl
    rw [hfind, if_neg h, Option.getD_some]

/-! ### Shifts and rotations -/

/-- The shifts of R118 on numbers of a width are those of bit vectors. -/
theorem shl_toNat {w : Nat} (x : BitVec w) (n : Nat) : (if w ≤ n then 0 else x.toNat * 2 ^ n) % 2 ^ w = (x <<< n).toNat := by
  rw [BitVec.toNat_shiftLeft, Nat.shiftLeft_eq]
  split
  · rename_i h
    obtain ⟨k, rfl⟩ := Nat.exists_eq_add_of_le h
    rw [Nat.pow_add, Nat.mul_left_comm, Nat.mul_mod_right, Nat.zero_mod]
  · rfl

theorem shr_toNat {w : Nat} (x : BitVec w) (n : Nat) : (if w ≤ n then 0 else x.toNat / 2 ^ n) % 2 ^ w = (x >>> n).toNat := by
  have hx := x.isLt
  rw [BitVec.toNat_ushiftRight, Nat.shiftRight_eq_div_pow]
  split
  · rename_i h
    rw [Nat.zero_mod, Nat.div_eq_of_lt (hx.trans_le (Nat.pow_le_pow_right (by decide) h))]
  · exact Nat.mod_eq_of_lt ((Nat.div_le_self _ _).trans_lt hx)

/-- Shifting by the width or more leaves the sign alone. -/
theorem toInt_ediv_min {w : Nat} (x : BitVec w) (n : Nat) : x.toInt / (2 ^ min n w : Nat) = x.toInt >>> n := by
  rw [Int.shiftRight_eq_div_pow]
  rcases Nat.le_total n w with h | h
  · rw [Nat.min_eq_left h]
  · have hhalf : (2 : Int) ^ (w - 1) ≤ 2 ^ w := pow_le_pow_right₀ (by decide) (Nat.sub_le w 1)
    have hlow := BitVec.le_toInt x
    have hhigh := BitVec.toInt_lt (x := x)
    have hpow : (2 : Int) ^ w ≤ 2 ^ n := pow_le_pow_right₀ (by decide) h
    rw [Nat.min_eq_right h]
    push_cast
    rcases lt_or_ge x.toInt 0 with hneg | hpos
    · rw [Int.ediv_eq_neg_one_of_neg_of_le hneg (by omega), Int.ediv_eq_neg_one_of_neg_of_le hneg (by omega)]
    · rw [Int.ediv_eq_zero_of_lt hpos (by omega), Int.ediv_eq_zero_of_lt hpos (by omega)]

theorem sar_toNat {w : Nat} (x : BitVec w) (n : Nat) :
    intBits w ((IntTy.mk w true).ext x.toNat / (2 ^ min n w : Nat)) % 2 ^ w = (x.sshiftRight n).toNat := by
  rw [IntTy.ext_toNat, valueOf, if_pos rfl, toInt_ediv_min, ← toNat_ofInt_intBits, Nat.mod_eq_of_lt (BitVec.isLt _), BitVec.sshiftRight_eq]

theorem ofNat_mul_two_pow {w : Nat} (x : BitVec w) (n : Nat) : BitVec.ofNat w (x.toNat * 2 ^ n) = x <<< n := by
  rw [← BitVec.toNat_inj, BitVec.toNat_ofNat, BitVec.toNat_shiftLeft, Nat.shiftLeft_eq]

theorem ofNat_div_two_pow {w : Nat} (x : BitVec w) (n : Nat) : BitVec.ofNat w (x.toNat / 2 ^ n) = x >>> n := by
  rw [← Nat.shiftRight_eq_div_pow, ← BitVec.toNat_ushiftRight, BitVec.ofNat_toNat, BitVec.setWidth_eq]

/-- The two parts of a rotation share no bit, so their sum is their union. -/
theorem ofNat_rotation (x : Word) {n : Nat} (hn : n ≤ 32) :
    BitVec.ofNat 32 (x.toNat * 2 ^ n + x.toNat / 2 ^ (32 - n)) = x <<< n ||| x >>> (32 - n) := by
  rw [BitVec.ofNat_add, ofNat_mul_two_pow, ofNat_div_two_pow]
  refine BitVec.add_eq_or_of_and_eq_zero _ _ (BitVec.eq_of_getLsbD_eq fun i hi => ?_)
  rw [BitVec.getLsbD_and, BitVec.getLsbD_shiftLeft, BitVec.getLsbD_ushiftRight, BitVec.getLsbD_zero]
  by_cases h : i < n
  · simp [h]
  · rw [BitVec.getLsbD_of_ge x (32 - n + i) (by omega), Bool.and_false]

/-- A rotation to the left by the amount that ROT takes is the rotation that XM names. -/
theorem rotation_eq (x : Word) {n : Nat} (hn : n < 32) (left : Prop) [Decidable left] :
    (let k := if left then n else (32 - n) % 32
     BitVec.ofNat 32 (x.toNat * 2 ^ k + x.toNat / 2 ^ (32 - k))) = if left then x.rotateLeft n else x.rotateRight n := by
  by_cases h : left
  · simp only [h, if_true]
    rw [ofNat_rotation x hn.le, BitVec.rotateLeft_def, Nat.mod_eq_of_lt hn]
  · simp only [h, if_false]
    rw [ofNat_rotation x (Nat.mod_lt _ (by decide)).le, BitVec.rotateRight_def, Nat.mod_eq_of_lt hn, BitVec.or_comm]
    rcases Nat.eq_zero_or_pos n with rfl | hpos
    · have hnone : x >>> 32 = 0 := BitVec.ushiftRight_eq_zero (by decide)
      simp [hnone]
    · rw [Nat.mod_eq_of_lt (show 32 - n < 32 by omega), Nat.sub_sub_self hn.le]

section
variable {i : Instr} {op : Nat} {f : Fields} {mk : State → Env → Alu} {s : State} {e : Env}

/-- A shift by the low byte of B of a word, or of a pair under the 64-bit types. -/
theorem shiftAlu_results (hi : registerForm i = some (op, f, mk)) (h : issues i s e) {xm : List Nat} (hty : tyXm f [0, 1, 2, 3] xm = true)
    {g : Nat → Nat → Nat → Nat} (hmk : mk s e = shiftAlu f e.mask g) {o : (w : Nat) → BitVec w → Nat → BitVec w}
    (hg : ∀ (w : Nat) (x : BitVec w) n, g w x.toNat n % 2 ^ w = (o w x n).toNat) :
    if decide (2 ≤ f.mod.toNat % 8) = true then
      results i s e f 2 fun k l => half (o 64 (dword s e f 2 1 l) ((word s e f 2 2 l).toNat % 256)) k
    else results i s e f 1 fun _ l => o 32 (word s e f 2 1 l) ((word s e f 2 2 l).toNat % 256) := by
  have hcases := ((tyXm_iff _ _ _).mp hty).1
  simp only [List.mem_cons, List.not_mem_nil, or_false] at hcases
  have hwide : wideTy (f.mod.toNat % 8) = decide (2 ≤ f.mod.toNat % 8) := by
    rcases hcases with h | h | h | h <;> rw [h] <;> rfl
  unfold shiftAlu at hmk
  rw [hwide] at hmk
  cases hw : decide (2 ≤ f.mod.toNat % 8)
  · simp only [hw] at hmk
    rw [if_neg (by simp)]
    exact intAlu_word hi h hmk fun l => by simpa using hg 32 (word s e f 2 1 l) ((word s e f 2 2 l).toNat % 256)
  · simp only [hw] at hmk
    rw [if_pos rfl]
    exact intAlu_pair hi h hmk fun l => by simpa using congrArg twoWords (hg 64 (dword s e f 2 1 l) ((word s e f 2 2 l).toNat % 256))

end

/-! ### The instructions of R117 and R118 -/

section
variable {s : State} {e : Env} {f : Fields}

theorem and_results (h : issues (.and f) s e) : results (.and f) s e f 1 fun _ l => word s e f 2 1 l &&& word s e f 2 2 l :=
  intBinary_word rfl h rfl fun l => word1_eq (by simp [BitVec.ofNat_and])

theorem or_results (h : issues (.or f) s e) : results (.or f) s e f 1 fun _ l => word s e f 2 1 l ||| word s e f 2 2 l :=
  intBinary_word rfl h rfl fun l => word1_eq (by simp [BitVec.ofNat_or])

theorem xor_results (h : issues (.xor f) s e) : results (.xor f) s e f 1 fun _ l => word s e f 2 1 l ^^^ word s e f 2 2 l :=
  intBinary_word rfl h rfl fun l => word1_eq (by simp [BitVec.ofNat_xor])

theorem andn_results (h : issues (.andn f) s e) : results (.andn f) s e f 1 fun _ l => word s e f 2 1 l &&& ~~~(word s e f 2 2 l) :=
  intBinary_word rfl h rfl fun l => word1_eq (by
    rw [← BitVec.toNat_not, BitVec.ofNat_and]
    simp only [BitVec.ofNat_toNat, BitVec.setWidth_eq])

theorem rot_results (h : issues (.rot f) s e) : results (.rot f) s e f 1 fun _ l =>
    if f.mod.toNat / 8 = 0 then (word s e f 2 1 l).rotateLeft ((word s e f 2 2 l).toNat % 32)
    else (word s e f 2 1 l).rotateRight ((word s e f 2 2 l).toNat % 32) :=
  intBinary_word rfl h rfl fun _ => word1_eq (rotation_eq _ (Nat.mod_lt _ (by decide)) _)

theorem shl_results (h : issues (.shl f) s e) : if decide (2 ≤ f.mod.toNat % 8) = true then
      results (.shl f) s e f 2 fun k l => half (dword s e f 2 1 l <<< ((word s e f 2 2 l).toNat % 256)) k
    else results (.shl f) s e f 1 fun _ l => word s e f 2 1 l <<< ((word s e f 2 2 l).toNat % 256) :=
  shiftAlu_results (o := fun _ x n => x <<< n) rfl h (modOk_of_wellFormed rfl rfl (issues_elim rfl h).1) rfl fun _ => shl_toNat

theorem shr_results (h : issues (.shr f) s e) : if decide (2 ≤ f.mod.toNat % 8) = true then
      results (.shr f) s e f 2 fun k l => half (dword s e f 2 1 l >>> ((word s e f 2 2 l).toNat % 256)) k
    else results (.shr f) s e f 1 fun _ l => word s e f 2 1 l >>> ((word s e f 2 2 l).toNat % 256) :=
  shiftAlu_results (o := fun _ x n => x >>> n) rfl h (modOk_of_wellFormed rfl rfl (issues_elim rfl h).1) rfl fun _ => shr_toNat

theorem sar_results (h : issues (.sar f) s e) : if decide (2 ≤ f.mod.toNat % 8) = true then
      results (.sar f) s e f 2 fun k l => half ((dword s e f 2 1 l).sshiftRight ((word s e f 2 2 l).toNat % 256)) k
    else results (.sar f) s e f 1 fun _ l => (word s e f 2 1 l).sshiftRight ((word s e f 2 2 l).toNat % 256) :=
  shiftAlu_results (o := fun _ x n => x.sshiftRight n) rfl h (modOk_of_wellFormed rfl rfl (issues_elim rfl h).1) rfl fun _ => sar_toNat

theorem popc_results (h : issues (.popc f) s e) : results (.popc f) s e f 1 fun _ l => (word s e f 0 1 l).cpop :=
  intUnary_word rfl h rfl fun _ => countOnes_toNat _

theorem clz_results (h : issues (.clz f) s e) : results (.clz f) s e f 1 fun _ l => (word s e f 0 1 l).clz :=
  intUnary_word rfl h rfl fun _ => clz_toNat _

theorem brev_results (h : issues (.brev f) s e) : results (.brev f) s e f 1 fun _ l => (word s e f 0 1 l).reverse :=
  intUnary_word rfl h rfl fun _ => reverseBits_toNat _

theorem ffs_results (h : issues (.ffs f) s e) :
    results (.ffs f) s e f 1 fun _ l => if word s e f 0 1 l = 0 then 0xFFFFFFFF else (word s e f 0 1 l).ctz :=
  intUnary_word rfl h rfl fun _ => ffs_toNat _

theorem aluIcmp_eq (f : Fields) (s : State) (e : Env) : aluIcmp f s e = intBinary f e.mask fun a b =>
    word1 (predicate (related (f.mod.toNat / 8) ((tyOf (f.mod.toNat % 8)).ext a) ((tyOf (f.mod.toNat % 8)).ext b))) := rfl

theorem icmp_results (h : issues (.icmp f) s e) : results (.icmp f) s e f 1 fun _ l => truth (related (f.mod.toNat / 8)
    (valueOf (signed f) (word s e f 2 1 l)) (valueOf (signed f) (word s e f 2 2 l))) := by
  have hty := ty_of_tyXm (modOk_of_wellFormed rfl rfl (issues_elim rfl h).1)
  refine intBinary_word rfl h (aluIcmp_eq f s e) fun l => word1_eq ?_
  rw [ext_tyOf_word hty, ext_tyOf_word hty, ofNat_predicate]

theorem aluCmp64_eq (f : Fields) (s : State) (e : Env) : aluCmp64 f s e = intAlu f 2 [(1, 2), (2, 2)] 1 e.mask fun v =>
    word1 (predicate (related (f.mod.toNat / 8) ((tyOf (f.mod.toNat % 8)).ext (v.getD 0 0)) ((tyOf (f.mod.toNat % 8)).ext (v.getD 1 0)))) := rfl

theorem cmp64_results (h : issues (.cmp64 f) s e) : results (.cmp64 f) s e f 1 fun _ l => truth (related (f.mod.toNat / 8)
    (valueOf (signed f) (dword s e f 2 1 l)) (valueOf (signed f) (dword s e f 2 2 l))) := by
  have hcodes := (tyXm_iff _ _ _).mp (modOk_of_wellFormed rfl rfl (issues_elim rfl h).1)
  simp only [List.mem_cons, List.not_mem_nil, or_false] at hcodes
  have hty : tyOf (f.mod.toNat % 8) = ⟨64, signed f⟩ := by
    rw [tyOf_eq]
    rcases hcodes.1 with h | h <;> rw [h] <;> rfl
  refine intAlu_word rfl h (aluCmp64_eq f s e) fun l => word1_eq ?_
  simp only [operands_dword, operands_nil, List.getD_cons_zero, List.getD_cons_succ, hty, IntTy.ext_toNat, ofNat_predicate]

end

/-- Settles O10: each function of numbers is the operation on words that it stands for. -/
theorem logicShiftsAndCompares : Obligations.LogicShiftsAndCompares :=
  ⟨fun _ _ _ => ⟨and_results, or_results, xor_results, andn_results, shl_results, shr_results, sar_results, rot_results, popc_results,
    clz_results, brev_results, ffs_results⟩, fun _ _ _ => ⟨icmp_results, cmp64_results⟩⟩

end Sys2Proof.Machine
end

section
/-! SUPPORT. Bit fields, byte mixes, 64-bit addresses and conversions: what settles O11 (R119 to R122). -/

namespace Sys2Proof.Machine

open Sys2Proof.Safety Sys2Proof.Claims

/-! ### Bit fields (R119) -/

/-- A field of a word, zero-extended. -/
theorem ofNat_field (a : Word) (pos n : Nat) : BitVec.ofNat 32 (a.toNat / 2 ^ pos % 2 ^ n) = (a >>> pos) &&& BitVec.ofNat 32 (2 ^ n - 1) := by
  rw [← Nat.and_two_pow_sub_one_eq_mod, BitVec.ofNat_and, ofNat_div_two_pow]

/-- A field of a word, sign-extended. -/
theorem ofNat_field_signed (a : Word) (pos n : Nat) :
    BitVec.ofNat 32 (intBits 32 ((IntTy.mk n true).ext (a.toNat / 2 ^ pos % 2 ^ n))) = ((a >>> pos).setWidth n).signExtend 32 := by
  have hfield : a.toNat / 2 ^ pos % 2 ^ n = ((a >>> pos).setWidth n).toNat := by
    rw [BitVec.toNat_setWidth, BitVec.toNat_ushiftRight, Nat.shiftRight_eq_div_pow]
  rw [hfield, IntTy.ext_toNat, ofNat_intBits]
  rfl

/-- A field placed in a word: the bits below it and above it are the word's. -/
theorem ofNat_placed (a c : Word) {pos n : Nat} (hn : pos + n ≤ 32) :
    BitVec.ofNat 32 (c.toNat % 2 ^ pos + a.toNat % 2 ^ n * 2 ^ pos + c.toNat / 2 ^ (pos + n) * 2 ^ (pos + n))
      = (c &&& ~~~(BitVec.ofNat 32 (2 ^ n - 1) <<< pos)) ||| ((a &&& BitVec.ofNat 32 (2 ^ n - 1)) <<< pos) := by
  have hsum : c.toNat % 2 ^ pos + a.toNat % 2 ^ n * 2 ^ pos + c.toNat / 2 ^ (pos + n) * 2 ^ (pos + n)
      = 2 ^ pos * (2 ^ n * (c.toNat / 2 ^ (pos + n)) + a.toNat % 2 ^ n) + c.toNat % 2 ^ pos := by
    rw [Nat.pow_add]
    ring
  refine BitVec.eq_of_getLsbD_eq fun i hi => ?_
  rw [hsum, BitVec.getLsbD_ofNat, Nat.testBit_two_pow_mul_add _ (Nat.mod_lt _ (Nat.two_pow_pos pos)),
    Nat.testBit_two_pow_mul_add _ (Nat.mod_lt _ (Nat.two_pow_pos n))]
  simp only [BitVec.getLsbD_or, BitVec.getLsbD_and, BitVec.getLsbD_not, BitVec.getLsbD_shiftLeft, BitVec.getLsbD_ofNat,
    Nat.testBit_two_pow_sub_one, Nat.testBit_mod_two_pow, Nat.testBit_div_two_pow, BitVec.testBit_toNat, hi, decide_true, Bool.true_and]
  by_cases hbelow : i < pos
  · simp [hbelow]
  · by_cases hin : i - pos < n
    · simp [hbelow, hin, show i - pos < 32 by omega]
    · simp [hbelow, hin, show i - pos - n + (pos + n) = i by omega]

section
variable {s : State} {e : Env} {f : Fields}

/-- The position that a field specifier names. -/
def fieldPos (b : Word) : Nat := b.toNat % 256

/-- The length that a field specifier names. -/
def fieldLen (b : Word) : Nat := b.toNat / 256 % 256

/-- As much of that length as fits above the position. -/
def fieldFit (b : Word) : Nat := min (fieldLen b) (32 - fieldPos b)

theorem bfe_results (h : issues (.bfe f) s e) : results (.bfe f) s e f 1 fun _ l =>
    let a := word s e f 2 1 l
    let b := word s e f 2 2 l
    if fieldLen b = 0 ∨ 32 ≤ fieldPos b then 0
    else if f.mod.toNat % 8 = 1 then (a >>> fieldPos b) &&& BitVec.ofNat 32 (2 ^ fieldFit b - 1)
    else ((a >>> fieldPos b).setWidth (fieldFit b)).signExtend 32 := by
  refine intBinary_word rfl h rfl fun l => ?_
  generalize word s e f 2 1 l = a, word s e f 2 2 l = b
  by_cases hnone : fieldLen b = 0 ∨ 32 ≤ fieldPos b
  · rw [if_pos hnone]
    exact if_pos hnone
  · rw [if_neg hnone]
    refine (if_neg hnone).trans (word1_eq ?_)
    split
    · exact ofNat_field a _ _
    · exact ofNat_field_signed a _ _

theorem bfi_results (h : issues (.bfi f) s e) : results (.bfi f) s e f 1 fun _ l =>
    let b := word s e f 2 2 l
    let c := word s e f 2 3 l
    let ones := BitVec.ofNat 32 (2 ^ fieldFit b - 1)
    if fieldLen b = 0 ∨ 32 ≤ fieldPos b then c
    else (c &&& ~~~(ones <<< fieldPos b)) ||| ((word s e f 2 1 l &&& ones) <<< fieldPos b) := by
  refine intAlu_word rfl h rfl fun l => ?_
  simp only [operands_word, operands_nil, List.getD_cons_zero, List.getD_cons_succ]
  generalize word s e f 2 1 l = a, word s e f 2 2 l = b, word s e f 2 3 l = c
  by_cases hnone : fieldLen b = 0 ∨ 32 ≤ fieldPos b
  · rw [if_pos hnone]
    exact (if_pos hnone).trans (word1_eq (by simp))
  · rw [if_neg hnone]
    have hfit : fieldPos b + fieldFit b ≤ 32 := by
      unfold fieldFit
      omega
    exact (if_neg hnone).trans (word1_eq (ofNat_placed a c hfit))

end

/-! ### Byte mixes (R120) -/

/-- A result byte of BYMIX, from the words of its sources. -/
def mixByte (a b c : Word) (i : Nat) : BitVec 8 :=
  let sel : BitVec 6 := (c >>> (6 * i)).setWidth 6
  let x : BitVec 8 := ((b ++ a : DWord) >>> (8 * (sel.toNat % 8))).setWidth 8
  let y := if sel.getLsbD 4 then x.reverse else x
  let z := if sel.getLsbD 3 then ~~~y else y
  if sel.getLsbD 5 then 0 else z

/-- The same from the numbers of its sources, as the model computes it. -/
def mixNumber (a b c i : Nat) : Nat :=
  let sel := c / 2 ^ (6 * i) % 64
  let x := (a % 2 ^ 32 + 2 ^ 32 * b) / 2 ^ (8 * (sel % 8)) % 256
  let y := if sel.testBit 4 then reverseBits 8 x else x
  let z := if sel.testBit 3 then 255 - y else y
  if sel.testBit 5 then 0 else z

theorem mixNumber_toNat (a b c : Word) (i : Nat) : mixNumber a.toNat b.toNat c.toNat i = (mixByte a b c i).toNat := by
  have hsel : c.toNat / 2 ^ (6 * i) % 64 = ((c >>> (6 * i)).setWidth 6).toNat := by
    rw [BitVec.toNat_setWidth, BitVec.toNat_ushiftRight, Nat.shiftRight_eq_div_pow]
  have hpair : a.toNat % 2 ^ 32 + 2 ^ 32 * b.toNat = (b ++ a : DWord).toNat := by
    rw [BitVec.toNat_append, ← Nat.shiftLeft_add_eq_or_of_lt a.isLt, Nat.shiftLeft_eq, Nat.mod_eq_of_lt a.isLt]
    omega
  have hbyte : ∀ n, (b ++ a : DWord).toNat / 2 ^ n % 256 = (((b ++ a : DWord) >>> n).setWidth 8).toNat := fun n => by
    rw [BitVec.toNat_setWidth, BitVec.toNat_ushiftRight, Nat.shiftRight_eq_div_pow]
  have hnot : ∀ x : BitVec 8, 255 - x.toNat = (~~~x).toNat := fun x => by rw [BitVec.toNat_not]
  unfold mixNumber mixByte
  simp only [hsel, hpair, hbyte, BitVec.testBit_toNat, reverseBits_toNat, ← apply_ite BitVec.toNat, hnot]
  split <;> rfl

section
variable {s : State} {e : Env} {f : Fields}

theorem aluBymix_eq (f : Fields) (s : State) (e : Env) : aluBymix f s e = intAlu f 3 [(1, 1), (2, 1), (3, 1)] 1 e.mask fun v =>
    word1 ((List.range 4).foldl (fun acc i => acc + mixNumber (v.getD 0 0) (v.getD 1 0) (v.getD 2 0) i * 2 ^ (8 * i)) 0) := rfl

theorem bymix_results (h : issues (.bymix f) s e) :
    results (.bymix f) s e f 1 fun _ l => join4 (mixByte (word s e f 3 1 l) (word s e f 3 2 l) (word s e f 3 3 l)) := by
  refine intAlu_word rfl h (aluBymix_eq f s e) fun l => word1_eq ?_
  simp only [operands_word, operands_nil, List.getD_cons_zero, List.getD_cons_succ, mixNumber_toNat]
  generalize mixByte (word s e f 3 1 l) (word s e f 3 2 l) (word s e f 3 3 l) = z
  have hjoin : (List.range 4).foldl (fun acc i => acc + (z i).toNat * 2 ^ (8 * i)) 0 = (join4 z).toNat := by
    rw [foldl_range_four fun i => (z i).toNat * 2 ^ (8 * i), join4_toNat, Nat.mul_zero, Nat.pow_zero, Nat.mul_one]
  rw [hjoin, BitVec.ofNat_toNat, BitVec.setWidth_eq]

end

theorem bitFields_holds : Claims.bitFields := fun _ _ _ => ⟨bfe_results, bfi_results, bymix_results⟩

/-! ### Addresses (R121) -/

section
variable {s : State} {e : Env} {f : Fields}

theorem aluLea_eq (f : Fields) (s : State) (e : Env) : aluLea f s e = intAlu f 2 [(1, 2), (2, 1)] 2 e.mask fun v =>
    (twoWords (v.getD 0 0 + intBits 64 ((IntTy.mk 32 (f.mod.toNat % 8 = 2)).ext (v.getD 1 0)) * 2 ^ (f.mod.toNat / 8)), 0) := rfl

/-- A word extended to 64 bits by its sign or with zeros. -/
theorem ofInt_valueOf (sg : Bool) (b : Word) : BitVec.ofInt 64 (valueOf sg b) = if sg then b.signExtend 64 else b.setWidth 64 := by
  cases sg
  · simp [valueOf]
  · rfl

theorem lea_results (h : issues (.lea f) s e) : results (.lea f) s e f 2 fun k l => half (dword s e f 2 1 l
    + ((if f.mod.toNat % 8 = 2 then (word s e f 2 2 l).signExtend 64 else (word s e f 2 2 l).setWidth 64) <<< (f.mod.toNat / 8))) k := by
  refine intAlu_pair rfl h (aluLea_eq f s e) fun l => congrArg (·, 0) (twoWords_eq ?_)
  simp only [operands_word, operands_dword, operands_nil, List.getD_cons_zero, List.getD_cons_succ, IntTy.ext_toNat]
  rw [BitVec.ofNat_add, ← toNat_ofInt_intBits, ofNat_mul_two_pow, ofInt_valueOf, BitVec.ofNat_toNat, BitVec.setWidth_eq]
  simp only [decide_eq_true_eq]

theorem add64_results (h : issues (.add64 f) s e) :
    results (.add64 f) s e f 2 fun k l => half (dword s e f 2 1 l + dword s e f 2 2 l) k :=
  intAlu_pair rfl h rfl fun l => congrArg (·, 0) (twoWords_eq (by simp [BitVec.ofNat_add]))

/-! ### Conversions (R122) -/

theorem aluCvti_eq (f : Fields) (s : State) (e : Env) : aluCvti f s e =
    intAlu f 0 [(1, if wideTy (f.mod.toNat / 8) then 2 else 1)] (if wideTy (f.mod.toNat % 8) then 2 else 1) e.mask fun v =>
      let r := (tyOf (f.mod.toNat % 8)).saturate ((tyOf (f.mod.toNat / 8)).ext (v.getD 0 0))
      (if (if wideTy (f.mod.toNat % 8) then 2 else 1) = 2 then twoWords r.bits else [r.bits], r.flags) := rfl

theorem wideTy_iff (ty : Nat) : wideTy ty = true ↔ typeWidth ty = 64 := by
  match ty with
  | 0 | 1 | 2 | 3 | 4 | 5 => decide
  | _ + 6 => simp [wideTy, typeWidth]

theorem typeWidth_le (ty : Nat) : typeWidth ty = 64 ∨ typeWidth ty ≤ 32 := by
  unfold typeWidth
  split <;> simp

/-- An integer type reads the low bits of a longer word. -/
theorem IntTy.ext_setWidth (sg : Bool) (w : Nat) {n : Nat} (x : BitVec n) : (IntTy.mk w sg).ext x.toNat = valueOf sg (x.setWidth w) := by
  rw [← IntTy.ext_toNat, BitVec.toNat_setWidth]
  simp [IntTy.ext]

/-- The exact value that CVTI reads in a lane. -/
def convertedValue (s : State) (e : Env) (f : Fields) (l : Nat) : Int :=
  let src := f.mod.toNat / 8
  if typeWidth src = 64 then valueOf (src % 2 = 0) ((dword s e f 0 1 l).setWidth (typeWidth src))
  else valueOf (src % 2 = 0) ((word s e f 0 1 l).setWidth (typeWidth src))

theorem ext_cvti_operand (s : State) (e : Env) (f : Fields) (l : Nat) :
    (tyOf (f.mod.toNat / 8)).ext ((operands s e f 0 [(1, if wideTy (f.mod.toNat / 8) then 2 else 1)] l).getD 0 0)
      = convertedValue s e f l := by
  unfold convertedValue
  simp only [wideTy_iff, tyOf_code]
  split <;> simp [IntTy.ext_setWidth]

/-- The words of a value of an integer type, which a pair holds if it is a 64-bit type. -/
theorem ofNat_typedWords {ty : Nat} (y : BitVec (typeWidth ty)) {k : Nat} (hk : k < if typeWidth ty = 64 then 2 else 1) :
    BitVec.ofNat 32 ((if (if typeWidth ty = 64 then 2 else 1) = 2 then twoWords y.toNat else [y.toNat]).getD k 0)
      = half (y.setWidth 64) k := by
  have hnum : (y.setWidth 64).toNat = y.toNat := by
    rw [BitVec.toNat_setWidth_of_le]
    rcases typeWidth_le ty with h | h <;> omega
  rw [← hnum]
  by_cases h64 : typeWidth ty = 64
  · simp only [h64, if_true] at hk ⊢
    exact ofNat_twoWords _ hk
  · simp only [h64, if_false] at hk ⊢
    obtain rfl : k = 0 := by omega
    simp [half, ← BitVec.toNat_inj]

theorem cvti_results (h : issues (.cvti f) s e) : results (.cvti f) s e f (if typeWidth (f.mod.toNat % 8) = 64 then 2 else 1)
    (fun k l => half ((saturated (signed f) (typeWidth (f.mod.toNat % 8)) (convertedValue s e f l)).setWidth 64) k)
    (ovfIf e fun l => outside (signed f) (typeWidth (f.mod.toNat % 8)) (convertedValue s e f l)) := by
  have hn : (if typeWidth (f.mod.toNat % 8) = 64 then 2 else 1) = if wideTy (f.mod.toNat % 8) then 2 else 1 := by simp only [wideTy_iff]
  rw [← raised_ite, hn]
  refine intAlu_results rfl h (aluCvti_eq f s e) (fun l k hk => ?_) fun l => ?_
  · rw [← hn] at hk
    simp only [ext_cvti_operand, tyOf_eq, IntTy.saturate_eq, ← hn]
    exact ofNat_typedWords _ hk
  · simp only [ext_cvti_operand, tyOf_eq, IntTy.saturate_eq]

end

theorem addressesAndConversion_holds : Claims.addressesAndConversion := fun _ _ _ => ⟨lea_results, add64_results, cvti_results⟩

/-- Settles O11: bit by bit for the fields, byte by byte for the mixes, and by the numbers of words for the rest. -/
theorem fieldsAndAddresses : Obligations.FieldsAndAddresses := ⟨bitFields_holds, addressesAndConversion_holds⟩

end Sys2Proof.Machine
end

section
/-! SUPPORT. What a moment instruction answers once its checks pass: the results of its lanes in their destination or on their way,
with the frame, or the end of the launch (R156 to R158). -/

namespace Sys2Proof.Machine

open Sys2Proof.Safety Sys2Proof.Claims

/-! ### Writing a moment register (R156) -/

section
variable (c : Clutch) {mask : Mask} (reg tag : Nat) (v : Nat → DWord)

/-- A write changes the pairs of its register in the lanes of the mask, and no other pair. -/
theorem Clutch.putMoment_moment (hm : mask ≠ 0) (k : Nat) {l : Nat} (hl : l < laneCount) :
    (c.putMoment mask reg tag v).moment k l = if k = reg ∧ inMask mask l = true then v l else c.moment k l := by
  rw [Clutch.putMoment, if_neg hm]
  unfold Clutch.moment
  by_cases hk : k = reg
  · subst hk
    have hlane : laneM (lanesOf fun l => if inMask mask l then v l else laneM (c.mregs.get [] k) l) l
        = if inMask mask l then v l else laneM (c.mregs.get [] k) l := laneM_lanesOf _ l hl
    simp only [Store.get_set_self, true_and]
    split
    · rename_i hzero
      have hmem := List.all_eq_true.mp hzero _ (List.mem_map.mpr ⟨l, List.mem_range.mpr hl, rfl⟩)
      exact (of_decide_eq_true hmem).symm
    · exact hlane
  · simp only [Store.get_set_other _ _ _ _ _ hk, hk, false_and, if_false]

theorem Clutch.putMoment_tag (hm : mask ≠ 0) (k : Nat) :
    (c.putMoment mask reg tag v).momentTag k = if k = reg then tag % 32 else c.momentTag k := by
  rw [Clutch.putMoment, if_neg hm]
  unfold Clutch.momentTag
  by_cases hk : k = reg
  · simp [hk, Store.get_set_self]
  · simp [hk, Store.get_set_other _ _ _ _ _ hk]

/-- Beside the moment registers and their marks a write changes nothing. -/
theorem Clutch.putMoment_frame (mask : Mask) : { c.putMoment mask reg tag v with
    mregs := c.mregs, mtags := c.mtags, mpoison := c.mpoison, loans := c.loans } = c := by
  unfold Clutch.putMoment
  split <;> rfl

end

/-! ### The lanes of a run -/

/-- What the lanes of a moment instruction compute; nothing where a lane is not active. -/
def momentOuts (e : Env) (g : Nat → MOut) : List MOut :=
  lanesOf fun l => if inMask e.mask l then g l else { pair := 0, flags := 0, neg := false }

/-- The lanes that meet NEGVAR (R158). -/
def negvarLanes (e : Env) (g : Nat → MOut) : Mask :=
  maskOf fun l => ((momentOuts e g).getD l { pair := 0, flags := 0, neg := false }).neg

theorem momentOuts_getD {e : Env} (g : Nat → MOut) {l : Nat} (hl : inMask e.mask l = true) (d : MOut) :
    (momentOuts e g).getD l d = g l := by
  have hlt := lt_of_inMask hl
  simp [momentOuts, lanesOf, List.getD, hlt, hl]

theorem inMask_negvarLanes (e : Env) (g : Nat → MOut) (l : Nat) :
    inMask (negvarLanes e g) l = (inMask e.mask l && (g l).neg) := by
  rw [negvarLanes, inMask_maskOf]
  cases hl : inMask e.mask l with
  | true => rw [momentOuts_getD g hl, decide_eq_true (lt_of_inMask hl)]
  | false =>
    by_cases hlt : l < laneCount
    · simp [momentOuts, lanesOf, List.getD, hlt, hl]
    · simp [hlt]

/-- Only active lanes meet NEGVAR. -/
theorem negvarLanes_active (e : Env) (g : Nat → MOut) : negvarLanes e g &&& ~~~e.mask = 0 := by
  refine BitVec.eq_of_getLsbD_eq fun l hl => ?_
  have hneg : (negvarLanes e g).getLsbD l = (e.mask.getLsbD l && (g l).neg) := inMask_negvarLanes e g l
  rw [BitVec.getLsbD_and, BitVec.getLsbD_not, hneg]
  cases e.mask.getLsbD l <;> simp

theorem negvarLanes_eq_zero {e : Env} {g : Nat → MOut} (h : ∀ l, inMask e.mask l = true → (g l).neg = false) :
    negvarLanes e g = 0 := by
  refine BitVec.eq_of_getLsbD_eq fun l _ => ?_
  have hneg : (negvarLanes e g).getLsbD l = (inMask e.mask l && (g l).neg) := inMask_negvarLanes e g l
  rw [hneg]
  cases hl : inMask e.mask l with
  | true => simp [h l hl]
  | false => simp

/-! ### The results in their destination -/

/-- The pair that a lane's result holds. -/
def pairAt (outs : List MOut) (l : Nat) : DWord := (outs.getD l { pair := 0, flags := 0, neg := false }).pair

theorem pairAt_momentOuts {e : Env} (g : Nat → MOut) {l : Nat} (hl : inMask e.mask l = true) :
    pairAt (momentOuts e g) l = (g l).pair := by rw [pairAt, momentOuts_getD g hl]

/-- The flags that the lanes of a moment instruction raise, and FMT for a source that passes as RAW (R131, R156). -/
def momentFlags (e : Env) (srcs : List Src) (outs : List MOut) : Word :=
  outs.foldl (fun a r => a ||| r.flags) 0 ||| if srcs.any e.srcFmt then flagFmt else 0

/-- The results of a moment instruction in their destination, or on their way to it. -/
def momentResult (s : State) (e : Env) (dst : MDst) (tag : Nat) (outs : List MOut) (flags : Word) : State :=
  match dst with
  | .moment reg => (s.modClutch e.who fun c => c.putMoment e.mask reg tag (pairAt outs)).flag e.who.chorus flags
  | .ordinary reg =>
    (s.modClutch e.who fun c => c.put e.hdr.uniform e.mask reg tag fun l => (pairAt outs l).setWidth 32).flag e.who.chorus flags
  | .late reg =>
    s.produce { id := 0, who := e.who, dst := .moment reg, mask := e.mask, pairs := outs.map MOut.pair,
                tag := BitVec.ofNat 5 tag, flags, canFlag := true }

/-- A moment instruction brings a pair to each active lane of its destination, or the pair's lower word. -/
def momentBrings (s t : State) (e : Env) (dst : MDst) (pair : Nat → DWord) (c : Clutch) : Prop :=
  match dst with
  | .moment d => ∀ l, inMask e.mask l = true → c.moment d l = pair l
  | .ordinary d => wrote e.hdr.uniform e.mask d 1 (fun _ l => (pair l).setWidth 32) e.cl c
  | .late d => ∃ p, t.landings = s.landings ++ [p] ∧ p.dst = .moment d ∧ ∀ l, inMask e.mask l = true → p.pairs.getD l 0 = pair l

/-- The results and the move to the next word complete the instruction, with its frame, and bring what its lanes compute. -/
def momentCompletes (s : State) (e : Env) (m : MomentForm) (g : Nat → MOut) (flags : Word) : Prop :=
  let t := (momentResult s e m.dst m.tag (momentOuts e g) flags).bump.modClutch e.who (·.advance m.f.len.bytes)
  ∃ c, t.at? e.who = some c ∧ momentDone s t e m c ∧ momentBrings s t e m.dst (fun l => (g l).pair) c

/-- A change of a clutch with flags for its chorus, and the move to the next word, leave the rest alone. -/
theorem modClutch_flag_frame (s : State) (who : ClutchId) (g : Clutch → Clutch) (hg : ∀ x, (g x).id = x.id) (flags : Word) (n : Nat) :
    let t := ((s.modClutch who g).flag who.chorus flags).bump.modClutch who (·.advance n)
    t.at? who = (s.at? who).map (fun c => (g c).advance n) ∧ sameDevice s t ∧ sameElsewhere s t who ∧ t.landings = s.landings := by
  obtain ⟨hat, hdevice, helse, -, hlandings⟩ := moveOn_frame ((s.modClutch who g).flag who.chorus flags) who n
  refine ⟨?_, sameDevice_trans (by simp [sameDevice]) hdevice,
    sameElsewhere_trans (sameElsewhere_trans (sameElsewhere_modClutch s who g hg) (sameElsewhere_flag _ who flags)) helse,
    hlandings.trans (by simp)⟩
  rw [hat, State.at?_flag, State.at?_modClutch_self _ _ _ hg, Option.map_map]
  rfl

theorem sameControl_of_onlyRegisters {c d : Clutch} (h : onlyRegisters c d) : sameControl c d :=
  (congrArg (fun y : Clutch => { y with
    pc := c.pc, empty := c.empty, mregs := c.mregs, mtags := c.mtags, mempty := c.mempty, mpoison := c.mpoison }) h :)

theorem Clutch.putMoment_sameControl (c : Clutch) (mask : Mask) (reg tag : Nat) (v : Nat → DWord) :
    sameControl c (c.putMoment mask reg tag v) := by
  unfold Clutch.putMoment
  split <;> rfl

section
variable {s : State} {e : Env} (m : MomentForm) (g : Nat → MOut) (flags : Word) (hm : e.mask ≠ 0) (he : s.env? e.who = some e)

include hm in
/-- One register holds the lower words of the lanes' results. -/
theorem put_wrote (d tag n : Nat) :
    wrote e.hdr.uniform e.mask d 1 (fun _ l => (g l).pair.setWidth 32) e.cl
      ((e.cl.put e.hdr.uniform e.mask d tag fun l => (pairAt (momentOuts e g) l).setWidth 32).advance n) := by
  intro reg l hreg hl
  refine (Clutch.put_word _ _ _ _ _ _ _ _ hm hreg hl).trans ?_
  by_cases hk : reg = d
  case neg => rw [if_neg (fun h => hk h.1), if_neg (by omega)]
  subst hk
  refine ite_congr (by simp) (fun hactive => ?_) fun _ => rfl
  have hlane : inMask e.mask (if isUniform e.hdr.uniform reg = true then lowest e.mask else l) = true := by
    split
    · exact inMask_lowest hm
    · simp_all
  exact congrArg (BitVec.setWidth 32) (pairAt_momentOuts g hlane)

include hm he in
/-- Results in a moment register (R156). -/
theorem momentResult_moment {d : Nat} (hdst : m.dst = .moment d) (htag : m.tag < 32) : momentCompletes s e m g flags := by
  let put (c : Clutch) : Clutch := c.putMoment e.mask d m.tag (pairAt (momentOuts e g))
  have hframe := e.cl.putMoment_frame d m.tag (pairAt (momentOuts e g)) e.mask
  obtain ⟨hat, hdevice, helse, hlandings⟩ := modClutch_flag_frame s e.who put
    (fun c => (congrArg Clutch.id (c.putMoment_frame d m.tag _ e.mask) :)) flags m.f.len.bytes
  rw [State.env?_at? s e.who e he] at hat
  unfold momentCompletes momentDone
  rw [hdst]
  refine ⟨(put e.cl).advance m.f.len.bytes, hat, ⟨?_, hdevice, helse, sameControl_trans (Clutch.putMoment_sameControl ..) rfl,
    (congrArg Clutch.mask hframe :), fun reg l hl hother => ?_, fun reg => ?_, fun n reg l => ?_, (congrArg Clutch.tags hframe :),
    hlandings⟩, fun l hl => ?_⟩
  · exact congrArg (· + BitVec.ofNat 32 m.f.len.bytes) (congrArg Clutch.pc hframe :)
  · refine (Clutch.putMoment_moment e.cl d m.tag _ hm reg hl).trans (if_neg ?_)
    rintro ⟨rfl, hin⟩
    simp [hin] at hother
  · refine (Clutch.putMoment_tag e.cl d m.tag _ hm reg).trans ?_
    rw [Nat.mod_eq_of_lt htag]
  · exact (congrArg (fun c : Clutch => c.word n reg l) hframe :)
  · refine (Clutch.putMoment_moment e.cl d m.tag _ hm d (lt_of_inMask hl)).trans ?_
    rw [if_pos ⟨rfl, hl⟩, pairAt_momentOuts g hl]

include hm he in
/-- Results in an ordinary register (R169). -/
theorem momentResult_ordinary {d : Nat} (hdst : m.dst = .ordinary d) : momentCompletes s e m g flags := by
  let put (c : Clutch) : Clutch := c.put e.hdr.uniform e.mask d m.tag fun l => (pairAt (momentOuts e g) l).setWidth 32
  have hframe : onlyRegisters e.cl (put e.cl) := Clutch.put_onlyRegisters ..
  obtain ⟨hat, hdevice, helse, hlandings⟩ := modClutch_flag_frame s e.who put (fun c => Clutch.put_id ..) flags m.f.len.bytes
  rw [State.env?_at? s e.who e he] at hat
  have hwrote := put_wrote g hm d m.tag m.f.len.bytes
  unfold momentCompletes momentDone
  rw [hdst]
  refine ⟨(put e.cl).advance m.f.len.bytes, hat, ⟨by simp [put, Clutch.advance], hdevice, helse,
    sameControl_trans (sameControl_of_onlyRegisters hframe) rfl, fun hd => ?_, (congrArg Clutch.mregs hframe :),
    (congrArg Clutch.mtags hframe :), hlandings, ⟨_, hwrote⟩, fun reg hreg => ?_⟩, hwrote⟩
  · exact (Clutch.put_mask e.cl _ _ _ _ hm).trans (if_neg (by omega))
  · exact (Clutch.put_tag _ _ _ _ _ _ _ hm hreg).trans (if_congr (by omega) rfl rfl)

include he in
/-- Results on their way to a moment register (R157). -/
theorem momentResult_late {d : Nat} (hdst : m.dst = .late d) : momentCompletes s e m g flags := by
  obtain ⟨hat, hdevice, helse, -, hlandings⟩ :=
    moveOn_frame (momentResult s e (.late d) m.tag (momentOuts e g) flags) e.who m.f.len.bytes
  rw [momentResult, State.produce_at? (State.env?_at? s e.who e he)] at hat
  unfold momentCompletes momentDone
  rw [hdst]
  refine ⟨(e.cl.awaits (.moment d)).advance m.f.len.bytes, hat, ⟨rfl,
    sameDevice_trans ⟨rfl, rfl, rfl, rfl, rfl, rfl, rfl, rfl, rfl, rfl, rfl, rfl, rfl⟩ hdevice,
    sameElsewhere_trans (State.produce_sameElsewhere s _) helse,
    sameControl_trans (e.cl.awaits_sameControl (.moment d)) rfl, rfl, fun _ _ _ => rfl, fun _ _ => rfl,
    e.cl.mem_mempty_awaits d, _, hlandings, rfl, rfl, rfl⟩, _, hlandings, rfl, fun l hl => ?_⟩
  have hlt := lt_of_inMask hl
  simp [momentOuts, lanesOf, List.getD, hlt, hl]

include hm he in
/-- The results complete the instruction, whatever its destination. -/
theorem momentResult_completes (htag : m.tag < 32) : momentCompletes s e m g flags := by
  cases hdst : m.dst with
  | moment d => exact momentResult_moment m g flags hm he hdst htag
  | ordinary d => exact momentResult_ordinary m g flags hm he hdst
  | late d => exact momentResult_late m g flags he hdst

end

/-! ### The run (R200) -/

/-- A moment instruction that may issue brings its results, unless an active lane meets NEGVAR (R158, R172). -/
theorem runMoment_eq {s : State} {e : Env} {m : MomentForm} (h : momentReady s e m) {srcs : List Src}
    (hsrcs : ∀ x ∈ srcs, e.srcFails x = false ∧ e.poisonIn x (e.readLanes x) = false) (tag : Env → Nat)
    (g : State → Env → Nat → MOut) :
    let outs := momentOuts e (g s e)
    let flags := momentFlags e (srcs ++ (e.rhoSrc m.rho).toList) outs
    runMoment m.op m.f m.rho m.srcTag tag m.dst srcs g s
      = if negvarLanes e (g s e) ≠ 0 then fatal s e .negvar (negvarLanes e (g s e))
        else .next ((momentResult s e m.dst (tag e) outs flags).bump.modClutch e.who (·.advance m.f.len.bytes)) := by
  intro outs flags
  obtain ⟨hr, hm, hheld, hrho, hready, htag, hpoison, hpass⟩ := h
  unfold runMoment
  rw [withClutch_eq s e _ hr.1 hr.2, if_neg, issueWith_eq _ _ _ s e _ hr hm hheld]
  · have hall : ∀ x ∈ srcs ++ (e.rhoSrc m.rho).toList, e.srcFails x = false ∧ e.poisonIn x (e.readLanes x) = false := by
      intro x hx
      rcases List.mem_append.mp hx with hx | hx
      · exact hsrcs x hx
      · refine hpass x (List.mem_append_right _ ?_)
        unfold Env.rhoSrc at hx
        split_ifs at hx ⊢ <;> simp_all
    have hfails : (srcs ++ (e.rhoSrc m.rho).toList).any e.srcFails = false := by
      rw [List.any_eq_false]
      exact fun x hx => by simp [(hall x hx).1]
    have hbad : (srcs ++ (e.rhoSrc m.rho).toList).any (fun x => e.poisonIn x (e.readLanes x)) = false := by
      rw [List.any_eq_false]
      exact fun x hx => by simp [(hall x hx).2]
    have hmoment : (momentReads m.op m.f).any e.momentPoison = false := by
      rw [List.any_eq_false]
      exact fun x hx => by simp [hpoison x hx]
    refine (if_neg ?_).trans ((if_neg (by simp [hmoment, hbad])).trans ?_)
    · cases ht : m.srcTag with
      | none => simp [hfails]
      | some t => simpa [hfails] using htag t ht
    · obtain ⟨op, f, rho, srcTag, tag', dst, srcs'⟩ := m
      cases dst <;> rfl
  · refine (congrArg (fun more => e.cl.ready (readsOf m.op m.f ++ more) (writesOf m.op m.f)) ?_).trans hready
    unfold Env.rhoSrc
    split_ifs <;> rfl
  · rintro ⟨-, hsome, hnone⟩
    unfold Env.rhoSrc at hsome
    split_ifs at hsome with hcov
    · simp [hrho hcov.1 hcov.2] at hnone
    · simp at hsome

end Sys2Proof.Machine
end

section
/-! SUPPORT. Sums of products of finite values as rational numbers, and the rounding of a number that a format holds (R44, R47): what
leaves FP32 words as they stand. -/

namespace Sys2Proof.Machine

open Sys2Proof.Safety Sys2Proof.Claims

/-! ### Values as rational numbers -/

/-- A value is finite. -/
def FVal.isFin : FVal → Bool
  | .fin _ _ _ => true
  | _ => false

/-- The number that a finite value is. -/
def FVal.value : FVal → ℚ
  | .fin s m e => (if s then -1 else 1) * m * 2 ^ e
  | _ => 0

@[simp] theorem FVal.isFin_fin (s : Bool) (m : Nat) (e : Int) : (FVal.fin s m e).isFin = true := rfl

theorem FVal.value_fin (s : Bool) (m : Nat) (e : Int) : (FVal.fin s m e).value = (if s then -1 else 1) * m * 2 ^ e := rfl

@[simp] theorem FVal.value_zero (s : Bool) (e : Int) : (FVal.fin s 0 e).value = 0 := by simp [FVal.value_fin]

theorem FVal.eq_fin {x : FVal} (h : x.isFin = true) : ∃ s m e, x = .fin s m e := by
  cases x with
  | fin s m e => exact ⟨s, m, e, rfl⟩
  | nan | inf _ => cases h

theorem FVal.isNan_of_isFin {x : FVal} (h : x.isFin = true) : x.isNan = false := by
  obtain ⟨s, m, e, rfl⟩ := FVal.eq_fin h
  rfl

/-- A product of finite values is finite, and its number is the product of theirs. -/
theorem mulVals_value {t : List FVal} (h : ∀ x ∈ t, x.isFin = true) :
    (mulVals t).2 = false ∧ (mulVals t).1.isFin = true ∧ (mulVals t).1.value = (t.map FVal.value).prod := by
  induction t with
  | nil => simp [mulVals, FVal.value_fin]
  | cons x rest ih =>
    obtain ⟨hbad, hfin, hvalue⟩ := ih fun y hy => h y (List.mem_cons_of_mem _ hy)
    obtain ⟨s, m, e, rfl⟩ := FVal.eq_fin (h x List.mem_cons_self)
    obtain ⟨s', m', e', hrest⟩ := FVal.eq_fin hfin
    have hprod : mulVals (.fin s m e :: rest) = (.fin (s != s') (m * m') (e + e'), false) := by
      rw [mulVals, ← hbad]
      simp only [hrest]
    rw [hprod, List.map_cons, List.prod_cons, ← hvalue, hrest]
    refine ⟨rfl, rfl, ?_⟩
    rw [FVal.value_fin, FVal.value_fin, FVal.value_fin, zpow_add₀ two_ne_zero]
    cases s <;> cases s' <;> push_cast <;> simp <;> ring

/-- The least exponent is at most that of each value. -/
theorem minExp_le {vs : List FVal} {s : Bool} {m : Nat} {e : Int} (h : .fin s m e ∈ vs) : minExp vs ≤ e := by
  induction vs with
  | nil => cases h
  | cons x rest ih =>
    rcases List.mem_cons.mp h with rfl | hmem
    · cases rest with
      | nil => exact le_refl _
      | cons y ys => exact min_le_left _ _
    · have hrest := ih hmem
      cases rest with
      | nil => cases hmem
      | cons y ys =>
        cases x with
        | fin s' m' e' => exact (min_le_right _ _).trans hrest
        | nan | inf _ => exact hrest

/-- The exact sum in units of a power of two that all finite values are multiples of. -/
theorem sumAt_value {vs : List FVal} (hfin : ∀ x ∈ vs, x.isFin = true) {e : Int} (he : ∀ s m g, .fin s m g ∈ vs → e ≤ g) :
    (sumAt e vs : ℚ) * 2 ^ e = (vs.map FVal.value).sum := by
  induction vs with
  | nil => simp [sumAt]
  | cons x rest ih =>
    have hrest := ih (fun y hy => hfin y (List.mem_cons_of_mem _ hy)) fun s m g hy => he s m g (List.mem_cons_of_mem _ hy)
    obtain ⟨s, m, g, rfl⟩ := FVal.eq_fin (hfin x List.mem_cons_self)
    have hg := he s m g List.mem_cons_self
    have hpow : (2 : ℚ) ^ g = 2 ^ (g - e).toNat * 2 ^ e := by
      rw [← zpow_natCast, ← zpow_add₀ two_ne_zero]
      congr 1
      omega
    rw [List.map_cons, List.sum_cons, ← hrest, FVal.value_fin, hpow, sumAt]
    cases s <;> push_cast <;> simp <;> ring

/-- A sum of products of finite values is one rounding of their exact number, or a zero (R44). -/
theorem Fmt.sumProducts_finite (fm : Fmt) (rm : RM) (perTerm : Bool) {terms : List (List FVal)}
    (h : ∀ t ∈ terms, ∀ x ∈ t, x.isFin = true) : ∃ (n e : Int) (neg : Bool),
      (n : ℚ) * 2 ^ e = (terms.map fun t => (t.map FVal.value).prod).sum
        ∧ fm.sumProducts rm perTerm terms = if n = 0 then fm.zero neg else fm.round rm (n < 0) n.natAbs e := by
  let vals := (terms.map mulVals).map Prod.fst
  have hvals : ∀ v ∈ vals, v.isFin = true := by
    intro v hv
    simp only [vals, List.map_map, List.mem_map, Function.comp] at hv
    obtain ⟨t, ht, rfl⟩ := hv
    exact (mulVals_value (h t ht)).2.1
  have hnan : terms.any (fun t => t.any FVal.isNan) = false := by
    simp only [List.any_eq_false, Bool.not_eq_true]
    exact fun t ht x hx => FVal.isNan_of_isFin (h t ht x hx)
  have hbad : (terms.map mulVals).any Prod.snd = false := by
    simp only [List.any_eq_false, List.mem_map, Bool.not_eq_true]
    rintro _ ⟨t, ht, rfl⟩
    exact (mulVals_value (h t ht)).1
  have hinf : vals.filter FVal.isInf = [] := by
    rw [List.filter_eq_nil_iff]
    intro v hv
    obtain ⟨s, m, e, rfl⟩ := FVal.eq_fin (hvals v hv)
    simp
  refine ⟨sumAt (minExp vals) vals, minExp vals, zeroSign rm vals, ?_, ?_⟩
  · rw [sumAt_value hvals fun s m g hm => minExp_le hm]
    simp only [vals, List.map_map]
    congr 1
    exact List.map_congr_left fun t ht => (mulVals_value (h t ht)).2.2
  · unfold Fmt.sumProducts
    simp only [hnan, hbad]
    simp only [vals] at hinf ⊢
    rw [hinf]
    simp

/-! ### Rounding a number that the format holds (R44) -/

/-- Dropping zeros below the last bit loses nothing, in every rounding mode. -/
theorem roundShift_exact (rm : RM) (neg : Bool) (k sh : Nat) : roundShift rm neg (k * 2 ^ sh) sh false = k := by
  have hpos := Nat.two_pow_pos sh
  have hdiv : k * 2 ^ sh / 2 ^ sh = k := Nat.mul_div_cancel _ hpos
  have hmod : k * 2 ^ sh % 2 ^ sh = 0 := Nat.mul_mod_left _ _
  unfold roundShift
  rw [hdiv, hmod]
  cases rm <;> simp
  omega

/-- A number of significant bits lies between two powers of two. -/
theorem two_pow_bitLen {m : Nat} (hm : m ≠ 0) : 2 ^ (bitLen m - 1) ≤ m ∧ m < 2 ^ bitLen m := by
  rw [bitLen, if_neg hm]
  exact ⟨Nat.log2_self_le hm, Nat.lt_log2_self⟩

/-- A significand and an exponent as the format keeps them: normal, or at the least exponent (R33). -/
def Fmt.keeps (fm : Fmt) (k : Nat) (g : Int) : Prop := fm.emin ≤ g ∧ k < 2 ^ (fm.fb + 1) ∧ (g = fm.emin ∨ 2 ^ fm.fb ≤ k)

/-- Of a number that the format keeps, rounding finds the exponent. -/
theorem Fmt.keeps_exponent {fm : Fmt} {k : Nat} {g : Int} (hk : fm.keeps k g) {m : Nat} {e : Int} (hm : m ≠ 0)
    (h : (m : ℚ) * 2 ^ e = k * 2 ^ g) : max fm.emin (e + (bitLen m : Int) - (fm.fb + 1 : Int)) = g := by
  obtain ⟨hge, hlt, hnormal⟩ := hk
  obtain ⟨hlow, hhigh⟩ := two_pow_bitLen hm
  have hpos : 1 ≤ bitLen m := by simp [bitLen, hm]
  have hlow' : (2 : ℚ) ^ ((bitLen m : Int) - 1) ≤ m := by
    have hcast : (2 : ℚ) ^ (bitLen m - 1) ≤ m := by exact_mod_cast hlow
    rwa [← zpow_natCast, Nat.cast_sub hpos] at hcast
  have hhigh' : (m : ℚ) < 2 ^ (bitLen m : Int) := by
    rw [zpow_natCast]
    exact_mod_cast hhigh
  have hlt' : (k : ℚ) < 2 ^ ((fm.fb : Int) + 1) := by
    have hcast : (k : ℚ) < 2 ^ (fm.fb + 1) := by exact_mod_cast hlt
    rwa [← zpow_natCast, Nat.cast_succ] at hcast
  have hposZ (x : Int) : (0 : ℚ) < 2 ^ x := zpow_pos two_pos x
  have hupper : e + (bitLen m : Int) - (fm.fb + 1 : Int) ≤ g := by
    have hchain : (2 : ℚ) ^ ((bitLen m : Int) - 1 + e) < 2 ^ ((fm.fb : Int) + 1 + g) := by
      rw [zpow_add₀ two_ne_zero, zpow_add₀ two_ne_zero]
      calc _ ≤ (m : ℚ) * 2 ^ e := mul_le_mul_of_nonneg_right hlow' (hposZ e).le
        _ = k * 2 ^ g := h
        _ < _ := mul_lt_mul_of_pos_right hlt' (hposZ g)
    have := (zpow_lt_zpow_iff_right₀ one_lt_two).mp hchain
    omega
  rcases hnormal with rfl | hnormal
  · exact max_eq_left hupper
  · have hnormal' : (2 : ℚ) ^ (fm.fb : Int) ≤ k := by
      rw [zpow_natCast]
      exact_mod_cast hnormal
    have hchain : (2 : ℚ) ^ ((fm.fb : Int) + g) < 2 ^ ((bitLen m : Int) + e) := by
      rw [zpow_add₀ two_ne_zero, zpow_add₀ two_ne_zero]
      calc _ ≤ (k : ℚ) * 2 ^ g := mul_le_mul_of_nonneg_right hnormal' (hposZ g).le
        _ = m * 2 ^ e := h.symm
        _ < _ := mul_lt_mul_of_pos_right hhigh' (hposZ e)
    have := (zpow_lt_zpow_iff_right₀ one_lt_two).mp hchain
    omega

/-- A number that the format keeps is not changed by rounding, in any mode (R44). -/
theorem Fmt.round_keeps {fm : Fmt} (rm : RM) (neg : Bool) {k : Nat} {g : Int} (hk : fm.keeps k g)
    (hmax : (g - fm.emin).toNat * 2 ^ fm.fb + k ≤ fm.maxBits) {m : Nat} {e : Int} (hm : m ≠ 0) (h : (m : ℚ) * 2 ^ e = k * 2 ^ g) :
    fm.round rm neg m e = { bits := fm.signBit neg + ((g - fm.emin).toNat * 2 ^ fm.fb + k) } := by
  have hmant : (if g ≤ e then m * 2 ^ (e - g).toNat else roundShift rm neg m (g - e).toNat false) = k := by
    have hsplit {x y : Int} (hxy : x ≤ y) : (2 : ℚ) ^ y = 2 ^ (y - x).toNat * 2 ^ x := by
      rw [← zpow_natCast, ← zpow_add₀ two_ne_zero]
      congr 1
      omega
    split
    · rename_i hle
      rw [hsplit hle, ← mul_assoc] at h
      exact_mod_cast mul_right_cancel₀ (zpow_ne_zero g two_ne_zero) h
    · rename_i hle
      rw [hsplit (show e ≤ g by omega), ← mul_assoc] at h
      have hshift : m = k * 2 ^ (g - e).toNat := by exact_mod_cast mul_right_cancel₀ (zpow_ne_zero e two_ne_zero) h
      rw [hshift]
      exact roundShift_exact rm neg k _
  unfold Fmt.round
  simp only [Fmt.keeps_exponent hk hm h, hmant]
  exact if_neg (by omega)

/-! ### FP32 words as they stand -/

/-- A finite FP32 word by its significand and exponent (R33). -/
theorem fp32_decode_finite {x : Word} (h : finite32 x) : ∃ k g, fp32.decode x.toNat = .fin x.msb k g ∧ fp32.keeps k g
    ∧ (g - fp32.emin).toNat * 2 ^ fp32.fb + k ≤ fp32.maxBits
    ∧ x.toNat = fp32.signBit x.msb + ((g - fp32.emin).toNat * 2 ^ fp32.fb + k) ∧ (k = 0 ↔ x.toNat % 2 ^ 31 = 0) := by
  have hlt := x.isLt
  have hmsb : fp32.signBit x.msb = x.toNat / 2 ^ 31 * 2 ^ 31 := by
    rw [← testBit_msb, Nat.testBit_eq_decide_div_mod_eq]
    have hbit : x.toNat / 2 ^ 31 = 0 ∨ x.toNat / 2 ^ 31 = 1 := by omega
    rcases hbit with hbit | hbit <;> rw [hbit] <;> decide
  have hemin : fp32.emin = -149 := rfl
  have hfb : fp32.fb = 23 := rfl
  have hmaxBits : fp32.maxBits = 255 * 2 ^ 23 - 1 := by decide
  unfold finite32 at h
  rw [fp32_decode_word, if_neg (fun hx => h hx.1), if_neg h, hmsb]
  unfold Fmt.keeps
  rw [hemin, hfb, hmaxBits]
  split
  · exact ⟨_, _, rfl, by omega, by omega, by omega, by omega⟩
  · exact ⟨_, _, rfl, by omega, by omega, by omega, by omega⟩

/-- The number of an FP32 word. -/
def number32 (x : Word) : ℚ := (fp32.decode x.toNat).value

theorem isFin_decode {x : Word} (h : finite32 x) : (fp32.decode x.toNat).isFin = true := by
  obtain ⟨k, g, hdec, -⟩ := fp32_decode_finite h
  rw [hdec]
  rfl

theorem number32_eq_zero {x : Word} (h : finite32 x) : number32 x = 0 ↔ x.toNat % 2 ^ 31 = 0 := by
  obtain ⟨k, g, hdec, -, -, -, hzero⟩ := fp32_decode_finite h
  rw [← hzero, number32, hdec, FVal.value_fin]
  cases x.msb <;> simp [zpow_ne_zero]

/-- A result is a word as it stands, or a zero of some sign for a word that is a zero. -/
def FRes.isWord (r : FRes) (x : Word) : Prop := r.bits = x.toNat ∨ (x.toNat % 2 ^ 31 = 0 ∧ ∃ neg, r.bits = fp32.signBit neg)

theorem FRes.isWord_bits {r : FRes} {x : Word} (h : r.isWord x) (hx : x.toNat % 2 ^ 31 ≠ 0) : r.bits = x.toNat :=
  h.resolve_right fun hzero => hx hzero.1

/-- An exact number that a word holds is rounded to the word, in every mode. -/
theorem fp32_round_word (rm : RM) {x : Word} (hx : finite32 x) {n e : Int} (hn : n ≠ 0) (h : (n : ℚ) * 2 ^ e = number32 x) :
    fp32.round rm (n < 0) n.natAbs e = { bits := x.toNat } := by
  obtain ⟨k, g, hdec, hkeeps, hmax, hbits, -⟩ := fp32_decode_finite hx
  rw [number32, hdec, FVal.value_fin] at h
  have hpos (y : Int) : (0 : ℚ) < 2 ^ y := zpow_pos two_pos y
  have habs : (n.natAbs : ℚ) * 2 ^ e = k * 2 ^ g := by
    have hboth := congrArg abs h
    rw [abs_mul, abs_mul, abs_mul, abs_of_pos (hpos e), abs_of_pos (hpos g), Nat.abs_cast] at hboth
    rw [Nat.cast_natAbs, Int.cast_abs, hboth]
    cases x.msb <;> simp
  have hk : k ≠ 0 := by
    rintro rfl
    rw [Nat.cast_zero, zero_mul, mul_eq_zero, Nat.cast_eq_zero, Int.natAbs_eq_zero] at habs
    exact habs.elim hn (hpos e).ne'
  have hsign : decide (n < 0) = x.msb := by
    have hscaled : (0 : ℚ) < k * 2 ^ g := mul_pos (by exact_mod_cast Nat.pos_of_ne_zero hk) (hpos g)
    cases hneg : x.msb with
    | true =>
      rw [hneg, if_pos rfl] at h
      have hlt : (n : ℚ) < 0 := neg_of_mul_neg_left (by linarith) (hpos e).le
      exact decide_eq_true (by exact_mod_cast hlt)
    | false =>
      rw [hneg, if_neg Bool.false_ne_true] at h
      have hlt : (0 : ℚ) < n := pos_of_mul_pos_left (by linarith) (hpos e).le
      exact decide_eq_false (not_lt.mpr (by exact_mod_cast hlt.le))
  rw [hsign, Fmt.round_keeps rm x.msb hkeeps hmax (by omega) habs, ← hbits]

/-- A sum of products whose exact number is that of a word gives the word. -/
theorem fp32_sumProducts_word (rm : RM) {terms : List (List FVal)} (hfin : ∀ t ∈ terms, ∀ y ∈ t, y.isFin = true) {x : Word}
    (hx : finite32 x) (h : (terms.map fun t => (t.map FVal.value).prod).sum = number32 x) : (fp32.sumProducts rm false terms).isWord x := by
  obtain ⟨n, e, neg, hn, hsum⟩ := fp32.sumProducts_finite rm false hfin
  rw [hsum]
  by_cases h0 : n = 0
  · rw [if_pos h0]
    refine .inr ⟨(number32_eq_zero hx).mp ?_, neg, rfl⟩
    rw [← h, ← hn, h0]
    simp
  · rw [if_neg h0, fp32_round_word rm hx h0 (hn.trans h)]
    exact .inl rfl

/-- A finite word converts to itself. -/
theorem fp32_convert_word (rm : RM) {x : Word} (hx : finite32 x) : fp32.convert rm (fp32.decode x.toNat) = { bits := x.toNat } := by
  obtain ⟨k, g, hdec, hkeeps, hmax, hbits, hzero⟩ := fp32_decode_finite hx
  rw [hdec, Fmt.convert]
  by_cases hk : k = 0
  · have hg : g = fp32.emin := hkeeps.2.2.resolve_right (by simp [hk])
    have hsign : x.toNat = fp32.signBit x.msb := by simpa [hk, hg] using hbits
    rw [if_pos hk, hsign]
    rfl
  · rw [if_neg hk, Fmt.round_keeps rm x.msb hkeeps hmax hk rfl, ← hbits]

end Sys2Proof.Machine
end

section
/-! SUPPORT. What the moment instructions compute in a lane (R158, R161 to R170), and where no lane meets NEGVAR. -/

namespace Sys2Proof.Machine

open Sys2Proof.Safety Sys2Proof.Claims

/-! ### The functions of a lane -/

/-- The exact terms of a mean and of a variance, from the sources and the covariance (R161 to R165). -/
abbrev PairTerms : Type := List MVal → Option (List FVal) → List (List FVal) × List (List FVal)

/-- MADD, MSUB, MMUL and MFMA in a lane, by their exact terms (R161 to R165). -/
def arithLane (f : Fields) (srcs : Nat) (terms : PairTerms) (s : State) (e : Env) (l : Nat) : MOut :=
  let tag := momentTag f
  let md := e.modes f.mod.toNat
  let fm := halfFmt tag
  let ins := ([f.a.toNat, f.b.toNat, f.c.toNat].take srcs).map (fun r => e.momentIn md tag r l)
  let flags := ins.foldl (fun a x => a ||| x.flags) 0
  let neg := ins.any (·.neg)
  match e.correlation s md l with
  | some .nan => { pair := pairOfHalves tag fm.nan fm.nan, flags := flags ||| flagInv, neg }
  | rho =>
    match ins with
    | a :: b :: _ =>
      let (tm, tv) := terms ins (covariance rho a b)
      momentOut e.cl.clamp md tag (fm.sumProducts md.rm false tm) (fm.sumProducts md.rm false tv) flags neg
    | _ => { pair := 0, flags, neg }

def sumOfPairs (sub : Bool) : PairTerms
  | [a, b], k => sumTerms sub a b k
  | _, _ => ([], [])

def productOfPairs : PairTerms
  | [a, b], k => productTerms a b k
  | _, _ => ([], [])

def fusedOfPairs : PairTerms
  | [a, b, c], k => ((productTerms a b k).1 ++ [[c.mu]], (productTerms a b k).2 ++ [[c.v]])
  | _, _ => ([], [])

/-- MSCL in a lane (R163). -/
def scaleLane (f : Fields) (s : State) (e : Env) (l : Nat) : MOut :=
  let md := e.modes f.mod.toNat
  let fm := halfFmt (momentTag f)
  let a := e.momentIn md (momentTag f) f.a.toNat l
  let c := fp32.read md (e.source s (floatSrc f 2 2 2) l)
  momentOut e.cl.clamp md (momentTag f) (fm.sumProducts md.rm false [[a.mu, c]]) (fm.sumProducts md.rm false [[a.v, c, c]]) a.flags a.neg

/-- MSET in a lane (R168). -/
def setLane (f : Fields) (s : State) (e : Env) (l : Nat) : MOut :=
  let md := e.modes f.mod.toNat
  let fm := halfFmt (momentTag f)
  momentOut e.cl.clamp md (momentTag f) (fm.convert md.rm (fp32.read md (e.source s (floatSrc f 2 1 2) l)))
    (fm.convert md.rm (fp32.read md (e.source s (floatSrc f 2 2 2) l))) 0 false

/-- MRELU, MSIGM and MEXP in a lane (R166). -/
def nonlinearLane (op : Nat) (f : Fields) (_ : State) (e : Env) (l : Nat) : MOut :=
  let tag := momentTag f
  let fm := halfFmt tag
  let a := e.momentIn {} tag f.a.toNat l
  let nan : DWord := pairOfHalves tag fm.nan fm.nan
  if a.mu.isNan || a.v.isNan then { pair := nan, flags := a.flags, neg := a.neg }
  else if a.v.isInf ∧ !a.neg then { pair := nan, flags := a.flags ||| flagInv, neg := a.neg }
  else
    let wide (x : FVal) : Nat := (fp32.convert .rne x).bits
    let (m, v, flags) := nonlinear op a.mu a.v (wide a.mu) (wide a.v)
    let narrow (r : FRes) : FRes :=
      if tag = 16 then
        let n := fm.convert .rne (fp32.decode r.bits)
        { n with flags := n.flags ||| r.flags }
      else r
    momentOut true {} tag (narrow m) (narrow v) (flags ||| a.flags) a.neg

/-- The value that MCOLL takes from a pair, by its mode (R169). -/
def collected (f : Fields) (s : State) (e : Env) (l : Nat) (a : MVal) : FRes :=
  let md := e.modes (f.mod.toNat % 8)
  match f.mod.toNat / 8 with
  | 0 => fp32.convert md.rm a.mu
  | 1 => fp32.convert md.rm a.v
  | 2 => if a.neg then { bits := 0 } else fp32.sqrt md.rm a.v
  | mode =>
    let k := fp32.read md (e.source s { floatSrc f 2 2 2 with low := mode = 3 } (if mode = 3 then e.low else l))
    let sd := if a.neg then { bits := 0 } else fp32.sqrt .rne a.v
    fp32.sumProducts md.rm false [[a.mu], [k, fp32.decode sd.bits]]

/-- MCOLL in a lane (R169). -/
def collectLane (f : Fields) (s : State) (e : Env) (l : Nat) : MOut :=
  let md := e.modes (f.mod.toNat % 8)
  let a := e.momentIn md (momentTag f) f.a.toNat l
  let r := fp32.flushOut md (collected f s e l a)
  { pair := BitVec.ofNat 64 r.bits, flags := r.flags ||| a.flags, neg := a.neg }

/-- MCVT in a lane (R170). -/
def convertLane (f : Fields) (_ : State) (e : Env) (l : Nat) : MOut :=
  let tag := momentTag f
  let md := e.modes f.mod.toNat
  let fm := halfFmt tag
  let a := e.momentIn md (if tag = 16 then 15 else 16) f.a.toNat l
  momentOut e.cl.clamp md tag (fm.convert md.rm a.mu) (fm.convert md.rm a.v) a.flags a.neg

/-- What each moment instruction computes in a lane. -/
def momentLane : Instr → State → Env → Nat → MOut
  | .madd f => arithLane f 2 (sumOfPairs false)
  | .msub f => arithLane f 2 (sumOfPairs true)
  | .mmul f => arithLane f 2 productOfPairs
  | .mfma f => arithLane f 3 fusedOfPairs
  | .mscl f => scaleLane f
  | .mset f => setLane f
  | .mrelu f => nonlinearLane 0x65 f
  | .msigm f => nonlinearLane 0x66 f
  | .mexp f => nonlinearLane 0x67 f
  | .mcoll f => collectLane f
  | .mcvt f => convertLane f
  | _ => fun _ _ _ => { pair := 0, flags := 0, neg := false }

/-- The ordinary sources that a moment instruction reads; the factor of UPPER is read in the lowest active lane alone (R169). -/
def momentSrcs : Instr → List Src
  | .mscl f => [floatSrc f 2 2 2]
  | .mset f => [floatSrc f 2 1 2, floatSrc f 2 2 2]
  | .mcoll f => if f.mod.toNat / 8 = 3 ∨ f.mod.toNat / 8 = 4 then [{ floatSrc f 2 2 2 with low := f.mod.toNat / 8 = 3 }] else []
  | _ => []

/-- MCOLL is a run of its function, mode by mode. -/
theorem exec_mcoll (f : Fields) (s : State) : exec (.mcoll f) s = runMoment 0x69 f false (some (momentTag f)) (fun _ => 2)
    (.ordinary f.d.toNat) (momentSrcs (.mcoll f)) (collectLane f) s := by
  show execMcoll f s = _
  unfold execMcoll
  simp only [momentSrcs]
  unfold collectLane collected
  generalize f.mod.toNat / 8 = mode
  match mode with
  | 0 | 1 | 2 | _ + 3 => rfl

/-- Every moment instruction is a run of its function. -/
theorem exec_moment {i : Instr} {m : MomentForm} (hi : momentForm i = some m) (s : State) :
    exec i s = runMoment m.op m.f m.rho m.srcTag (fun _ => m.tag) m.dst (momentSrcs i) (momentLane i) s := by
  cases i with
  | madd _ | msub _ | mmul _ | mfma _ | mscl _ | mset _ | mrelu _ | msigm _ | mexp _ | mcvt _ =>
    obtain rfl := Option.some.inj hi
    rfl
  | mcoll f =>
    obtain rfl := Option.some.inj hi
    exact exec_mcoll f s
  | _ => exact absurd hi nofun

theorem momentForm_tag {i : Instr} {m : MomentForm} (hi : momentForm i = some m) : m.tag < 32 := by
  have htag (f : Fields) : momentTag f < 32 := by
    unfold momentTag
    split <;> decide
  cases i with
  | madd f | msub f | mmul f | mfma f | mscl f | mset f | mrelu f | msigm f | mexp f | mcvt f =>
    obtain rfl := Option.some.inj hi
    exact htag f
  | mcoll f =>
    obtain rfl := Option.some.inj hi
    exact (by decide : 2 < 32)
  | _ => exact absurd hi nofun

/-- A source that is read in the lowest lane alone meets poison only where one read in every active lane does. -/
theorem poisonIn_low {e : Env} {x : Src} (low : Bool) (h : e.poisonIn x (e.readLanes x) = false) (hx : x.low = false) :
    e.poisonIn { x with low } (e.readLanes { x with low }) = false := by
  have hsub : ∀ k ∈ e.readLanes { x with low }, k ∈ e.readLanes x := by
    intro k hk
    obtain ⟨l, hl, hk⟩ := List.mem_filterMap.mp hk
    obtain ⟨hactive, hreads⟩ := List.mem_filter.mp hl
    refine List.mem_filterMap.mpr ⟨l, List.mem_filter.mpr ⟨hactive, ?_⟩, hk⟩
    simp only [Bool.and_eq_true, hx, Bool.not_false, Bool.true_or, true_and] at hreads ⊢
    exact hreads.2
  unfold Env.poisonIn at h ⊢
  rw [Bool.and_eq_false_iff] at h ⊢
  refine h.imp id fun hlanes => List.any_eq_false.mpr fun k hk => ?_
  exact List.any_eq_false.mp hlanes k (hsub k hk)

/-- What the form of an instruction says of its ordinary sources holds of the ones that it reads. -/
theorem momentSrcs_pass {s : State} {e : Env} {i : Instr} {m : MomentForm} (hi : momentForm i = some m) (h : momentReady s e m) :
    ∀ x ∈ momentSrcs i, e.srcFails x = false ∧ e.poisonIn x (e.readLanes x) = false := by
  obtain ⟨-, -, -, -, -, -, -, hpass⟩ := h
  have hsrcs : ∀ x ∈ m.srcs, e.srcFails x = false ∧ e.poisonIn x (e.readLanes x) = false :=
    fun x hx => hpass x (List.mem_append_left _ hx)
  cases i with
  | mscl f | mset f =>
    obtain rfl := Option.some.inj hi
    exact hsrcs
  | mcoll f =>
    obtain rfl := Option.some.inj hi
    intro x hx
    simp only [momentSrcs] at hx
    split_ifs at hx with hmode
    · obtain rfl := List.mem_singleton.mp hx
      obtain ⟨hfails, hpoison⟩ := hsrcs (floatSrc f 2 2 2) (by simp [hmode])
      exact ⟨hfails, poisonIn_low _ hpoison rfl⟩
    · cases hx
  | _ => exact fun x hx => absurd hx List.not_mem_nil

/-! ### NEGVAR and mcr.CLAMP (R158) -/

theorem readVariance_clamped (x : FVal) : (readVariance true x).2.2 = false := by
  unfold readVariance
  simp only [if_true]
  split_ifs <;> rfl

theorem momentOut_neg (md : Modes) (tag : Nat) (mean var : FRes) (flags : Word) (neg : Bool) :
    (momentOut true md tag mean var flags neg).neg = neg := by
  unfold momentOut
  dsimp only
  split_ifs <;> simp

theorem collectLane_neg (f : Fields) (s : State) (e : Env) (l : Nat) :
    (collectLane f s e l).neg = (e.momentIn (e.modes (f.mod.toNat % 8)) (momentTag f) f.a.toNat l).neg := by
  unfold collectLane
  rfl

section
variable {e : Env} (hclamp : e.cl.clamp = true)
include hclamp

theorem Env.momentIn_neg (md : Modes) (tag reg l : Nat) : (e.momentIn md tag reg l).neg = false := by
  unfold Env.momentIn
  rw [hclamp]
  exact readVariance_clamped _

theorem arithLane_neg (f : Fields) (srcs : Nat) (terms : PairTerms) (s : State) (l : Nat) :
    (arithLane f srcs terms s e l).neg = false := by
  have hins : (([f.a.toNat, f.b.toNat, f.c.toNat].take srcs).map
      fun r => e.momentIn (e.modes f.mod.toNat) (momentTag f) r l).any (·.neg) = false := by
    rw [List.any_eq_false]
    intro x hx
    obtain ⟨r, -, rfl⟩ := List.mem_map.mp hx
    simp [Env.momentIn_neg hclamp]
  unfold arithLane
  rw [hclamp]
  dsimp only
  rw [hins]
  split
  · rfl
  · split
    · rw [momentOut_neg]
    · rfl

theorem nonlinearLane_neg (op : Nat) (f : Fields) (s : State) (l : Nat) : (nonlinearLane op f s e l).neg = false := by
  unfold nonlinearLane
  dsimp only
  split_ifs
  · exact Env.momentIn_neg hclamp ..
  · exact Env.momentIn_neg hclamp ..
  · rw [momentOut_neg, Env.momentIn_neg hclamp]
  · rw [momentOut_neg, Env.momentIn_neg hclamp]

/-- Under mcr.CLAMP no lane meets NEGVAR. -/
theorem momentLane_neg (i : Instr) (s : State) (l : Nat) : (momentLane i s e l).neg = false := by
  cases i with
  | madd f => exact arithLane_neg hclamp f 2 (sumOfPairs false) s l
  | msub f => exact arithLane_neg hclamp f 2 (sumOfPairs true) s l
  | mmul f => exact arithLane_neg hclamp f 2 productOfPairs s l
  | mfma f => exact arithLane_neg hclamp f 3 fusedOfPairs s l
  | mscl f =>
    rw [momentLane, scaleLane, hclamp]
    exact (momentOut_neg ..).trans (Env.momentIn_neg hclamp ..)
  | mset f =>
    rw [momentLane, setLane, hclamp]
    exact momentOut_neg ..
  | mcvt f =>
    rw [momentLane, convertLane, hclamp]
    exact (momentOut_neg ..).trans (Env.momentIn_neg hclamp ..)
  | mrelu f => exact nonlinearLane_neg hclamp 0x65 f s l
  | msigm f => exact nonlinearLane_neg hclamp 0x66 f s l
  | mexp f => exact nonlinearLane_neg hclamp 0x67 f s l
  | mcoll f => exact (collectLane_neg f s e l).trans (Env.momentIn_neg hclamp ..)
  | _ => rfl

end

/-! ### Instructions that complete (R156 to R158) -/

section
variable {s : State} {e : Env} {m : MomentForm} (h : momentReady s e m)
include h

/-- A moment instruction completes where no active lane meets NEGVAR, with the pairs that its lanes compute. -/
theorem runMoment_completes {srcs : List Src} (hsrcs : ∀ x ∈ srcs, e.srcFails x = false ∧ e.poisonIn x (e.readLanes x) = false)
    {tag : Env → Nat} (htag : tag e = m.tag) (htag' : m.tag < 32) {g : State → Env → Nat → MOut}
    (hneg : ∀ l, inMask e.mask l = true → (g s e l).neg = false) :
    ∃ t c, runMoment m.op m.f m.rho m.srcTag tag m.dst srcs g s = .next t ∧ t.at? e.who = some c ∧ momentDone s t e m c
      ∧ momentBrings s t e m.dst (fun l => (g s e l).pair) c := by
  obtain ⟨⟨-, he⟩, hm, -⟩ := id h
  obtain ⟨c, hat, hdone, hbrings⟩ := momentResult_completes m (g s e) _ hm he htag'
  refine ⟨_, c, (runMoment_eq h hsrcs tag g).trans ?_, hat, hdone, hbrings⟩
  rw [negvarLanes_eq_zero hneg, if_neg (by simp), htag]

theorem exec_moment_completes {i : Instr} (hi : momentForm i = some m)
    (hneg : ∀ l, inMask e.mask l = true → (momentLane i s e l).neg = false) :
    ∃ t c, exec i s = .next t ∧ t.at? e.who = some c ∧ momentDone s t e m c
      ∧ momentBrings s t e m.dst (fun l => (momentLane i s e l).pair) c := by
  rw [exec_moment hi]
  exact runMoment_completes h (momentSrcs_pass hi h) rfl (momentForm_tag hi) hneg

end

theorem momentInstructionsComplete_holds : Claims.momentInstructionsComplete := by
  intro s e i m hi _ h
  have hcompletes (hneg : ∀ l, inMask e.mask l = true → (momentLane i s e l).neg = false) :
      ∃ t c, exec i s = .next t ∧ t.at? e.who = some c ∧ momentDone s t e m c := by
    obtain ⟨t, c, hexec, hat, hdone, -⟩ := exec_moment_completes h hi hneg
    exact ⟨t, c, hexec, hat, hdone⟩
  refine ⟨fun hclamp => hcompletes fun l _ => momentLane_neg hclamp i s l, ?_⟩
  by_cases hneg : negvarLanes e (momentLane i s e) = 0
  · refine .inl (hcompletes fun l hl => ?_)
    have hbit := inMask_negvarLanes e (momentLane i s e) l
    rw [hneg, hl, Bool.true_and] at hbit
    simpa [inMask] using hbit.symm
  · refine .inr ⟨_, hneg, negvarLanes_active e _, ?_⟩
    rw [exec_moment hi, runMoment_eq h (momentSrcs_pass hi h), if_pos hneg]

/-! ### MMOV (R170) -/

theorem momentReads_mmov (f : Fields) : momentReads 0x6C f = [f.a.toNat] := by
  simp [momentReads, readsOf, shape, momentShapes, Shape.base, Shape.classes, Fields.fes, namedBy, Cls.count]

theorem momentMove_holds : Claims.momentMove := by
  intro s e f _ hissue hpoison
  obtain ⟨hr, hm, hheld, hready⟩ := hissue
  let m : MomentForm := { op := 0x6C, f, tag := e.cl.momentTag f.a.toNat, dst := .moment f.d.toNat }
  have h : momentReady s e m := by
    refine ⟨hr, hm, hheld, nofun, ?_, nofun, ?_, ?_⟩
    · simpa [m] using hready
    · intro reg hreg
      rw [momentReads_mmov, List.mem_singleton] at hreg
      rw [hreg, hpoison]
    · simp [m]
  obtain ⟨t, c, hexec, hat, hdone, hbrings⟩ := runMoment_completes (srcs := []) (tag := fun e => e.cl.momentTag f.a.toNat)
    (g := fun _ e l => { pair := e.cl.moment f.a.toNat l, flags := 0, neg := false }) h (by simp) rfl (BitVec.isLt _) fun _ _ => rfl
  exact ⟨t, c, hexec, hat, hdone, fun l _ hl => hbrings l hl⟩

end Sys2Proof.Machine
end

section
/-! SUPPORT. MP32 pairs as two FP32 words: what the moment instructions make of words that stand (R42, R158, R161 to R169). What
settles O14. -/

namespace Sys2Proof.Machine

open Sys2Proof.Safety Sys2Proof.Claims

/-! ### Pairs (R42) -/

/-- The mean and the variance of an MP32 pair, as words. -/
def meanWord (p : DWord) : Word := p.setWidth 32
def varianceWord (p : DWord) : Word := (p >>> 32).setWidth 32

theorem append_words (p : DWord) : varianceWord p ++ meanWord p = p := by
  unfold varianceWord meanWord
  ext i hi
  rw [← BitVec.getLsbD_eq_getElem, ← BitVec.getLsbD_eq_getElem, BitVec.getLsbD_append]
  by_cases h : i < 32
  · simp [h]
  · simp [h, show i - 32 < 32 by omega, show 32 + (i - 32) = i by omega]

theorem pairOfHalves_words (mean variance : Word) : pairOfHalves 15 mean.toNat variance.toNat = variance ++ mean := by
  have hmean := mean.isLt
  have hvariance := variance.isLt
  refine BitVec.eq_of_toNat_eq ?_
  rw [BitVec.toNat_append, ← Nat.shiftLeft_add_eq_or_of_lt hmean, Nat.shiftLeft_eq, pairOfHalves, if_neg (by decide),
    BitVec.toNat_ofNat, Nat.mod_eq_of_lt (by omega)]
  omega

theorem halves_words (p : DWord) : halves 15 p = ((meanWord p).toNat, (varianceWord p).toNat) := by
  have hp := p.isLt
  simp [halves, meanWord, varianceWord, Nat.shiftRight_eq_div_pow]
  omega

/-- A pair holds a finite mean and a finite variance that is not below zero. -/
def standing (mean variance : Word) : Prop := finite32 mean ∧ finite32 variance ∧ variance.msb = false

theorem finite32_zero : finite32 0 := by
  unfold finite32
  decide

theorem standing_zero : standing 0 0 := ⟨finite32_zero, finite32_zero, rfl⟩

theorem toNat_of_zero {x : Word} (hmsb : x.msb = false) (h : x.toNat % 2 ^ 31 = 0) : x.toNat = 0 := by
  have hlt := x.isLt
  rw [BitVec.msb_eq_decide] at hmsb
  have hsmall : ¬ 2 ^ (32 - 1) ≤ x.toNat := of_decide_eq_false hmsb
  omega

/-! ### What is read (R45, R156, R158) -/

theorem fp32_read_word {md : Modes} (hfi : md.fi = false) (x : Word) : fp32.read md x.toNat = fp32.decode x.toNat :=
  fp32_read_unflushed x md (by rw [hfi]; rfl)

/-- The variance of a pair as it is read: +0 for a zero. -/
def varianceRead (x : Word) : FVal := if x.toNat = 0 then .fin false 0 0 else fp32.decode x.toNat

theorem readVariance_word (clamp : Bool) {x : Word} (hx : finite32 x) (hmsb : x.msb = false) :
    readVariance clamp (fp32.decode x.toNat) = (varianceRead x, 0, false) := by
  obtain ⟨k, g, hdec, -, -, -, hzero⟩ := fp32_decode_finite hx
  unfold readVariance varianceRead FVal.below
  rw [hdec, hmsb]
  by_cases hk : k = 0
  · rw [if_pos (by simp [hk]), if_pos (toNat_of_zero hmsb (hzero.mp hk))]
  · have hne : x.toNat ≠ 0 := fun h => hk (hzero.mpr (by simp [h]))
    simp [hk, hne]

theorem varianceRead_value {x : Word} (hx : finite32 x) : (varianceRead x).isFin = true ∧ (varianceRead x).value = number32 x := by
  unfold varianceRead
  split
  · rename_i h
    exact ⟨rfl, by rw [FVal.value_zero, eq_comm, number32_eq_zero hx, h, Nat.zero_mod]⟩
  · exact ⟨isFin_decode hx, rfl⟩

/-- What a moment source of MP32 reads in a lane whose pair stands. -/
theorem Env.momentIn_words {e : Env} {md : Modes} (hfi : md.fi = false) {reg l : Nat} {p : DWord} (hp : e.cl.moment reg l = p)
    (h : standing (meanWord p) (varianceWord p)) : e.momentIn md 15 reg l
      = { mu := fp32.decode (meanWord p).toNat, v := varianceRead (varianceWord p), flags := 0, neg := false } := by
  obtain ⟨-, hvariance, hmsb⟩ := h
  unfold Env.momentIn
  rw [hp, halves_words]
  simp only [show halfFmt 15 = fp32 from rfl, fp32_read_word hfi, readVariance_word _ hvariance hmsb]

/-! ### What is written (R156, R158) -/

/-- A word that is not below zero reads as a value that is not. -/
theorem not_below_decode {x : Word} (h : finite32 x) (hmsb : x.msb = false) : (fp32.decode x.toNat).below = false := by
  obtain ⟨k, g, hdec, -⟩ := fp32_decode_finite h
  rw [hdec, hmsb]
  rfl

theorem isZero_decode {x : Word} (h : finite32 x) : (fp32.decode x.toNat).isZero = decide (x.toNat % 2 ^ 31 = 0) := by
  obtain ⟨k, g, hdec, -, -, -, hzero⟩ := fp32_decode_finite h
  rw [hdec, FVal.isZero_fin]
  exact decide_eq_decide.mpr hzero

theorem decode_signBit (neg : Bool) : fp32.decode (fp32.signBit neg) = .fin neg 0 fp32.emin := by cases neg <;> decide

theorem fp32_flushOut_off {md : Modes} (hfo : md.fo = false) (r : FRes) : fp32.flushOut md r = r := by
  simp [Fmt.flushOut, Fmt.flush, hfo]

/-- Halves that are words as they stand make the pair of the words. -/
theorem momentOut_words {clamp : Bool} {md : Modes} (hfo : md.fo = false) {mean variance : FRes} {m v : Word}
    (h : standing m v) (hm : mean.bits = m.toNat) (hv : variance.isWord v) (flags : Word) :
    (momentOut clamp md 15 mean variance flags false).pair = v ++ m
      ∧ (momentOut clamp md 15 mean variance flags false).neg = false := by
  obtain ⟨hmean, hvariance, hmsb⟩ := h
  have hnan : (fp32.decode m.toNat).isNan = false := FVal.isNan_of_isFin (isFin_decode hmean)
  unfold momentOut
  simp only [show halfFmt 15 = fp32 from rfl, fp32_flushOut_off hfo, hm, hnan]
  by_cases hzero : v.toNat % 2 ^ 31 = 0
  · have hv0 := toNat_of_zero hmsb hzero
    obtain ⟨neg, hbits⟩ : ∃ neg, variance.bits = fp32.signBit neg := by
      rcases hv with hv | ⟨-, hv⟩
      · exact ⟨false, hv.trans hv0⟩
      · exact hv
    have hpair := pairOfHalves_words m v
    rw [hv0] at hpair
    simp [hbits, decode_signBit, FVal.below, hpair]
  · have hnonzero : (fp32.decode v.toNat).isZero = false := by rw [isZero_decode hvariance, decide_eq_false hzero]
    simp [FRes.isWord_bits hv hzero, FVal.isNan_of_isFin (isFin_decode hvariance), hnonzero, not_below_decode hvariance hmsb,
      pairOfHalves_words]

/-! ### MSET and MCOLL (R168, R169) -/

theorem momentTag_mp32 {f : Fields} (h : f.tg ≠ 16) : momentTag f = 15 := if_neg h

/-- A source reads as the FP32 word that it is in its low bits. -/
theorem fp32_read_ofNat {md : Modes} (hfi : md.fi = false) (n : Nat) :
    fp32.read md n = fp32.decode (BitVec.ofNat 32 n).toNat := by
  rw [← fp32_read_word hfi, BitVec.toNat_ofNat, Fmt.read, Fmt.read]
  exact congrArg (fun k => fp32.decode (fp32.flush md.fi k)) (Nat.mod_mod n (2 ^ 32)).symm

theorem fp32_convert_varianceRead (rm : RM) {x : Word} (hx : finite32 x) : fp32.convert rm (varianceRead x) = { bits := x.toNat } := by
  unfold varianceRead
  split
  · rename_i h
    rw [h]
    rfl
  · exact fp32_convert_word rm hx

theorem setWidth_ofNat_word (x : Word) : (BitVec.ofNat 64 x.toNat).setWidth 32 = x := by simp

section
variable {s : State} {e : Env} {f : Fields} {l : Nat} (htg : f.tg ≠ 16) (hfi : (e.modes f.mod.toNat).fi = false)
  (hfo : (e.modes f.mod.toNat).fo = false)

include htg hfi hfo in
/-- MSET of two words that stand makes their pair (R168). -/
theorem setLane_words {m v : Word} (hm : BitVec.ofNat 32 (e.source s (floatSrc f 2 1 2) l) = m)
    (hv : BitVec.ofNat 32 (e.source s (floatSrc f 2 2 2) l) = v) (h : standing m v) :
    (setLane f s e l).pair = v ++ m ∧ (setLane f s e l).neg = false := by
  have hword (x : Word) (hx : finite32 x) := fp32_convert_word (e.modes f.mod.toNat).rm hx
  unfold setLane
  simp only [momentTag_mp32 htg, show halfFmt 15 = fp32 from rfl, fp32_read_ofNat hfi, hm, hv, hword m h.1, hword v h.2.1]
  exact momentOut_words hfo h rfl (.inl rfl) _

include htg in
/-- MCOLL of the mean or of the variance gives the half as it stands (R169). -/
theorem collectLane_words {p : DWord} (hp : e.cl.moment f.a.toNat l = p) (h : standing (meanWord p) (varianceWord p))
    (hmode : f.mod.toNat / 8 < 2) (hfi : (e.modes (f.mod.toNat % 8)).fi = false) (hfo : (e.modes (f.mod.toNat % 8)).fo = false) :
    (collectLane f s e l).pair.setWidth 32 = (p >>> (32 * (f.mod.toNat / 8))).setWidth 32 ∧ (collectLane f s e l).neg = false := by
  have hin := Env.momentIn_words hfi hp h
  refine ⟨?_, by rw [collectLane_neg, momentTag_mp32 htg, hin]⟩
  unfold collectLane
  simp only [momentTag_mp32 htg, hin, fp32_flushOut_off hfo]
  unfold collected
  generalize f.mod.toNat / 8 = mode at hmode ⊢
  match mode, hmode with
  | 0, _ =>
    show (BitVec.ofNat 64 (fp32.convert _ (fp32.decode (meanWord p).toNat)).bits).setWidth 32 = _
    rw [fp32_convert_word _ h.1, setWidth_ofNat_word, meanWord, Nat.mul_zero, BitVec.ushiftRight_zero]
  | 1, _ =>
    show (BitVec.ofNat 64 (fp32.convert _ (varianceRead (varianceWord p))).bits).setWidth 32 = _
    rw [fp32_convert_varianceRead _ h.2.1, setWidth_ofNat_word, varianceWord, Nat.mul_one]

end

theorem momentWords_holds : Claims.momentWords := by
  intro s e f m htg hfi hfo w old half
  refine ⟨fun hi _ h hwords => ?_, fun hi _ h hmode hfi' hfo' hwords => ?_⟩
  · have hlane (l : Nat) (hl : inMask e.mask l = true) :
        (setLane f s e l).pair = w 2 l ++ w 1 l ∧ (setLane f s e l).neg = false := by
      obtain ⟨h1, h2, hmsb⟩ := hwords l (lt_of_inMask hl) hl
      exact setLane_words htg hfi hfo rfl rfl ⟨h1, h2, hmsb⟩
    obtain ⟨t, c, hexec, hat, hdone, hbrings⟩ := exec_moment_completes h hi fun l hl => (hlane l hl).2
    obtain rfl := Option.some.inj hi
    exact ⟨t, c, hexec, hat, hdone, fun l _ hl => (hbrings l hl).trans (hlane l hl).1⟩
  · have hlane (l : Nat) (hl : inMask e.mask l = true) :
        (collectLane f s e l).pair.setWidth 32 = half (f.mod.toNat / 8) l ∧ (collectLane f s e l).neg = false := by
      obtain ⟨h1, h2, hmsb⟩ := hwords l (lt_of_inMask hl) hl
      exact collectLane_words htg rfl ⟨h1, h2, hmsb⟩ hmode hfi' hfo'
    obtain ⟨t, c, hexec, hat, hdone, hbrings⟩ := exec_moment_completes h hi fun l hl => (hlane l hl).2
    obtain rfl := Option.some.inj hi
    exact ⟨t, c, fun _ l => (collectLane f s e l).pair.setWidth 32, hexec, hat, hdone, hbrings, fun l _ hl => (hlane l hl).1⟩

/-! ### Neutral operands (R161 to R165) -/

/-- Terms of finite values whose exact sum of products is a number. -/
def sumsTo (terms : List (List FVal)) (q : ℚ) : Prop :=
  (∀ t ∈ terms, ∀ x ∈ t, x.isFin = true) ∧ (terms.map fun t => (t.map FVal.value).prod).sum = q

/-- The values of a source are finite, and these numbers. -/
def MVal.numbers (a : MVal) (mean variance : ℚ) : Prop :=
  (a.mu.isFin = true ∧ a.mu.value = mean) ∧ a.v.isFin = true ∧ a.v.value = variance

/-- A cross term is left out, or is zero. -/
def crossless (k : Option (List FVal)) : Prop := k = none ∨ ∃ x y, k = some [x, y] ∧ x.isFin = true ∧ y.isFin = true ∧ y.value = 0

@[simp] theorem FVal.isFin_neg (x : FVal) : x.neg.isFin = x.isFin := by cases x <;> rfl

@[simp] theorem FVal.value_neg (x : FVal) : x.neg.value = -x.value := by
  cases x with
  | nan | inf _ => simp [FVal.neg, FVal.value]
  | fin s m e => cases s <;> simp [FVal.neg, FVal.value]

theorem fTwo_isFin : fTwo.isFin = true := rfl

section
variable {a b c : MVal} {mean variance : ℚ} {k : Option (List FVal)} (ha : a.numbers mean variance) (hk : crossless k)
include ha hk

/-- A sum or a difference with (+0, +0) has the numbers of the other operand (R162). -/
theorem sumTerms_neutral (sub : Bool) (hb : b.numbers 0 0) :
    sumsTo (sumTerms sub a b k).1 mean ∧ sumsTo (sumTerms sub a b k).2 variance := by
  obtain ⟨⟨ham, rfl⟩, hav, rfl⟩ := ha
  obtain ⟨⟨hbm, hbm0⟩, hbv, hbv0⟩ := hb
  rcases hk with rfl | ⟨x, y, rfl, hx, hy, hy0⟩
  · cases sub <;> simp [sumsTo, sumTerms, ham, hav, hbm, hbm0, hbv, hbv0]
  · cases sub <;> simp [sumsTo, sumTerms, ham, hav, hbm, hbm0, hbv, hbv0, fTwo_isFin, hx, hy, hy0]

/-- A product with (1, +0) has the numbers of the other operand (R164). -/
theorem productTerms_neutral (hb : b.numbers 1 0) :
    sumsTo (productTerms a b k).1 mean ∧ sumsTo (productTerms a b k).2 variance := by
  obtain ⟨⟨ham, rfl⟩, hav, rfl⟩ := ha
  obtain ⟨⟨hbm, hbm1⟩, hbv, hbv0⟩ := hb
  rcases hk with rfl | ⟨x, y, rfl, hx, hy, hy0⟩
  · simp [sumsTo, productTerms, ham, hav, hbm, hbm1, hbv, hbv0]
  · simp [sumsTo, productTerms, ham, hav, hbm, hbm1, hbv, hbv0, fTwo_isFin, hx, hy, hy0]

end

theorem sumsTo_snoc {terms : List (List FVal)} {q : ℚ} (h : sumsTo terms q) {x : FVal} (hx : x.isFin = true) (hx0 : x.value = 0) :
    sumsTo (terms ++ [[x]]) q := by
  obtain ⟨hfin, rfl⟩ := h
  refine ⟨fun t ht => ?_, by simp [hx0]⟩
  rcases List.mem_append.mp ht with ht | ht
  · exact hfin t ht
  · simpa [List.mem_singleton.mp ht] using hx

theorem FVal.isZero_of_value {x : FVal} (h : x.isFin = true) (h0 : x.value = 0) : x.isZero = true := by
  obtain ⟨s, m, e, rfl⟩ := FVal.eq_fin h
  rw [FVal.value_fin] at h0
  cases s <;> simpa [zpow_ne_zero] using h0

/-- Where no register gives the correlation it is omitted, 1 or -1 (R161). -/
theorem Env.correlation_fixed {e : Env} (hcov : e.cl.cov ≠ 3) (s : State) (md : Modes) (l : Nat) :
    e.correlation s md l = none ∨ ∃ neg, e.correlation s md l = some (.fin neg 1 0) := by
  have hlt : e.cl.cov < 4 := Nat.mod_lt _ (by decide)
  unfold Env.correlation
  generalize e.cl.cov = cov at hcov hlt ⊢
  interval_cases cov
  · exact .inl rfl
  · exact .inr ⟨false, rfl⟩
  · exact .inr ⟨true, rfl⟩
  · exact absurd rfl hcov

theorem covariance_crossless {rho : Option FVal} (hrho : rho = none ∨ ∃ neg, rho = some (.fin neg 1 0)) (a : MVal) {b : MVal}
    (hb : b.v.isFin = true) (hb0 : b.v.value = 0) : crossless (covariance rho a b) := by
  rcases hrho with rfl | ⟨neg, rfl⟩
  · exact .inl rfl
  · refine .inr ⟨_, _, rfl, rfl, ?_⟩
    simp [devProduct, FVal.isZero_of_value hb hb0]

/-- What a source whose pair stands reads, as numbers. -/
theorem Env.momentIn_numbers {e : Env} {md : Modes} (hfi : md.fi = false) {reg l : Nat} {p : DWord} (hp : e.cl.moment reg l = p)
    (h : standing (meanWord p) (varianceWord p)) :
    (e.momentIn md 15 reg l).numbers (number32 (meanWord p)) (number32 (varianceWord p)) ∧ (e.momentIn md 15 reg l).neg = false := by
  rw [Env.momentIn_words hfi hp h]
  exact ⟨⟨⟨isFin_decode h.1, rfl⟩, varianceRead_value h.2.1⟩, rfl⟩

/-- The value one, as its FP32 word reads. -/
def fOne : FVal := .fin false (2 ^ 23) (-23)

theorem fp32_decode_one : fp32.decode (0x3F800000 : Word).toNat = fOne := by decide

theorem fOne_isFin : fOne.isFin = true := rfl

theorem fOne_value : fOne.value = 1 := by
  rw [fOne, FVal.value_fin]
  norm_num

/-- The pairs (+0, +0) and (1, +0) as they are read. -/
theorem Env.momentIn_zero {e : Env} {md : Modes} (hfi : md.fi = false) {reg l : Nat} (hp : e.cl.moment reg l = 0) :
    (e.momentIn md 15 reg l).numbers 0 0 ∧ (e.momentIn md 15 reg l).neg = false := by
  rw [Env.momentIn_words hfi hp standing_zero]
  exact ⟨⟨⟨rfl, FVal.value_zero ..⟩, rfl, FVal.value_zero ..⟩, rfl⟩

theorem Env.momentIn_one {e : Env} {md : Modes} (hfi : md.fi = false) {reg l : Nat} (hp : e.cl.moment reg l = 0x3F800000) :
    (e.momentIn md 15 reg l).numbers 1 0 ∧ (e.momentIn md 15 reg l).neg = false := by
  rw [Env.momentIn_words hfi hp ⟨by unfold finite32; decide, finite32_zero, rfl⟩]
  have hone : fp32.decode (meanWord 0x3F800000).toNat = fOne := fp32_decode_one
  rw [hone]
  exact ⟨⟨⟨fOne_isFin, fOne_value⟩, rfl, FVal.value_zero ..⟩, rfl⟩

/-- Sums of products with the numbers of a pair that stands give the pair, where its mean is not zero. -/
theorem momentOut_numbers {clamp : Bool} {md : Modes} (hfo : md.fo = false) {tm tv : List (List FVal)} {p : DWord}
    (h : standing (meanWord p) (varianceWord p)) (hmean : (meanWord p).toNat % 2 ^ 31 ≠ 0) (hm : sumsTo tm (number32 (meanWord p)))
    (hv : sumsTo tv (number32 (varianceWord p))) (flags : Word) :
    let r := momentOut clamp md 15 (fp32.sumProducts md.rm false tm) (fp32.sumProducts md.rm false tv) flags false
    r.pair = p ∧ r.neg = false := by
  have hmw := FRes.isWord_bits (fp32_sumProducts_word md.rm hm.1 h.1 hm.2) hmean
  have hvw := fp32_sumProducts_word md.rm hv.1 h.2.1 hv.2
  obtain ⟨hpair, hneg⟩ := momentOut_words (clamp := clamp) hfo h hmw hvw flags
  exact ⟨hpair.trans (append_words p), hneg⟩

section
variable {s : State} {e : Env} {f : Fields} {l : Nat} {p : DWord} (htg : f.tg ≠ 16) (hfi : (e.modes f.mod.toNat).fi = false)
  (hfo : (e.modes f.mod.toNat).fo = false) (hcov : e.cl.cov ≠ 3) (hp : e.cl.moment f.a.toNat l = p)
  (h : standing (meanWord p) (varianceWord p)) (hmean : (meanWord p).toNat % 2 ^ 31 ≠ 0)

include htg hfi hfo hp h hmean in
/-- Scaling by 1 gives A's pair (R163). -/
theorem scaleLane_neutral (hc : e.source s (floatSrc f 2 2 2) l = 0x3F800000) :
    (scaleLane f s e l).pair = p ∧ (scaleLane f s e l).neg = false := by
  obtain ⟨⟨⟨ham, ham'⟩, hav, hav'⟩, haneg⟩ := Env.momentIn_numbers hfi hp h
  have hone : fp32.read (e.modes f.mod.toNat) 0x3F800000 = fOne :=
    (fp32_read_word hfi 0x3F800000#32).trans fp32_decode_one
  unfold scaleLane
  simp only [momentTag_mp32 htg, show halfFmt 15 = fp32 from rfl, hc, hone, haneg]
  refine momentOut_numbers hfo h hmean ?_ ?_ _
  · simp [sumsTo, ham, ham', fOne_isFin, fOne_value]
  · simp [sumsTo, hav, hav', fOne_isFin, fOne_value]

include htg hfo hcov h hmean in
/-- An arithmetic form whose terms have the numbers of A's pair gives A's pair. -/
theorem arithLane_words {n : Nat} {terms : PairTerms} {a b : MVal} {rest : List MVal} {μ : ℚ} (hb : b.numbers μ 0)
    (hins : ([f.a.toNat, f.b.toNat, f.c.toNat].take n).map (fun r => e.momentIn (e.modes f.mod.toNat) 15 r l) = a :: b :: rest)
    (hneg : (a :: b :: rest).any (·.neg) = false)
    (hterms : ∀ k, crossless k → sumsTo (terms (a :: b :: rest) k).1 (number32 (meanWord p))
      ∧ sumsTo (terms (a :: b :: rest) k).2 (number32 (varianceWord p))) :
    (arithLane f n terms s e l).pair = p ∧ (arithLane f n terms s e l).neg = false := by
  have hrho := Env.correlation_fixed hcov s (e.modes f.mod.toNat) l
  obtain ⟨hm, hv⟩ := hterms _ (covariance_crossless hrho a hb.2.1 hb.2.2)
  unfold arithLane
  simp only [momentTag_mp32 htg, show halfFmt 15 = fp32 from rfl, hins, hneg]
  split
  · rename_i hnan
    simp [hnan] at hrho
  · exact momentOut_numbers hfo h hmean hm hv _

include htg hfi hfo hcov hp h hmean

/-- MADD and MSUB with (+0, +0) give A's pair (R162). -/
theorem sumLane_neutral (sub : Bool) (hb : e.cl.moment f.b.toNat l = 0) :
    (arithLane f 2 (sumOfPairs sub) s e l).pair = p ∧ (arithLane f 2 (sumOfPairs sub) s e l).neg = false := by
  obtain ⟨ha, haneg⟩ := Env.momentIn_numbers hfi hp h
  obtain ⟨hb, hbneg⟩ := Env.momentIn_zero hfi hb
  exact arithLane_words htg hfo hcov h hmean hb rfl (by simp [haneg, hbneg]) fun k hk => sumTerms_neutral ha hk sub hb

/-- MMUL with (1, +0) gives A's pair (R164). -/
theorem productLane_neutral (hb : e.cl.moment f.b.toNat l = 0x3F800000) :
    (arithLane f 2 productOfPairs s e l).pair = p ∧ (arithLane f 2 productOfPairs s e l).neg = false := by
  obtain ⟨ha, haneg⟩ := Env.momentIn_numbers hfi hp h
  obtain ⟨hb, hbneg⟩ := Env.momentIn_one hfi hb
  exact arithLane_words htg hfo hcov h hmean hb rfl (by simp [haneg, hbneg]) fun k hk => productTerms_neutral ha hk hb

/-- MFMA with (1, +0) and (+0, +0) gives A's pair (R165). -/
theorem fusedLane_neutral (hb : e.cl.moment f.b.toNat l = 0x3F800000) (hc : e.cl.moment f.c.toNat l = 0) :
    (arithLane f 3 fusedOfPairs s e l).pair = p ∧ (arithLane f 3 fusedOfPairs s e l).neg = false := by
  obtain ⟨ha, haneg⟩ := Env.momentIn_numbers hfi hp h
  obtain ⟨hb, hbneg⟩ := Env.momentIn_one hfi hb
  obtain ⟨⟨⟨hcm, hcm0⟩, hcv, hcv0⟩, hcneg⟩ := Env.momentIn_zero hfi hc
  refine arithLane_words htg hfo hcov h hmean hb rfl (by simp [haneg, hbneg, hcneg]) fun k hk => ?_
  obtain ⟨hm, hv⟩ := productTerms_neutral ha hk hb
  exact ⟨sumsTo_snoc hm hcm hcm0, sumsTo_snoc hv hcv hcv0⟩

end

/-! ### MRELU (R166) -/

/-- A mean that is not zero lies eight deviations above zero where its variance is zero and it is positive. -/
theorem eightSigma_zero (sign : Bool) {k : Nat} (hk : k ≠ 0) (g g' : Int) :
    eightSigma (.fin sign k g) (.fin false 0 g') = !sign := by
  have hsquare : (0 : Int) ≤ k * k := by positivity
  have hcmp : (FVal.fin false (k * k) (2 * g)).cmp (.fin false (64 * 0) g') ≠ .lt := by
    simpa [FVal.cmp, sumAt, compare_lt_iff_lt] using hsquare
  have hnot : decide ((FVal.fin false (k * k) (2 * g)).cmp (.fin false (64 * 0) g') ≠ .lt) = true := decide_eq_true hcmp
  rw [eightSigma, hnot, decide_eq_false hk, Bool.or_false, Bool.and_true]

/-- MRELU of a pair of variance +0 gives the pair, or (+0, +0) where the mean is below zero. -/
theorem reluLane_words {s : State} {e : Env} {f : Fields} {l : Nat} {p : DWord} (htg : f.tg ≠ 16) (hp : e.cl.moment f.a.toNat l = p)
    (h : standing (meanWord p) (varianceWord p)) (hmean : (meanWord p).toNat % 2 ^ 31 ≠ 0) (hv : varianceWord p = 0) :
    (nonlinearLane 0x65 f s e l).pair = (if (meanWord p).msb then 0 else p) ∧ (nonlinearLane 0x65 f s e l).neg = false := by
  obtain ⟨k, g, hdec, -, -, -, hzero⟩ := fp32_decode_finite h.1
  have hk : k ≠ 0 := fun hk => hmean (hzero.mp hk)
  have hin : e.momentIn {} 15 f.a.toNat l = { mu := .fin (meanWord p).msb k g, v := .fin false 0 0, flags := 0, neg := false } := by
    rw [Env.momentIn_words rfl hp h, hdec, hv]
    rfl
  have hmu : (fp32.convert .rne (.fin (meanWord p).msb k g)).bits = (meanWord p).toNat := by rw [← hdec, fp32_convert_word _ h.1]
  have hv0 : (fp32.convert .rne (.fin false 0 0)).bits = 0 := rfl
  have habove := eightSigma_zero (meanWord p).msb hk g 0
  have hbelow : eightSigma (FVal.fin (meanWord p).msb k g).neg (.fin false 0 0) = (meanWord p).msb := by
    rw [FVal.neg, eightSigma_zero _ hk, Bool.not_not]
  unfold nonlinearLane
  simp only [momentTag_mp32 htg, hin, hmu, hv0, nonlinear, habove, hbelow]
  cases (meanWord p).msb with
  | false =>
    have hout := momentOut_words (clamp := true) (md := {}) (mean := { bits := (meanWord p).toNat }) (variance := { bits := 0 })
      rfl h rfl (.inl (by rw [hv]; rfl)) (0 ||| 0)
    rw [append_words] at hout
    simpa using hout
  | true =>
    have hout := momentOut_words (clamp := true) (md := {}) (mean := { bits := 0 }) (variance := { bits := 0 })
      rfl standing_zero rfl (.inl rfl) (0 ||| 0)
    simpa using hout

/-! ### The claims together -/

theorem momentNeutral_holds : Claims.momentNeutral := by
  intro s e f i m hi _ h htg hfi hfo hcov a mean variance active hwords unchanged
  have hstanding (l : Nat) (hl : inMask e.mask l = true) :
      standing (meanWord (a l)) (varianceWord (a l)) ∧ (meanWord (a l)).toNat % 2 ^ 31 ≠ 0 := by
    obtain ⟨hmean, hne, hvariance, hmsb⟩ := hwords l ⟨lt_of_inMask hl, hl⟩
    exact ⟨⟨hmean, hvariance, hmsb⟩, hne⟩
  have hactive {l : Nat} (hl : inMask e.mask l = true) : active l := ⟨lt_of_inMask hl, hl⟩
  have hunchanged (hdst : m.dst = .moment f.d.toNat) (hlane : ∀ l, inMask e.mask l = true →
      (momentLane i s e l).pair = a l ∧ (momentLane i s e l).neg = false) : unchanged := by
    obtain ⟨t, c, hexec, hat, hdone, hbrings⟩ := exec_moment_completes h hi fun l hl => (hlane l hl).2
    rw [hdst] at hbrings
    exact ⟨t, c, hexec, hat, hdone, fun l hl => (hbrings l hl.2).trans (hlane l hl.2).1⟩
  refine ⟨?_, ?_, ?_, ?_, ?_⟩
  · rintro (rfl | rfl) hb
    · obtain rfl := Option.some.inj hi
      exact hunchanged rfl fun l hl => sumLane_neutral htg hfi hfo hcov rfl (hstanding l hl).1 (hstanding l hl).2 false (hb l (hactive hl))
    · obtain rfl := Option.some.inj hi
      exact hunchanged rfl fun l hl => sumLane_neutral htg hfi hfo hcov rfl (hstanding l hl).1 (hstanding l hl).2 true (hb l (hactive hl))
  · rintro rfl hb
    obtain rfl := Option.some.inj hi
    exact hunchanged rfl fun l hl => productLane_neutral htg hfi hfo hcov rfl (hstanding l hl).1 (hstanding l hl).2 (hb l (hactive hl))
  · rintro rfl hb
    obtain rfl := Option.some.inj hi
    exact hunchanged rfl fun l hl => fusedLane_neutral htg hfi hfo hcov rfl (hstanding l hl).1 (hstanding l hl).2 (hb l (hactive hl)).1
      (hb l (hactive hl)).2
  · rintro rfl hc
    obtain rfl := Option.some.inj hi
    exact hunchanged rfl fun l hl => scaleLane_neutral htg hfi hfo rfl (hstanding l hl).1 (hstanding l hl).2 (hc l (hactive hl))
  · rintro rfl hv
    have hlane (l : Nat) (hl : inMask e.mask l = true) :=
      reluLane_words (s := s) htg rfl (hstanding l hl).1 (hstanding l hl).2 (hv l (hactive hl))
    obtain ⟨t, c, hexec, -, -, hbrings⟩ := exec_moment_completes h hi fun l hl => (hlane l hl).2
    obtain rfl := Option.some.inj hi
    obtain ⟨p, hlandings, hdst, hpairs⟩ := hbrings
    exact ⟨t, p, hexec, hlandings, hdst, fun l hl => (hpairs l hl.2).trans (hlane l hl.2).1⟩

/-- Settles O14: each instruction is a run of a function of the lanes, and a word that stands comes out of exact sums as it is. -/
theorem momentInstructions : Obligations.MomentInstructions :=
  ⟨momentInstructionsComplete_holds, momentMove_holds, momentWords_holds, momentNeutral_holds⟩

end Sys2Proof.Machine
end

section
/-! SUPPORT. Control words that may run, their operands, and the branches: what settles O16 (R94, R181 to R183). -/

namespace Sys2Proof.Machine

open Sys2Proof.Safety Sys2Proof.Claims

/-! ### Control words and their operands (R94, R181) -/

theorem control_of_mayControl {s : State} {e : Env} {op : Nat} {f : Fields} {pathLevel : Bool} (h : mayControl s e op f pathLevel)
    (k : Env → Out) : control op f pathLevel s k = k e := by
  obtain ⟨hruns, hlanes, hready⟩ := h
  exact control_eq op f pathLevel s e k hruns hlanes hready

theorem mask_ne_zero_of_mayControl {s : State} {e : Env} {op : Nat} {f : Fields} (h : mayControl s e op f false) : e.mask ≠ 0 :=
  h.2.1.resolve_right fun hpath => Bool.false_ne_true hpath.1

theorem withUniform_of_clean (s : State) {e : Env} {reg : Nat} (h : uniformClean e reg) (k : Word → Out) :
    withUniform s e reg k = k (e.read s reg 0) :=
  if_neg fun ⟨hm, hpoison⟩ => Bool.false_ne_true ((h hm).symm.trans hpoison)

theorem withPredicate_of_clean (s : State) {e : Env} {reg : Nat} (h : predicateClean e reg) (k : Mask → Out) :
    withPredicate s e reg k = k (trueLanes s e reg) :=
  if_neg fun hpoison => Bool.false_ne_true (h.symm.trans hpoison)

/-! ### BRA and BRX (R182, R183) -/

section
variable {s : State} {e : Env} {f : Fields}

/-- The condition of a BRA (R182). -/
def branchTaken (f : Fields) (w : Word) : Prop :=
  f.mod.getLsbD 0 = false ∨ (f.mod.getLsbD 1 = false ∧ w ≠ 0) ∨ (f.mod.getLsbD 1 = true ∧ w = 0)

theorem bra_mod {r : Ranges} (hw : WellFormed r (.bra f) = true) : f.mod = 0 ∨ f.mod.getLsbD 0 = true := by
  have hmod := modOk_of_wellFormed rfl rfl hw
  simp only [Bool.or_eq_true, decide_eq_true_eq] at hmod
  rcases hmod with (hmod | hmod) | hmod
  · exact .inl (BitVec.eq_of_toNat_eq hmod)
  · exact .inr (by rw [show f.mod = 1 from BitVec.eq_of_toNat_eq hmod]; rfl)
  · exact .inr (by rw [show f.mod = 3 from BitVec.eq_of_toNat_eq hmod]; rfl)

theorem exec_bra (hw : WellFormed e.ranges (.bra f) = true) (h : mayControl s e 0x70 f true)
    (hclean : f.mod ≠ 0 → uniformClean e f.a.toNat) [Decidable (branchTaken f (e.read s f.a.toNat 0))] :
    becomes (.bra f) s e { e.cl with
      pc := e.cl.pc + if branchTaken f (e.read s f.a.toNat 0) then f.imm else 12 } := by
  refine (control_of_mayControl h _).trans ?_
  by_cases hmod : f.mod = 0
  · rw [if_pos hmod, if_pos (.inl (by rw [hmod]; rfl))]
    rfl
  · have hcond : f.mod.getLsbD 0 = true := (bra_mod hw).resolve_left hmod
    have htaken : ((e.read s f.a.toNat 0 ≠ 0 : Bool) != f.mod.getLsbD 1) = true ↔ branchTaken f (e.read s f.a.toNat 0) := by
      unfold branchTaken
      cases f.mod.getLsbD 1 <;> simp [hcond]
    rw [if_neg hmod, withUniform_of_clean s (hclean hmod)]
    simp only [htaken]
    rfl

theorem exec_brx (h : mayControl s e 0x7D f true) (hclean : uniformClean e f.a.toNat) :
    becomes (.brx f) s e { e.cl with pc := e.read s f.a.toNat 0 } :=
  (control_of_mayControl h _).trans (withUniform_of_clean s hclean _)

end

end Sys2Proof.Machine

open Sys2Proof Sys2Proof.Machine Sys2Proof.Safety Sys2Proof.Claims

/-- Settles O16: the condition of R182 is the model's own, and BRX takes the word as it stands. -/
theorem branches : Obligations.Branches := by
  classical
  intro s e f
  refine ⟨fun hw h hclean => ⟨fun htaken => ?_, fun hnot => ?_⟩, exec_brx⟩
  · have hbra := exec_bra hw h hclean
    rw [if_pos (show branchTaken f _ from htaken)] at hbra
    exact hbra
  · have hbra := exec_bra hw h hclean
    rw [if_neg (show ¬ branchTaken f _ from hnot)] at hbra
    exact hbra
end

section
/-! SUPPORT. Tokens and the split of a clutch: what settles O17 (R176, R177, R184). -/

namespace Sys2Proof.Machine

open Sys2Proof.Safety Sys2Proof.Claims

/-! ### The token of an entry (R176) -/

/-- The fields of a token do not overlap: its sequence number fills the low bits. -/
theorem token_eq_or (kind : EntryKind) (index : Nat) (seq : BitVec 20) :
    token kind index seq = BitVec.ofNat 32 (0xA0000000 + 2 ^ 26 * kind.code + 2 ^ 20 * index) ||| seq.setWidth 32 := by
  have hseq : seq.toNat < 2 ^ 20 := seq.isLt
  have hhigh : 0xA0000000 + 2 ^ 26 * kind.code + 2 ^ 20 * index = 2 ^ 20 * (0xA00 + 64 * kind.code + index) := by ring
  apply BitVec.eq_of_toNat_eq
  rw [token, hhigh, Nat.two_pow_add_eq_or_of_lt hseq, BitVec.ofNat_or, BitVec.toNat_or, BitVec.toNat_or, BitVec.toNat_setWidth,
    BitVec.toNat_ofNat seq.toNat]

/-! ### Writing the token while the clutch moves -/

/-- A write of a register looks at no program counter (R89). -/
theorem Clutch.put_advance (c : Clutch) (n : Nat) (m : Mask) (reg tag : Nat) (v : Nat → Word) (bytes : Nat) :
    (c.put n m reg tag v).advance bytes = (c.advance bytes).put n m reg tag v := by
  unfold Clutch.put Clutch.setTag Clutch.write
  split_ifs <;> rfl

/-! ### BRC and BRC.loop (R184) -/

/-- A stack of fewer than 16 entries has room for another (R178). -/
theorem Clutch.not_full {c : Clutch} (h : c.stack.length < 16) : ¬ c.full = true := by simpa [Clutch.full] using h

/-- The entry of a BRC while the lanes of `pending` wait (R184). -/
def branchEntry (c : Clutch) (target : Word) (pending : Mask) : Entry :=
  { kind := .branch, aw := c.path, ppc := target, pm := pending, seq := c.seq }

/-- The clutch names the entry that it has pushed in the destination. -/
def namesEntry (e : Env) (f : Fields) (kind : EntryKind) (c : Clutch) : Clutch :=
  c.put e.hdr.uniform e.mask f.d.toNat 0 fun _ =>
    BitVec.ofNat 32 (0xA0000000 + 2 ^ 26 * kind.code + 2 ^ 20 * e.cl.stack.length) ||| e.cl.seq.setWidth 32

section
variable {s : State} {e : Env} {f : Fields} (hroom : e.cl.stack.length < 16) (h : mayControl s e 0x71 f false)
include hroom h

theorem exec_brc (hclean : predicateClean e f.a.toNat) :
    becomes (.brc f) s e (namesEntry e f .branch (
      if e.cl.path &&& ~~~trueLanes s e f.a.toNat ≠ 0 then { e.cl with
        stack := e.cl.stack ++ [branchEntry e.cl (e.cl.pc + f.imm) (trueLanes s e f.a.toNat)], seq := e.cl.seq + 1
        path := e.cl.path &&& ~~~trueLanes s e f.a.toNat, mask := e.cl.mask &&& ~~~trueLanes s e f.a.toNat, pc := e.cl.pc + 12 }
      else { e.cl with
        stack := e.cl.stack ++ [branchEntry e.cl (e.cl.pc + f.imm) 0], seq := e.cl.seq + 1
        path := trueLanes s e f.a.toNat, mask := trueLanes s e f.a.toNat, pc := e.cl.pc + f.imm })) := by
  refine (control_of_mayControl h _).trans ((if_neg (Clutch.not_full hroom)).trans ((withPredicate_of_clean s hclean _).trans ?_))
  unfold namesEntry
  rw [← token_eq_or .branch]
  by_cases hn : e.cl.path &&& ~~~trueLanes s e f.a.toNat = 0
  · simp only [hn, ne_eq, not_true, if_true, if_false]
    rfl
  · simp only [hn, ne_eq, not_false_iff, if_true, if_false]
    rfl

theorem exec_brcLoop :
    becomes (.brcLoop f) s e (namesEntry e f .loop { e.cl with
      stack := e.cl.stack ++ [{ kind := .loop, aw := e.cl.path, rpc := some (e.cl.pc + f.imm), ppc := e.cl.pc + 12, seq := e.cl.seq }]
      seq := e.cl.seq + 1, pc := e.cl.pc + 12 }) := by
  refine (control_of_mayControl h _).trans ((if_neg (Clutch.not_full hroom)).trans ?_)
  unfold namesEntry
  rw [← token_eq_or .loop]
  exact congrArg (become s e) (Clutch.put_advance ..)

end

end Sys2Proof.Machine

open Sys2Proof Sys2Proof.Machine Sys2Proof.Safety Sys2Proof.Claims

/-- Settles O17, by whether the not-taken part is empty. -/
theorem divergence : Obligations.Divergence := by
  intro s e f hroom h
  refine ⟨fun _ hclean => ⟨fun hn => ?_, fun hn => ?_⟩, fun _ => exec_brcLoop hroom h⟩
  · have hbrc := exec_brc hroom h hclean
    rw [if_pos hn] at hbrc
    exact hbrc
  · have hbrc := exec_brc hroom h hclean
    rw [if_neg (not_not.mpr hn)] at hbrc
    exact hbrc
end

section
/-! SUPPORT. One turn of Resolve: what settles O18 (R179). -/

namespace Sys2Proof.Machine

theorem resolve_running {c : Clutch} (h : c.path ≠ 0) : resolve c = .running c := if_pos h

theorem resolve_of_no_entry {c : Clutch} (hpath : c.path = 0) (hstack : c.stack = []) : resolve c = .ended c := by
  simp [resolve, resolveLoop, hpath, hstack]

/-- What Resolve does with the top entry of an empty path; a popped entry costs the one turn that its depth gave. -/
theorem resolve_of_top {c : Clutch} {below : List Entry} {x : Entry} (hpath : c.path = 0) (hstack : c.stack = below ++ [x]) :
    resolve c =
      if x.kind = .handler then resolve { c with stack := below, path := x.pm, pc := x.rpc.getD c.pc, mask := x.ar }
      else if x.kind = .branch ∧ x.pm ≠ 0 then
        .running { c with stack := below ++ [{ x with pm := 0 }], path := x.pm, pc := x.ppc, mask := x.pm }
      else if x.aw &&& ~~~x.ar = 0 then
        resolve { c with stack := below, path := x.ar, pc := x.rpc.getD c.pc, mask := x.ar }
      else if x.kind = .loop ∧ x.ct ≠ 0 then
        .running { c with stack := below ++ [{ x with ct := 0 }], path := x.ct, pc := x.ppc, mask := x.ct }
      else .stuck c := by
  have hturns : c.stack.length + 2 = (below.length + 2) + 1 := by simp [hstack]
  have hlast : c.stack.getLast? = some x := by simp [hstack]
  have hrest : c.stack.dropLast = below := by simp [hstack]
  rw [resolve, hturns, resolveLoop, if_neg (not_not.mpr hpath), hlast, hrest]
  rfl

end Sys2Proof.Machine

open Sys2Proof Sys2Proof.Machine Sys2Proof.Safety Sys2Proof.Claims

/-- Settles O18, by the top entry of the stack. -/
theorem resolveChoosesThePath : Obligations.ResolveChoosesThePath := by
  refine fun c below x => ⟨resolve_running, resolve_of_no_entry, fun hpath hstack => ?_⟩
  rw [resolve_of_top hpath hstack]
  refine ⟨fun hhandler => if_pos hhandler, fun hbranch hpending => ?_, fun hkind hpending hall => ?_, fun hloop haway hturn => ?_,
    fun hkind hpending haway hturn => ?_⟩
  · rw [if_neg (by simp [hbranch]), if_pos ⟨hbranch, hpending⟩]
  · rw [if_neg hkind, if_neg hpending, if_pos hall]
  · rw [if_neg (by simp [hloop]), if_neg (by simp [hloop]), if_neg haway, if_pos ⟨hloop, hturn⟩]
  · rw [if_neg hkind, if_neg hpending, if_neg haway, if_neg hturn]
end

section
/-! SUPPORT. JOIN, BRK and CONT: what settles O19 (R177, R185, R186). -/

namespace Sys2Proof.Machine

open Sys2Proof.Safety Sys2Proof.Claims

/-! ### Entries of the stack -/

/-- A list with its entry at one index changed in one way and those above it in another. -/
theorem map_zipIdx_at {α : Type} (below above : List α) (x : α) (g up : α → α) :
    (below ++ x :: above).zipIdx.map (fun y => if y.2 < below.length then y.1 else if below.length < y.2 then up y.1 else g y.1)
      = below ++ g x :: above.map up := by
  refine List.ext_getElem (by simp) fun j hj _ => ?_
  rw [List.getElem_map, List.getElem_zipIdx, Nat.zero_add]
  rcases Nat.lt_trichotomy j below.length with hlow | rfl | hhigh
  · rw [if_pos hlow, List.getElem_append_left hlow, List.getElem_append_left hlow]
  · simp
  · obtain ⟨k, rfl⟩ := Nat.exists_eq_add_of_lt hhigh
    rw [if_neg (by omega), if_pos hhigh, List.getElem_append_right (by omega), List.getElem_append_right (by omega)]
    simp [Nat.add_assoc]

/-- A valid token's entry is on the stack (R177). -/
theorem lt_of_tokenIndex {c : Clutch} {t : Word} {kind : EntryKind} {i : Nat} (h : c.tokenIndex t kind = some i) :
    i < c.stack.length := by
  unfold Clutch.tokenIndex at h
  dsimp only at h
  split at h
  · cases h
  · next x hx =>
    obtain ⟨-, hi⟩ := Option.ite_none_right_eq_some.mp h
    cases hi
    exact (List.getElem?_eq_some_iff.mp hx).1

theorem editStack_eq {c : Clutch} {below above : List Entry} {x : Entry} (hstack : c.stack = below ++ x :: above) (m : Mask)
    (g : Entry → Entry) :
    editStack c below.length m g = below ++ g x :: above.map fun y => { y with aw := y.aw &&& ~~~m } := by
  rw [editStack, hstack, List.take_left, List.drop_left]
  refine congrArg (below ++ ·) (Eq.trans (List.map_congr_left fun y _ => ?_)
    (map_zipIdx_at [] above x g fun y => { y with aw := y.aw &&& ~~~m }))
  by_cases hy : y.2 = 0
  · simp [hy]
  · simp [hy, Nat.pos_of_ne_zero hy]

theorem exists_entry_at {stack : List Entry} {i : Nat} (hi : i < stack.length) :
    ∃ below x above, stack = below ++ x :: above ∧ below.length = i :=
  ⟨stack.take i, stack[i], stack.drop (i + 1), by rw [List.getElem_cons_drop, List.take_append_drop],
    List.length_take_of_le hi.le⟩

/-! ### Resolve after the effect -/

theorem settleClutch_running {s : State} {e : Env} {c d : Clutch} (h : resolve c = .running d) :
    settleClutch s e c = .next (s.modClutch e.who fun _ => d) := by rw [settleClutch, h]

theorem settleClutch_ended {s : State} {e : Env} {c d : Clutch} (h : resolve c = .ended d) :
    settleClutch s e c = .next (s.endClutch e d) := by rw [settleClutch, h]

theorem resolvesFrom_of_settles {i : Instr} {s : State} {e : Env} {c : Clutch} (h : exec i s = settleClutch s.bump e c) :
    resolvesFrom i s e c :=
  ⟨fun _ hd => h.trans (settleClutch_running hd), fun _ hd => h.trans (settleClutch_ended hd)⟩

/-! ### JOIN (R185) -/

section
variable {s : State} {e : Env} {f : Fields} {i : Nat}

theorem exec_join {x : Entry} (huniform : uniformClean e f.a.toNat) (h : mayControl s e 0x72 f true)
    (hi : e.cl.tokenIndex (e.read s f.a.toNat 0) .branch = some i) (htop : i + 1 = e.cl.stack.length) (hx : e.cl.stack[i]? = some x) :
    exec (.join f) s = settleClutch s.bump e { e.cl with
      stack := e.cl.stack.take i ++ [{ x with rpc := some (x.rpc.getD (e.cl.pc + 8)), ar := x.ar ||| e.cl.path }], path := 0 } := by
  have hlast : e.cl.stack.getLast? = some x := by
    rw [List.getLast?_eq_getElem?, ← htop]
    exact hx
  have hrest : e.cl.stack.dropLast = e.cl.stack.take i := by rw [List.dropLast_eq_take, ← htop, Nat.add_sub_cancel]
  refine (control_of_mayControl h _).trans ((withUniform_of_clean s huniform _).trans ?_)
  simp only [hi, hlast, htop, hrest, if_true]

/-! ### BRK and CONT (R186) -/

theorem leaveLoop_eq (hi : i < e.cl.stack.length) (m : Mask) (brk : Bool) :
    leaveLoop s e i m brk = settleClutch s.bump e { e.cl with
      stack := editStack e.cl i m fun x => if brk then { x with ar := x.ar ||| m } else { x with ct := x.ct ||| m }
      path := e.cl.path &&& ~~~m, mask := e.cl.mask &&& ~~~m, pc := e.cl.pc + 8 } := by
  obtain ⟨below, x, above, hstack, rfl⟩ := exists_entry_at hi
  rw [leaveLoop, editStack_eq hstack, hstack]
  refine congrArg (fun stack => settleClutch s.bump e { e.cl with
    stack, path := e.cl.path &&& ~~~m, mask := e.cl.mask &&& ~~~m, pc := e.cl.pc + 8 }) ?_
  exact map_zipIdx_at below above x (fun x => if brk then { x with ar := x.ar ||| m } else { x with ct := x.ct ||| m })
    fun y => { y with aw := y.aw &&& ~~~m }

/-- The lanes that BRK and CONT take out of the path (R186). -/
def leavingLanes (s : State) (e : Env) (f : Fields) : Mask := if f.mod = 1 then e.cl.path else trueLanes s e f.b.toNat

theorem loopExit_settles {op : Nat} {brk : Bool} (huniform : uniformClean e f.a.toNat) (hmod : f.mod.toNat < 2)
    (hpredicate : f.mod = 0 → predicateClean e f.b.toNat) (hi : e.cl.tokenIndex (e.read s f.a.toNat 0) .loop = some i)
    (h : mayControl s e op f (f.mod = 1)) :
    loopExit op f brk s = settleClutch s.bump e { e.cl with
      stack := editStack e.cl i (leavingLanes s e f) fun x =>
        if brk then { x with ar := x.ar ||| leavingLanes s e f } else { x with ct := x.ct ||| leavingLanes s e f }
      path := e.cl.path &&& ~~~leavingLanes s e f, mask := e.cl.mask &&& ~~~leavingLanes s e f, pc := e.cl.pc + 8 } := by
  rw [← leaveLoop_eq (lt_of_tokenIndex hi)]
  refine (control_of_mayControl h _).trans ((withUniform_of_clean s huniform _).trans ?_)
  simp only [hi]
  unfold leavingLanes
  by_cases hall : f.mod = 1
  · rw [if_pos hall, if_pos hall]
  · have hzero : f.mod = 0 := by
      have hne : f.mod.toNat ≠ 1 := fun hone => hall (BitVec.eq_of_toNat_eq hone)
      exact BitVec.eq_of_toNat_eq (show f.mod.toNat = 0 by omega)
    rw [if_neg hall, if_neg hall, withPredicate_of_clean s (hpredicate hzero)]

end

end Sys2Proof.Machine

open Sys2Proof Sys2Proof.Machine Sys2Proof.Safety Sys2Proof.Claims

/-- Settles O19: each of the three stores its clutch and lets Resolve run. -/
theorem rejoin : Obligations.Rejoin := by
  intro s e f i c t m huniform
  refine ⟨fun x h hi htop hx => resolvesFrom_of_settles (exec_join huniform h hi htop hx),
    fun hpredicate hi => ⟨fun hw h => ?_, fun hw h => ?_⟩⟩
  · exact resolvesFrom_of_settles
      (loopExit_settles (brk := true) huniform (of_decide_eq_true (modOk_of_wellFormed rfl rfl hw)) hpredicate hi h)
  · exact resolvesFrom_of_settles
      (loopExit_settles (brk := false) huniform (of_decide_eq_true (modOk_of_wellFormed rfl rfl hw)) hpredicate hi h)
end

section
/-! SUPPORT. CALL, RET, EXIT and KILL: what settles O20 (R179, R187 to R189). -/

namespace Sys2Proof.Machine

open Sys2Proof.Safety Sys2Proof.Claims

/-! ### CALL and RET (R187) -/

/-- RET finds the CALL entry above which no CALL and no HANDLER entry lies. -/
theorem Clutch.callIndex_eq {c : Clutch} {below above : List Entry} {x : Entry} (hstack : c.stack = below ++ x :: above)
    (hx : x.kind = .call) (habove : ∀ y ∈ above, y.kind ≠ .call ∧ y.kind ≠ .handler) : c.callIndex = some below.length := by
  have hrev : c.stack.reverse = above.reverse ++ x :: below.reverse := by simp [hstack]
  have hfind : c.stack.reverse.find? (fun y => y.kind = .call || y.kind = .handler) = some x := by
    rw [hrev, List.find?_append, List.find?_eq_none.mpr (by simpa using habove)]
    simp [hx]
  have hidx : c.stack.reverse.findIdx (fun y => y.kind = .call || y.kind = .handler) = above.length := by
    rw [hrev, List.findIdx_append, List.findIdx_eq_length.mpr (by simpa using habove)]
    simp [List.findIdx_cons, hx]
  have hlen : c.stack.length - 1 - above.length = below.length := by
    rw [hstack, List.length_append, List.length_cons]
    omega
  rw [Clutch.callIndex, hfind, hidx, hlen]
  exact if_pos hx

section
variable {s : State} {e : Env} {f : Fields}

theorem exec_call (h : mayControl s e 0x75 f true) (hroom : e.cl.stack.length < 16) : becomes (.call f) s e { e.cl with
    stack := e.cl.stack ++ [{ kind := .call, aw := e.cl.path, rpc := some (e.cl.pc + 12), seq := e.cl.seq }]
    seq := e.cl.seq + 1, pc := e.cl.pc + f.imm } :=
  (control_of_mayControl h _).trans (if_neg (Clutch.not_full hroom))

theorem exec_ret {below above : List Entry} {x : Entry} (h : mayControl s e 0x76 f true) (hstack : e.cl.stack = below ++ x :: above)
    (hx : x.kind = .call) (habove : ∀ y ∈ above, y.kind ≠ .call ∧ y.kind ≠ .handler) :
    exec (.ret f) s = settleClutch s.bump e { e.cl with
      stack := below ++ { x with ar := x.ar ||| e.cl.path } :: above.map fun y => { y with aw := y.aw &&& ~~~e.cl.path }
      path := 0 } := by
  refine (control_of_mayControl h _).trans ?_
  simp only [Clutch.callIndex_eq hstack hx habove]
  rw [hstack]
  exact congrArg (fun stack => settleClutch s.bump e { e.cl with stack, path := 0 })
    (map_zipIdx_at below above x (fun y => { y with ar := y.ar ||| e.cl.path }) fun y => { y with aw := y.aw &&& ~~~e.cl.path })

/-! ### EXIT and KILL (R188, R189) -/

/-- What EXIT and KILL leave of a clutch without some lanes, before Resolve. -/
def Clutch.leaving (c : Clutch) (m : Mask) : Clutch := { c.delete m with pc := c.pc + 8 }

theorem exec_exit_all (h : mayControl s e 0x77 f (f.mod = 0)) (hmod : f.mod = 0) :
    exec (.exit f) s = settleClutch s.bump e (e.cl.leaving (if e.mask = 0 then e.cl.path else e.mask)) :=
  (control_of_mayControl h _).trans (if_pos hmod)

theorem exec_exit_predicate (h : mayControl s e 0x77 f (f.mod = 0)) (hmod : f.mod ≠ 0) (hclean : predicateClean e f.a.toNat) :
    exec (.exit f) s = settleClutch s.bump e (e.cl.leaving (trueLanes s e f.a.toNat)) :=
  (control_of_mayControl h _).trans ((if_neg hmod).trans (withPredicate_of_clean s hclean _))

/-- Three words in a row, lowest first, are one number of 96 bits. -/
theorem ofNat_threeWords (w : Nat → Word) :
    BitVec.ofNat 96 ((List.range 3).foldl (fun acc j => acc + (w j).toNat * 2 ^ (32 * j)) 0) = (w 2 ++ w 1 ++ w 0 : BitVec 96) := by
  apply BitVec.eq_of_toNat_eq
  rw [foldl_range_three fun j => (w j).toNat * 2 ^ (32 * j), BitVec.toNat_ofNat, toNat_append_eq_add, toNat_append_eq_add]
  have h0 := (w 0).isLt
  have h1 := (w 1).isLt
  have h2 := (w 2).isLt
  omega

theorem exec_kill (h : mayControl s e 0x78 f false) (hclean : ∀ j, j < 3 → e.poisonAt (f.a.toNat + j) 0 = false) :
    exec (.kill f) s = settleClutch s.bump e (e.cl.leaving
      ((e.read s (f.a.toNat + 2) 0 ++ e.read s (f.a.toNat + 1) 0 ++ e.read s f.a.toNat 0 : BitVec 96) &&& e.cl.handlerLanes)) := by
  have hpoison : ¬ [0, 1, 2].any (fun j => e.poisonAt (f.a.toNat + j) 0) = true := by
    rw [Bool.not_eq_true, List.any_eq_false]
    intro j hj
    rw [hclean j (by simp at hj; omega)]
    exact Bool.false_ne_true
  refine (control_of_mayControl h _).trans ((if_neg hpoison).trans ?_)
  exact congrArg (fun m => settleClutch s.bump e (e.cl.leaving (m &&& e.cl.handlerLanes)))
    (ofNat_threeWords fun j => e.read s (f.a.toNat + j) 0)

end

end Sys2Proof.Machine

open Sys2Proof Sys2Proof.Machine Sys2Proof.Safety Sys2Proof.Claims

theorem callAndReturn_holds : Sys2Proof.Claims.callAndReturn := fun _ _ _ =>
  ⟨exec_call, fun _ _ _ h hstack hx habove => resolvesFrom_of_settles (exec_ret h hstack hx habove)⟩

theorem exitAndKill_holds : Sys2Proof.Claims.exitAndKill := fun _ _ _ =>
  ⟨fun _ h => ⟨fun hmod => resolvesFrom_of_settles (exec_exit_all h hmod),
    fun hmod hclean => resolvesFrom_of_settles (exec_exit_predicate h hmod hclean)⟩,
    fun h hclean => resolvesFrom_of_settles (exec_kill h hclean)⟩

/-- Settles O20: CALL as it stands, the others by what they leave to Resolve. -/
theorem callsAndEndings : Obligations.CallsAndEndings := ⟨callAndReturn_holds, exitAndKill_holds⟩
end

section
/-! SUPPORT. YIELD, BKPT and RDCLK: what settles O21 (R191, R193, R194). -/

namespace Sys2Proof.Machine

open Sys2Proof.Safety Sys2Proof.Claims

/-! ### Two registers in a row -/

section
variable (c : Clutch) (n : Nat) {m : Mask} (d : Nat) (hm : m ≠ 0)
include hm

theorem Clutch.put_put_wrote (tag tag' : Nat) (v : Nat → Nat → Word) :
    wrote n m d 2 v c ((c.put n m d tag (v 0)).put n m (d + 1) tag' (v 1)) := by
  intro reg l hreg hl
  rw [Clutch.put_word _ _ _ _ _ _ _ _ hm hreg hl, Clutch.put_word _ _ _ _ _ _ _ _ hm hreg hl]
  by_cases hsecond : reg = d + 1
  · subst hsecond
    simp
  by_cases hfirst : reg = d
  · subst hfirst
    simp
  · rw [if_neg fun h => hsecond h.1, if_neg fun h => hfirst h.1, if_neg (by omega)]

theorem Clutch.put_put_tagged (tag : Nat → Nat) (v : Nat → Nat → Word) :
    tagged d 2 tag c ((c.put n m d (tag 0) (v 0)).put n m (d + 1) (tag 1) (v 1)) := by
  intro reg hreg
  rw [Clutch.put_tag _ _ _ _ _ _ _ hm hreg, Clutch.put_tag _ _ _ _ _ _ _ hm hreg]
  by_cases hsecond : reg = d + 1
  · subst hsecond
    simp
  by_cases hfirst : reg = d
  · subst hfirst
    simp
  · rw [if_neg hsecond, if_neg hfirst, if_neg (by omega)]

end

section
variable {s : State} {e : Env} {f : Fields}

theorem exec_yield (h : mayControl s e 0x79 f false) :
    exec (.yield f) s = .next (s.modClutch e.who fun c => { c with pc := c.pc + 8 }) :=
  control_of_mayControl h _

theorem exec_bkpt (h : mayControl s e 0x7C f false) :
    exec (.bkpt f) s = if (s.core e.core).bken then .next (s.clutchStop e .break_)
      else .next (s.modClutch e.who fun c => { c with pc := c.pc + 8 }) :=
  control_of_mayControl h _

theorem State.clutchStop_slot (code : Code) (h : (s.core e.core).stopped = false) :
    ((s.clutchStop e code).core e.core).slot = e.cl.slotNum := by
  simp [State.clutchStop, State.stopWith, State.core_modCore_self, h]

/-- The clutch with the cycle count in its destination, past the word (R194). -/
def clocked (e : Env) (f : Fields) (t : DWord) : Clutch :=
  ((e.cl.put e.hdr.uniform e.mask f.d.toNat 0 fun _ => half t 0).put e.hdr.uniform e.mask (f.d.toNat + 1) 0
    fun _ => half t 1).advance 8

theorem exec_rdclk (h : mayControl s e 0x83 f false) : becomes (.rdclk f) s e (clocked e f (s.die e.ch.die).cycle) := by
  have hlow : half (s.die e.ch.die).cycle 0 = (s.die e.ch.die).cycle.setWidth 32 := by simp [half]
  refine (control_of_mayControl h _).trans ?_
  unfold clocked
  rw [hlow]
  rfl

end

end Sys2Proof.Machine

open Sys2Proof Sys2Proof.Machine Sys2Proof.Safety Sys2Proof.Claims

/-- Settles O21: the two halves of the cycle count are two writes in a row. -/
theorem yieldBreakAndClock : Obligations.YieldBreakAndClock := by
  intro s e f
  refine ⟨exec_yield, fun h hoff => ?_, fun h hon => ?_, fun h _ _ => ?_⟩
  · rw [exec_bkpt h, if_neg (by simp [hoff])]
  · refine ⟨s.clutchStop e .break_, by rw [exec_bkpt h, if_pos hon], rfl, fun hruns => ?_⟩
    obtain ⟨hstopped, hcode⟩ := State.clutchStop_core .break_ hruns
    exact ⟨hstopped, hcode, State.clutchStop_slot .break_ hruns⟩
  · have hm := mask_ne_zero_of_mayControl h
    have hat : s.bump.at? e.who = some e.cl := State.env?_at? s e.who e h.1.2
    refine ⟨_, clocked e f (s.die e.ch.die).cycle, exec_rdclk h,
      State.at?_modClutch_const _ hat (by simpa [clocked, Clutch.advance] using State.at?_id hat),
      by simp [clocked, Clutch.advance], by simp [sameDevice, State.bump],
      Clutch.put_put_wrote e.cl _ _ hm 0 0 fun k _ => half (s.die e.ch.die).cycle k,
      Clutch.put_put_tagged e.cl _ _ hm (fun _ => 0) fun k _ => half (s.die e.ch.die).cycle k⟩
end

section
/-! SUPPORT. The return from the emulation handler: what settles O23 (R197, R198). -/

namespace Sys2Proof.Machine

open Sys2Proof.Safety Sys2Proof.Claims

section
variable {e : Env} (s : State) (retry : Bool)

theorem emulationReturn_of_no_entry (hstack : e.cl.stack = []) : emulationReturn s e retry = emretToken s e := by
  simp [emulationReturn, hstack]

variable {below : List Entry} {x : Entry} (hstack : e.cl.stack = below ++ [x])
include hstack

theorem emulationReturn_of_handler (h : x.kind = .handler ∧ e.cl.path = x.aw) :
    emulationReturn s e retry = settleClutch s e { e.cl with
      stack := below, path := x.pm &&& ~~~e.cl.exited, mask := x.ar &&& ~~~e.cl.exited
      pc := if retry then x.ppc else x.rpc.getD e.cl.pc } := by
  have hlast : e.cl.stack.getLast? = some x := by simp [hstack]
  have hrest : e.cl.stack.dropLast = below := by simp [hstack]
  simp only [emulationReturn, hlast, hrest]
  exact if_pos h

theorem emulationReturn_of_other (h : ¬ (x.kind = .handler ∧ e.cl.path = x.aw)) : emulationReturn s e retry = emretToken s e := by
  have hlast : e.cl.stack.getLast? = some x := by simp [hstack]
  simp only [emulationReturn, hlast]
  exact if_neg h

end

end Sys2Proof.Machine

open Sys2Proof Sys2Proof.Machine Sys2Proof.Safety Sys2Proof.Claims

/-- Settles O23, by the top entry of the stack and what Resolve makes of the saved path. -/
theorem emulationReturn : Obligations.EmulationReturn := by
  intro s e f h
  have hexec : exec (.emret f) s = Machine.emulationReturn s e (f.mod.getLsbD 0) := control_of_mayControl h _
  simp only [hexec]
  refine ⟨fun below x hstack hkind hpath => ?_, emulationReturn_of_no_entry s _,
    fun below x hstack => emulationReturn_of_other s _ hstack⟩
  rw [emulationReturn_of_handler s _ hstack ⟨hkind, hpath⟩]
  exact ⟨fun hlanes => settleClutch_running (resolve_running hlanes), fun r => settleClutch_running, fun r => settleClutch_ended⟩
end

section
/-! SUPPORT. The report of a launch-fatal fault: what settles O24 (R198, R204 to R206). -/

namespace Sys2Proof.Machine

/-- A launch that has a report counts a further one, and keeps the first of one die's reports of one cycle (R206). -/
theorem Launch.receive_further {l : Launch} {r : Report} (hr : l.report = some r) (now : Nat) (q : Report) :
    l.receive now q = { l with
      report := some (if l.reportAt = (q.coreid / 64, now + 1) ∧ q.before r then q else r), more := min (l.more + 1) 0xFFFFFFFF } := by
  simp [Launch.receive, hr]

theorem Report.before_iff (q r : Report) : q.before r = true ↔ q.coreid < r.coreid ∨ (q.coreid = r.coreid ∧ q.slot < r.slot) := by
  simp [Report.before]

section
variable {s : State} {e : Env} (he : s.env? e.who = some e) (r : Report)
include he

theorem State.endWith_receive : (s.endWith e r).launch? e.l.uid = some (e.l.receive s.now r) := by
  obtain ⟨-, -, hl, -⟩ := State.env?_some s e.who e he
  have huid : e.l.uid = e.ch.launch := by simpa using List.find?_some hl
  have hsame : (s.modClutch e.who fun c => { c with faulted := true }).launch? e.l.uid = some e.l := huid ▸ hl
  rw [State.endWith, State.launch?_launchFault_self, hsame]
  rfl

theorem State.endWith_at? : (s.endWith e r).at? e.who = some { e.cl with faulted := true } := by
  have hat : (s.endWith e r).at? e.who = (s.modClutch e.who fun c => { c with faulted := true }).at? e.who := by
    unfold State.endWith State.at? State.chorus?
    rw [State.launchFault_choruses]
  rw [hat, State.at?_modClutch_self s e.who (fun c => { c with faulted := true }) fun _ => rfl, State.env?_at? s e.who e he]
  rfl

end

end Sys2Proof.Machine

open Sys2Proof Sys2Proof.Machine Sys2Proof.Safety Sys2Proof.Claims

/-- Settles O24, by what the launch had received before. -/
theorem launchFatalFault : Obligations.LaunchFatalFault := by
  intro s e code mask he
  refine ⟨_, _, _, rfl, State.endWith_receive he _, State.endWith_at? he _, rfl, State.endWith_mem .., fun hreport hending => ?_,
    fun r hreport => ?_⟩
  · rw [Launch.receive_first _ _ _ hreport hending]
    exact ⟨rfl, rfl⟩
  · rw [Launch.receive_further hreport]
    refine ⟨rfl, ?_⟩
    simp only [Report.before_iff]
    rfl
end

section
open Sys2Proof Sys2Proof.Machine Sys2Proof.Safety Sys2Proof.Claims

/-! SUPPORT. The state after reset: what settles O5 (R203, R434, R441, R442). -/

theorem resetValues_holds : Sys2Proof.Claims.resetValues :=
  ⟨rfl, rfl, rfl, rfl, rfl, rfl, rfl, rfl, rfl, rfl, fun _ => rfl, rfl, rfl, rfl, rfl, fun _ => rfl, rfl⟩

theorem debugReset_holds : Sys2Proof.Claims.debugReset := fun _ => ⟨rfl, rfl, rfl, rfl, rfl, rfl, rfl⟩

/-- Settles O5: what a store does not list holds its reset value. -/
theorem resetState : Obligations.ResetState := ⟨resetValues_holds, debugReset_holds⟩
end

/-! SUPPORT. Every step keeps memory's canonical form: what settles O6 (R217, log 2). -/

section
open Sys2Proof Sys2Proof.Machine Sys2Proof.Safety Sys2Proof.Claims
namespace Sys2Proof.Machine
variable {s t : State} {e : Env} {f : Fields}

theorem wf_of_mem_eq (h : t.mem = s.mem) (hs : Memory.wf s.mem = true) : Memory.wf t.mem = true := h ▸ hs

@[simp] theorem State.mem_ite (c : Prop) [Decidable c] (s t : State) : (if c then s else t).mem = if c then s.mem else t.mem :=
  apply_ite State.mem c s t

/-- After a step that goes on, memory has its canonical form (log 2). -/
def Canonical : Out → Prop
  | .next t => Memory.wf t.mem = true
  | .fault _ => True
  | .refused _ => True

@[simp] theorem next_canonical (t : State) : Canonical (.next t) ↔ Memory.wf t.mem = true := Iff.rfl

theorem canonical_ite {c : Prop} [Decidable c] {a b : Out} (ha : Canonical a) (hb : Canonical b) :
    Canonical (if c then a else b) := by
  split <;> assumption

@[simp] theorem passOver_canonical (n : Nat) : Canonical (passOver s e n) ↔ Memory.wf s.mem = true := by
  simp [passOver]
@[simp] theorem fatal_canonical (code : Code) (mask : Mask) : Canonical (fatal s e code mask) ↔ Memory.wf s.mem = true := by
  simp [fatal]
@[simp] theorem poisonEnd_canonical (mask : Mask) : Canonical (poisonEnd s e mask) ↔ Memory.wf s.mem = true := by
  simp [poisonEnd]

/-! SUPPORT. Memory's canonical form (log 2) through the functions of Sys2Proof/Machine/Ops.lean. -/

theorem withClutch_canonical {k : Env → Out} (hk : ∀ e, Canonical (k e)) : Canonical (withClutch s k) := by
  unfold withClutch
  split
  · split
    · exact hk _
    · trivial
  · trivial

@[simp] theorem State.returnBlocks_mem : (s.returnBlocks e).mem = s.mem := by simp [State.returnBlocks]

@[simp] theorem State.sendOwed_mem (m : Msg) : (s.sendOwed m).mem = s.mem := by simp [State.sendOwed]

@[simp] theorem State.noteDetached_mem (uid : Nat) : (s.noteDetached uid).mem = s.mem := by
  unfold State.noteDetached
  dsimp only
  repeat' split
  all_goals simp [State.foldl_mem]

@[simp] theorem State.endClutch_mem (c : Clutch) : (s.endClutch e c).mem = s.mem := by simp [State.endClutch]

@[simp] theorem settleClutch_canonical (c : Clutch) : Canonical (settleClutch s e c) ↔ Memory.wf s.mem = true := by
  unfold settleClutch
  split <;> simp

@[simp] theorem emulationTrap_canonical (cause bytes op : Nat) (pair second : Bool) :
    Canonical (emulationTrap s e cause bytes op f pair second) ↔ Memory.wf s.mem = true := by
  unfold emulationTrap
  dsimp only
  repeat' split
  all_goals simp

@[simp] theorem emretToken_canonical : Canonical (emretToken s e) ↔ Memory.wf s.mem = true := by simp [emretToken]

@[simp] theorem emulationReturn_canonical (retry : Bool) :
    Canonical (Machine.emulationReturn s e retry) ↔ Memory.wf s.mem = true := by
  unfold emulationReturn
  dsimp only
  repeat' split
  all_goals simp

/-! SUPPORT. Memory's canonical form (log 2) through the functions of Sys2Proof/Machine/Operands.lean. -/

theorem issueWith_canonical {op : Nat} {more : Env → List Named} {k : Env → Out} (hs : Memory.wf s.mem = true)
    (hk : ∀ e, Canonical (k e)) : Canonical (issueWith op f more s k) := by
  refine withClutch_canonical fun e => ?_
  split
  · simpa using hs
  split
  · exact hs
  split
  · simpa using hs
  · exact hs
  · exact hk e

theorem issue_canonical {op : Nat} {k : Env → Out} (hs : Memory.wf s.mem = true) (hk : ∀ e, Canonical (k e)) :
    Canonical (issue op f s k) := issueWith_canonical hs hk

@[simp] theorem Alu.effect_mem (a : Alu) (r : List Lanes × Word) : (a.effect s e r).mem = s.mem := by simp [Alu.effect]

theorem runAlu_canonical {op : Nat} {mk : State → Env → Alu} (hs : Memory.wf s.mem = true) : Canonical (runAlu op f mk s) := by
  refine issue_canonical hs fun e => ?_
  dsimp only
  repeat' split
  all_goals simp [hs]

theorem runPair_canonical {x y : PairOp} {mkx mky : State → Env → Alu} (hs : Memory.wf s.mem = true) :
    Canonical (runPair x y mkx mky s) := by
  refine withClutch_canonical fun e => ?_
  dsimp only
  repeat' split
  all_goals simp [hs]

/-! SUPPORT. Memory's canonical form (log 2) through the functions of Sys2Proof/Machine/Memory.lean. -/

theorem State.recall_mem {pas : List Nat} (h : s.recall pas = some t) : t.mem = s.mem := by
  unfold State.recall at h
  split at h
  · cases h
  split at h
  · cases h
  cases h
  refine State.foldl_mem _ (fun u pa => ?_) _ _
  split
  · split <;> rfl
  · rfl

theorem State.recall_getD_mem_wf {pas : List Nat} (hs : Memory.wf s.mem = true) (ht : Memory.wf t.mem = true) :
    Memory.wf ((s.recall pas).getD t).mem = true := by
  cases h : s.recall pas with
  | none => exact ht
  | some u => simpa [State.recall_mem h] using hs

theorem withGlobal_canonical {write : Bool} {elems : List Elem} {k : State → List (Nat × List Nat) → Out}
    (hs : Memory.wf s.mem = true) (hk : ∀ t x, Memory.wf t.mem = true → Canonical (k t x)) :
    Canonical (withGlobal s e write elems k) := by
  unfold withGlobal
  dsimp only
  split
  · simpa using hs
  · simpa using hs
  split
  · simpa using hs
  · exact hk _ _ (by simpa using hs)

theorem withLocal_canonical {space : Nat} {elems : List Elem} {k : State → List (Nat × List Nat) → Out}
    (hs : Memory.wf s.mem = true) (hk : ∀ t x, Memory.wf t.mem = true → Canonical (k t x)) :
    Canonical (withLocal s e space elems k) := by
  unfold withLocal
  dsimp only
  split
  · simpa using hs
  · exact hk _ _ hs

theorem withPlaces_canonical {space : Nat} {write : Bool} {elems : List Elem} {k : State → Space → List (Nat × List Nat) → Out}
    (hs : Memory.wf s.mem = true) (hk : ∀ t sp x, Memory.wf t.mem = true → Canonical (k t sp x)) :
    Canonical (withPlaces s e space write elems k) := by
  unfold withPlaces
  split
  · exact withGlobal_canonical hs fun t => hk t .global
  · exact withLocal_canonical hs fun t => hk t .scratch

theorem atomicLanes_mem_wf {who : ClutchId} {c : CoreId} {a : Access} {g : Nat → Nat → Option Nat × Word}
    (xs : List (Nat × List Nat)) (s : State) (olds : List (Nat × Nat)) (flags : Word) (hs : Memory.wf s.mem = true) :
    Memory.wf (atomicLanes who c a g xs s olds flags).1.mem = true := by
  induction xs generalizing s olds flags with
  | nil => exact hs
  | cons x rest ih =>
    unfold atomicLanes
    dsimp only
    refine ih _ _ _ ?_
    split
    · exact State.storeAt_mem_wf _ _ _ _ _ hs
    · exact hs

theorem State.stepWrite_mem_wf {uid die ctx slot : Nat} {key step : Word} {input output tb base : Nat} {pages : List (Nat × Nat)}
    (hs : Memory.wf s.mem = true) : Memory.wf (s.stepWrite uid die ctx slot key step input output tb base pages).mem = true := by
  unfold State.stepWrite
  split
  · exact State.writeBytes_mem_wf _ _ (State.writeBytes_mem_wf _ _ hs)
  · exact hs

theorem State.perform_mem_wf {p : Landing} {c : CoreId} {a : Access} (hs : Memory.wf s.mem = true) :
    Memory.wf (s.perform p c a).s.mem = true := by
  unfold State.perform
  dsimp only
  cases a.op with
  | load sz =>
    dsimp only
    repeat' split
    all_goals simp [hs]
  | moment tag =>
    dsimp only
    repeat' split
    all_goals simp [hs]
  | rmw aop ty operands =>
    dsimp only
    split
    · exact hs
    have ha := atomicLanes_mem_wf (who := p.who) (c := c) (a := a)
      (g := fun l old => (some (atomicOp aop ty old (operands.getD l 0)).1, (atomicOp aop ty old (operands.getD l 0)).2))
      a.places s [] 0 hs
    repeat' split
    all_goals simpa using ha
  | cas n new cmp =>
    dsimp only
    split
    · exact hs
    have ha := atomicLanes_mem_wf (who := p.who) (c := c) (a := a)
      (g := fun l old => (if old = cmp.getD l 0 then some (new.getD l 0) else none, 0)) a.places s [] 0 hs
    repeat' split
    all_goals simpa using ha
  | stepStore ctx slot key step input output tb base pages =>
    dsimp only
    split
    · exact hs
    · exact State.stepWrite_mem_wf hs
  | acc kind hazard =>
    dsimp only
    split <;> exact hs

/-! SUPPORT. Memory's canonical form (log 2) through the functions of Sys2Proof/Machine/Integer.lean. -/

theorem execRdcr_canonical (hs : Memory.wf s.mem = true) : Canonical (execRdcr f s) := by
  refine withClutch_canonical fun e => ?_
  split
  · exact hs
  · exact runAlu_canonical hs

theorem execWrcr_canonical (hs : Memory.wf s.mem = true) : Canonical (execWrcr f s) := by
  refine issue_canonical hs fun e => ?_
  dsimp only
  split <;> simp [hs]

/-! SUPPORT. Memory's canonical form (log 2) through the functions of Sys2Proof/Machine/Moment.lean. -/

theorem runMoment_canonical {op : Nat} {usesRho : Bool} {srcTag : Option Nat} {tag : Env → Nat} {dst : MDst} {srcs : List Src}
    {g : State → Env → Nat → MOut} (hs : Memory.wf s.mem = true) :
    Canonical (runMoment op f usesRho srcTag tag dst srcs g s) := by
  refine withClutch_canonical fun e => ?_
  split
  · simpa using hs
  refine issueWith_canonical hs fun e => ?_
  dsimp only
  repeat' split
  all_goals simp [hs]

theorem momentArith_canonical {op srcs : Nat} {terms : List MVal → Option (List FVal) → List (List FVal) × List (List FVal)}
    (hs : Memory.wf s.mem = true) : Canonical (momentArith op f srcs terms s) := by
  unfold momentArith
  exact runMoment_canonical hs

theorem execMadd_canonical (hs : Memory.wf s.mem = true) : Canonical (execMadd f s) := by
  unfold execMadd
  exact momentArith_canonical hs

theorem execMsub_canonical (hs : Memory.wf s.mem = true) : Canonical (execMsub f s) := by
  unfold execMsub
  exact momentArith_canonical hs

theorem execMmul_canonical (hs : Memory.wf s.mem = true) : Canonical (execMmul f s) := by
  unfold execMmul
  exact momentArith_canonical hs

theorem execMfma_canonical (hs : Memory.wf s.mem = true) : Canonical (execMfma f s) := by
  unfold execMfma
  exact momentArith_canonical hs

theorem execMscl_canonical (hs : Memory.wf s.mem = true) : Canonical (execMscl f s) := by
  unfold execMscl
  exact runMoment_canonical hs

theorem execMset_canonical (hs : Memory.wf s.mem = true) : Canonical (execMset f s) := by
  unfold execMset
  exact runMoment_canonical hs

theorem nonlinearForm_canonical {op : Nat} (hs : Memory.wf s.mem = true) : Canonical (nonlinearForm op f s) := by
  unfold nonlinearForm
  exact runMoment_canonical hs

theorem execMcoll_canonical (hs : Memory.wf s.mem = true) : Canonical (execMcoll f s) := by
  unfold execMcoll
  exact runMoment_canonical hs

theorem execMmov_canonical (hs : Memory.wf s.mem = true) : Canonical (execMmov f s) := by
  unfold execMmov
  exact runMoment_canonical hs

theorem execMcvt_canonical (hs : Memory.wf s.mem = true) : Canonical (execMcvt f s) := by
  unfold execMcvt
  exact runMoment_canonical hs

/-! SUPPORT. Memory's canonical form (log 2) through the functions of Sys2Proof/Machine/LoadStore.lean. -/

theorem memoryWordWith_canonical {m : Option (Nat × Nat)} {op : Nat} {release : Bool} {srcs : List Src} {k : Env → Word → Out}
    (hs : Memory.wf s.mem = true) (hk : ∀ e w, Canonical (k e w)) : Canonical (memoryWordWith m op f release srcs s k) := by
  refine issue_canonical hs fun e => ?_
  split
  · simpa using hs
  split
  · simpa using hs
  split
  · exact hs
  · exact hk _ _

theorem memoryWord_canonical {op : Nat} {release : Bool} {srcs : List Src} {k : Env → Word → Out} (hs : Memory.wf s.mem = true)
    (hk : ∀ e w, Canonical (k e w)) : Canonical (memoryWord op f release srcs s k) := memoryWordWith_canonical hs hk

@[simp] theorem startAccess_canonical (p : Landing) (flags : Word) :
    Canonical (startAccess s e p flags) ↔ Memory.wf s.mem = true := by
  simp [startAccess]

theorem loadForm_canonical {op space : Nat} {gather : Bool} (hs : Memory.wf s.mem = true) :
    Canonical (loadForm op f space gather s) := by
  refine memoryWord_canonical hs fun e flags => withPlaces_canonical hs fun t sp places ht => ?_
  split <;> simp [ht]

theorem storeForm_canonical {op space reg : Nat} {gather : Bool} (hs : Memory.wf s.mem = true) :
    Canonical (storeForm op f space gather reg s) := by
  refine memoryWord_canonical hs fun e flags => withPlaces_canonical hs fun t sp places ht => ?_
  split <;> simp [ht]

theorem execMld_canonical (hs : Memory.wf s.mem = true) : Canonical (execMld f s) := by
  refine memoryWord_canonical hs fun e flags => withPlaces_canonical hs fun t sp places ht => ?_
  split <;> simp [ht]

theorem execMst_canonical (hs : Memory.wf s.mem = true) : Canonical (execMst f s) := by
  unfold execMst
  refine memoryWordWith_canonical hs fun e flags => ?_
  refine withPlaces_canonical hs fun t sp places ht => ?_
  split <;> simp [ht]

theorem execLdacc_canonical (hs : Memory.wf s.mem = true) : Canonical (execLdacc f s) := by
  refine memoryWord_canonical hs fun e flags => ?_
  dsimp only
  split
  · simpa using hs
  · split <;> simp [hs]

theorem execStacc_canonical (hs : Memory.wf s.mem = true) : Canonical (execStacc f s) := by
  unfold execStacc
  refine memoryWordWith_canonical hs fun e flags => ?_
  dsimp only
  split
  · simpa using hs
  · split <;> simp [hs]

theorem atomicForm_canonical {op space : Nat} {srcs : List Src} {mk : Env → AccessOp} {tag : BitVec 5} {flag : Bool}
    (hs : Memory.wf s.mem = true) : Canonical (atomicForm op f space srcs mk tag flag s) := by
  refine memoryWord_canonical hs fun e flags => ?_
  extract_lets n elems
  split
  · simpa using hs
  refine withPlaces_canonical hs fun t sp places ht => ?_
  split <;> simp [ht]

theorem rmwForm_canonical {op space : Nat} (hs : Memory.wf s.mem = true) : Canonical (rmwForm op f space s) := by
  unfold rmwForm
  exact atomicForm_canonical hs

theorem casForm_canonical {op space : Nat} (hs : Memory.wf s.mem = true) : Canonical (casForm op f space s) := by
  unfold casForm
  exact atomicForm_canonical hs

theorem withBrought_canonical {k : State → Out} (hs : Memory.wf s.mem = true) (hk : ∀ t, Memory.wf t.mem = true → Canonical (k t)) :
    Canonical (withBrought s e f k) := by
  unfold withBrought
  dsimp only
  split
  · exact hs
  · rename_i t h
    have ht : Memory.wf t.mem = true := wf_of_mem_eq (State.bring_mem _ _ _ _ _ h) hs
    split
    · simpa using ht
    split
    · exact wf_of_mem_eq (State.recall_mem ‹_›) ht
    · exact hk t ht

theorem execPref_canonical (hs : Memory.wf s.mem = true) : Canonical (execPref f s) := by
  refine memoryWord_canonical hs fun e flags => withBrought_canonical hs fun t ht => ?_
  simp [ht]

theorem execLineop_canonical (hs : Memory.wf s.mem = true) : Canonical (execLineop f s) := by
  refine memoryWord_canonical hs fun e flags => ?_
  split
  · simpa using hs
  refine withBrought_canonical hs fun t ht => ?_
  split <;> simp [ht]

/-! SUPPORT. Memory's canonical form (log 2) through the functions of Sys2Proof/Machine/Order.lean. -/

@[simp] theorem State.publish_mem (kind : FenceKind) : (s.publish e kind).mem = s.mem := by simp [State.publish]

theorem fenceForm_canonical {kind : FenceKind} (hs : Memory.wf s.mem = true) : Canonical (fenceForm f kind s) :=
  issue_canonical hs fun _ => by simpa using hs

theorem execPromote_canonical (hs : Memory.wf s.mem = true) : Canonical (execPromote f s) := by
  refine memoryWord_canonical hs fun e flags => ?_
  dsimp only
  split
  · simpa using hs
  refine withGlobal_canonical hs fun t places ht => ?_
  split <;> simp [ht]

theorem execFenceComplete_canonical {who : ClutchId} (hs : Memory.wf s.mem = true) : Canonical (execFenceComplete who s) := by
  unfold execFenceComplete
  dsimp only
  repeat' split
  all_goals simp [hs]

/-! SUPPORT. Memory's canonical form (log 2) through the functions of Sys2Proof/Machine/Landing.lean. -/

@[simp] theorem State.land_mem (p : Landing) : (s.land p).mem = s.mem := by
  unfold State.land
  dsimp only
  split <;> simp

@[simp] theorem State.poisonLanding_mem (p : Landing) (pc : Word) (mask : Mask) : (s.poisonLanding p pc mask).mem = s.mem := by
  unfold State.poisonLanding
  dsimp only
  split <;> simp

theorem execLongLatencyLanding_canonical {id : Nat} (hs : Memory.wf s.mem = true) :
    Canonical (execLongLatencyLanding id s) := by
  unfold execLongLatencyLanding
  split
  · exact hs
  split
  · exact hs
  split
  · simpa using hs
  split
  · exact hs
  split
  · exact wf_of_mem_eq (State.recall_mem ‹_›) hs
  extract_lets core r
  have hr : Memory.wf r.s.mem = true := State.perform_mem_wf hs
  split <;> simp [hr]

@[simp] theorem State.logEvent_mem (kind : LogKind) (die ctx coreid detail : Nat) :
    (s.logEvent kind die ctx coreid detail).mem = s.mem := by
  simp [State.logEvent]

/-! SUPPORT. Memory's canonical form (log 2) through the functions of Sys2Proof/Machine/Tables.lean. -/

theorem State.allocFuture_mem {die ctx owner i : Nat} {kind : FutureKind} (h : s.allocFuture die ctx kind owner = some (i, t)) :
    t.mem = s.mem := by
  unfold State.allocFuture at h
  split at h
  · cases h
  · cases h
    rfl

@[simp] theorem State.deliver_mem (id v : Nat) : (s.deliver id v).mem = s.mem := by
  unfold State.deliver
  dsimp only
  repeat' split
  all_goals simp

@[simp] theorem State.freeFutureAt_mem (die i : Nat) : (s.freeFutureAt die i).mem = s.mem :=
  State.foldl_mem _ (fun _ _ => by simp) _ _

@[simp] theorem State.completeFuture_mem (die i : Nat) (st : FutureState) (v : DWord) :
    (s.completeFuture die i st v).mem = s.mem := by
  simp [State.completeFuture, State.foldl_mem]

@[simp] theorem State.retireFutures_mem (die uid : Nat) : (s.retireFutures die uid).mem = s.mem :=
  State.foldl_mem _ (fun _ _ => by simp) _ _

@[simp] theorem State.discardFutures_mem (die uid : Nat) : (s.discardFutures die uid).mem = s.mem :=
  State.foldl_mem _ (fun _ _ => by simp) _ _

@[simp] theorem produceWord_canonical (d bytes : Nat) (w : Word) :
    Canonical (produceWord s e d bytes w) ↔ Memory.wf s.mem = true := by
  simp [produceWord]

@[simp] theorem writeResult_mem (d bytes : Nat) (w : Word) : (writeResult s e d bytes w).mem = s.mem := by simp [writeResult]

theorem withLow_canonical {regs : List Nat} {k : Out} (hs : Memory.wf s.mem = true) (hk : Canonical k) :
    Canonical (withLow s e regs k) := by
  unfold withLow
  split
  · simpa using hs
  · exact hk

theorem withActive_canonical {regs : List Nat} {k : Out} (hs : Memory.wf s.mem = true) (hk : Canonical k) :
    Canonical (withActive s e regs k) := by
  unfold withActive
  dsimp only
  split
  · simpa using hs
  · exact hk

/-! SUPPORT. Memory's canonical form (log 2) through the functions of Sys2Proof/Machine/Fabric.lean. -/

theorem State.receive_mem {src dst : Nat} {m : Msg} (h : s.receive src dst m = some t) : t.mem = s.mem := by
  unfold State.receive at h
  split at h
  · cases h
  split at h
  all_goals
    split at h
    · cases h
      rfl
    · cases h

@[simp] theorem State.landLanes_mem (id : Nat) (mask : Mask) (words : List Lanes) (flags : Word) :
    (s.landLanes id mask words flags).mem = s.mem := by
  unfold State.landLanes
  split <;> simp

@[simp] theorem State.landFree_mem (a : Asked) : (s.landFree a).mem = s.mem := by
  unfold State.landFree
  split <;> simp

@[simp] theorem State.freeze_mem (ctx : Nat) (code : Code) : (s.freeze ctx code).mem = s.mem := by
  unfold State.freeze
  dsimp only
  split
  · rfl
  · simp [State.foldl_mem State.landFree, State.foldl_mem (fun (s : State) c => s.stopCore c none 31 code) fun _ _ => rfl]

@[simp] theorem State.dropPacket_mem (src keyidx : Nat) : (s.dropPacket src keyidx).mem = s.mem := by simp [State.dropPacket]

@[simp] theorem State.enterFilter_mem (die keyidx : Nat) (tag : DWord) (lane : Nat) (win : Bool) :
    (s.enterFilter die keyidx tag lane win).mem = s.mem := by
  simp [State.enterFilter]

@[simp] theorem State.refuse_mem (launch : Nat) (r : RefusalRec) : (s.refuse launch r).mem = s.mem := by simp [State.refuse]

@[simp] theorem State.releaseBinTags_mem (ctx pre : Nat) : (s.releaseBinTags ctx pre).mem = s.mem := by
  simp [State.releaseBinTags]

@[simp] theorem State.flushReleases_mem : s.flushReleases.mem = s.mem := by
  unfold State.flushReleases
  refine State.foldl_mem _ (fun t p => ?_) _ _
  split
  · rfl
  refine (State.foldl_mem _ (fun u h => ?_) _ _).trans (by simp)
  exact State.foldl_mem _ (fun _ _ => by simp) _ _

@[simp] theorem State.releaseChorus_mem (c : Chorus) (l : Launch) : (s.releaseChorus c l).mem = s.mem := by
  simp [State.releaseChorus]

@[simp] theorem State.noteHome_mem (chorus dev keyidx : Nat) : (s.noteHome chorus dev keyidx).mem = s.mem := by
  simp [State.noteHome]

@[simp] theorem State.finishMcast_mem (m : Mcast) : (s.finishMcast m).mem = s.mem := by simp [State.finishMcast]

@[simp] theorem State.mcastSettled_mem (id dev : Nat) (r : Option Reason) : (s.mcastSettled id dev r).mem = s.mem := by
  unfold State.mcastSettled
  split <;> simp

@[simp] theorem State.settle_mem (u : Unsettled) (r : Option Reason) : (s.settle u r).mem = s.mem := by
  unfold State.settle
  dsimp only
  repeat' split
  all_goals simp [State.foldl_mem]

@[simp] theorem State.settleAsked_mem (a : Asked) (r : Option Reason) : (s.settleAsked a r).mem = s.mem := by
  unfold State.settleAsked
  split <;> simp

@[simp] theorem State.poisonSource_mem (who : ClutchId) (launch : Nat) (pc : Word) (lane : Nat) :
    (s.poisonSource who launch pc lane).mem = s.mem := by
  unfold State.poisonSource
  dsimp only
  repeat' split
  all_goals simp

@[simp] theorem State.enqueue_mem (elems : List Element) (reqs : List Asked) : (s.enqueue e elems reqs).mem = s.mem := by
  simp [State.enqueue]

@[simp] theorem State.spend_mem (dev keyidx : Nat) : (s.spend dev keyidx).mem = s.mem := by simp [State.spend]

@[simp] theorem State.announce_mem (ctx dev keyidx : Nat) : (s.announce ctx dev keyidx).mem = s.mem := by
  simp [State.announce]

/-! SUPPORT. Memory's canonical form (log 2) through the functions of Sys2Proof/Machine/Home.lean. -/

@[simp] theorem State.countConflict_mem (die ctx : Nat) : (s.countConflict die ctx).mem = s.mem := by
  simp [State.countConflict]

theorem State.putOnce_mem_wf {ctx die : Nat} {bytes : Store Byte} (hs : Memory.wf s.mem = true) :
    Memory.wf (s.putOnce ctx die bytes).mem = true := by
  unfold State.putOnce
  dsimp only
  split <;> simp [State.writeBytes_mem_wf, hs]

@[simp] theorem State.putOnceLocal_mem (c : Chorus) (ctx key n x : Nat) : (s.putOnceLocal c ctx key n x).mem = s.mem := by
  simp [State.putOnceLocal]

theorem State.bringHome_mem {ctx : Nat} {vas : List Nat} (h : s.bringHome ctx vas = some t) : t.mem = s.mem := by
  induction vas generalizing s with
  | nil => cases h; rfl
  | cons va rest ih =>
    unfold State.bringHome at h
    split at h
    · exact ih h
    split at h
    · split at h
      · exact (ih h).trans (State.bring_mem _ _ _ _ _ ‹_›)
      · cases h
    · exact ih h

theorem State.arrive_mem_wf {arr : Option Nat} (hs : Memory.wf s.mem = true) : Memory.wf (s.arrive arr).mem = true := by
  cases arr with
  | none => exact hs
  | some w => exact State.writeBytes_mem_wf _ _ hs

theorem State.applyAt_mem_wf {ctx pa x : Nat} {op : HomeOp} {arr : Option Nat} (hs : Memory.wf s.mem = true) :
    Memory.wf (s.applyAt ctx pa op x arr).mem = true := by
  unfold State.applyAt
  refine State.arrive_mem_wf ?_
  split
  · exact State.putOnce_mem_wf hs
  · exact State.writeBytes_mem_wf _ _ hs

@[simp] theorem State.merge_mem (l : Lease) (pa : Nat) (x : Element) : (s.merge l pa x).mem = s.mem := by simp [State.merge]

@[simp] theorem State.returnLease_mem (l : Lease) : (s.returnLease l).mem = s.mem := by
  unfold State.returnLease
  split <;> rfl

@[simp] theorem State.leave_mem (u : Unsettled) : (s.leave u).mem = s.mem := by simp [State.leave]

@[simp] theorem State.sendElem_mem (q : Queued) (x : Element) : (s.sendElem q x).mem = s.mem := by
  unfold State.sendElem
  dsimp only
  split <;> simp

@[simp] theorem State.sendReq_mem (a : Asked) : (s.sendReq a).mem = s.mem := by simp [State.sendReq]

@[simp] theorem State.refuseAsked_mem (a : Asked) (r : Reason) : (s.refuseAsked a r).mem = s.mem := by
  unfold State.refuseAsked
  split <;> simp

@[simp] theorem State.refuseUnrouted_mem (q : Queued) : (s.refuseUnrouted q).mem = s.mem := by
  simp [State.refuseUnrouted, State.foldl_mem]

theorem State.sendAll_mem {q : Queued} {ctx : Nat} {elems : List Element} {popped : State → State}
    (hp : (popped s).mem = s.mem) : (s.sendAll q ctx elems popped).mem = s.mem := by
  unfold State.sendAll
  dsimp only
  split
  · exact (State.foldl_mem _ (fun _ _ => by simp) _ _).trans (by simp [hp])
  · refine (State.foldl_mem _ (fun t k => ?_) _ _).trans ?_
    · split <;> simp
    · simp [State.foldl_mem, hp]

theorem execRemoteSend_canonical {c : CoreId} (hs : Memory.wf s.mem = true) : Canonical (execRemoteSend c s) := by
  unfold execRemoteSend
  split
  · exact hs
  dsimp only
  split
  · exact hs
  split
  · exact hs
  split
  · exact wf_of_mem_eq (State.sendAll_mem (by simp)) hs
  split
  · exact hs
  split
  · simpa using hs
  · exact wf_of_mem_eq (State.sendAll_mem (by simp [State.foldl_mem])) hs

theorem execRetransmit_canonical {keyidx : Nat} {tag : DWord} {lane dev : Nat} (hs : Memory.wf s.mem = true) :
    Canonical (execRetransmit keyidx tag lane dev s) := by
  unfold execRetransmit
  dsimp only
  repeat' split
  all_goals simp [hs]

theorem execUnreachDeadline_canonical {keyidx : Nat} {tag : DWord} {lane dev : Nat} (hs : Memory.wf s.mem = true) :
    Canonical (execUnreachDeadline keyidx tag lane dev s) := by
  unfold execUnreachDeadline
  split
  · simpa using hs
  split
  · split <;> simp [hs]
  · exact hs

@[simp] theorem State.ackElem_mem (x : Element) (r : AckResult) : (s.ackElem x r).mem = s.mem := by simp [State.ackElem]

@[simp] theorem State.contend_mem (pa kind : Nat) (x : Element) : (s.contend pa kind x).mem = s.mem := by
  simp [State.contend]

theorem State.globalElement_mem_wf {x : Element} {ctx pa kind : Nat} (hs : Memory.wf s.mem = true) :
    Memory.wf (s.globalElement x ctx pa kind).mem = true := by
  unfold State.globalElement
  dsimp only
  split
  · simpa using hs
  split
  · simpa using hs
  split
  · simpa using hs
  split
  · simpa using hs
  · simpa using State.applyAt_mem_wf (by simpa using hs)

@[simp] theorem State.windowElement_mem (x : Element) (ctx : Nat) (w : WinTarget) : (s.windowElement x ctx w).mem = s.mem := by
  unfold State.windowElement
  dsimp only
  repeat' split
  all_goals simp

@[simp] theorem State.useCredit_mem (src keyidx : Nat) : (s.useCredit src keyidx).mem = s.mem := by simp [State.useCredit]

theorem execElem_canonical {x : Element} (hs : Memory.wf s.mem = true) : Canonical (execElem x s) := by
  unfold execElem
  split
  · exact hs
  rename_i t h
  have ht : Memory.wf t.mem = true := wf_of_mem_eq (State.receive_mem h) hs
  dsimp only
  split
  · simpa using ht
  split
  · simpa using ht
  split
  · simpa using ht
  split
  · exact hs
  rename_i u hu
  have hu : Memory.wf (u.useCredit (t.untranslated x).srcDev (t.untranslated x).keyidx).mem = true := by
    simpa [State.bringHome_mem hu] using ht
  have lands (ctx pa kind : Nat) (y : Element) :=
    State.globalElement_mem_wf (x := y) (ctx := ctx) (pa := pa) (kind := kind) hu
  repeat' split
  all_goals simp_all

theorem execAck_canonical {a : Ack} (hs : Memory.wf s.mem = true) : Canonical (execAck a s) := by
  unfold execAck
  split
  · exact hs
  have ht := wf_of_mem_eq (State.receive_mem ‹_›) hs
  dsimp only
  repeat' split
  all_goals simp [ht]

@[simp] theorem State.reply_mem (r : ReadReq) (body : ReplyBody) : (s.reply r body).mem = s.mem := by simp [State.reply]

theorem execRreq_canonical {r : ReadReq} (hs : Memory.wf s.mem = true) : Canonical (execRreq r s) := by
  unfold execRreq
  split
  · exact hs
  have ht := wf_of_mem_eq (State.receive_mem ‹_›) hs
  dsimp only
  split
  · simpa using ht
  split
  · simpa using ht
  split
  · repeat' split
    all_goals simp [hs, ht]
  split
  · exact hs
  have hb := wf_of_mem_eq (State.bringHome_mem ‹_›) ht
  split
  · simpa using hb
  · simpa using hb
  split
  · simpa using hb
  split
  · exact wf_of_mem_eq (State.recall_mem ‹_›) hs
  repeat' split
  all_goals simp [hb]

theorem State.landReply_mem_wf {a : Asked} {n v : Nat} {landing : DWord} {arr : Option DWord} (hs : Memory.wf s.mem = true) :
    Memory.wf (s.landReply a n landing arr v).mem = true := by
  unfold State.landReply
  dsimp only
  repeat' split
  all_goals simp [hs, State.arrive_mem_wf, State.putOnce_mem_wf]

theorem execRreply_canonical {r : ReadReply} (hs : Memory.wf s.mem = true) : Canonical (execRreply r s) := by
  unfold execRreply
  split
  · exact hs
  have ht := wf_of_mem_eq (State.receive_mem ‹_›) hs
  split
  · exact ht
  split
  · simpa using ht
  · simpa using ht
  · simpa using ht
  · simpa using ht
  · split
    · exact hs
    · exact State.landReply_mem_wf (wf_of_mem_eq (State.bringHome_mem ‹_›) ht)
  · simpa using ht
  · simpa using ht
  · exact ht

theorem execDemand_canonical {p : Pace} (hs : Memory.wf s.mem = true) : Canonical (execDemand p s) := by
  unfold execDemand
  split
  · exact hs
  have ht := wf_of_mem_eq (State.receive_mem ‹_›) hs
  split <;> simp [ht]

theorem execGrant_canonical {p : Pace} (hs : Memory.wf s.mem = true) : Canonical (execGrant p s) := by
  unfold execGrant
  dsimp only
  split
  · split <;> simp [hs]
  split
  · exact hs
  have ht := wf_of_mem_eq (State.receive_mem ‹_›) hs
  split <;> simp [ht]

/-! SUPPORT. Memory's canonical form (log 2) through the functions of Sys2Proof/Machine/Barrier.lean. -/

@[simp] theorem barPass_canonical : Canonical (barPass s e f) ↔ Memory.wf s.mem = true := by
  unfold barPass
  dsimp only
  repeat' split
  all_goals simp

theorem barWord_canonical {k : Env → Out} (hs : Memory.wf s.mem = true) (hk : ∀ e, Canonical (k e)) :
    Canonical (barWord f s k) := by
  refine issue_canonical hs fun e => ?_
  dsimp only
  split
  · simpa using hs
  · exact hk e

@[simp] theorem State.expose_mem : (s.expose e).mem = s.mem := by simp [State.expose]

theorem execBarArrive_canonical (hs : Memory.wf s.mem = true) : Canonical (execBarArrive f s) :=
  barWord_canonical hs fun _ => by simpa using hs

@[simp] theorem State.arriveNow_mem (who : ClutchId) : (s.arriveNow who).mem = s.mem := by
  unfold State.arriveNow
  dsimp only
  repeat' split
  all_goals simp

theorem barWait_canonical {sync : Bool} (hs : Memory.wf s.mem = true) : Canonical (barWait f sync s) := by
  refine barWord_canonical hs fun e => ?_
  dsimp only
  repeat' split
  all_goals simp [hs]

/-! SUPPORT. Memory's canonical form (log 2) through the functions of Sys2Proof/Machine/Matrix.lean. -/

theorem withSequencer_canonical {k : SeqEnv → Out} (hk : ∀ e, Canonical (k e)) : Canonical (withSequencer s k) := by
  unfold withSequencer
  split
  · split
    · exact hk _
    · trivial
  · trivial

@[simp] theorem State.modSeq_mem (e : SeqEnv) (g : Sequencer → Sequencer) : (s.modSeq e g).mem = s.mem := by
  simp [State.modSeq]

@[simp] theorem State.seqFault_mem (e : SeqEnv) (code : Code) : (s.seqFault e code).mem = s.mem := by simp [State.seqFault]

theorem seqWord_canonical {bytes : Nat} {g : SeqEnv → Sequencer → Sequencer} (hs : Memory.wf s.mem = true) :
    Canonical (seqWord s bytes g) := by
  refine withSequencer_canonical fun e => ?_
  simpa using hs

theorem execQmov_canonical (hs : Memory.wf s.mem = true) : Canonical (execQmov f s) := by
  unfold execQmov
  exact seqWord_canonical hs

theorem execQadd_canonical (hs : Memory.wf s.mem = true) : Canonical (execQadd f s) := by
  unfold execQadd
  exact seqWord_canonical hs

theorem execQbra_canonical (hs : Memory.wf s.mem = true) : Canonical (execQbra f s) := by
  refine withSequencer_canonical fun e => ?_
  dsimp only
  repeat' split
  all_goals simp [hs]

theorem execMend_canonical (hs : Memory.wf s.mem = true) : Canonical (execMend f s) := by
  refine withSequencer_canonical fun e => ?_
  split <;> simp [hs]

theorem execMwait_canonical (hs : Memory.wf s.mem = true) : Canonical (execMwait f s) := by
  refine withSequencer_canonical fun e => ?_
  dsimp only
  split <;> simp [hs]

theorem execMarrive_canonical (hs : Memory.wf s.mem = true) : Canonical (execMarrive f s) := by
  refine withSequencer_canonical fun e => ?_
  split <;> simp [hs]

@[simp] theorem State.meetCopies_mem (uid pos : Nat) (j : Job) : (s.meetCopies uid pos j).1.mem = s.mem := rfl

@[simp] theorem SeqEnv.start_mem (e : SeqEnv) (j : Job) (bytes : Nat) (bc : Bool) : (e.start s j bytes bc).mem = s.mem := by
  simp [SeqEnv.start]

theorem issueMma_canonical {es : List (SeqEnv × Fields)} (hs : Memory.wf s.mem = true) : Canonical (issueMma s es) := by
  unfold issueMma
  split
  · exact hs
  dsimp only
  split
  · simpa using hs
  · simpa [State.foldl_mem] using hs

theorem mmaForm_canonical (hs : Memory.wf s.mem = true) : Canonical (mmaForm f s) := by
  refine withSequencer_canonical fun e => ?_
  split
  · simpa using hs
  split
  · exact hs
  · exact issueMma_canonical hs

theorem execMmaBc_canonical (hs : Memory.wf s.mem = true) : Canonical (execMmaBc f s) := by
  refine withSequencer_canonical fun e => ?_
  dsimp only
  split
  · simpa using hs
  split
  · simpa using hs
  split
  · simpa using hs
  split
  · simpa using hs
  · exact issueMma_canonical (by simpa using hs)

theorem execMzero_canonical (hs : Memory.wf s.mem = true) : Canonical (execMzero f s) := by
  refine withSequencer_canonical fun e => ?_
  dsimp only
  repeat' split
  all_goals simp [hs]

theorem execMmaComplete_canonical {uid pos job : Nat} (hs : Memory.wf s.mem = true) :
    Canonical (execMmaComplete uid pos job s) := by
  unfold execMmaComplete
  dsimp only
  repeat' split
  all_goals simp [hs]

/-! SUPPORT. Memory's canonical form (log 2) through the functions of Sys2Proof/Machine/Counters.lean. -/

@[simp] theorem State.count_mem (c : CoreId) (event : Nat) (ctx : Option Nat) (n : Nat) :
    (s.count c event ctx n).mem = s.mem := by
  simp [State.count]

@[simp] theorem State.countCycles_mem (n : Nat) : (s.countCycles n).mem = s.mem := by
  unfold State.countCycles
  dsimp only
  refine State.foldl_mem _ (fun t ch => State.foldl_mem _ (fun u c => ?_) _ _) _ _
  split
  · simp
  · split <;> simp

@[simp] theorem State.countEvent_mem (t : State) (i : Instr) : (t.countEvent s i).mem = s.mem := by
  unfold State.countEvent
  dsimp only
  repeat' split
  all_goals simp

@[simp] theorem State.countStream_mem (t : State) (uid pos : Nat) (i : Instr) : (t.countStream s uid pos i).mem = s.mem := by
  unfold State.countStream
  split
  case h_5 => rfl
  all_goals
    split
    · rfl
    refine State.foldl_mem _ (fun u q => ?_) _ _
    split
    · split <;> simp
    · rfl

/-! SUPPORT. Memory's canonical form (log 2) through the functions of Sys2Proof/Machine/Remote.lean. -/

theorem withTranslated_canonical {access : Nat} {vas : List Nat} {k : State → Out} (hs : Memory.wf s.mem = true)
    (hk : ∀ t, Memory.wf t.mem = true → Canonical (k t)) : Canonical (withTranslated s e access vas k) := by
  unfold withTranslated
  split
  · simpa using hs
  · simpa using hs
  · exact hk _ (by simpa using hs)

@[simp] theorem State.refuseTargets_mem (ts : List Target) (tag : DWord) : (s.refuseTargets e ts tag).mem = s.mem :=
  State.foldl_mem _ (fun _ _ => by simp) _ _

@[simp] theorem remoteDone_canonical : Canonical (remoteDone s e) ↔ Memory.wf s.mem = true := by simp [remoteDone]

theorem remoteForm_canonical {op : Nat} {r : RemoteData} (hs : Memory.wf s.mem = true) : Canonical (remoteForm op f r s) := by
  refine memoryWord_canonical hs fun e fmt => withActive_canonical hs ?_
  dsimp only
  split
  · simpa using hs
  refine withTranslated_canonical hs fun t ht => ?_
  repeat' split
  all_goals simp [ht]

theorem execRput1_canonical (hs : Memory.wf s.mem = true) : Canonical (execRput1 f s) := by
  unfold execRput1
  exact remoteForm_canonical hs

theorem execRget_canonical (hs : Memory.wf s.mem = true) : Canonical (execRget f s) := by
  refine memoryWord_canonical hs fun e _ => ?_
  dsimp only
  split
  · simpa using hs
  refine withTranslated_canonical hs fun t ht => withTranslated_canonical ht fun u hu => ?_
  split <;> simp [hu]

theorem execRaccCvt_canonical (hs : Memory.wf s.mem = true) : Canonical (execRaccCvt f s) := by
  refine issue_canonical hs fun e => withActive_canonical hs ?_
  dsimp only
  split
  · simpa using hs
  refine withTranslated_canonical hs fun t ht => ?_
  repeat' split
  all_goals simp [ht]

theorem execMcast1_canonical (hs : Memory.wf s.mem = true) : Canonical (execMcast1 f s) := by
  refine memoryWord_canonical hs fun e fmt => withActive_canonical hs ?_
  dsimp only
  split
  · simpa using hs
  split
  · simpa using hs
  split
  · exact hs
  split
  · exact hs
  have ht := wf_of_mem_eq (State.allocFuture_mem ‹_›) hs
  split <;> simp [ht]

/-! SUPPORT. Memory's canonical form (log 2) through the functions of Sys2Proof/Machine/Window.lean. -/

theorem execCwinAttach_canonical (hs : Memory.wf s.mem = true) : Canonical (execCwinAttach f s) := by
  refine issue_canonical hs fun e => ?_
  dsimp only
  split
  · simpa using hs
  split <;> split <;> simp [hs, State.foldl_mem]

theorem execCwinDetach_canonical (hs : Memory.wf s.mem = true) : Canonical (execCwinDetach f s) := by
  refine issue_canonical hs fun e => ?_
  split <;> simp [hs]

theorem windowForm_canonical {n : Nat} {srcs : List Src} {op : HomeOp} {data : State → Env → Nat → Nat}
    (hs : Memory.wf s.mem = true) : Canonical (windowForm f n srcs op data s) := by
  refine memoryWord_canonical hs fun e fmt => ?_
  dsimp only
  repeat' split
  all_goals simp [hs, State.foldl_mem]

theorem windowInt_canonical {op : Nat → HomeOp} (hs : Memory.wf s.mem = true) : Canonical (windowInt f op s) := by
  unfold windowInt
  exact windowForm_canonical hs

theorem execCwinPut1_canonical (hs : Memory.wf s.mem = true) : Canonical (execCwinPut1 f s) := by
  unfold execCwinPut1
  exact windowForm_canonical hs

theorem execCwinArr_canonical (hs : Memory.wf s.mem = true) : Canonical (execCwinArr f s) := by
  unfold execCwinArr
  exact windowForm_canonical hs

theorem execCwld_canonical (hs : Memory.wf s.mem = true) : Canonical (execCwld f s) := by
  refine memoryWord_canonical hs fun e flags => ?_
  dsimp only
  repeat' split
  all_goals simp [hs, State.foldl_mem]

theorem execCwst_canonical (hs : Memory.wf s.mem = true) : Canonical (execCwst f s) := by
  refine memoryWord_canonical hs fun e flags => ?_
  dsimp only
  repeat' split
  all_goals simp [hs]

/-! SUPPORT. Memory's canonical form (log 2) through the functions of Sys2Proof/Machine/Arrival.lean. -/

theorem arrivalForm_canonical {op : Nat} {write : Bool} {k : State → Env → ArrivalWord → Nat → Out} (hs : Memory.wf s.mem = true)
    (hk : ∀ t e w n, Memory.wf t.mem = true → Canonical (k t e w n)) : Canonical (arrivalForm op f write s k) := by
  refine issue_canonical hs fun e => ?_
  dsimp only
  split
  · exact hs
  refine withLow_canonical hs ?_
  split
  · simpa using hs
  split
  · repeat' split
    all_goals simp [hs, hk]
  split
  · simpa using hs
  · simpa using hs
  have ht : Memory.wf (s.touchTlb e.core e.l.ctx [e.arrivalAddr s f]).mem = true := by simpa using hs
  split
  · simpa using ht
  split
  · exact ht
  split
  · exact wf_of_mem_eq (State.recall_mem ‹_›) ht
  split
  · simpa using ht
  · exact hk _ _ _ _ ht

@[simp] theorem State.producePair_mem (d v : Nat) : (s.producePair e d v).mem = s.mem := by simp [State.producePair]

theorem execArrwait_canonical (hs : Memory.wf s.mem = true) : Canonical (execArrwait f s) := by
  refine arrivalForm_canonical hs fun t e w v ht => ?_
  dsimp only
  repeat' split
  all_goals simp [ht]

theorem execArrset_canonical (hs : Memory.wf s.mem = true) : Canonical (execArrset f s) := by
  refine arrivalForm_canonical hs fun t e w v ht => ?_
  have hst := State.storeAt_mem_wf t e.who w.space w.places (e.lowPair t f.b.toNat) ht
  dsimp only
  split <;> simp [hst]

theorem execArrtest_canonical (hs : Memory.wf s.mem = true) : Canonical (execArrtest f s) := by
  refine arrivalForm_canonical hs fun t e w v ht => ?_
  simp [ht]

/-! SUPPORT. Memory's canonical form (log 2) through the functions of Sys2Proof/Machine/Copy.lean. -/

@[simp] theorem State.readsThrough_mem (c : CoreId) (ctx : Nat) (spans : List (Nat × Nat)) :
    (s.readsThrough c ctx spans).mem = s.mem := by
  simp [State.readsThrough]

theorem State.bringSpans_mem {die ctx : Nat} {spans : List (Nat × Nat)} (h : s.bringSpans die ctx spans = some t) :
    t.mem = s.mem := State.bring_mem _ _ _ _ _ h

@[simp] theorem State.performUnits_mem (e : Env) (j : CopyJob) (us : List CopyUnit) :
    (s.performUnits e j us).1.mem = s.mem := by
  simp [State.performUnits]

theorem execTcpKick_canonical (hs : Memory.wf s.mem = true) : Canonical (execTcpKick f s) := by
  refine issue_canonical hs fun e => withLow_canonical hs ?_
  dsimp only
  split
  · exact hs
  split
  · simpa using hs
  split
  · simpa using hs
  split
  · simpa using hs
  split
  · simpa using hs
  split
  · exact hs
  split
  · exact hs
  have ht := wf_of_mem_eq (State.allocFuture_mem ‹_›) hs
  split <;> simp [ht]

@[simp] theorem State.dropCopy_mem (id : Nat) : (s.dropCopy id).mem = s.mem := by simp [State.dropCopy]

@[simp] theorem State.giveBack_mem (j : CopyJob) : (s.giveBack j).mem = s.mem := by simp [State.giveBack]

theorem execCopyAdmit_canonical {id : Nat} (hs : Memory.wf s.mem = true) : Canonical (execCopyAdmit id s) := by
  unfold execCopyAdmit
  dsimp only
  repeat' split
  all_goals simp [hs]

@[simp] theorem State.endCopy_mem (j : CopyJob) (st : FutureState) (v : DWord) : (s.endCopy j st v).mem = s.mem := by
  simp [State.endCopy]

@[simp] theorem State.stopCopy_mem (j : CopyJob) (st : FutureState) (v : DWord) : (s.stopCopy j st v).mem = s.mem := by
  simp [State.stopCopy]

@[simp] theorem State.poisonCopy_mem (j : CopyJob) : (s.poisonCopy e j).mem = s.mem := by simp [State.poisonCopy]

theorem execCopyComplete_canonical {id : Nat} (hs : Memory.wf s.mem = true) : Canonical (execCopyComplete id s) := by
  unfold execCopyComplete
  split
  · exact hs
  split
  · simpa using hs
  split
  · split <;> simp [hs]
  dsimp only
  split
  · exact hs
  have ht := wf_of_mem_eq (State.bring_mem _ _ _ _ _ ‹_›) hs
  split
  · exact ht
  split
  · simpa using ht
  split
  · exact wf_of_mem_eq (State.recall_mem ‹_›) ht
  · simpa using ht

theorem execCopyFail_canonical {id : Nat} (hs : Memory.wf s.mem = true) : Canonical (execCopyFail id s) := by
  unfold execCopyFail
  split
  · exact hs
  split
  · simpa using hs
  split
  · exact hs
  have ht := wf_of_mem_eq (State.bring_mem _ _ _ _ _ ‹_›) hs
  dsimp only
  split <;> simp [ht]

@[simp] theorem State.cancelCopy_mem (j : CopyJob) : (s.cancelCopy j).mem = s.mem := by
  unfold State.cancelCopy
  dsimp only
  repeat' split
  all_goals simp

@[simp] theorem cancelHandle_mem (h : Word) : (cancelHandle s e h).1.mem = s.mem := by
  unfold cancelHandle
  repeat' split
  all_goals simp

@[simp] theorem cancelWord_canonical (h : Word) (d bytes : Nat) :
    Canonical (cancelWord s e h d bytes) ↔ Memory.wf s.mem = true := by
  simp [cancelWord]

theorem execTcpCancel_canonical (hs : Memory.wf s.mem = true) : Canonical (execTcpCancel f s) :=
  issue_canonical hs fun _ => withLow_canonical hs (by simpa using hs)

/-! SUPPORT. Memory's canonical form (log 2) through the functions of Sys2Proof/Machine/Futures.lean. -/

theorem execFtest_canonical (hs : Memory.wf s.mem = true) : Canonical (execFtest f s) := by
  refine issue_canonical hs fun e => withLow_canonical hs ?_
  split
  · simpa using hs
  · dsimp only
    split <;> simp [hs]

theorem execFread_canonical (hs : Memory.wf s.mem = true) : Canonical (execFread f s) := by
  refine issue_canonical hs fun e => withLow_canonical hs ?_
  dsimp only
  repeat' split
  all_goals simp [hs]

theorem execFcancel_canonical (hs : Memory.wf s.mem = true) : Canonical (execFcancel f s) := by
  refine issue_canonical hs fun e => withLow_canonical hs ?_
  dsimp only
  repeat' split
  all_goals simp [hs]

@[simp] theorem tileWord_canonical (k : Tile → (Tile → Tile) × Word) :
    Canonical (tileWord s e f k) ↔ Memory.wf s.mem = true := by
  unfold tileWord
  dsimp only
  repeat' split
  all_goals simp

theorem execTiledef_canonical (hs : Memory.wf s.mem = true) : Canonical (execTiledef f s) := by
  refine issue_canonical hs fun e => withLow_canonical hs ?_
  dsimp only
  split
  · simpa using hs
  split <;> simp [hs]

theorem execTilerel_canonical (hs : Memory.wf s.mem = true) : Canonical (execTilerel f s) :=
  issue_canonical hs fun _ => by simpa using hs

theorem execTilest_canonical (hs : Memory.wf s.mem = true) : Canonical (execTilest f s) :=
  issue_canonical hs fun _ => by simpa using hs

theorem execTiledrn_canonical (hs : Memory.wf s.mem = true) : Canonical (execTiledrn f s) := by
  refine issue_canonical hs fun e => ?_
  dsimp only
  split <;> simp [hs]

/-! SUPPORT. Memory's canonical form (log 2) through the functions of Sys2Proof/Machine/Blocks.lean. -/

theorem blockWord_canonical {op : Nat} {k : Env → Nat → Out} (hs : Memory.wf s.mem = true) (hk : ∀ e n, Canonical (k e n)) :
    Canonical (blockWord op f s k) := by
  refine issue_canonical hs fun e => ?_
  split
  · simpa using hs
  · exact hk e _

theorem execRegsurr_canonical (hs : Memory.wf s.mem = true) : Canonical (execRegsurr f s) := by
  refine blockWord_canonical hs fun e k => ?_
  dsimp only
  split
  · simpa using hs
  · split <;> simp [hs]

theorem execRegclaim_canonical (hs : Memory.wf s.mem = true) : Canonical (execRegclaim f s) := by
  refine blockWord_canonical hs fun e k => ?_
  repeat' split
  all_goals simp [hs]

theorem execRegclaimGrant_canonical {uid pos : Nat} (hs : Memory.wf s.mem = true) :
    Canonical (execRegclaimGrant uid pos s) := by
  unfold execRegclaimGrant
  dsimp only
  repeat' split
  all_goals simp [hs]

theorem execRegclaimDeadlock_canonical {uid pos : Nat} (hs : Memory.wf s.mem = true) :
    Canonical (execRegclaimDeadlock uid pos s) := by
  unfold execRegclaimDeadlock
  dsimp only
  repeat' split
  all_goals simp [hs]

/-! SUPPORT. Memory's canonical form (log 2) through the functions of Sys2Proof/Machine/Debug.lean. -/

@[simp] theorem State.resumeCore_mem (c : CoreId) : (s.resumeCore c).mem = s.mem := by
  unfold State.resumeCore
  dsimp only
  repeat' split
  all_goals simp [State.foldl_mem]

@[simp] theorem State.endStop_mem (c : CoreId) (code : Code) (inner : Nat) : (s.endStop c code inner).mem = s.mem := by
  unfold State.endStop
  extract_lets k here launches s' s''
  have hs' : s'.mem = s.mem := by
    unfold s'
    split
    · split <;> simp
    · exact State.foldl_mem _ (fun _ _ => by simp) _ _
  simpa [s''] using hs'

theorem execResume_canonical {c : CoreId} (hs : Memory.wf s.mem = true) : Canonical (execResume c s) := by
  simp [execResume, hs]

theorem execEscalate_canonical {c : CoreId} (hs : Memory.wf s.mem = true) : Canonical (execEscalate c s) := by
  simp [execEscalate, hs]

theorem execHalt_canonical {c : CoreId} (hs : Memory.wf s.mem = true) : Canonical (execHalt c s) := by simp [execHalt, hs]

theorem execStoptime_canonical {c : CoreId} (hs : Memory.wf s.mem = true) : Canonical (execStoptime c s) := by
  simp [execStoptime, hs]

@[simp] theorem State.dbgctl_mem (c : CoreId) (w : Word) : (s.dbgctl c w).mem = s.mem := by simp [State.dbgctl]

@[simp] theorem State.debugWord_mem (c : CoreId) (offset : Nat) (w : Word) : (s.debugWord c offset w).mem = s.mem := by
  unfold State.debugWord
  dsimp only
  split
  · simp
  split
  · rfl
  split
  · rfl
  split
  · rfl
  split
  · rfl
  split
  · simp [State.foldl_mem (fun (s : State) (w : Watch) => s.modClutch w.who (·.unwatch w.dst)) fun _ _ => rfl]
  · rfl

theorem execUncorrectableError_canonical {site : ErrorSite} (hs : Memory.wf s.mem = true) :
    Canonical (execUncorrectableError site s) := by
  unfold execUncorrectableError
  dsimp only
  repeat' split
  all_goals simp [hs]

/-! SUPPORT. Memory's canonical form (log 2) through the functions of Sys2Proof/Machine/Lease.lean. -/

theorem execLeaseGrant_canonical {l : Lease} (hs : Memory.wf s.mem = true) : Canonical (execLeaseGrant l s) := by
  unfold execLeaseGrant
  split
  · dsimp only
    split
    · exact hs
    · split <;> simp [hs]
  split
  · exact hs
  have ht := wf_of_mem_eq (State.receive_mem ‹_›) hs
  repeat' split
  all_goals simp [ht]

theorem execLeaseForward_canonical {l : Lease} {x : Element} (hs : Memory.wf s.mem = true) :
    Canonical (execLeaseForward l x s) := by
  unfold execLeaseForward
  split
  · exact hs
  have ht := wf_of_mem_eq (State.receive_mem ‹_›) hs
  repeat' split
  all_goals simp [ht]

theorem execLeaseRecall_canonical {l : Lease} (hs : Memory.wf s.mem = true) : Canonical (execLeaseRecall l s) := by
  unfold execLeaseRecall
  split
  · exact hs
  have ht := wf_of_mem_eq (State.receive_mem ‹_›) hs
  split <;> simp [ht]

theorem execLeaseReturn_canonical {l : Lease} {deltas : List Delta} {entries : List FilterEntry} (hs : Memory.wf s.mem = true) :
    Canonical (execLeaseReturn l deltas entries s) := by
  unfold execLeaseReturn
  split
  · exact hs
  have ht := wf_of_mem_eq (State.receive_mem ‹_›) hs
  split
  · simpa using ht
  split
  · exact ht
  · exact State.foldl_mem_wf _ (fun _ _ h => State.writeBytes_mem_wf _ _ h) _ _ ht

theorem execLeaseExpiry_canonical {l : Lease} (hs : Memory.wf s.mem = true) : Canonical (execLeaseExpiry l s) := by
  unfold execLeaseExpiry
  split
  · exact hs
  · split <;> simp [hs]

theorem execContentionWindow_canonical {die : Nat} (hs : Memory.wf s.mem = true) : Canonical (execContentionWindow die s) := by
  simp [execContentionWindow, hs]

theorem execRelease_canonical {die keyidx pre : Nat} {win : Bool} (hs : Memory.wf s.mem = true) :
    Canonical (execRelease die keyidx pre win s) := by
  unfold execRelease
  dsimp only
  cases s.ownRelease die keyidx pre
  all_goals
    dsimp only
    split
    · exact hs
    · exact wf_of_mem_eq (State.foldl_mem _ (fun _ _ => by simp) _ _) hs

/-! SUPPORT. Memory's canonical form (log 2) through the functions of Sys2Proof/Machine/Residency.lean. -/

@[simp] theorem State.haltCopy_mem (j : CopyJob) : (s.haltCopy j).mem = s.mem := by
  unfold State.haltCopy
  split <;> simp

@[simp] theorem State.freeSlot_mem (left : List Landing) (p : Landing) : (s.freeSlot left p).mem = s.mem := by
  unfold State.freeSlot
  split <;> simp

@[simp] theorem State.dropLandings_mem (p : Landing → Bool) : (s.dropLandings p).mem = s.mem := by
  simp [State.dropLandings, State.foldl_mem]

@[simp] theorem State.dropWatches_mem (die uid : Nat) : (s.dropWatches die uid).mem = s.mem := by simp [State.dropWatches]

@[simp] theorem State.markIdle_mem (c : Chorus) : (s.markIdle c).mem = s.mem := State.foldl_mem _ (fun _ _ => by simp) _ _

@[simp] theorem State.discard_mem (c : Chorus) : (s.discard c).mem = s.mem := by simp [State.discard, State.foldl_mem]

@[simp] theorem State.dropWindowTags_mem (l : Launch) (c : Chorus) : (s.dropWindowTags l c).mem = s.mem := by
  simp [State.dropWindowTags]

@[simp] theorem State.abandon_mem (l : Launch) (c : Chorus) : (s.abandon l c).mem = s.mem := by simp [State.abandon]

@[simp] theorem State.freeSave_mem (l : Launch) (c : Chorus) : (s.freeSave l c).mem = s.mem := by simp [State.freeSave]

@[simp] theorem State.bury_mem (l : Launch) (c : Chorus) : (s.bury l c).mem = s.mem := by simp [State.bury]

/-! SUPPORT. Memory's canonical form (log 2) through the functions of Sys2Proof/Machine/Bins.lean. -/

@[simp] theorem State.modNode_mem (ctx num : Nat) (g : Node → Node) : (s.modNode ctx num g).mem = s.mem := by
  simp [State.modNode]

theorem State.writeSlot_mem_wf {places : List (Option Nat)} {ws : List Word} (hs : Memory.wf s.mem = true) :
    Memory.wf (s.writeSlot places ws).mem = true := State.writeBytes_mem_wf _ _ hs

@[simp] theorem State.copyRecords_mem (c : Chorus) : (s.copyRecords c).2.mem = s.mem := by
  unfold State.copyRecords
  split <;> rfl

@[simp] theorem State.releaseOne_mem (ctx : Nat) (n : Node) (die : Nat) : (s.releaseOne ctx n die).mem = s.mem := by
  simp [State.releaseOne]

@[simp] theorem releaseLoop_mem (ctx num die fuel : Nat) : (releaseLoop ctx num die fuel s).mem = s.mem := by
  induction fuel generalizing s with
  | zero => rfl
  | succ fuel ih =>
    unfold releaseLoop
    split
    · rfl
    · split
      · simp [ih]
      · rfl

@[simp] theorem State.releaseBin_mem (ctx num die : Nat) : (s.releaseBin ctx num die).mem = s.mem := by
  unfold State.releaseBin
  split <;> simp

theorem execBinTimer_canonical {ctx node die : Nat} (hs : Memory.wf s.mem = true) :
    Canonical (execBinTimer ctx node die s) := by
  simp [execBinTimer, hs]

theorem State.appendRecords_mem_wf {ctx die k : Nat} {tag : DWord} {records : List (List Word)} (hs : Memory.wf s.mem = true) :
    Memory.wf (s.appendRecords ctx die k tag records).mem = true := by
  unfold State.appendRecords
  simp only [State.releaseBin_mem, State.modNode_mem]
  refine State.foldl_mem_wf _ (fun t ws ht => ?_) _ _ hs
  split
  · exact ht
  · simpa using State.writeSlot_mem_wf ht

theorem execNrec_canonical (hs : Memory.wf s.mem = true) : Canonical (execNrec f s) := by
  refine issue_canonical hs fun e => ?_
  extract_lets n wide lanes
  split
  · simpa using hs
  split
  · exact hs
  generalize s.nrecStatus _ _ _ _ _ _ = status
  obtain ⟨status, enter⟩ := status
  dsimp only
  split
  · exact hs
  rename_i t h
  have ht : Memory.wf t.mem = true := by
    split at h
    · exact wf_of_mem_eq (State.bringSpans_mem h) hs
    · cases h
      exact hs
  split
  · rename_i u hu
    split at hu
    · exact wf_of_mem_eq (State.recall_mem hu) ht
    · cases hu
  · split <;> simp [State.appendRecords_mem_wf, ht]

/-! SUPPORT. Memory's canonical form (log 2) through the functions of Sys2Proof/Machine/Collective.lean. -/

@[simp] theorem State.modColl_mem (c : Collective) (g : Collective → Collective) : (s.modColl c g).mem = s.mem := by
  simp [State.modColl]

theorem State.undefineDst_mem_wf {c : Collective} (hs : Memory.wf s.mem = true) : Memory.wf (s.undefineDst c).mem = true :=
  State.writeBytes_mem_wf _ _ hs

@[simp] theorem State.completeAll_mem (futures : List (Nat × Nat)) (flags : Word) (st : FutureState) (v : DWord) :
    (s.completeAll futures flags st v).mem = s.mem :=
  State.foldl_mem _ (fun _ _ => by simp) _ _

theorem State.bringColl_mem {c : Collective} (h : s.bringColl c = some t) : t.mem = s.mem := State.bringSpans_mem h

@[simp] theorem State.oweResult_mem (c : Collective) (futures : List (Nat × Nat)) (v : DWord) (ran : Bool) :
    (s.oweResult c futures v ran).mem = s.mem := by
  simp [State.oweResult]

@[simp] theorem State.payOwed_mem (job : Nat) : (s.payOwed job).mem = s.mem := by
  unfold State.payOwed
  split <;> simp

@[simp] theorem State.completeColl_mem (c : Collective) (st : FutureState) (v : DWord) :
    (s.completeColl c st v).mem = s.mem := by
  simp [State.completeColl]

@[simp] theorem State.failColl_mem (c : Collective) (reason rank : Nat) : (s.failColl c reason rank).mem = s.mem := by
  simp [State.failColl]

theorem execColl_canonical (hs : Memory.wf s.mem = true) : Canonical (execColl f s) := by
  refine issue_canonical hs fun e => withLow_canonical hs ?_
  dsimp only
  split
  · exact hs
  split
  · simpa using hs
  split
  · simpa using hs
  split
  · simpa using hs
  split
  · simpa using hs
  split
  · exact hs
  split
  · exact hs
  rename_i t h
  have ht : Memory.wf t.mem = true := wf_of_mem_eq (State.allocFuture_mem h) hs
  split
  · split
    · split
      · exact hs
      have hb := wf_of_mem_eq (State.bringColl_mem ‹_›) ht
      split
      · exact State.recall_getD_mem_wf hs hs
      · simpa using hb
    · simpa using ht
    · simpa using ht
  · simpa using ht
  · split <;> simp [ht]

@[simp] theorem State.tellMembers_mem (c : Collective) (body : CollBody) : (s.tellMembers c body).mem = s.mem :=
  State.foldl_mem _ (fun _ _ => by simp) _ _

theorem State.missColl_mem_wf {c : Collective} (hs : Memory.wf s.mem = true) : Memory.wf (s.missColl c).mem = true := by
  simpa [State.missColl] using State.undefineDst_mem_wf (by simpa using hs)

theorem State.finishColl_mem_wf {c : Collective} (hs : Memory.wf s.mem = true) : Memory.wf (s.finishColl c).mem = true := by
  unfold State.finishColl
  split
  · exact hs
  split
  · simpa using hs
  split
  · exact State.missColl_mem_wf hs
  · simpa using hs

theorem State.contribute_mem_wf {c : Collective} {rank : Nat} {elems : List Nat} (hs : Memory.wf s.mem = true) :
    Memory.wf (s.contribute c rank elems).mem = true := State.finishColl_mem_wf (by simpa using hs)

@[simp] theorem State.collFault_mem (c : Collective) (code : Code) : (s.collFault c code).mem = s.mem := by
  unfold State.collFault
  split <;> simp

@[simp] theorem State.dropColl_mem (c : Collective) (reason : Nat) : (s.dropColl c reason).mem = s.mem := by
  simp [State.dropColl]

@[simp] theorem State.withdrawColl_mem (c : Collective) : (s.withdrawColl c).mem = s.mem := by simp [State.withdrawColl]

@[simp] theorem State.withdrawAll_mem (launch : Nat) : (s.withdrawAll launch).mem = s.mem :=
  State.foldl_mem _ (fun _ _ => by simp) _ _

theorem State.beginColl_mem_wf {c : Collective} (hs : Memory.wf s.mem = true) (h : s.beginColl c = some t) :
    Memory.wf t.mem = true := by
  unfold State.beginColl at h
  dsimp only at h
  split at h
  · cases h
  split at h
  · cases h
  cases h
  split
  · exact State.contribute_mem_wf (by simpa using hs)
  split
  · exact State.missColl_mem_wf (by simpa using hs)
  · simpa using hs
  · simpa using State.undefineDst_mem_wf (by simpa using hs)
  split
  · exact State.missColl_mem_wf (by simpa using hs)
  · exact State.contribute_mem_wf (by simpa using hs)

theorem State.loseMembers_mem_wf {c : Collective} {ranks : List (Nat × Bool)} (hs : Memory.wf s.mem = true) :
    Memory.wf (s.loseMembers c ranks).mem = true := by
  simpa [State.loseMembers] using State.undefineDst_mem_wf hs

theorem execCollstep_canonical {m : CollStep} (hs : Memory.wf s.mem = true) : Canonical (execCollstep m s) := by
  unfold execCollstep
  split
  · exact hs
  rename_i t h
  have ht : Memory.wf t.mem = true := wf_of_mem_eq (State.receive_mem h) hs
  dsimp only
  split
  · split
    · split <;> simp [ht]
    · exact ht
  split
  · split <;> assumption
  split
  · exact hs
  split
  · split
    · exact ht
    split
    · exact hs
    rename_i u hu
    have hu : Memory.wf u.mem = true := wf_of_mem_eq (State.bringColl_mem hu) ht
    rename_i c _ _ _ _ _ _ _ _
    cases hb : u.beginColl c with
    | none => exact State.recall_getD_mem_wf hs hs
    | some v => exact State.beginColl_mem_wf hu hb
  · split
    · exact ht
    split
    · exact hs
    rename_i u hu
    have hu : Memory.wf u.mem = true := by
      split at hu
      · exact wf_of_mem_eq (State.bringColl_mem hu) ht
      · cases hu
        exact ht
    split
    · rename_i v hv
      split at hv
      · exact wf_of_mem_eq (State.recall_mem hv) hs
      · cases hv
    · exact State.contribute_mem_wf hu
  · split
    · exact ht
    split
    · exact State.loseMembers_mem_wf ht
    split
    · simpa using State.undefineDst_mem_wf ht
    · exact ht

theorem execCollMemberLost_canonical {set seq dev : Nat} {withdrew : Bool} (hs : Memory.wf s.mem = true) :
    Canonical (execCollMemberLost set seq dev withdrew s) := by
  unfold execCollMemberLost
  split
  · exact hs
  split
  · exact State.loseMembers_mem_wf hs
  · exact hs

theorem State.losePeerColls_mem_wf {dev : Nat} (hs : Memory.wf s.mem = true) : Memory.wf (s.losePeerColls dev).mem = true := by
  refine State.foldl_mem_wf _ (fun t c ht => ?_) _ _ hs
  split
  · exact State.loseMembers_mem_wf ht
  · exact ht

/-! SUPPORT. Memory's canonical form (log 2) through the functions of Sys2Proof/Machine/Control.lean. -/

theorem control_canonical {op : Nat} {pathLevel : Bool} {k : Env → Out} (hs : Memory.wf s.mem = true) (hk : ∀ e, Canonical (k e)) :
    Canonical (control op f pathLevel s k) := by
  refine withClutch_canonical fun e => ?_
  split
  · simpa using hs
  split
  · simpa using hs
  · exact hs
  · exact hk e

theorem withUniform_canonical {reg : Nat} {k : Word → Out} (hs : Memory.wf s.mem = true) (hk : ∀ w, Canonical (k w)) :
    Canonical (withUniform s e reg k) := by
  unfold withUniform
  split
  · simpa using hs
  · exact hk _

theorem withPredicate_canonical {reg : Nat} {k : Mask → Out} (hs : Memory.wf s.mem = true) (hk : ∀ m, Canonical (k m)) :
    Canonical (withPredicate s e reg k) := by
  unfold withPredicate
  split
  · simpa using hs
  · exact hk _

@[simp] theorem become_canonical (c : Clutch) : Canonical (become s e c) ↔ Memory.wf s.mem = true := by simp [become]

theorem execBra_canonical (hs : Memory.wf s.mem = true) : Canonical (execBra f s) := by
  refine control_canonical hs fun e => ?_
  split
  · simpa using hs
  · exact withUniform_canonical hs fun w => by simpa using hs

theorem execBrx_canonical (hs : Memory.wf s.mem = true) : Canonical (execBrx f s) :=
  control_canonical hs fun _ => withUniform_canonical hs fun _ => by simpa using hs

theorem execBrc_canonical (hs : Memory.wf s.mem = true) : Canonical (execBrc f s) := by
  refine control_canonical hs fun e => ?_
  dsimp only
  split
  · simpa using hs
  · exact withPredicate_canonical hs fun t => by simpa using hs

theorem execBrcLoop_canonical (hs : Memory.wf s.mem = true) : Canonical (execBrcLoop f s) := by
  refine control_canonical hs fun e => ?_
  dsimp only
  split <;> simp [hs]

theorem execJoin_canonical (hs : Memory.wf s.mem = true) : Canonical (execJoin f s) := by
  refine control_canonical hs fun e => withUniform_canonical hs fun t => ?_
  dsimp only
  repeat' split
  all_goals simp [hs]

@[simp] theorem leaveLoop_canonical (i : Nat) (m : Mask) (brk : Bool) :
    Canonical (leaveLoop s e i m brk) ↔ Memory.wf s.mem = true := by
  unfold leaveLoop
  dsimp only
  repeat' split
  all_goals simp

theorem loopExit_canonical {op : Nat} {brk : Bool} (hs : Memory.wf s.mem = true) : Canonical (loopExit op f brk s) := by
  refine control_canonical hs fun e => withUniform_canonical hs fun t => ?_
  split
  · simpa using hs
  split
  · simpa using hs
  · exact withPredicate_canonical hs fun m => by simpa using hs

theorem execCall_canonical (hs : Memory.wf s.mem = true) : Canonical (execCall f s) := by
  refine control_canonical hs fun e => ?_
  dsimp only
  split <;> simp [hs]

theorem execRet_canonical (hs : Memory.wf s.mem = true) : Canonical (execRet f s) := by
  refine control_canonical hs fun e => ?_
  dsimp only
  split <;> simp [hs]

theorem execExit_canonical (hs : Memory.wf s.mem = true) : Canonical (execExit f s) := by
  refine control_canonical hs fun e => ?_
  dsimp only
  split
  · simpa using hs
  · exact withPredicate_canonical hs fun m => by simpa using hs

theorem execKill_canonical (hs : Memory.wf s.mem = true) : Canonical (execKill f s) := by
  refine control_canonical hs fun e => ?_
  dsimp only
  split <;> simp [hs]

theorem execYield_canonical (hs : Memory.wf s.mem = true) : Canonical (execYield f s) :=
  control_canonical hs fun _ => by simpa using hs

theorem execTrap_canonical (hs : Memory.wf s.mem = true) : Canonical (execTrap f s) :=
  withClutch_canonical fun _ => by simpa using hs

theorem execEmret_canonical (hs : Memory.wf s.mem = true) : Canonical (execEmret f s) :=
  control_canonical hs fun _ => by simpa using hs

theorem execBkpt_canonical (hs : Memory.wf s.mem = true) : Canonical (execBkpt f s) := by
  refine control_canonical hs fun e => ?_
  split <;> simp [hs]

theorem execRdclk_canonical (hs : Memory.wf s.mem = true) : Canonical (execRdclk f s) :=
  control_canonical hs fun _ => by simpa using hs

/-! SUPPORT. Memory's canonical form (log 2) through the functions of Sys2Proof/Machine/Groups.lean. -/

@[simp] theorem State.setGroup_mem (set : Nat) (g : Sys2Proof.Group) : (s.setGroup set g).mem = s.mem := by
  simp [State.setGroup]

@[simp] theorem State.sendGroup_mem (ctx dst set keyidx : Nat) (body : GroupBody) :
    (s.sendGroup ctx dst set keyidx body).mem = s.mem := by
  simp [State.sendGroup]

@[simp] theorem State.answerGroup_mem (r : GroupReq) (status : Nat) : (s.answerGroup r status).mem = s.mem := by
  simp [State.answerGroup]

theorem grpForm_canonical {leave : Bool} (hs : Memory.wf s.mem = true) : Canonical (grpForm f leave s) := by
  refine issue_canonical hs fun e => withLow_canonical hs ?_
  dsimp only
  repeat' split
  all_goals simp [hs]

@[simp] theorem State.askAgain_mem (landing : Nat) : (s.askAgain landing).mem = s.mem := by
  unfold State.askAgain
  split <;> simp

@[simp] theorem State.answerAsk_mem (a : GroupAsk) (status : Nat) : (s.answerAsk a status).mem = s.mem := by
  unfold State.answerAsk
  dsimp only
  split <;> simp

@[simp] theorem State.finishGroup_mem (w : GroupWork) : (s.finishGroup w).mem = s.mem := by
  unfold State.finishGroup
  dsimp only
  repeat' split
  all_goals simp [State.foldl_mem]

@[simp] theorem State.startGroup_mem (set : Nat) (req : Option GroupReq) (old entry : Sys2Proof.Group) (gone : List Nat) :
    (s.startGroup set req old entry gone).mem = s.mem := by
  simp [State.startGroup, State.foldl_mem]

theorem execGroupRequest_canonical {r : GroupReq} (hs : Memory.wf s.mem = true) : Canonical (execGroupRequest r s) := by
  unfold execGroupRequest
  split
  · exact hs
  have ht := wf_of_mem_eq (State.receive_mem ‹_›) hs
  split
  · split <;> simp [ht]
  split
  · exact hs
  split <;> simp [ht]

@[simp] theorem State.groupAcked_mem (set dev : Nat) (full : Bool) : (s.groupAcked set dev full).mem = s.mem := by
  unfold State.groupAcked
  split <;> simp

@[simp] theorem State.purgeGroups_mem : (s.purgeGroups).mem = s.mem := State.foldl_mem _ (fun _ _ => by simp) _ _

theorem execGroupInstall_canonical {m : GroupMsg} (hs : Memory.wf s.mem = true) : Canonical (execGroupInstall m s) := by
  unfold execGroupInstall
  split
  · exact hs
  have ht := wf_of_mem_eq (State.receive_mem ‹_›) hs
  dsimp only
  repeat' split
  all_goals simp [ht]

@[simp] theorem State.dropMembers_mem (w : GroupWork) (gone : List Nat) : (s.dropMembers w gone).mem = s.mem := by
  simp [State.dropMembers]

theorem execGroupTimeout_canonical {set : Nat} (hs : Memory.wf s.mem = true) : Canonical (execGroupTimeout set s) := by
  unfold execGroupTimeout
  repeat' split
  all_goals simp [hs]

@[simp] theorem State.losePeerGroups_mem (dev : Nat) : (s.losePeerGroups dev).mem = s.mem := by
  simp [State.losePeerGroups, State.foldl_mem]

@[simp] theorem State.leaveGroups_mem (ctx : Nat) : (s.leaveGroups ctx).mem = s.mem :=
  State.foldl_mem _ (fun _ _ => by simp) _ _

/-! SUPPORT. Memory's canonical form (log 2) through the functions of Sys2Proof/Machine/Readiness.lean. -/

@[simp] theorem State.startWake_mem : (s.startWake).mem = s.mem := by simp [State.startWake]

@[simp] theorem State.active_mem : (s.active).mem = s.mem := by simp [State.active]

@[simp] theorem State.noteCores_mem : s.noteCores.mem = s.mem := by
  unfold State.noteCores
  refine State.foldl_mem _ (fun t c => State.foldl_mem _ (fun u k => ?_) _ _) _ _
  dsimp only
  split <;> rfl

theorem execEnterL1_canonical {c : CoreId} (hs : Memory.wf s.mem = true) : Canonical (execEnterL1 c s) := by
  simp [execEnterL1, hs]

@[simp] theorem State.noteBusy_mem : (s.noteBusy).mem = s.mem := by simp [State.noteBusy]

@[simp] theorem enterLevel_canonical (level wait : Nat) : Canonical (enterLevel level wait s) ↔ Memory.wf s.mem = true := by
  simp [enterLevel]

theorem execEnterL2_canonical (hs : Memory.wf s.mem = true) : Canonical (execEnterL2 s) := (enterLevel_canonical _ _).mpr hs

theorem execEnterL3_canonical (hs : Memory.wf s.mem = true) : Canonical (execEnterL3 s) := (enterLevel_canonical _ _).mpr hs

theorem execWake_canonical (hs : Memory.wf s.mem = true) : Canonical (execWake s) := by simp [execWake, hs]

@[simp] theorem State.awake_mem : (s.awake).mem = s.mem := by simp [State.awake]

theorem execWakeComplete_canonical (hs : Memory.wf s.mem = true) : Canonical (execWakeComplete s) := by
  unfold execWakeComplete
  split
  · exact hs
  · split <;> simp [hs]

theorem execLattolWrite_canonical {value : Word} (hs : Memory.wf s.mem = true) : Canonical (execLattolWrite value s) := by
  simp [execLattolWrite, hs]

theorem State.wakeFor_mem {i : Instr} (h : s.wakeFor i = some t) : t.mem = s.mem := by
  unfold State.wakeFor at h
  split at h
  · cases h
  all_goals
    split at h
    · cases h
      simp
    · cases h

/-! SUPPORT. Memory's canonical form (log 2) through the functions of Sys2Proof/Machine/Leaving.lean. -/

@[simp] theorem State.unfreezeCore_mem (c : CoreId) : (s.unfreezeCore c).mem = s.mem := by simp [State.unfreezeCore]

@[simp] theorem State.passCluster_mem (die cluster : Nat) : (s.passCluster die cluster).mem = s.mem := by
  unfold State.passCluster
  dsimp only
  repeat' split
  all_goals simp [State.foldl_mem]

@[simp] theorem State.passClusters_mem (die : Nat) : (s.passClusters die).mem = s.mem :=
  State.foldl_mem _ (fun _ _ => State.passCluster_mem ..) _ _

@[simp] theorem State.passAll_mem : s.passAll.mem = s.mem := State.foldl_mem _ (fun _ _ => State.passClusters_mem _) _ _

theorem State.writeStatus_mem_wf {die ctx va done number : Nat} (hs : Memory.wf s.mem = true) :
    Memory.wf ((s.writeStatus die ctx va done number).elim State.mem State.mem) = true := by
  unfold State.writeStatus
  dsimp only
  generalize s.engineSpan die ctx va 128 = record
  generalize (if done = 0 then none else s.engineSpan die ctx done 8) = word
  split
  · exact wf_of_mem_eq (State.recall_mem ‹_›) hs
  have logged : Memory.wf (s.logEvent .droppedStatus die ctx 0 va).mem = true := by simpa using hs
  cases record <;> cases word
  · exact logged
  · exact State.writeBytes_mem_wf _ _ logged
  · exact State.writeBytes_mem_wf _ _ (State.writeBytes_mem_wf _ _ hs)
  · exact State.writeBytes_mem_wf _ _ (State.writeBytes_mem_wf _ _ (State.writeBytes_mem_wf _ _ hs))

@[simp] theorem State.sendDepart_mem (l : Launch) (index : Nat) (bad : Bool) : (s.sendDepart l index bad).mem = s.mem := by
  unfold State.sendDepart
  split
  · exact State.foldl_mem _ (fun _ _ => by simp) _ _
  · rfl

@[simp] theorem State.closeNode_mem (l : Launch) : (s.closeNode l).mem = s.mem := by
  unfold State.closeNode
  split <;> rfl

@[simp] theorem State.tellPeers_mem (l : Launch) (index : Nat) : (s.tellPeers l index).mem = s.mem := by
  unfold State.tellPeers
  split <;> simp

@[simp] theorem State.killLaunch_mem (l : Launch) : (s.killLaunch l).mem = s.mem := by
  unfold State.killLaunch
  dsimp only
  simp only [State.modLaunch_mem, State.closeNode_mem, State.dropHeld_mem, State.withdrawAll_mem]
  refine (State.foldl_mem _ (fun t c => ?_) _ _).trans (by simp)
  split <;> simp

@[simp] theorem State.commandDone_mem (result : Nat) : (s.commandDone result).mem = s.mem := by simp [State.commandDone]

@[simp] theorem State.endDeparted_mem (l : Launch) : (s.endDeparted l).mem = s.mem := by
  unfold State.endDeparted
  split <;> rfl

@[simp] theorem State.endAll_mem (ctx : Nat) : (s.endAll ctx).mem = s.mem := State.foldl_mem _ (fun _ _ => by simp) _ _

@[simp] theorem State.closeContext_mem (ctx : Nat) : (s.closeContext ctx).mem = s.mem := by
  unfold State.closeContext
  dsimp only
  split <;> simp

@[simp] theorem State.mem_settleContext (ctx : Nat) : (s.settleContext ctx).mem = s.mem := by
  unfold State.settleContext
  dsimp only
  repeat' split
  all_goals simp

@[simp] theorem State.left_mem (l : Launch) (die : Nat) : (s.left l die).mem = s.mem := by
  simp [State.left]

@[simp] theorem State.abandonAny_mem (l : Launch) (c : Chorus) : (s.abandonAny l c).mem = s.mem := by
  unfold State.abandonAny
  dsimp only
  split <;> simp

/-! SUPPORT. Memory's canonical form (log 2) through the functions of Sys2Proof/Machine/Endings.lean. -/

@[simp] theorem State.payNotices_mem : (s.payNotices).mem = s.mem := State.foldl_mem _ (fun _ _ => by simp) _ _

@[simp] theorem State.retire_mem (l : Launch) (c : Chorus) : (s.retire l c).mem = s.mem := by
  unfold State.retire
  dsimp only
  split <;> simp [State.foldl_mem]

theorem execChorusRetire_canonical {uid : Nat} (hs : Memory.wf s.mem = true) : Canonical (execChorusRetire uid s) := by
  unfold execChorusRetire
  split
  · exact hs
  split
  · exact hs
  repeat' split
  all_goals simp [hs]

theorem execLaunchFatalEnd_canonical {launch : Nat} (hs : Memory.wf s.mem = true) :
    Canonical (execLaunchFatalEnd launch s) := by
  unfold execLaunchFatalEnd
  split
  · exact hs
  split
  · exact hs
  dsimp only
  split
  · simpa using hs
  · split <;> simp [hs]

theorem execLaunchComplete_canonical {launch : Nat} (hs : Memory.wf s.mem = true) :
    Canonical (execLaunchComplete launch s) := by
  unfold execLaunchComplete
  split
  · exact hs
  split
  · exact hs
  split
  · exact hs
  rename_i l _ _ st _ _ t h
  have ht : Memory.wf t.mem = true := wf_of_mem_eq (State.bringSpans_mem h) hs
  have hw := State.writeStatus_mem_wf (die := l.leader) (ctx := l.ctx) (va := l.statusVa) (done := l.doneVa)
    (number := l.statusNumber st (t.die l.leader).cycle.toNat) ht
  split
  · rename_i u hu
    rw [hu] at hw
    exact hw
  · rename_i u hu
    rw [hu] at hw
    extract_lets s' s''
    have hs'' : Memory.wf s''.mem = true := by
      unfold s''
      split <;> exact hw
    simpa [State.dropHeld_mem] using hs''

/-! SUPPORT. Memory's canonical form (log 2) through the functions of Sys2Proof/Machine/Placement.lean. -/

@[simp] theorem State.ageAll_mem (die : Nat) : (s.ageAll die).mem = s.mem := by simp [State.ageAll]

@[simp] theorem State.starveAll_mem (die : Nat) : (s.starveAll die).mem = s.mem := by simp [State.starveAll]

theorem execEnergyClassAging_canonical {die : Nat} (hs : Memory.wf s.mem = true) : Canonical (execEnergyClassAging die s) := by
  simp [execEnergyClassAging, hs]

theorem execCandidateStarved_canonical {die : Nat} (hs : Memory.wf s.mem = true) : Canonical (execCandidateStarved die s) := by
  simp [execCandidateStarved, hs]

@[simp] theorem State.restore_mem (l : Launch) (c : Chorus) (r : Room) : (s.restore l c r).mem = s.mem := by
  simp [State.restore, State.putChorus_mem, State.takeCores_mem]

@[simp] theorem State.place_mem (l : Launch) (c : Chorus) (cores : List Nat) (r : Room) :
    (s.place l c cores r).mem = s.mem := by
  unfold State.place
  dsimp only
  repeat' split
  all_goals simp [State.foldl_mem, State.started_mem, State.install_mem]

theorem execDispatcherPlacement_canonical {die at_ : Nat} (hs : Memory.wf s.mem = true) :
    Canonical (execDispatcherPlacement die at_ s) := by
  unfold execDispatcherPlacement
  dsimp only
  repeat' split
  all_goals simp [hs]

/-! SUPPORT. Memory's canonical form (log 2) through the functions of Sys2Proof/Machine/Linked.lean. -/

@[simp] theorem State.modLink_mem (launch index : Nat) (g : LinkRec → LinkRec) : (s.modLink launch index g).mem = s.mem := by
  simp [State.modLink]

@[simp] theorem State.toMembers_mem (l : Launch) (msg : Nat → Nat → Msg) : (s.toMembers l msg).mem = s.mem :=
  State.foldl_mem _ (fun _ _ => by simp) _ _

@[simp] theorem State.toMembersOwed_mem (l : Launch) (msg : Nat → Nat → Msg) : (s.toMembersOwed l msg).mem = s.mem :=
  State.foldl_mem _ (fun _ _ => by simp) _ _

theorem State.withPlace_canonical {p : Place} {m : Msg} {k : State → Out} (hs : Memory.wf s.mem = true)
    (hk : ∀ t, Memory.wf t.mem = true → Canonical (k t)) : Canonical (s.withPlace p m k) := by
  unfold State.withPlace
  split
  · exact hs
  have ht := wf_of_mem_eq (State.receive_mem ‹_›) hs
  split
  · exact hk _ ht
  · simpa using ht

@[simp] theorem State.resendPlace_canonical (m : Msg) : Canonical (s.resendPlace m) ↔ Memory.wf s.mem = true := by
  simp [State.resendPlace]

theorem State.placeAcked_canonical {m : Msg} (hs : Memory.wf s.mem = true) : Canonical (s.placeAcked m) := by
  unfold State.placeAcked
  dsimp only
  split
  · exact hs
  split
  · exact hs
  · simpa [State.receive_mem ‹_›] using hs

@[simp] theorem State.askPlace_mem (l : Launch) (k : LinkRec) : (s.askPlace l k).mem = s.mem := by simp [State.askPlace]

@[simp] theorem State.openLink_mem (launch index : Nat) : (s.openLink launch index).mem = s.mem := by
  unfold State.openLink
  dsimp only
  split <;> simp

@[simp] theorem State.abortPlace_mem (l : Launch) (k : LinkRec) (refuser : Option Nat) :
    (s.abortPlace l k refuser).mem = s.mem := by
  simp [State.abortPlace]

@[simp] theorem State.commitPlace_mem (l : Launch) (k : LinkRec) : (s.commitPlace l k).mem = s.mem := by
  simp [State.commitPlace]

theorem execPlaceReserved_canonical {p : Place} (hs : Memory.wf s.mem = true) : Canonical (execPlaceReserved p s) := by
  refine State.withPlace_canonical hs fun t ht => ?_
  dsimp only
  repeat' split
  all_goals simp [ht]

@[simp] theorem State.badLaunch_mem (l : Launch) : (s.badLaunch l).mem = s.mem := by simp [State.badLaunch]

theorem execPlaceNoroom_canonical {p : Place} (hs : Memory.wf s.mem = true) : Canonical (execPlaceNoroom p s) := by
  refine State.withPlace_canonical hs fun t ht => ?_
  repeat' split
  all_goals simp [ht]

theorem execReserveTimeout_canonical {launch index : Nat} (hs : Memory.wf s.mem = true) :
    Canonical (execReserveTimeout launch index s) := by
  unfold execReserveTimeout
  dsimp only
  repeat' split
  all_goals simp [hs]

theorem execPlaceRetry_canonical {launch index : Nat} (hs : Memory.wf s.mem = true) :
    Canonical (execPlaceRetry launch index s) := by
  unfold execPlaceRetry
  repeat' split
  all_goals simp [hs]

theorem execPlaceRetired_canonical {p : Place} (hs : Memory.wf s.mem = true) : Canonical (execPlaceRetired p s) := by
  refine State.withPlace_canonical hs fun t ht => ?_
  repeat' split
  all_goals simp [ht]

@[simp] theorem State.noroom_mem (p : Place) (bad : Bool) : (s.noroom p bad).mem = s.mem := by simp [State.noroom]

@[simp] theorem State.answerReserve_mem (p : Place) : (s.answerReserve p).mem = s.mem := by
  unfold State.answerReserve
  split
  · simp
  split
  · simp
  dsimp only
  split
  · simp
  split
  · simp
  split
  · simp
  · simp [State.install_mem]

theorem execPlaceReserve_canonical {p : Place} (hs : Memory.wf s.mem = true) : Canonical (execPlaceReserve p s) :=
  State.withPlace_canonical hs fun _ ht => by simpa using ht

@[simp] theorem State.admitHeld_mem (l : Launch) (index : Nat) : (s.admitHeld l index).mem = s.mem := by
  refine State.foldl_mem _ (fun _ _ => ?_) _ _
  split <;> simp

@[simp] theorem State.commitSection_mem (l : Launch) (c : Chorus) (epoch : Nat) : (s.commitSection l c epoch).mem = s.mem := by
  simp [State.commitSection, State.started_mem]

theorem execPlaceCommit_canonical {p : Place} (hs : Memory.wf s.mem = true) : Canonical (execPlaceCommit p s) := by
  refine State.withPlace_canonical hs fun t ht => ?_
  dsimp only
  repeat' split
  all_goals simp [ht]

@[simp] theorem State.giveUpReservation_mem (l : Launch) (c : Chorus) : (s.giveUpReservation l c).mem = s.mem := by
  unfold State.giveUpReservation
  dsimp only
  split <;> simp

theorem execPlaceAbort_canonical {p : Place} (hs : Memory.wf s.mem = true) : Canonical (execPlaceAbort p s) := by
  refine State.withPlace_canonical hs fun t ht => ?_
  dsimp only
  repeat' split
  all_goals simp [ht]

@[simp] theorem State.abandonSection_mem (l : Launch) (index epoch : Nat) : (s.abandonSection l index epoch).mem = s.mem := by
  unfold State.abandonSection
  split <;> simp

@[simp] theorem State.relayAbandon_mem (l : Launch) (k : LinkRec) (epoch : Nat) : (s.relayAbandon l k epoch).mem = s.mem := by
  unfold State.relayAbandon
  dsimp only
  split <;>
    simp [State.foldl_mem (fun (s : State) m => s.send (.abandon { s.placeTo l m k.index with epoch })) fun _ _ => rfl]

theorem execPlaceAbandon_canonical {p : Place} (hs : Memory.wf s.mem = true) : Canonical (execPlaceAbandon p s) := by
  refine State.withPlace_canonical hs fun t ht => ?_
  repeat' split
  all_goals simp [hs, ht]

theorem State.noticePeer_mem_wf {p : Place} {g : Peer → Peer} (hs : Memory.wf s.mem = true) (ht : Memory.wf t.mem = true) :
    Memory.wf (s.noticePeer t p g).mem = true := by
  unfold State.noticePeer
  repeat' split
  all_goals simp [hs, ht]

theorem execPlaceAttached_canonical {p : Place} (hs : Memory.wf s.mem = true) : Canonical (execPlaceAttached p s) :=
  State.withPlace_canonical hs fun _ ht => State.noticePeer_mem_wf hs ht

theorem execPlaceDetached_canonical {p : Place} (hs : Memory.wf s.mem = true) : Canonical (execPlaceDetached p s) :=
  State.withPlace_canonical hs fun _ ht => State.noticePeer_mem_wf hs ht

@[simp] theorem State.noteDeparture_mem (l : Launch) (index : Nat) : (s.noteDeparture l index).mem = s.mem := by
  simp [State.noteDeparture]

theorem execPlaceDepart_canonical {p : Place} (hs : Memory.wf s.mem = true) : Canonical (execPlaceDepart p s) := by
  refine State.withPlace_canonical hs fun t ht => ?_
  repeat' split
  all_goals simp [ht]

@[simp] theorem State.launchLosesPeer_mem (l : Launch) (dev : Nat) : (s.launchLosesPeer l dev).mem = s.mem := by
  simp [State.launchLosesPeer, State.foldl_mem]

@[simp] theorem State.losePeerLinked_mem (dev : Nat) : (s.losePeerLinked dev).mem = s.mem :=
  State.foldl_mem _ (fun _ _ => by simp) _ _

/-! SUPPORT. Memory's canonical form (log 2) through the functions of Sys2Proof/Machine/Grants.lean. -/

@[simp] theorem State.grantAgain_mem (launch die n : Nat) : (s.grantAgain launch die n).mem = s.mem := by
  simp [State.grantAgain]

theorem execChorusIndexGrant_canonical {launch die n : Nat} (hs : Memory.wf s.mem = true) :
    Canonical (execChorusIndexGrant launch die n s) := by
  unfold execChorusIndexGrant
  dsimp only
  repeat' split
  all_goals simp [hs, State.foldl_mem]

theorem execHeartbeat_canonical (hs : Memory.wf s.mem = true) : Canonical (execHeartbeat s) := by
  unfold execHeartbeat
  dsimp only
  split <;> simp [hs]

@[simp] theorem State.launchLosesDie_mem (l : Launch) (die : Nat) : (s.launchLosesDie l die).mem = s.mem := by
  simp [State.launchLosesDie, State.foldl_mem]

theorem execDieLost_canonical {die : Nat} (hs : Memory.wf s.mem = true) : Canonical (execDieLost die s) := by
  unfold execDieLost
  dsimp only
  split
  · exact hs
  · simpa [State.foldl_mem] using hs

/-! SUPPORT. Memory's canonical form (log 2) through the functions of Sys2Proof/Machine/Launches.lean. -/

theorem State.bringImage_mem {die ctx image : Nat} (h : s.bringImage die ctx image = some t) : t.mem = s.mem := by
  unfold State.bringImage at h
  rw [Option.bind_eq_some_iff] at h
  obtain ⟨u, hu, ht⟩ := h
  rw [← State.bringSpans_mem hu]
  split at ht
  · cases ht
    rfl
  · exact State.bring_mem _ _ _ _ _ ht

@[simp] theorem State.setQueue_mem (q : Nat) (x : Queue) : (s.setQueue q x).mem = s.mem := by simp [State.setQueue]

theorem execQdoor_canonical {q value : Nat} (hs : Memory.wf s.mem = true) : Canonical (execQdoor q value s) := by
  unfold execQdoor
  split
  · exact hs
  extract_lets x s'
  have hs' : Memory.wf s'.mem = true := by simpa [s'] using hs
  split
  · exact State.writeBytes_mem_wf _ _ hs'
  · exact hs'

@[simp] theorem State.acquireFor_mem (l : Launch) : (s.acquireFor l).mem = s.mem := by
  simp [State.acquireFor, State.foldl_mem]

theorem execLaunchTake_canonical {q : Nat} (hs : Memory.wf s.mem = true) : Canonical (execLaunchTake q s) := by
  unfold execLaunchTake
  dsimp only
  split
  · exact hs
  split
  · exact wf_of_mem_eq (State.recall_mem ‹_›) hs
  split
  · exact hs
  rename_i t h
  have ht : Memory.wf t.mem = true := by
    split at h
    · exact wf_of_mem_eq (State.bringImage_mem h) hs
    · cases h
      exact hs
  simpa using State.writeBytes_mem_wf _ _ (by simpa using ht)

/-! SUPPORT. Memory's canonical form (log 2) through the functions of Sys2Proof/Machine/Pair.lean. -/

theorem execReservedEncoding_canonical {cause bytes : Nat} {op : BitVec 8} {pair second : Bool} (hs : Memory.wf s.mem = true) :
    Canonical (execReservedEncoding cause bytes op f pair second s) := withClutch_canonical fun _ => by simpa using hs

/-! SUPPORT. Memory's canonical form (log 2) through the functions of Sys2Proof/Machine/Preempt.lean. -/

theorem State.foldr_mem {β : Type} (g : β → State → State) (hg : ∀ x s, (g x s).mem = s.mem) (xs : List β) (s : State) :
    (xs.foldr g s).mem = s.mem := by
  induction xs with
  | nil => rfl
  | cons x rest ih => rw [List.foldr_cons, hg, ih]

@[simp] theorem State.withdrawWaits_mem (c : Chorus) : (s.withdrawWaits c).mem = s.mem := by
  unfold State.withdrawWaits
  dsimp only
  rw [State.modChorus_mem, State.dropWatches_mem, State.dropLandings_mem,
    State.foldl_mem (fun (s : State) (w : Watch) => s.modClutch w.who (·.unwatch w.dst)) fun _ _ => rfl,
    State.foldr_mem (fun (p : Landing) (s : State) => s.modClutch p.who (·.withdraw p)) fun _ _ => rfl]

theorem State.writeSave_mem_wf {l : Launch} (hs : Memory.wf s.mem = true) : Memory.wf (s.writeSave l).mem = true :=
  State.writeBytes_mem_wf _ _ hs

theorem State.save_mem_wf {l : Launch} {c : Chorus} (hs : Memory.wf s.mem = true) : Memory.wf (s.save l c).mem = true := by
  unfold State.save
  dsimp only
  split
  · simpa [State.foldl_mem] using hs
  split
  · simpa [State.foldl_mem] using hs
  · simpa [State.foldl_mem] using State.writeSave_mem_wf (by simpa [State.foldl_mem] using hs)

theorem State.switchOut_mem_wf {l : Launch} {c : Chorus} (hs : Memory.wf s.mem = true) :
    Memory.wf (s.switchOut l c).mem = true := by
  unfold State.switchOut
  dsimp only
  split
  · exact hs
  split
  · split <;> simp [hs]
  split
  · split <;> simp [hs]
  split
  · exact hs
  split
  · exact State.recall_getD_mem_wf hs (State.save_mem_wf hs)
  · exact hs

theorem State.withRunning_mem_wf {uid : Nat} {g : State → Launch → Chorus → State} (hs : Memory.wf s.mem = true)
    (hg : ∀ l c, Memory.wf (g s l c).mem = true) : Memory.wf (s.withRunning uid g).mem = true := by
  unfold State.withRunning
  split
  · exact hs
  split
  · split
    · exact hg _ _
    · exact hs
  · exact hs

theorem State.withRunning_mem {uid : Nat} {g : State → Launch → Chorus → State} (hg : ∀ l c, (g s l c).mem = s.mem) :
    (s.withRunning uid g).mem = s.mem := by
  unfold State.withRunning
  repeat' split
  all_goals simp [hg]

theorem execDrainExpiry_canonical {ctx : Nat} (hs : Memory.wf s.mem = true) : Canonical (execDrainExpiry ctx s) := by
  unfold execDrainExpiry
  dsimp only
  split
  · exact hs
  refine State.foldl_mem_wf _ (fun t uid ht => State.withRunning_mem_wf ht fun l c => ?_) _ _ hs
  split
  · exact State.switchOut_mem_wf ht
  · exact ht

theorem execQuantumExpiry_canonical {die cluster : Nat} (hs : Memory.wf s.mem = true) :
    Canonical (execQuantumExpiry die cluster s) := by
  unfold execQuantumExpiry
  dsimp only
  split <;> simp [hs]

@[simp] theorem shedLoop_mem (die fuel : Nat) : (shedLoop die fuel s).mem = s.mem := by
  induction fuel generalizing s with
  | zero => rfl
  | succ fuel ih =>
    unfold shedLoop
    split
    · rfl
    split
    · simp [ih]
    · rfl

@[simp] theorem State.setBudget_mem (die : Nat) (mw : Word) : (s.setBudget die mw).mem = s.mem := by
  simp [State.setBudget]

theorem contextCommand_canonical {ctx : Nat} {onFrozen : Bool} {k : State → State} (hs : Memory.wf s.mem = true)
    (hk : ∀ t, (k t).mem = t.mem) : Canonical (contextCommand ctx onFrozen s k) := by
  unfold contextCommand
  dsimp only
  split
  · exact hs
  split <;> simp [hs, hk]

@[simp] theorem State.forceOut_mem (ctx : Nat) : (s.forceOut ctx).mem = s.mem := by
  unfold State.forceOut
  dsimp only
  refine State.foldl_mem _ (fun t uid => State.withRunning_mem fun l c => ?_) _ _
  split <;> simp

theorem execPolite_canonical {ctx : Nat} (hs : Memory.wf s.mem = true) : Canonical (execPolite ctx s) := by
  refine contextCommand_canonical hs fun t => ?_
  dsimp only
  split <;> simp

theorem execForced_canonical {ctx : Nat} (hs : Memory.wf s.mem = true) : Canonical (execForced ctx s) := by
  refine contextCommand_canonical hs fun t => ?_
  dsimp only
  split <;> simp

theorem execDeactivate_canonical {ctx : Nat} (hs : Memory.wf s.mem = true) : Canonical (execDeactivate ctx s) := by
  refine contextCommand_canonical hs fun t => ?_
  dsimp only
  repeat' split
  all_goals simp

theorem execCtxResume_canonical {ctx : Nat} (hs : Memory.wf s.mem = true) : Canonical (execCtxResume ctx s) := by
  refine contextCommand_canonical hs fun t => ?_
  split <;> simp

theorem State.openNode_mem {ctx i w : Nat} (h : s.openNode ctx i w = some t) : t.mem = s.mem := by
  unfold State.openNode at h
  split at h
  · cases h
    rfl
  obtain ⟨u, hu, rfl⟩ := Option.map_eq_some_iff.mp h
  have hu : u.mem = s.mem := by
    split at hu
    · exact State.bringImage_mem hu
    · cases hu
      rfl
  dsimp only
  split <;> simpa using hu

theorem State.openNodes_mem {ctx : Nat} {w : State → Nat → Nat} (xs : List Nat)
    (h : xs.foldlM (fun s i => State.openNode s ctx i (w s i)) s = some t) : t.mem = s.mem := by
  induction xs generalizing s with
  | nil => cases h; rfl
  | cons x rest ih =>
    obtain ⟨u, hu, hrest⟩ := Option.bind_eq_some_iff.mp h
    exact (ih hrest).trans (State.openNode_mem hu)

theorem execActivate_canonical {ctx : Nat} (hs : Memory.wf s.mem = true) : Canonical (execActivate ctx s) := by
  refine contextCommand_canonical hs fun t => ?_
  extract_lets idle w nt s'
  split
  · simp
  split
  · simp
  split
  · simp
  split
  · rfl
  rename_i h
  simpa using State.openNodes_mem (w := fun u i => u.number (nodeTable nt + 64 * i) 64) _ h

/-! SUPPORT. Memory's canonical form (log 2) through the functions of Sys2Proof/Machine/Translation.lean. -/

@[simp] theorem State.walkFails_mem (poison : Bool) (w : ClutchId × Nat × Nat) : (s.walkFails poison w).mem = s.mem := by
  unfold State.walkFails
  split <;> simp

theorem execPageWalkComplete_canonical {die ctx page : Nat} (hs : Memory.wf s.mem = true) :
    Canonical (execPageWalkComplete die ctx page s) := by
  unfold execPageWalkComplete
  dsimp only
  repeat' split
  all_goals simp [hs, State.foldl_mem]

@[simp] theorem State.answer_mem (v : Nat) : (s.answer v).mem = s.mem := by simp [State.answer]

theorem execMissrecRead_canonical {die : Nat} (hs : Memory.wf s.mem = true) : Canonical (execMissrecRead die s) := by
  unfold execMissrecRead
  split <;> simp [hs]

@[simp] theorem State.tlbinv_mem (die : Nat) (i : TlbInv) : (s.tlbinv die i).mem = s.mem := by simp [State.tlbinv]

theorem execTlbinvAll_canonical {die : Nat} (hs : Memory.wf s.mem = true) : Canonical (execTlbinvAll die s) := by
  simp [execTlbinvAll, hs]

theorem execTlbinvContext_canonical {die ctx : Nat} (hs : Memory.wf s.mem = true) :
    Canonical (execTlbinvContext die ctx s) := by
  simp [execTlbinvContext, hs]

theorem execTlbinvPage_canonical {die ctx page : Nat} (hs : Memory.wf s.mem = true) :
    Canonical (execTlbinvPage die ctx page s) := by
  simp [execTlbinvPage, hs]

theorem execTlbinvComplete_canonical {die : Nat} (hs : Memory.wf s.mem = true) : Canonical (execTlbinvComplete die s) := by
  unfold execTlbinvComplete
  split
  · exact hs
  split
  · exact wf_of_mem_eq (State.recall_mem ‹_›) hs
  split <;> simp [hs]

theorem State.performWrite_mem_wf {w : PlainWrite} (hs : Memory.wf s.mem = true) : Memory.wf (s.performWrite w).mem = true := by
  unfold State.performWrite
  dsimp only
  split <;> split <;> simp [State.writeSector_mem_wf, hs]

theorem execArbitrationWindowClose_canonical {die slice : Nat} {late : List Nat} (hs : Memory.wf s.mem = true) :
    Canonical (execArbitrationWindowClose die slice late s) := by
  unfold execArbitrationWindowClose
  dsimp only
  split
  · exact hs
  split
  · exact wf_of_mem_eq (State.recall_mem ‹_›) hs
  · exact State.foldl_mem_wf _ (fun _ _ h => State.performWrite_mem_wf h) _ _ hs

/-! SUPPORT. Memory's canonical form (log 2) through the functions of Sys2Proof/Machine/Registers.lean. -/

@[simp] theorem State.writeRfcmd_mem (w : Word) : (s.writeRfcmd w).mem = s.mem := by simp [State.writeRfcmd]

theorem writeCtxcmd_canonical {w : Word} (hs : Memory.wf s.mem = true) : Canonical (writeCtxcmd w s) := by
  unfold writeCtxcmd
  dsimp only
  split
  · exact execActivate_canonical hs
  · exact execPolite_canonical hs
  · exact execForced_canonical hs
  · exact execDeactivate_canonical hs
  · exact execCtxResume_canonical hs
  · exact hs

theorem writeCrucible_canonical {off width value : Nat} (hs : Memory.wf s.mem = true) :
    Canonical (writeCrucible off width value s) := by
  unfold writeCrucible
  extract_lets w set
  have hset (g : Crucible → Crucible) : Canonical (set g) := by simpa [set] using hs
  refine canonical_ite hs (canonical_ite (execLattolWrite_canonical hs) (canonical_ite (hset _) ?_))
  refine canonical_ite (writeCtxcmd_canonical hs) (canonical_ite (hset _) (canonical_ite (hset _) (canonical_ite (hset _) ?_)))
  refine canonical_ite (by simpa using hs) (canonical_ite (hset _) (canonical_ite (hset _) ?_))
  exact canonical_ite (execQdoor_canonical hs) hs

theorem writeDie_canonical {die off width value : Nat} (hs : Memory.wf s.mem = true) :
    Canonical (writeDie die off width value s) := by
  have hset (g : Die → Die) : Canonical (.next (s.modDie die g)) := by simpa using hs
  have hcore (c : CoreId) (g : Core → Core) : Canonical (.next (s.modCore c g)) := by simpa using hs
  unfold writeDie
  dsimp only
  refine canonical_ite hs (canonical_ite ?_ (canonical_ite (hset _) (canonical_ite (hset _) (canonical_ite (hset _) ?_))))
  · split
    · exact execTlbinvAll_canonical hs
    · exact execTlbinvContext_canonical hs
    · exact execTlbinvPage_canonical hs
    · exact hs
  · generalize (off - 0x1000) % 0x40 = offset
    split
    · split
      · exact hcore _ _
      · split
        · exact hcore _ _
        · exact hs
    · exact hs

theorem writeBlock_canonical {b : Block} {off width value : Nat} (hs : Memory.wf s.mem = true) :
    Canonical (writeBlock b off width value s) := by
  cases b with
  | crucible => exact writeCrucible_canonical hs
  | die d => exact writeDie_canonical hs
  | debug c => simpa [writeBlock] using hs
  | bar0 => exact hs

theorem writeWidth_canonical {b : Block} {off width value : Nat} (hs : Memory.wf s.mem = true) :
    Canonical (writeWidth b off width value s) := by
  unfold writeWidth
  split
  · exact writeBlock_canonical hs
  have hlow : Canonical (writeBlock b off 4 (value % 2 ^ 32) s) := writeBlock_canonical hs
  split
  · rename_i t h
    rw [h] at hlow
    exact writeBlock_canonical hlow
  · exact hlow

theorem execRegisterWrite_canonical {block : Block} {offset width value port : Nat} (hs : Memory.wf s.mem = true) :
    Canonical (execRegisterWrite block offset width value port s) := by
  unfold execRegisterWrite
  split
  · exact hs
  split
  · exact hs
  rename_i b off _
  extract_lets words
  split
  · exact hs
  have hw : Canonical (writeWidth b off width value s) := writeWidth_canonical hs
  split
  · rename_i t h
    rw [h] at hw
    simpa using hw
  · exact hw

@[simp] theorem State.takeCounter_mem (die ctx which : Nat) : (s.takeCounter die ctx which).1.mem = s.mem := by
  unfold State.takeCounter
  dsimp only
  split
  · rfl
  · split <;> rfl

theorem execEventCounterRead_canonical {die ctx which : Nat} (hs : Memory.wf s.mem = true) :
    Canonical (execEventCounterRead die ctx which s) := by
  simp [execEventCounterRead, hs]

@[simp] theorem State.readWord_mem (b : Block) (off : Nat) : (s.readWord b off).1.mem = s.mem := by
  unfold State.readWord
  dsimp only
  split
  · rfl
  · split
    · rfl
    · split <;> simp
  · rfl
  · rfl

theorem registerRead_canonical {block : Block} {offset width : Nat} (hs : Memory.wf s.mem = true) :
    Canonical (registerRead block offset width s) := by
  unfold registerRead
  dsimp only
  split
  · simpa using hs
  · split
    · exact execMissrecRead_canonical hs
    · simpa using hs
  · repeat' split
    all_goals simp [hs]

/-! SUPPORT. Memory's canonical form (log 2) through the functions of Sys2Proof/Machine/Rifold.lean. -/

@[simp] theorem State.rifoldDone_mem (st : RifoldStatus) : (s.rifoldDone st).mem = s.mem := by simp [State.rifoldDone]

theorem rifold_canonical {op : Nat} {named : List Nat} {k : Nat → Out} (hs : Memory.wf s.mem = true) (hk : ∀ w, Canonical (k w)) :
    Canonical (rifold op named s k) := by
  unfold rifold
  dsimp only
  split
  · exact hs
  split
  · simpa using hs
  · exact hk _

theorem State.writeBuffer_canonical {pa n value : Nat} (hs : Memory.wf s.mem = true) :
    Canonical (s.writeBuffer pa n value) := by
  unfold State.writeBuffer
  split
  · exact wf_of_mem_eq (State.recall_mem ‹_›) hs
  · simpa using State.writeBytes_mem_wf _ _ hs

theorem execKeysrc_canonical (hs : Memory.wf s.mem = true) : Canonical (execKeysrc s) := by
  refine rifold_canonical hs fun w => ?_
  dsimp only
  split <;> simp [hs]

theorem execKeyrcv_canonical (hs : Memory.wf s.mem = true) : Canonical (execKeyrcv s) := by
  refine rifold_canonical hs fun w => ?_
  dsimp only
  split <;> simp [hs]

theorem execKeyPrevExpiry_canonical {index : Nat} (hs : Memory.wf s.mem = true) : Canonical (execKeyPrevExpiry index s) := by
  simp [execKeyPrevExpiry, hs]

theorem execBudget_canonical (hs : Memory.wf s.mem = true) : Canonical (execBudget s) := by
  refine rifold_canonical hs fun w => ?_
  split <;> simp [hs]

@[simp] theorem State.thaw_mem (ctx : Nat) : (s.thaw ctx).mem = s.mem := State.foldl_mem _ (fun _ _ => by simp) _ _

@[simp] theorem State.afterThaw_mem (ctx : Nat) : (s.afterThaw ctx).mem = s.mem := by
  unfold State.afterThaw
  dsimp only
  split <;> simp

theorem execUnfreeze_canonical (hs : Memory.wf s.mem = true) : Canonical (execUnfreeze s) := by
  refine rifold_canonical hs fun w => ?_
  dsimp only
  split
  · simpa using hs
  · simp [State.foldl_mem, hs]

theorem execSensors_canonical (hs : Memory.wf s.mem = true) : Canonical (execSensors s) := by
  refine rifold_canonical hs fun w => ?_
  dsimp only
  split
  · simpa using hs
  · exact State.writeBuffer_canonical hs

theorem execLogread_canonical (hs : Memory.wf s.mem = true) : Canonical (execLogread s) := by
  refine rifold_canonical hs fun w => ?_
  dsimp only
  split
  · simpa using hs
  split
  · exact wf_of_mem_eq (State.recall_mem ‹_›) hs
  · exact State.writeBuffer_canonical hs

theorem execUpdate_canonical (hs : Memory.wf s.mem = true) : Canonical (execUpdate s) := by
  refine rifold_canonical hs fun w => ?_
  dsimp only
  repeat' split
  all_goals simp [hs]

theorem execAttest_canonical (hs : Memory.wf s.mem = true) : Canonical (execAttest s) := by
  refine rifold_canonical hs fun w => ?_
  dsimp only
  split
  · simpa using hs
  · exact State.writeBuffer_canonical hs

theorem execReset_canonical : Canonical (execReset s) := by
  unfold execReset
  dsimp only
  split <;> rfl

/-! SUPPORT. Memory's canonical form (log 2) through the functions of Sys2Proof/Machine/Ports.lean. -/

theorem execHostWrite_canonical {pa port : Nat} {data : List Byte} (hs : Memory.wf s.mem = true) :
    Canonical (execHostWrite pa port data s) := by
  unfold execHostWrite
  dsimp only
  split <;> simp [hs]

theorem execHostRead_canonical {pa n port : Nat} (hs : Memory.wf s.mem = true) : Canonical (execHostRead pa n port s) := by
  unfold execHostRead
  split
  · exact hs
  extract_lets s'
  have hs' : Memory.wf s'.mem = true := by simpa [s'] using hs
  split
  · split
    · exact wf_of_mem_eq (State.recall_mem ‹_›) hs'
    · simpa using hs'
  · simpa using hs'

theorem execUnknownMessage_canonical {code : Nat} (hs : Memory.wf s.mem = true) : Canonical (execUnknownMessage code s) := by
  simp [execUnknownMessage, hs]

theorem execLinkDown_canonical {port : Nat} (hs : Memory.wf s.mem = true) : Canonical (execLinkDown port s) := by
  simp [execLinkDown, hs]

@[simp] theorem State.peerPortDown_mem (dev port : Nat) : (s.peerPortDown dev port).mem = s.mem := by
  simp [State.peerPortDown]

@[simp] theorem State.refuseWaiting_mem (dev : Nat) : (s.refuseWaiting dev).mem = s.mem := by
  simp [State.refuseWaiting, State.foldl_mem]

@[simp] theorem State.setRoute_mem (dev route index : Nat) : (s.setRoute dev route index).mem = s.mem := by
  simp [State.setRoute]

@[simp] theorem State.setRemoteAddress_mem (index : Nat) (addr : BitVec 128) : (s.setRemoteAddress index addr).mem = s.mem := by
  simp [State.setRemoteAddress]

@[simp] theorem State.losePeerLeases_mem (dev : Nat) : (s.losePeerLeases dev).mem = s.mem := by
  unfold State.losePeerLeases
  dsimp only
  exact State.foldl_mem _ (fun t d => State.foldl_mem _ (fun u x => by simp) _ _) _ _

theorem execPeerLost_canonical {dev : Nat} (hs : Memory.wf s.mem = true) : Canonical (execPeerLost dev s) := by
  unfold execPeerLost
  dsimp only
  split
  · exact hs
  · simpa using State.losePeerColls_mem_wf (by simpa using hs)

/-! SUPPORT. Memory's canonical form (log 2) through the functions of Sys2Proof/Machine/StepCache.lean. -/

@[simp] theorem stepWord_canonical (d : Nat) (w : Word) : Canonical (stepWord s e d w) ↔ Memory.wf s.mem = true := by
  simp [stepWord]

theorem withSlot_canonical {write : Bool} {base bytes : Nat} {k : State → List (Nat × Nat) → Out} (hs : Memory.wf s.mem = true)
    (hk : ∀ t x, Memory.wf t.mem = true → Canonical (k t x)) : Canonical (withSlot s e write base bytes k) := by
  unfold withSlot
  dsimp only
  split
  · simpa using hs
  · simpa using hs
  split
  · exact hs
  · exact hk _ _ (by simpa using hs)

@[simp] theorem State.stepRelease_mem (die ctx : Nat) : (s.stepRelease die ctx).mem = s.mem := by simp [State.stepRelease]

theorem execStepCfg_canonical (hs : Memory.wf s.mem = true) : Canonical (execStepCfg f s) := by
  refine issue_canonical hs fun e => withLow_canonical hs ?_
  dsimp only
  repeat' split
  all_goals simp [hs]

@[simp] theorem State.countProbe_mem (die ctx : Nat) (hit : Bool) : (s.countProbe die ctx hit).mem = s.mem := by
  simp [State.countProbe]

theorem execStepProbe_canonical (hs : Memory.wf s.mem = true) : Canonical (execStepProbe f s) := by
  refine issue_canonical hs fun e => ?_
  dsimp only
  split
  · simpa using hs
  refine withLow_canonical hs ?_
  split
  · simpa using hs
  split
  · simpa using hs
  split
  · exact hs
  split
  · simpa using hs
  split
  · simpa using hs
  refine withSlot_canonical hs fun t pages ht => ?_
  split
  · exact wf_of_mem_eq (State.recall_mem ‹_›) ht
  split
  · simpa using ht
  split
  · simpa using ht
  split <;> simp [ht]

theorem execStepStore_canonical (hs : Memory.wf s.mem = true) : Canonical (execStepStore f s) := by
  refine issue_canonical hs fun e => withLow_canonical hs ?_
  dsimp only
  split
  · simpa using hs
  split
  · simpa using hs
  split
  · exact hs
  · exact withSlot_canonical hs fun t pages ht => by simpa using ht

/-! SUPPORT. Memory's canonical form (log 2) through the functions of Sys2Proof/Machine/Issue.lean. -/

theorem State.fetchFails_canonical {x : Fetched} (hs : Memory.wf s.mem = true) : Canonical (s.fetchFails e x) := by
  cases x <;> simp [State.fetchFails, hs]

@[simp] theorem State.countLost_mem : (s.countLost e).mem = s.mem := by simp [State.countLost]

@[simp] theorem State.markIssue_mem (i : Instr) : (s.markIssue e i).mem = s.mem := by simp [State.markIssue]

@[simp] theorem State.afterStep_mem (moved : Bool) : (s.afterStep e moved).mem = s.mem := by simp [State.afterStep]

@[simp] theorem State.finishWord_mem (t : State) (e : Env) (i : Instr) : (s.finishWord t e i).mem = t.mem := by
  unfold State.finishWord
  dsimp only
  split
  · rfl
  · simp

@[simp] theorem State.seqWalk_mem (e : SeqEnv) (va : Nat) : (s.seqWalk e va).mem = s.mem := by
  unfold State.seqWalk
  split
  · rfl
  split
  · exact State.bring_mem _ _ _ _ _ ‹_›
  · simp
  · simp

@[simp] theorem State.restamp_mem : s.restamp.mem = s.mem := by
  unfold State.restamp
  refine State.foldl_mem _ (fun t who => ?_) _ _
  split <;> simp

@[simp] theorem State.elapse_mem (n : Nat) : (s.elapse n).mem = s.mem := by simp [State.elapse]

@[simp] theorem State.takeTurn_mem : s.takeTurn.2.mem = s.mem := by
  unfold State.takeTurn
  split <;> rfl

/-! SUPPORT. Memory's canonical form through one instruction, one turn and one step. -/

theorem exec_canonical (i : Instr) (hs : Memory.wf s.mem = true) : Canonical (exec i s) := by
  cases i with
  | nop _ | mov _ | sel _ | iadd _ | isub _ | imul _ | imulh _ | imad _ | imadw _ | idiv _ | irem _ | iabs _ | imin _
  | imax _ | iaddc _ | iadds _ | icmp _ | and _ | or _ | xor _ | andn _ | shl _ | shr _ | sar _ | rot _ | bfe _ | bfi _
  | popc _ | clz _ | brev _ | ffs _ | lea _ | add64 _ | cmp64 _ | cvti _ | bymix _ | vote _ | ballot _ | match_ _ | redi _
  | scani _ | shfl _ | bcast _ | isect _ | fadd _ | fsub _ | fmul _ | ffma _ | fmin _ | fmax _ | fcmp _ | fclass _ | pkadd _
  | pkmul _ | pkfma _ | pkmin _ | pkmax _ | pkcmp _ | fdiv _ | fsqrt _ | cvtf _ | cvtfi _ | cvtif _ | fpack _ | funpack _
  | blkq _ | blkdq _ | blkex _ | frcp _ | frsq _ | fexp2 _ | flog2 _ | fsin _ | fcos _ | ftanh _ | fsigm _ | ferf _ | freda _
  | fredm _ | fscan _ | frnd _ | fscl _ | fdot4 _ => exact runAlu_canonical hs
  | madd _ => exact execMadd_canonical hs
  | msub _ => exact execMsub_canonical hs
  | mmul _ => exact execMmul_canonical hs
  | mfma _ => exact execMfma_canonical hs
  | mscl _ => exact execMscl_canonical hs
  | mset _ => exact execMset_canonical hs
  | mcoll _ => exact execMcoll_canonical hs
  | mmov _ => exact execMmov_canonical hs
  | mcvt _ => exact execMcvt_canonical hs
  | mrelu _ | msigm _ | mexp _ => exact nonlinearForm_canonical hs
  | brk _ | cont _ => exact loopExit_canonical hs
  | barWait _ | barSync _ => exact barWait_canonical hs
  | fence _ | fenceOpr _ | fenceQ _ => exact fenceForm_canonical hs
  | ld _ | lds _ | ldc _ | gath _ | gaths _ => exact loadForm_canonical hs
  | st _ | sts _ | stc _ | scat _ | scats _ => exact storeForm_canonical hs
  | atom _ | atoms _ | atomc _ => exact rmwForm_canonical hs
  | cas _ | cass _ | casc _ => exact casForm_canonical hs
  | mma _ | mmaS _ | mmaM _ => exact mmaForm_canonical hs
  | qmov _ => exact execQmov_canonical hs
  | qadd _ => exact execQadd_canonical hs
  | radd _ | raddFx _ | rmin _ | rmax _ | ror _ | rarr _ => exact remoteForm_canonical hs
  | rput1 _ => exact execRput1_canonical hs
  | cwinAdd _ | cwinMin _ | cwinMax _ | cwinOr _ => exact windowInt_canonical hs
  | cwinPut1 _ => exact execCwinPut1_canonical hs
  | cwinArr _ => exact execCwinArr_canonical hs
  | grpJoin _ | grpLeave _ => exact grpForm_canonical hs
  | pairWord _ _ => exact runPair_canonical hs
  | enterL2 => exact execEnterL2_canonical hs
  | enterL3 => exact execEnterL3_canonical hs
  | rdcr _ => exact execRdcr_canonical hs
  | wrcr _ => exact execWrcr_canonical hs
  | mld _ => exact execMld_canonical hs
  | mst _ => exact execMst_canonical hs
  | bra _ => exact execBra_canonical hs
  | brc _ => exact execBrc_canonical hs
  | brcLoop _ => exact execBrcLoop_canonical hs
  | join _ => exact execJoin_canonical hs
  | call _ => exact execCall_canonical hs
  | ret _ => exact execRet_canonical hs
  | exit _ => exact execExit_canonical hs
  | kill _ => exact execKill_canonical hs
  | yield _ => exact execYield_canonical hs
  | trap _ => exact execTrap_canonical hs
  | emret _ => exact execEmret_canonical hs
  | bkpt _ => exact execBkpt_canonical hs
  | brx _ => exact execBrx_canonical hs
  | rdclk _ => exact execRdclk_canonical hs
  | barArrive _ => exact execBarArrive_canonical hs
  | promote _ => exact execPromote_canonical hs
  | ldacc _ => exact execLdacc_canonical hs
  | stacc _ => exact execStacc_canonical hs
  | pref _ => exact execPref_canonical hs
  | lineop _ => exact execLineop_canonical hs
  | mmaBc _ => exact execMmaBc_canonical hs
  | mwait _ => exact execMwait_canonical hs
  | marrive _ => exact execMarrive_canonical hs
  | mzero _ => exact execMzero_canonical hs
  | qbra _ => exact execQbra_canonical hs
  | mend f => exact execMend_canonical (f := f) hs
  | tcpKick _ => exact execTcpKick_canonical hs
  | tcpCancel _ => exact execTcpCancel_canonical hs
  | tiledef _ => exact execTiledef_canonical hs
  | tilerel _ => exact execTilerel_canonical hs
  | tilest _ => exact execTilest_canonical hs
  | tiledrn _ => exact execTiledrn_canonical hs
  | rget _ => exact execRget_canonical hs
  | mcast1 _ => exact execMcast1_canonical hs
  | raccCvt _ => exact execRaccCvt_canonical hs
  | arrwait _ => exact execArrwait_canonical hs
  | arrset _ => exact execArrset_canonical hs
  | arrtest _ => exact execArrtest_canonical hs
  | cwinAttach _ => exact execCwinAttach_canonical hs
  | cwinDetach _ => exact execCwinDetach_canonical hs
  | cwld _ => exact execCwld_canonical hs
  | cwst _ => exact execCwst_canonical hs
  | stepCfg _ => exact execStepCfg_canonical hs
  | stepProbe _ => exact execStepProbe_canonical hs
  | stepStore _ => exact execStepStore_canonical hs
  | nrec _ => exact execNrec_canonical hs
  | coll _ => exact execColl_canonical hs
  | ftest _ => exact execFtest_canonical hs
  | fcancel _ => exact execFcancel_canonical hs
  | fread _ => exact execFread_canonical hs
  | regclaim _ => exact execRegclaim_canonical hs
  | regsurr _ => exact execRegsurr_canonical hs
  | reservedEncoding _ _ _ _ _ _ => exact execReservedEncoding_canonical hs
  | longLatencyLanding _ => exact execLongLatencyLanding_canonical hs
  | fenceComplete _ => exact execFenceComplete_canonical hs
  | regclaimGrant _ _ => exact execRegclaimGrant_canonical hs
  | regclaimDeadlock _ _ => exact execRegclaimDeadlock_canonical hs
  | resume _ => exact execResume_canonical hs
  | escalate _ => exact execEscalate_canonical hs
  | halt _ => exact execHalt_canonical hs
  | stoptime _ => exact execStoptime_canonical hs
  | launchFatalEnd _ => exact execLaunchFatalEnd_canonical hs
  | uncorrectableError _ => exact execUncorrectableError_canonical hs
  | chorusIndexGrant _ _ _ => exact execChorusIndexGrant_canonical hs
  | heartbeat => exact execHeartbeat_canonical hs
  | dieLost _ => exact execDieLost_canonical hs
  | pageWalkComplete _ _ _ => exact execPageWalkComplete_canonical hs
  | missrecRead _ => exact execMissrecRead_canonical hs
  | tlbinvAll _ => exact execTlbinvAll_canonical hs
  | tlbinvContext _ _ => exact execTlbinvContext_canonical hs
  | tlbinvPage _ _ _ => exact execTlbinvPage_canonical hs
  | tlbinvComplete _ => exact execTlbinvComplete_canonical hs
  | arbitrationWindowClose _ _ _ => exact execArbitrationWindowClose_canonical hs
  | mmaComplete _ _ _ => exact execMmaComplete_canonical hs
  | copyComplete _ => exact execCopyComplete_canonical hs
  | copyFail _ => exact execCopyFail_canonical hs
  | copyAdmit _ => exact execCopyAdmit_canonical hs
  | remoteSend _ => exact execRemoteSend_canonical hs
  | retransmit _ _ _ _ => exact execRetransmit_canonical hs
  | unreachDeadline _ _ _ _ => exact execUnreachDeadline_canonical hs
  | elem _ => exact execElem_canonical hs
  | ack _ => exact execAck_canonical hs
  | rreq _ => exact execRreq_canonical hs
  | rreply _ => exact execRreply_canonical hs
  | demand _ => exact execDemand_canonical hs
  | grant _ => exact execGrant_canonical hs
  | placeReserve _ => exact execPlaceReserve_canonical hs
  | placeReserved _ => exact execPlaceReserved_canonical hs
  | placeNoroom _ => exact execPlaceNoroom_canonical hs
  | placeCommit _ => exact execPlaceCommit_canonical hs
  | placeAbort _ => exact execPlaceAbort_canonical hs
  | placeAbandon _ => exact execPlaceAbandon_canonical hs
  | placeRetired _ => exact execPlaceRetired_canonical hs
  | placeAttached _ => exact execPlaceAttached_canonical hs
  | placeDetached _ => exact execPlaceDetached_canonical hs
  | placeDepart _ => exact execPlaceDepart_canonical hs
  | reserveTimeout _ _ => exact execReserveTimeout_canonical hs
  | placeRetry _ _ => exact execPlaceRetry_canonical hs
  | groupRequest _ => exact execGroupRequest_canonical hs
  | groupInstall _ => exact execGroupInstall_canonical hs
  | groupTimeout _ => exact execGroupTimeout_canonical hs
  | collstep _ => exact execCollstep_canonical hs
  | collMemberLost _ _ _ _ => exact execCollMemberLost_canonical hs
  | leaseGrant _ => exact execLeaseGrant_canonical hs
  | leaseForward _ _ => exact execLeaseForward_canonical hs
  | leaseRecall _ => exact execLeaseRecall_canonical hs
  | leaseReturn _ _ _ => exact execLeaseReturn_canonical hs
  | leaseExpiry _ => exact execLeaseExpiry_canonical hs
  | contentionWindow _ => exact execContentionWindow_canonical hs
  | release _ _ _ _ => exact execRelease_canonical hs
  | unknownMessage _ => exact execUnknownMessage_canonical hs
  | linkDown _ => exact execLinkDown_canonical hs
  | peerLost _ => exact execPeerLost_canonical hs
  | keyPrevExpiry _ => exact execKeyPrevExpiry_canonical hs
  | qdoor _ _ => exact execQdoor_canonical hs
  | launchTake _ => exact execLaunchTake_canonical hs
  | dispatcherPlacement die n =>
    show Canonical (execDispatcherPlacement die n s)
    exact execDispatcherPlacement_canonical hs
  | candidateStarved _ => exact execCandidateStarved_canonical hs
  | chorusRetire _ => exact execChorusRetire_canonical hs
  | binTimer _ _ _ => exact execBinTimer_canonical hs
  | quantumExpiry _ _ => exact execQuantumExpiry_canonical hs
  | drainExpiry _ => exact execDrainExpiry_canonical hs
  | activate _ => exact execActivate_canonical hs
  | polite _ => exact execPolite_canonical hs
  | forced _ => exact execForced_canonical hs
  | deactivate _ => exact execDeactivate_canonical hs
  | ctxResume _ => exact execCtxResume_canonical hs
  | launchComplete _ => exact execLaunchComplete_canonical hs
  | enterL1 _ => exact execEnterL1_canonical hs
  | wake => exact execWake_canonical hs
  | lattolWrite _ => exact execLattolWrite_canonical hs
  | hostWrite _ _ _ => exact execHostWrite_canonical hs
  | hostRead _ _ _ => exact execHostRead_canonical hs
  | eventCounterRead _ _ _ => exact execEventCounterRead_canonical hs
  | keysrc => exact execKeysrc_canonical hs
  | keyrcv => exact execKeyrcv_canonical hs
  | budget => exact execBudget_canonical hs
  | unfreeze => exact execUnfreeze_canonical hs
  | sensors => exact execSensors_canonical hs
  | logread => exact execLogread_canonical hs
  | update => exact execUpdate_canonical hs
  | attest => exact execAttest_canonical hs
  | reset => exact execReset_canonical
  | registerWrite _ _ _ _ _ => exact execRegisterWrite_canonical hs
  | energyClassAging _ => exact execEnergyClassAging_canonical hs
  | wakeComplete => exact execWakeComplete_canonical hs

theorem State.runWord_canonical {who : ClutchId} {i : Instr} (hs : Memory.wf s.mem = true) : Canonical (s.runWord who i) :=
  exec_canonical i hs

theorem State.runClutch_canonical (hs : Memory.wf s.mem = true) : Canonical (s.runClutch e) := by
  unfold State.runClutch
  split
  · exact State.runWord_canonical hs
  · split
    · exact hs
    · exact State.fetchFails_canonical hs

theorem State.clutchTurn_canonical {who : ClutchId} (hs : Memory.wf s.mem = true) : Canonical (s.clutchTurn who) := by
  unfold State.clutchTurn
  split
  · exact hs
  rename_i e _
  split
  · simpa using hs
  have hrun : Canonical (s.runClutch e) := State.runClutch_canonical hs
  split
  · rename_i h _
    rw [h] at hrun
    simpa using hrun
  · exact hrun

theorem State.seqTurn_canonical {uid pos : Nat} (hs : Memory.wf s.mem = true) : Canonical (s.seqTurn uid pos) := by
  unfold State.seqTurn
  split
  · exact hs
  split
  · exact hs
  split
  · rename_i i _
    have hrun : Canonical (exec i { s with cur := .sequencer uid pos }) := exec_canonical i hs
    split
    · rename_i t h
      rw [h] at hrun
      simpa using hrun
    · exact hrun
  all_goals simpa using hs

theorem State.turn_canonical (turn : Turn) (hs : Memory.wf s.mem = true) : Canonical (s.turn turn) := by
  cases turn with
  | clutch who => exact State.clutchTurn_canonical hs
  | sequencer uid pos => exact State.seqTurn_canonical hs
  | event i =>
    have hrun : Canonical (exec i { s with cur := .none }) := exec_canonical i hs
    simp only [State.turn]
    split
    · split
      · exact hs
      split
      · exact wf_of_mem_eq (State.wakeFor_mem ‹_›) hs
      split
      · rename_i t h
        rw [h] at hrun
        simpa using hrun
      · exact hrun
    · exact hs
  | read b off width => exact registerRead_canonical hs
  | resend m => exact (State.resendPlace_canonical m).mpr hs
  | placeAcked m =>
    simp only [State.turn]
    split
    · simpa using hs
    · exact State.placeAcked_canonical hs
  | peerPortDown dev port => simpa [State.turn] using hs
  | route dev to_ index => simpa [State.turn] using hs
  | remoteAddress index addr => simpa [State.turn] using hs
  | askAgain landing => simpa [State.turn] using hs
  | arrives who => simpa [State.turn] using hs
  | performed job => simpa [State.turn] using hs
  | corrected die ctx coreid detail => simpa [State.turn] using hs
  | elapse n => simpa [State.turn] using hs

theorem step_canonical (hs : Memory.wf s.mem = true) : Canonical (step s) :=
  State.turn_canonical _ (wf_of_mem_eq State.takeTurn_mem hs)

end Sys2Proof.Machine

/-- Settles O6: every turn leaves an outcome whose memory is canonical. -/
theorem stepKeepsMemoryCanonical : Obligations.StepKeepsMemoryCanonical := by
  intro s t hs hstep
  have hnext : Canonical (step s) := step_canonical hs
  rw [hstep] at hnext
  exact hnext
end

section
/-! SUPPORT. Page walks, miss records and invalidations: what settles O52 (R225 to R228). -/

open Sys2Proof Sys2Proof.Machine Sys2Proof.Safety Sys2Proof.Claims
namespace Sys2Proof.Machine
variable {s t : State} {entry : TlbEntry}

/-! ### An entry enters the TLBs and stays (R225) -/

theorem tlbAdd_of_mem {tlb : List TlbEntry} (cap : Nat) (h : entry ∈ tlb) : tlbAdd cap entry tlb = tlb :=
  if_pos (List.contains_iff_mem.mpr h)

theorem mem_tlbAdd {cap : Nat} (hcap : 0 < cap) (tlb : List TlbEntry) : entry ∈ tlbAdd cap entry tlb := by
  by_cases h : entry ∈ tlb
  · rwa [tlbAdd_of_mem cap h]
  · obtain ⟨n, rfl⟩ := Nat.exists_eq_add_one.mpr hcap
    simp [tlbAdd, h]

theorem State.core_modDie_of_cores {d : Nat} {g : Die → Die} (hg : ∀ x, (g x).cores = x.cores) (c : CoreId) :
    (s.modDie d g).core c = s.core c :=
  State.die_modDie_field (Die.core · c.core) s d c.die g fun x => by rw [Die.core, Die.core, hg]

theorem State.core_modCore_other {c k : CoreId} (hne : k ≠ c) (g : Core → Core) : (s.modCore c g).core k = s.core k := by
  unfold State.core State.modCore
  by_cases hd : k.die = c.die
  · have hk : k.core ≠ c.core := fun hc => hne (by cases k; cases c; simp_all)
    rw [hd, State.die_modDie_self]
    exact Store.get_modify_other _ _ _ _ _ hk
  · rw [State.die_modDie_other _ _ _ _ hd]

theorem State.fillTlb_onlyDies (c : CoreId) : s.OnlyDies (s.fillTlb c entry) := rfl

theorem State.fillTlb_walks (c : CoreId) (die : Nat) : ((s.fillTlb c entry).die die).walks = (s.die die).walks := by
  rw [State.fillTlb, State.modCore, State.die_modDie_field Die.walks, State.die_modDie_field Die.walks] <;> exact fun _ => rfl

theorem State.fillTlb_keeps_die (c : CoreId) {die : Nat} (h : entry ∈ (s.die die).tlb) :
    entry ∈ ((s.fillTlb c entry).die die).tlb := by
  have hcore : ((s.fillTlb c entry).die die).tlb
      = ((s.modDie c.die fun d => { d with tlb := tlbAdd 32768 entry d.tlb }).die die).tlb :=
    State.die_modDie_field Die.tlb _ _ die _ fun _ => rfl
  rw [hcore]
  by_cases hd : die = c.die
  · subst hd
    rw [State.die_modDie_self]
    exact mem_tlbAdd (by decide) _
  · rwa [State.die_modDie_other _ _ _ _ hd]

theorem State.fillTlb_core_self (c : CoreId) : entry ∈ ((s.fillTlb c entry).core c).tlb := by
  rw [State.fillTlb, State.core_modCore_self]
  exact mem_tlbAdd (by decide) _

theorem State.fillTlb_keeps_core (c : CoreId) {k : CoreId} (h : entry ∈ (s.core k).tlb) :
    entry ∈ ((s.fillTlb c entry).core k).tlb := by
  by_cases hk : k = c
  · subst hk
    exact State.fillTlb_core_self k
  · rwa [State.fillTlb, State.core_modCore_other hk, State.core_modDie_of_cores]
    exact fun _ => rfl

/-! ### The waiters of a walk (R225, R226) -/

/-- What a walk that finds a page does for one of its waiters. -/
def State.fillWaiter (entry : TlbEntry) (s : State) (x : ClutchId × Nat × Nat) : State :=
  match s.chorus? x.1.chorus with
  | some ch =>
    match ch.clutch? x.1.clutch with
    | some cl => s.fillTlb (ch.coreAt cl.pos) entry
    | none => s
  | none => s

theorem State.fillWaiter_cases (s : State) (entry : TlbEntry) (x : ClutchId × Nat × Nat) :
    s.fillWaiter entry x = s ∨ ∃ c, s.fillWaiter entry x = s.fillTlb c entry := by
  unfold State.fillWaiter
  split
  · split
    · exact .inr ⟨_, rfl⟩
    · exact .inl rfl
  · exact .inl rfl

theorem State.fillWaiter_of_env {x : ClutchId × Nat × Nat} {e : Env} (hst : s.OnlyDies t) (he : s.env? x.1 = some e) :
    t.fillWaiter entry x = t.fillTlb e.core entry := by
  obtain ⟨-, hch, -, hcl, -, -⟩ := State.env?_some s x.1 e he
  have hch' : t.chorus? x.1.chorus = some e.ch := by rw [← hch, State.chorus?, State.chorus?, hst.choruses]
  simp only [State.fillWaiter, hch', hcl]
  rfl

/-- What every fill keeps, the fills of all waiters keep. -/
theorem State.foldl_fillWaiter_keeps {P : State → Prop} (hP : ∀ t c, P t → P (t.fillTlb c entry))
    (waiters : List (ClutchId × Nat × Nat)) (h : P t) : P (waiters.foldl (State.fillWaiter entry) t) := by
  induction waiters generalizing t with
  | nil => exact h
  | cons x rest ih =>
    refine ih ?_
    obtain heq | ⟨c, heq⟩ := State.fillWaiter_cases t entry x
    · rwa [heq]
    · rw [heq]
      exact hP t c h

theorem State.foldl_fillWaiter_fills {waiters : List (ClutchId × Nat × Nat)} {x : ClutchId × Nat × Nat} {e : Env}
    (hst : s.OnlyDies t) (hx : x ∈ waiters) (he : s.env? x.1 = some e) :
    entry ∈ ((waiters.foldl (State.fillWaiter entry) t).core e.core).tlb := by
  induction waiters generalizing t with
  | nil => cases hx
  | cons y rest ih =>
    rw [List.foldl_cons]
    obtain rfl | hrest := List.mem_cons.mp hx
    · rw [State.fillWaiter_of_env hst he]
      exact State.foldl_fillWaiter_keeps (P := fun u => entry ∈ (u.core e.core).tlb) (fun _ c h => State.fillTlb_keeps_core c h)
        rest (State.fillTlb_core_self e.core)
    · refine ih (hst.trans ?_) hrest
      obtain heq | ⟨c, heq⟩ := State.fillWaiter_cases t entry y
      · rw [heq]
        exact .refl t
      · rw [heq]
        exact State.fillTlb_onlyDies c

/-! ### The only walk of a die finishes (R225, R226) -/

theorem Die.takeSector_tlbPend (d : Die) (die sec : Nat) : (d.takeSector die sec).tlbPend = d.tlbPend := by
  unfold Die.takeSector
  dsimp only
  split <;> rfl

theorem State.fillCache_tlbPend (s : State) (sectors : List Nat) (k : Nat) :
    ((s.fillCache sectors).die k).tlbPend = (s.die k).tlbPend := by
  unfold State.fillCache
  induction sectors generalizing s with
  | nil => rfl
  | cons sec rest ih =>
    rw [List.foldl_cons, ih]
    exact State.die_modDie_field Die.tlbPend s _ k _ fun d => Die.takeSector_tlbPend d _ sec

/-- The die once its only walk has found a page: no walk is left, and its TLB holds the page. -/
def State.afterWalk (s : State) (die ctx va size : Nat) (entry : TlbEntry) : State :=
  (s.modDie die (·.finishWalks ctx fun p => va ≤ p * 2 ^ 16 && p * 2 ^ 16 < va + size)).modDie die fun d =>
    { d with tlb := tlbAdd 32768 entry d.tlb }

theorem State.walkFound_only {die va size pte : Nat} {w : Walk} (hw : (s.die die).walks = [w]) (hpend : (s.die die).tlbPend = [])
    (hlo : va ≤ w.page * 2 ^ 16) (hhi : w.page * 2 ^ 16 < va + size)
    (hentry : entry = { ctx := w.ctx, va, size, pte := BitVec.ofNat 64 pte }) :
    s.walkFound die w.ctx w.page va size pte = w.waiters.foldl (State.fillWaiter entry) (s.afterWalk die w.ctx va size entry) := by
  subst hentry
  unfold State.walkFound
  simp only [hw, hpend, hlo, hhi, List.any_nil, List.filter_cons, List.filter_nil, List.flatMap_cons, List.flatMap_nil, decide_true,
    Bool.and_self, if_true, List.append_nil, Bool.false_eq_true, if_false]
  rfl

theorem State.afterWalk_walks {die va size : Nat} {w : Walk} (hw : (s.die die).walks = [w]) (hlo : va ≤ w.page * 2 ^ 16)
    (hhi : w.page * 2 ^ 16 < va + size) : ((s.afterWalk die w.ctx va size entry).die die).walks = [] := by
  rw [State.afterWalk, State.die_modDie_self, State.die_modDie_self]
  simpa [Die.finishWalks, hw] using ⟨hlo, hhi⟩

theorem State.afterWalk_tlb (die ctx va size : Nat) : entry ∈ ((s.afterWalk die ctx va size entry).die die).tlb := by
  rw [State.afterWalk, State.die_modDie_self]
  exact mem_tlbAdd (by decide) _

theorem Die.only_walk {d : Die} {w : Walk} (hw : d.walks = [w]) :
    d.walks.find? (fun x => x.ctx = w.ctx && x.page = w.page) = some w ∧ d.walkRuns w.ctx w.page = true := by
  simp [Die.walkRuns, hw]

theorem execPageWalkComplete_page {die va size pte : Nat} {w : Walk} (hw : (s.die die).walks = [w])
    (hwalk : s.walk w.ctx (w.page * 2 ^ 16) = .page va size pte) :
    execPageWalkComplete die w.ctx w.page s
      = .next ((s.walked w.ctx (w.page * 2 ^ 16)).walkFound die w.ctx w.page va size pte) := by
  obtain ⟨hfind, hruns⟩ := Die.only_walk hw
  simp only [execPageWalkComplete, hfind, hruns, hwalk, Bool.not_true, Bool.false_eq_true, if_false]

theorem execPageWalkComplete_none {die : Nat} {w : Walk} (hw : (s.die die).walks = [w])
    (hwalk : s.walk w.ctx (w.page * 2 ^ 16) = .none) :
    execPageWalkComplete die w.ctx w.page s
      = .next (w.waiters.foldl (State.walkFails · false) (s.modDie die fun d => d.finishWalks w.ctx (· = w.page))) := by
  obtain ⟨hfind, hruns⟩ := Die.only_walk hw
  simp only [execPageWalkComplete, hfind, hruns, hwalk, Bool.not_true, Bool.false_eq_true, if_false]

/-- A walk that finds a page: no walk is left, and the page is in the TLB of the die and of every core that waits. -/
theorem execPageWalkComplete_found {die va size pte : Nat} {w : Walk} (hw : (s.die die).walks = [w])
    (hwalk : s.walk w.ctx (w.page * 2 ^ 16) = .page va size pte) (hlo : va ≤ w.page * 2 ^ 16)
    (hhi : w.page * 2 ^ 16 < va + size) (hpend : (s.die die).tlbPend = [])
    (hentry : entry = { ctx := w.ctx, va, size, pte := BitVec.ofNat 64 pte }) :
    ∃ t, execPageWalkComplete die w.ctx w.page s = .next t ∧ s.OnlyDies t ∧ (t.die die).walks = [] ∧ entry ∈ (t.die die).tlb
      ∧ ∀ x ∈ w.waiters, ∀ e, s.env? x.1 = some e → entry ∈ (t.core e.core).tlb := by
  have hwalks : ((s.walked w.ctx (w.page * 2 ^ 16)).die die).walks = [w] := (State.fillCache_walks s _ die).trans hw
  have hpends : ((s.walked w.ctx (w.page * 2 ^ 16)).die die).tlbPend = [] := (State.fillCache_tlbPend s _ die).trans hpend
  have honly : s.OnlyDies ((s.walked w.ctx (w.page * 2 ^ 16)).afterWalk die w.ctx va size entry) :=
    State.OnlyDies.trans (State.walked_dies s _ _) rfl
  refine ⟨_, execPageWalkComplete_page hw hwalk, ?_⟩
  rw [State.walkFound_only hwalks hpends hlo hhi hentry]
  exact ⟨State.foldl_fillWaiter_keeps (P := s.OnlyDies) (fun _ c h => h.trans (State.fillTlb_onlyDies c)) _ honly,
    State.foldl_fillWaiter_keeps (P := fun u => (u.die die).walks = []) (fun _ c h => (State.fillTlb_walks c die).trans h) _
      (State.afterWalk_walks hwalks hlo hhi),
    State.foldl_fillWaiter_keeps (P := fun u => entry ∈ (u.die die).tlb) (fun _ c h => State.fillTlb_keeps_die c h) _
      (State.afterWalk_tlb die w.ctx va size),
    fun x hx e he => State.foldl_fillWaiter_fills honly hx he⟩

/-! ### A walk that finds no page (R226, R227) -/

/-- What a walk that finds no page leaves of a waiting clutch: a stop with MISS, and a record of it. -/
def missRecord (e : Env) (access va : Nat) : MissRec :=
  { ctx := e.l.ctx, access, slot := e.cl.slotNum, coreid := coreWord e.core, va := va % 2 ^ 57 }

theorem State.missStop_onlyDies (s : State) (e : Env) (access va : Nat) : s.OnlyDies (s.missStop e access va) := by
  unfold State.missStop
  split <;> rfl

theorem State.missStop_stops {e : Env} {access va : Nat} (hstop : (s.core e.core).stopped = false)
    (hroom : (s.die e.ch.die).missRecs.length < 64) :
    ((s.missStop e access va).core e.core).stopped = true ∧ ((s.missStop e access va).core e.core).code = Code.miss.num
      ∧ ((s.missStop e access va).core e.core).slot = e.cl.slotNum
      ∧ ((s.missStop e access va).die e.ch.die).missRecs = (s.die e.ch.die).missRecs ++ [missRecord e access va] := by
  have hgo : ¬ (64 ≤ (s.die e.ch.die).missRecs.length ∨ (s.core e.core).stopped) := by simp [hstop, hroom]
  have hcore : (s.missStop e access va).core e.core = (s.clutchStop e .miss).core e.core := by
    rw [State.missStop, if_neg hgo, State.core_modDie_of_cores]
    exact fun _ => rfl
  rw [hcore]
  refine ⟨(State.clutchStop_core .miss hstop).1, (State.clutchStop_core .miss hstop).2, State.clutchStop_slot .miss hstop, ?_⟩
  rw [State.missStop, if_neg hgo, State.die_modDie_self]
  exact congrArg (· ++ [missRecord e access va]) (State.die_modDie_field Die.missRecs s e.core.die e.ch.die _ fun _ => rfl)

/-- The tracker without a walk that has failed. -/
def State.dropWalk (s : State) (die : Nat) (w : Walk) : State := s.modDie die fun d => d.finishWalks w.ctx (· = w.page)

theorem State.dropWalk_missRecs (s : State) (die : Nat) (w : Walk) :
    ((s.dropWalk die w).die die).missRecs = (s.die die).missRecs := by
  rw [State.dropWalk, State.die_modDie_field Die.missRecs]
  exact fun _ => rfl

theorem State.dropWalk_core (s : State) (die : Nat) (w : Walk) (c : CoreId) : (s.dropWalk die w).core c = s.core c := by
  rw [State.dropWalk, State.core_modDie_of_cores]
  exact fun _ => rfl

theorem execPageWalkComplete_missed {die a va : Nat} {w : Walk} {who : ClutchId} {e : Env} (hw : (s.die die).walks = [w])
    (hwalk : s.walk w.ctx (w.page * 2 ^ 16) = .none) (hwait : w.waiters = [(who, a, va)]) (he : s.env? who = some e) :
    execPageWalkComplete die w.ctx w.page s = .next ((s.dropWalk die w).missStop e a va) := by
  have he' : (s.dropWalk die w).env? who = some e := he
  rw [execPageWalkComplete_none hw hwalk, hwait, List.foldl_cons, List.foldl_nil, ← State.dropWalk, State.walkFails]
  simp only [he', Bool.false_eq_true, if_false]

theorem execMissrecRead_nil {die : Nat} (h : (s.die die).missRecs = []) : execMissrecRead die s = .next (s.answer 0) := by
  simp only [execMissrecRead, h]

theorem execMissrecRead_cons {die : Nat} {m : MissRec} {rest : List MissRec} (h : (s.die die).missRecs = m :: rest) :
    execMissrecRead die s = .next ((s.modDie die fun d => { d with missRecs := rest }).answer m.word) := by
  simp only [execMissrecRead, h]

/-! ### Invalidations (R228) -/

theorem State.tlbinv_die (s : State) (die : Nat) (x : TlbInv) :
    (s.tlbinv die x).die die = if (s.die die).tlbPend.length < 8 then
      { s.die die with tlbPend := (s.die die).tlbPend ++ [{ x with walks := (s.die die).walks.map fun w => (w.ctx, w.page) }] }
      else { s.die die with tlbDrop := true } := by
  rw [State.tlbinv, State.die_modDie_self]
  by_cases h : (s.die die).tlbPend.length < 8
  · rw [if_pos h, if_neg (Nat.not_le.mpr h)]
  · rw [if_neg h, if_pos (Nat.not_lt.mp h)]

theorem onlyDie_modDie (s : State) (die : Nat) (g : Die → Die) : onlyDie s (s.modDie die g) die :=
  ⟨rfl, fun k hk => State.die_modDie_other s die k g hk⟩

/-- The core without the translations that an invalidation covers. -/
def Core.without (i : TlbInv) (c : Core) : Core := { c with tlb := c.tlb.filter fun x => !i.covers x.ctx x.va x.size }

/-- The die once its oldest pending invalidation has completed. -/
def Die.invalidated (d : Die) (i : TlbInv) (rest : List TlbInv) : Die :=
  { d with
    tlbPend := rest
    tlb := d.tlb.filter fun x => !i.covers x.ctx x.va x.size
    cores := d.cores.map fun c => (c.1, c.2.without i) }

theorem Die.invalidated_core_tlb (d : Die) (i : TlbInv) (rest : List TlbInv) (k : Nat) :
    ((d.invalidated i rest).core k).tlb = (d.core k).tlb.filter fun x => !i.covers x.ctx x.va x.size :=
  congrArg Core.tlb (Store.get_map_values ({} : Core) ({} : Core) (fun _ => Core.without i) (fun _ => rfl) d.cores k)

theorem execTlbinvComplete_done {die : Nat} {i : TlbInv} {rest : List TlbInv} (hpend : (s.die die).tlbPend = i :: rest)
    (hquiet : Claims.noContention s) (hwalks : i.walks = []) (hfly : s.inFlight die i = false) :
    execTlbinvComplete die s = .next (s.modDie die (·.invalidated i rest)) := by
  simp only [execTlbinvComplete, hpend, State.recall_noContention s _ hquiet, hwalks, hfly, List.isEmpty_nil, Bool.not_true,
    Bool.or_self, Bool.false_eq_true, if_false]
  rfl

end Sys2Proof.Machine

/-- Settles O52, from what each event does when its only condition holds. -/
theorem translationEvents : Obligations.TranslationEvents := by
  intro s die
  refine ⟨fun w hw => ⟨fun va size pte hwalk hlo hhi hpend => ?_, fun hwalk who a va e hwait he hdie hstop hroom => ?_⟩,
    fun hempty => ?_, fun m rest hrecs => ?_, fun i x ctx page hi => ?_, fun i rest hpend hquiet hwalks hfly => ?_⟩
  · obtain ⟨t, ht, honly, hgone, hin, hwaiters⟩ := execPageWalkComplete_found hw hwalk hlo hhi hpend rfl
    exact ⟨t, ht, honly.mem, honly.choruses, hgone, hin, hwaiters⟩
  · subst hdie
    have honly := State.missStop_onlyDies (s.dropWalk e.ch.die w) e a va
    have hrecs := State.dropWalk_missRecs s e.ch.die w
    obtain ⟨hstopped, hcode, hslot, hrec⟩ := State.missStop_stops (access := a) (va := va)
      (State.dropWalk_core s e.ch.die w e.core ▸ hstop) (hrecs ▸ hroom)
    exact ⟨_, execPageWalkComplete_missed hw hwalk hwait he, honly.mem, honly.choruses, hstopped, hcode, hslot,
      hrec.trans (congrArg (· ++ [missRecord e a va]) hrecs)⟩
  · exact execMissrecRead_nil hempty
  · refine ⟨_, execMissrecRead_cons hrecs, ?_, rfl, rfl⟩
    exact congrArg Die.missRecs (State.die_modDie_self s die fun d => { d with missRecs := rest })
  · obtain ⟨rfl, rfl⟩ | ⟨rfl, rfl⟩ | ⟨rfl, rfl⟩ := hi <;>
      exact ⟨_, rfl, onlyDie_modDie s die _, State.tlbinv_die s die _⟩
  · have hdie := State.die_modDie_self s die (·.invalidated i rest)
    refine ⟨_, execTlbinvComplete_done hpend hquiet hwalks hfly, onlyDie_modDie s die _, ?_, ?_, fun k => ?_⟩
    · rw [hdie]
      rfl
    · rw [hdie]
      rfl
    · rw [hdie]
      exact Die.invalidated_core_tlb (s.die die) i rest k
end
